-- ==== Sys2Proof/Word.lean ====
section
/-!
DEFINITION. The word types of the device and their plainest forms: bytes, 64-bit words, and the map type in which
every sparse memory, table and register file of the model is held.
-/
namespace Sys2Proof

abbrev Byte := BitVec 8
abbrev W16 := BitVec 16
abbrev W32 := BitVec 32
abbrev W64 := BitVec 64

/-- A run of bytes, lowest address first. -/
abbrev Bytes := List Byte

/-- A table from numbers to values, held as pairs with rising keys. A key that is not listed has the value that
the reader of the table names as its default. -/
abbrev SMap (α : Type) := List (Nat × α)

/-- A byte memory: the byte at each listed address; an unlisted address reads as the memory's default byte. -/
abbrev Mem := SMap Byte

end Sys2Proof
end

