-- ==== Sys2Proof/Config.lean ====
section
/-!
DEFINITION. What an implementation of the device fixes and the spec does not state: fused values, ROM contents,
the factory calibration set, the cryptographic primitives that the spec takes from outside standards, and the free
values. Every one is opaque: no proof can use a particular value of it.
-/
namespace Sys2Proof

/-- DEV_ID.STEP_MAJOR, fused (00_scope R5 table DEV_ID). Log 3. -/
opaque Config.stepMajor : BitVec 4
/-- DEV_ID.STEP_MINOR, fused. Log 3. -/
opaque Config.stepMinor : BitVec 4
/-- DEV_SERIAL, fused. Log 3. -/
opaque Config.serial : BitVec 64
/-- DEV_GRADE.ORDERED, fused: the grade as sold, coded as in the ordering-grades table (R1). Log 3. -/
opaque Config.orderedGrade : Fin 3
/-- The 4 MiB clerk ROM as 64-bit words, word i at byte 8i (R144, R386, R406). Log 3. -/
opaque Config.romWord : Nat → BitVec 64
/-- The ROM hash fused at manufacture, 64 bytes (R406). Log 3. -/
opaque Config.romHashFused : BitVec 512
/-- The factory calibration set, 262,144 bytes (R441). Log 3. -/
opaque Config.factoryCal : Nat → Byte
/-- ROM energy weights for an ACLK point (R442): w_E, w_V, w_L, w_N, w_S as FP32 words. Log 3. -/
opaque Config.romWeights : Nat → List W32
/-- ROM voltages in mV for an ACLK point, VDD_CORE then VDD_SRAM, when the set is invalid (R442 gives only the
ceiling of 0.80 V at the second point). Log 3. -/
opaque Config.romVolts : Nat → Nat × Nat

/-- SHA-512 of a byte string, as FIPS 180 defines it (R290, R308, R406, R441). Log 13. -/
opaque Config.sha512 : Bytes → BitVec 512
/-- The digest whose message is words 0 to 524,287 of the ROM (R406). Log 13. -/
opaque Config.romHash : BitVec 512
/-- ECDSA P-521 verification: public key (133 bytes), digest, r and s (R411, R415). Log 13. -/
opaque Config.ecdsaVerify : Bytes → BitVec 512 → Bytes → Bytes → Bool
/-- ECDSA P-521 signature by the identity key under RFC 6979 (R407): r and s, 66 bytes each. Log 13. -/
opaque Config.ecdsaSign : BitVec 512 → Bytes × Bytes
/-- Whether 133 bytes are an uncompressed point of P-521, not the point at infinity (R412, R416). Log 13. -/
opaque Config.isPoint : Bytes → Bool
/-- Z of R416: the X coordinate of d times the point, d the identity secret key. Log 13. -/
opaque Config.ecdhX : Bytes → Bytes
/-- HKDF-SHA-512 (RFC 5869): key material, salt, info; its first 32 bytes (R416). Log 13. -/
opaque Config.hkdf : Bytes → Bytes → Bytes → Bytes
/-- AES-256-GCM opening: key, nonce, additional data, ciphertext, tag; the plaintext, or none when the tag fails
(R292, R416). Log 13. -/
opaque Config.gcmOpen : Bytes → Bytes → Bytes → Bytes → Bytes → Option Bytes
/-- The identity public key, 133 bytes (R403). Log 3. -/
opaque Config.identityPub : Bytes
/-- The device certificate of R405, 512 bytes. Log 3. -/
opaque Config.certificate : Bytes

/-- CORE_THREAD.WAIT of a thread that waits for a free transfer tag, which the table of R117 does not name. Log 14. -/
opaque Config.tagWaitKind : BitVec 4
/-- CORE_THREAD.WAIT of a thread whose core has reported and whose command has not committed (R162, R163). Log 14. -/
opaque Config.reportedWaitKind : BitVec 4
/-- Orders the cores of a lattice of W by S: core i stands where its key places it among the keys of all of them (R29; the spec
states no placement). Log 16. -/
opaque Config.latticeKey : Nat → Nat → Nat → Nat
/-- Warp flits that wait on a ring port when the device cannot place one more (07 R276; the spec states no buffer size). Log 61. -/
opaque Config.warpRoom : Nat
/-- A free byte: the n-th value that the spec leaves open (log 2). -/
opaque Config.freeByte : Nat → Byte
/-- A free 64-bit value: the n-th value that the spec leaves open (log 2). -/
opaque Config.freeWord : Nat → BitVec 64

end Sys2Proof
end

