-- ==== Sys2Proof/Syntax.lean ====
section
/-!
DEFINITION. The commands of the block: one constructor of `Instr` for each row of spec/opcode_table.json, with the
operands the spec gives it. A Poilo instruction carries the physical core and the thread that issue it and the fields
of its instruction words; a Genot command carries its SEQ and the fields of its body; an event carries what arrives
with it.
-/
namespace Sys2Proof

/-- The fields of word 0 of a Poilo instruction below its class and operation (04_poilo R126). -/
structure IWord where
  a : BitVec 5
  b : BitVec 5
  c : BitVec 5
  mod : BitVec 6
  imm : BitVec 32
  deriving DecidableEq, Repr

/-- The two engines of a core (02_engines R39). -/
inductive Eng where
  | e0 | e1
  deriving DecidableEq, Repr

/-- What waits on a slot or a stream: a thread, or a stream (R92, R108). -/
inductive Waiter where
  | thread (t : Nat)
  | stream (n : Nat)
  deriving DecidableEq, Repr

/-- The two checks of an engine (R75): parity of a plane byte, modulo-7 residue of a tree. -/
inductive HwCause where
  | parity | residue
  deriving DecidableEq, Repr

/-- Why a lane is to be spared (06 R224), or that the facing end holds the link electrically idle (06 R239). -/
inductive LaneCause where
  | training | lock | rate | idle
  deriving DecidableEq, Repr

/-- A lane that fails, and why. -/
structure LaneFault where
  lane : Nat
  cause : LaneCause
  deriving DecidableEq, Repr

/-- The state in which a read finds one vault line: `line` is its physical line number, `syms` the differences from
the codeword that the controller expects, by position (0 to 31 data symbols, 32 to 35 check symbols, 36 and 37 the
address symbols of a line that belongs elsewhere), `inner` the dies whose inner code corrected a bit (R178 to R181). -/
structure LineErr where
  line : Nat
  syms : List (Nat × W16)
  inner : List Nat
  deriving DecidableEq, Repr

/-- The body of a HELLO (06_links_mesh R231). -/
structure Hello where
  serial : W64
  port : Nat
  boardPos : Nat
  origin : Bool
  part : Nat
  major : Nat
  minor : Nat
  deriving DecidableEq, Repr

/-- A discovery flood as it reaches a port: its origin, the sender's coordinates and the sender's port (R233, R234). -/
structure Flood where
  serial : W64
  row : Int
  col : Int
  port : Nat
  deriving DecidableEq, Repr

/-- One device in a discovery report (R234): its coordinates, straps, stepping, state and the neighbours that each
of its ports faces (the port number of the far end, or none for a port that is not UP). -/
structure DiscReport where
  serial : W64
  row : Int
  col : Int
  boardPos : Nat
  origin : Bool
  major : Nat
  minor : Nat
  launched : Bool
  faces : List (Option Nat)
  /-- A flood of the same origin has reached it at other coordinates. -/
  twoPlaces : Bool
  /-- A neighbour of it gave no answer. -/
  timedOut : Bool
  deriving DecidableEq, Repr

/-- One express path of a THREAD_LOOM plan (R227, R387). -/
structure ExpressPath where
  aRow : Nat
  aCol : Nat
  bRow : Nat
  bCol : Nat
  mask : BitVec 8
  deriving DecidableEq, Repr

/-- Genot status codes (10_genot R378). -/
inductive Status where
  | ok | notReady | busy | badCommand | badArgument | noResource | conflict | denied | badSignature | integrity
  | timeout | aborted | preemptDegraded | fault | notFound | stale | loomFault | calInvalid | slotTimeout
  deriving DecidableEq, Repr

/-- What a device answers to a prepare (R238): its status, and the HOLDER of a CONFLICT (R228). -/
structure PrepareAnswer where
  status : Status
  holder : Nat := 0
  deriving DecidableEq, Repr

/-- A LAUNCH prepare as it reaches a device (R313): its job, and the jobs whose JOB barriers the other devices of the loom hold
(06_links_mesh R247). -/
structure LaunchAsk where
  job : Nat
  jobs : List Nat := []
  deriving DecidableEq, Repr

/-- A BEAT_ALIGN command (R387): its SEQ, and whether another device of the loom has a context launched (06_links_mesh R252). -/
structure AlignAsk where
  seq : W64
  launched : Bool := false
  deriving DecidableEq, Repr

/-- The two-phase operations that an origin runs (R238, R267, R300, R313). -/
inductive LoomOpKind where
  | thread | draft | launch | replace
  deriving DecidableEq, Repr

/-- Scope of a loom barrier (R248 table): STEP with a base id, JOB with a job id and a barrier number. -/
inductive BarKey where
  | step (base : Nat)
  | job (job bar : Nat)
  deriving DecidableEq, Repr

/-- The request and reply header of a remote operation (R242). -/
structure RmtHdr where
  addr : BitVec 64
  row : Nat
  col : Nat
  tag : Nat
  epoch : BitVec 8
  op : Nat
  accType : Nat
  count : Nat
  total : Nat
  refusal : Nat
  phase : Nat
  job : Nat
  client : Nat
  deriving DecidableEq, Repr

/-- The payload of PASS_START (07_warp_weft R269). -/
structure PassMsg where
  entry : Nat
  seq : Nat
  draftId : W64
  start : Nat
  step : BitVec 64
  split : Nat
  newVersion : W64
  oldVersion : W64
  deriving DecidableEq, Repr

/-- The head of a RECALL payload (R282): pass, first index, count, and the requester's coordinates. -/
structure RecallMsg where
  passSeq : Nat
  index : Nat
  count : Nat
  row : Nat
  col : Nat
  deriving DecidableEq, Repr

/-- A host region descriptor (10_genot R376). -/
structure Region where
  addr : W64
  length : W64
  rkey : W32
  qp : W16
  deriving DecidableEq, Repr

/-- An IP address of a frame (R364). -/
inductive IpAddr where
  | v4 (a : BitVec 32)
  | v6 (a : BitVec 128)
  deriving DecidableEq, Repr

/-- What a RoCEv2 packet of the host asks (R372). -/
inductive RoceOp where
  /-- An acknowledgement of every packet up to its PSN. -/
  | ack
  | send | rdmaRead | rdmaWrite | atomic
  /-- A NAK of kind remote access error, for a request of the device with its PSN (R376). -/
  | nak
  deriving DecidableEq, Repr

/-- What a received Ethernet frame carries above its addresses. -/
inductive FrameBody where
  | arp (target : IpAddr)
  | neighbour (target : IpAddr)
  | echo
  | roce (op : RoceOp) (qpn : Nat) (psn : Nat) (last : Bool) (icrcOk : Bool) (msg : Bytes)
  | other
  deriving DecidableEq, Repr

/-- A received Ethernet frame (R364 to R369). -/
structure EthFrame where
  dstMac : BitVec 48
  srcMac : BitVec 48
  srcIp : IpAddr
  dstIp : IpAddr
  vlan : Option (BitVec 12 × BitVec 3)
  dscp : BitVec 6
  ce : Bool
  length : Nat
  body : FrameBody
  /-- Codewords that the FEC corrected in it, and could not correct (R363, R402). -/
  fecCorr : Nat := 0
  fecBad : Nat := 0
  deriving DecidableEq, Repr

/-- One entry of an attach body (R373). -/
structure AttachQp where
  hostQpn : Nat
  hostPsn : Nat
  devPsn : Nat
  deriving DecidableEq, Repr

/-- The state of a session in migration (R32, R393): what MIGRATE flits carry. -/
structure MigSession where
  client : Nat
  base : Nat
  weft : Option Nat
  ring : Nat
  maxCtx : Nat
  seed : W64
  params : Bytes
  committed : Nat
  history : List W32
  lastTok : W32
  prompt : List (W32 × Bool)
  promptOpen : Bool
  kv : List Bytes
  deriving DecidableEq, Repr

/-- What MIGRATE flits bring (R32, R393): the state of a session, with the coordinates of its source and the SEQ of the
MIGRATE_SESSION, or the target's answer with the session's new id. -/
inductive MigMsg where
  | state (row col : Nat) (seq : W64) (m : MigSession)
  | reply (seq : W64) (status : Status) (id : Nat)
  deriving DecidableEq, Repr

/-- The scan chains of the die (11_security R404, R421): those of cores, of vault controllers, of the strongbox, and the
others. -/
inductive ScanChain where
  | core | vault | strongbox | other
  deriving DecidableEq, Repr

/-- The instruments of the test port's network (12_bringup_power R448). -/
inductive Instrument where
  | reg (off : Nat)
  | scan (chain : ScanChain)
  | spool (p off : Nat)
  | acc (p off : Nat)
  | accWrite (p off : Nat) (value : Bytes)
  | plane (p n off : Nat)
  | fifo (p n off : Nat)
  | trace (off : Nat)
  | vault
  deriving DecidableEq, Repr

/-- What a bring-up phase found when it ended (R426). -/
inductive PhaseResult where
  | pass
  | fail
  /-- P3: physical cores whose self-test failed (R77). -/
  | coreFails (bad : List Nat)
  /-- P4: stacks that failed training (R210, R429). -/
  | stackFails (bad : List Nat)
  /-- P5: ports with their trained bundles (R426, R231). -/
  | portsUp (up : List (Nat × BitVec 8))
  deriving DecidableEq, Repr

/-- Where a temperature reading comes from (R438). -/
inductive TempSource where
  | die (n : Nat)
  | stack (n : Nat)
  deriving DecidableEq, Repr

/-- The commands, in the order of spec/opcode_table.json. -/
inductive Instr where
  -- scalar and branch (R128, R129)
  | sclAdd (p t : Nat) (w : IWord)
  | sclSub (p t : Nat) (w : IWord)
  | sclMul (p t : Nat) (w : IWord)
  | sclMulh (p t : Nat) (w : IWord)
  | sclAnd (p t : Nat) (w : IWord)
  | sclOr (p t : Nat) (w : IWord)
  | sclXor (p t : Nat) (w : IWord)
  | sclShl (p t : Nat) (w : IWord)
  | sclShr (p t : Nat) (w : IWord)
  | sclSra (p t : Nat) (w : IWord)
  | sclMin (p t : Nat) (w : IWord)
  | sclMax (p t : Nat) (w : IWord)
  | sclMinu (p t : Nat) (w : IWord)
  | sclMaxu (p t : Nat) (w : IWord)
  | sclSlt (p t : Nat) (w : IWord)
  | sclSltu (p t : Nat) (w : IWord)
  | sclLi (p t : Nat) (w : IWord) (x : W64)
  | brJ (p t : Nat) (w : IWord)
  | brBeq (p t : Nat) (w : IWord)
  | brBne (p t : Nat) (w : IWord)
  | brBlt (p t : Nat) (w : IWord)
  | brBge (p t : Nat) (w : IWord)
  | brBltu (p t : Nat) (w : IWord)
  | brBgeu (p t : Nat) (w : IWord)
  | brCall (p t : Nat) (w : IWord)
  | brJr (p t : Nat) (w : IWord)
  -- spool, slots, streams (R130 to R133)
  | splLd (p t : Nat) (w : IWord)
  | splLds (p t : Nat) (w : IWord)
  | splSt (p t : Nat) (w : IWord)
  | splAcc (p t : Nat) (w : IWord)
  | sltBind (p t : Nat) (w : IWord)
  | sltUnbind (p t : Nat) (w : IWord)
  | sltState (p t : Nat) (w : IWord)
  | sltFill (p t : Nat) (w : IWord)
  | sltRel (p t : Nat) (w : IWord)
  | strArm (p t : Nat) (w : IWord)
  | strCancel (p t : Nat) (w : IWord)
  | strWait (p t : Nat) (w : IWord)
  | strDld (p t : Nat) (w : IWord)
  | strDset (p t : Nat) (w : IWord)
  | strStatus (p t : Nat) (w : IWord)
  -- engines (R134 to R142)
  | engLdw (p t : Nat) (w : IWord)
  | engMm (p t : Nat) (w : IWord) (x : W64)
  | engConv (p t : Nat) (w : IWord) (x : W64)
  | engDrn (p t : Nat) (w : IWord) (x : W64)
  | engFence (p t : Nat) (w : IWord)
  -- vector unit (R143 to R148)
  | vecLd (p t : Nat) (w : IWord)
  | vecSt (p t : Nat) (w : IWord)
  | vecAdd (p t : Nat) (w : IWord)
  | vecSub (p t : Nat) (w : IWord)
  | vecMul (p t : Nat) (w : IWord)
  | vecFma (p t : Nat) (w : IWord)
  | vecMax (p t : Nat) (w : IWord)
  | vecMin (p t : Nat) (w : IWord)
  | vecCmp (p t : Nat) (w : IWord)
  | vecSel (p t : Nat) (w : IWord)
  | vecExp (p t : Nat) (w : IWord)
  | vecLog (p t : Nat) (w : IWord)
  | vecRcp (p t : Nat) (w : IWord)
  | vecRsqrt (p t : Nat) (w : IWord)
  | vecTanh (p t : Nat) (w : IWord)
  | vecSig (p t : Nat) (w : IWord)
  | vecRsum (p t : Nat) (w : IWord)
  | vecRmax (p t : Nat) (w : IWord)
  | vecBcast (p t : Nat) (w : IWord)
  | vecCvtmx (p t : Nat) (w : IWord)
  | vecPhilox (p t : Nat) (w : IWord)
  | vecI2f (p t : Nat) (w : IWord)
  | vecUnif (p t : Nat) (w : IWord)
  -- teller, remote, barrier, thread, command (R149 to R164)
  | telAttn (p t : Nat) (w : IWord)
  | telCmd (p t : Nat) (w : IWord)
  | telMerge (p t : Nat) (w : IWord)
  | rmtGet (p t : Nat) (w : IWord)
  | rmtPut (p t : Nat) (w : IWord)
  | rmtAcc (p t : Nat) (w : IWord)
  | rmtWait (p t : Nat) (w : IWord)
  | barArrive (p t : Nat) (w : IWord)
  | barWait (p t : Nat) (w : IWord)
  | barSync (p t : Nat) (w : IWord)
  | thrStart (p t : Nat) (w : IWord)
  | thrEnd (p t : Nat) (w : IWord)
  | thrJoin (p t : Nat) (w : IWord)
  | thrRds (p t : Nat) (w : IWord)
  | cmdBegin (p t : Nat) (w : IWord)
  | cmdPub (p t : Nat) (w : IWord)
  | cmdCommit (p t : Nat) (w : IWord)
  | cmdAbort (p t : Nat) (w : IWord)
  -- events in a core
  | threadReady (p t : Nat)
  | cmdBeginComplete (p : Nat)
  | coreReport (p : Nat)
  | commitDone (p : Nat)
  | foldDone (p : Nat)
  | commandAbort (p : Nat)
  | slotTimeout (p : Nat) (who : Waiter)
  | accUpdate (p : Nat) (e : Eng)
  | frontDone (p : Nat)
  | drainDone (p : Nat) (e : Eng)
  | engHwFault (p : Nat) (e : Eng) (cause : HwCause)
  | transferHang (p n start : Nat)
  | spareSubstitution (p : Nat)
  | keeperRampStep (p : Nat) (e : Eng)
  | bankSettled (p b : Nat)
  | strTransferIssue (p : Nat)
  | transferReply (p n start : Nat)
  -- vault
  | stackRequest (st : Nat) (errs : List LineErr)
  | stackHang (st : Nat)
  | refresh (st : Nat)
  | stackTempChange (st : Nat) (temp : Nat)
  | scrubLine (st : Nat) (err : List LineErr)
  | telStackReply (p job st : Nat)
  | attnPartial (p job st piece : Nat) (errs : List LineErr)
  | mergeDone (p : Nat)
  -- links and loom
  | flitTx (port bundle : Nat)
  | flitRx (port bundle : Nat) (words : List (List Nat)) (spoilt : Bool) (bytes : Bytes)
  | replayTimeout (port bundle : Nat)
  | retrainDone (port bundle rtt : Nat)
  | retrainFail (port bundle : Nat)
  | idleFlitInsert (port : Nat)
  | laneFailure (port : Nat) (lane : LaneFault)
  | linkTrained (port : Nat) (bundles : BitVec 8)
  | hello (port : Nat) (h : Hello)
  | portTrainRetry (port : Nat)
  | discFlood (port : Nat) (f : Flood)
  | discAnswer (port : Nat) (serial : W64) (accept : Bool)
  | discReport (port : Nat) (serial : W64) (reports : List DiscReport)
  | discTimeout (port : Nat)
  | threadPrepare (nr nc row col : Nat) (paths : List ExpressPath) (rtts : List (Nat × Nat))
  | threadCommit (n : Nat) (steps : List (Nat × W64)) (replaced : List Nat)
  | prepareReply (op : LoomOpKind) (row col : Nat) (answer : PrepareAnswer)
  | draftPrepare (draft : Bytes)
  | draftCommit
  | launchPrepare (ask : LaunchAsk)
  | launchStart (job beat : Nat)
  | replacePrepare (base mode : Nat) (pkg : Bytes)
  | replaceCommit (base mode : Nat) (s0 : W64)
  | jobStop (job : Nat) (status : Status)
  | faultFlit (port : Nat) (loc : Option (Nat × Nat))
  | barrierArriveRx (port : Nat) (key : BarKey) (flags : BitVec 8) (gen : W64)
  | barrierReleaseRx (port : Nat) (key : BarKey) (flags : BitVec 8) (gen : W64)
  | barrierTimeout (key : BarKey)
  | beatTimingExchange (t0 t1 t2 t3 : Nat)
  | beatValue (value : Nat)
  | startBeatReached
  | beatMark
  | routedFlit (port : Nat) (type : Nat) (route : BitVec 27) (payload : Bytes)
  | rmtRequestRx (head body : Bytes) (errs : List LineErr)
  | rmtResponseRx (head body : Bytes)
  | rmtTimeout (tag : Nat)
  | migrateRx (m : MigMsg)
  -- warp
  | passSchedule
  | passStart (m : PassMsg)
  | passOpen (seq : Nat)
  | warpInject (port : Nat) (errs : List LineErr)
  | warpFlitRx (port : Nat) (route : BitVec 27) (payload : Bytes)
  | passCloseBound (seq : Nat)
  | imageDelivery (p : Nat)
  | recallRequestRx (m : RecallMsg) (errs : List LineErr)
  | recallDataRx (passSeq index : Nat) (payload : Bytes)
  | recallRefusedRx (passSeq index reason : Nat)
  | recallBudgetExpiry (passSeq index : Nat)
  -- steps, contexts, ledger
  | stepCommit (base : Nat)
  | commandDispatch (ctx : Nat)
  | turnExpiry (part : Nat)
  | swapDecision (part : Nat)
  | contextResident (part : Nat)
  | saveRemoteDeadline (ctx : Nat)
  | saveDone (ctx : Nat)
  | restore (ctx : Nat)
  | energyInterval (uj : Nat)
  | stepRecordWrite
  | useCountHalving
  -- Ethernet
  | ethFrameRx (f : EthFrame)
  | pfcPauseRx (cls : Nat) (pause : Bool)
  | cnpRx (qp : Nat)
  | rateRaise (qp : Nat)
  | retryTimeout (qp : Nat)
  | rnrNakRx (qp : Nat)
  | rdmaReadResponse (seq : W64) (data : Option Bytes)
  | attach (srcMac : BitVec 48) (srcIp dstIp : IpAddr) (psn : Nat) (qps : List AttachQp)
  | ackDeadline (seq : W64)
  | eventSend
  | tokenPost (ring : Nat)
  | ringConsReread (ring : Nat) (value : W64)
  | autonegTimeout
  -- Genot commands
  | deviceInfo (seq : W64)
  | deviceState (seq : W64)
  | regRead (seq : W64) (off : W64) (count : W16)
  | regWrite (seq off val mask : W64)
  | peakClear (seq : W64) (p : Nat) (val mask : W64)
  | rearmLostClear (seq : W64) (p n : Nat) (val mask : W64)
  | ringEnable (seq : W64) (ring : Nat) (val mask : W64)
  | ringDisable (seq : W64) (ring : Nat) (val mask : W64)
  | ethAddressWrite (seq : W64) (which : Nat) (val mask : W64)
  | testLock (seq val mask : W64)
  | lock (seq val mask : W64)
  | alertClear (seq val mask : W64)
  | validClear (seq : W64) (st : Nat) (val mask : W64)
  | traceEnable (seq : W64) (part : Nat) (val mask : W64)
  | attest (seq : W64) (nonce : Bytes)
  | enrolPublisher (seq : W64) (slot : Byte) (key : Bytes) (auth : Bytes)
  | revokePublisher (seq : W64) (slot : Byte) (auth : Bytes)
  | discover (seq : W64)
  | threadLoom (seq : W64) (paths : List ExpressPath)
  | beatAlign (ask : AlignAsk)
  | loadWarpShard (seq : W64) (base : Byte) (region : Region)
  | loadWeft (seq : W64) (weft client : W16) (base : Byte) (region : Region)
  | evict (seq : W64) (mode : Byte) (id : W16)
  | replaceWarp (seq : W64) (base mode : Byte) (region : Region)
  | replaceWeft (seq : W64) (weft : W16) (source : Option (Byte × W64)) (atStep : W64) (region : Region)
  | setDraft (seq : W64) (region : Region)
  | pageSupply (seq : W64) (weft : W16) (page : W32) (region : Region)
  | loadProgram (seq : W64) (region : Region)
  | createContext (seq : W64) (program partition cls base : Byte) (client job first count : W16) (quota : W32)
      (region : Region)
  | launch (seq : W64) (job : W16)
  | preempt (seq : W64) (ctx mode : Byte)
  | resume (seq : W64) (ctx : Byte)
  | destroyContext (seq : W64) (ctx : Byte)
  | openSession (seq : W64) (client : W16) (base : Byte) (weft : Option W16) (ring : Byte) (maxCtx : W32) (seed : W64)
      (params : Bytes)
  | feedPrompt (seq : W64) (session : W32) (count : W32) (last : Bool) (tokens : List W32) (region : Option Region)
  | closeSession (seq : W64) (session : W32)
  | migrateSession (seq : W64) (session : W32) (row col : Byte)
  | ledgerRead (seq : W64) (account : W16) (all : Bool) (region : Region)
  | ledgerClear (seq : W64) (account : W16) (all : Bool) (region : Region)
  | calRead (seq : W64) (off len : W32)
  | calWrite (seq : W64) (region : Region) (confirm : W32)
  | setMode (seq : W64) (exact : Byte)
  | setPowerPlan (seq : W64) (plan : Bytes)
  | setClockPlan (seq : W64) (plan : Bytes)
  | claimResource (seq : W64) (kind function : Byte) (index : W16)
  | releaseResource (seq : W64) (claim : W32)
  -- board, bring-up, power, freeze, test port
  | powerOn (origin : Bool) (boardPos : BitVec 4)
  | reset (origin : Bool) (boardPos : BitVec 4)
  | phaseDone (r : PhaseResult)
  | aclkTransition
  | aclkRestart
  | vddRampDone
  | rootLockLost
  | powerEvaluation (watts : Nat)
  | thermalWarn (src : TempSource) (temp : Nat)
  | thermTrip (driven : Option TempSource)
  | freeze
  | idcode
  | samplePreload
  | extest
  | ijtag (i : Instrument)
  | bypass
  | vaultReadout (addr : Nat) (errs : List LineErr)
  | traceTrigIn (gpio : Nat)
  | clerkWatchdog (clerk : Nat) (parityOk : Bool)
  | prepareAbort (op : LoomOpKind)
  | lastRead (p slot : Nat)
  | powerOff
  | flashWriteDone
  | quoteSigned
  | ethLaneLockChange (lanes : BitVec 8) (partner : Bool)
  | vddIoInWindow (inWindow : Bool)
  | trstN
  deriving DecidableEq, Repr

end Sys2Proof
end

