-- ==== Sys2Proof/WellFormed.lean ====
section
/-!
DEFINITION. Well-formed commands: every number in a command names a unit that the device has (1,232 cores with eight
threads, 32 slots and 32 streams; 16 stacks; four ports of eight bundles; 66 lanes; 64 bases, partitions, jobs and
contexts as their tables have them). `exec` answers the fault `noSuchUnit` for a command that is not well-formed, and
for no other.
-/
namespace Sys2Proof

def coreOk (p : Nat) : Bool := p < 1232
def threadOk (t : Nat) : Bool := t < 8
def slotOk (n : Nat) : Bool := n < 32
def bankOk (b : Nat) : Bool := b < 8
def stackOk (st : Nat) : Bool := st < 16
def portOk (port : Nat) : Bool := port < 4
def bundleOk (b : Nat) : Bool := b < 8
def laneOk (n : Nat) : Bool := n < 66
def pieceOk (n : Nat) : Bool := n < 16
def waiterOk : Waiter → Bool
  | .thread t => t < 8
  | .stream n => n < 32
def clerkOk (n : Nat) : Bool := n < 16
def ringOk (n : Nat) : Bool := n < 256
/-- Ring 255 is the ledger's. -/
def tokenRingOk (n : Nat) : Bool := n < 255
def qpOk (q : Nat) : Bool := q < 1024
def partOk (n : Nat) : Bool := n < 64
def ctxOk (n : Nat) : Bool := n < 256
def baseOk (n : Nat) : Bool := n < 64
def tempOk (n : Nat) : Bool := n < 256
def sourceOk : TempSource → Bool
  | .die n => n < 256
  | .stack st => stackOk st
def instrumentOk : Instrument → Bool
  | .spool p _ => coreOk p
  | .acc p _ => coreOk p
  | .accWrite p _ _ => coreOk p
  | .plane p _ _ => coreOk p
  | .fifo p _ _ => coreOk p
  | .reg _ => true
  | .scan _ => true
  | .trace _ => true
  | .vault => true
/-- The address of a vault line. -/
def lineOk (addr : Nat) : Bool := addr % 64 = 0 && addr < 2 ^ 40
def ethRegOk (n : Nat) : Bool := n < 3

/-- Every unit that the command names exists. -/
def Instr.wf : Instr → Bool
  | .sclAdd p t _ => coreOk p && threadOk t
  | .sclSub p t _ => coreOk p && threadOk t
  | .sclMul p t _ => coreOk p && threadOk t
  | .sclMulh p t _ => coreOk p && threadOk t
  | .sclAnd p t _ => coreOk p && threadOk t
  | .sclOr p t _ => coreOk p && threadOk t
  | .sclXor p t _ => coreOk p && threadOk t
  | .sclShl p t _ => coreOk p && threadOk t
  | .sclShr p t _ => coreOk p && threadOk t
  | .sclSra p t _ => coreOk p && threadOk t
  | .sclMin p t _ => coreOk p && threadOk t
  | .sclMax p t _ => coreOk p && threadOk t
  | .sclMinu p t _ => coreOk p && threadOk t
  | .sclMaxu p t _ => coreOk p && threadOk t
  | .sclSlt p t _ => coreOk p && threadOk t
  | .sclSltu p t _ => coreOk p && threadOk t
  | .sclLi p t _ _ => coreOk p && threadOk t
  | .brJ p t _ => coreOk p && threadOk t
  | .brBeq p t _ => coreOk p && threadOk t
  | .brBne p t _ => coreOk p && threadOk t
  | .brBlt p t _ => coreOk p && threadOk t
  | .brBge p t _ => coreOk p && threadOk t
  | .brBltu p t _ => coreOk p && threadOk t
  | .brBgeu p t _ => coreOk p && threadOk t
  | .brCall p t _ => coreOk p && threadOk t
  | .brJr p t _ => coreOk p && threadOk t
  | .splLd p t _ => coreOk p && threadOk t
  | .splLds p t _ => coreOk p && threadOk t
  | .splSt p t _ => coreOk p && threadOk t
  | .splAcc p t _ => coreOk p && threadOk t
  | .sltBind p t _ => coreOk p && threadOk t
  | .sltUnbind p t _ => coreOk p && threadOk t
  | .sltState p t _ => coreOk p && threadOk t
  | .sltFill p t _ => coreOk p && threadOk t
  | .sltRel p t _ => coreOk p && threadOk t
  | .strArm p t _ => coreOk p && threadOk t
  | .strCancel p t _ => coreOk p && threadOk t
  | .strWait p t _ => coreOk p && threadOk t
  | .strDld p t _ => coreOk p && threadOk t
  | .strDset p t _ => coreOk p && threadOk t
  | .strStatus p t _ => coreOk p && threadOk t
  | .engLdw p t _ => coreOk p && threadOk t
  | .engMm p t _ _ => coreOk p && threadOk t
  | .engConv p t _ _ => coreOk p && threadOk t
  | .engDrn p t _ _ => coreOk p && threadOk t
  | .engFence p t _ => coreOk p && threadOk t
  | .vecLd p t _ => coreOk p && threadOk t
  | .vecSt p t _ => coreOk p && threadOk t
  | .vecAdd p t _ => coreOk p && threadOk t
  | .vecSub p t _ => coreOk p && threadOk t
  | .vecMul p t _ => coreOk p && threadOk t
  | .vecFma p t _ => coreOk p && threadOk t
  | .vecMax p t _ => coreOk p && threadOk t
  | .vecMin p t _ => coreOk p && threadOk t
  | .vecCmp p t _ => coreOk p && threadOk t
  | .vecSel p t _ => coreOk p && threadOk t
  | .vecExp p t _ => coreOk p && threadOk t
  | .vecLog p t _ => coreOk p && threadOk t
  | .vecRcp p t _ => coreOk p && threadOk t
  | .vecRsqrt p t _ => coreOk p && threadOk t
  | .vecTanh p t _ => coreOk p && threadOk t
  | .vecSig p t _ => coreOk p && threadOk t
  | .vecRsum p t _ => coreOk p && threadOk t
  | .vecRmax p t _ => coreOk p && threadOk t
  | .vecBcast p t _ => coreOk p && threadOk t
  | .vecCvtmx p t _ => coreOk p && threadOk t
  | .vecPhilox p t _ => coreOk p && threadOk t
  | .vecI2f p t _ => coreOk p && threadOk t
  | .vecUnif p t _ => coreOk p && threadOk t
  | .telAttn p t _ => coreOk p && threadOk t
  | .telCmd p t _ => coreOk p && threadOk t
  | .telMerge p t _ => coreOk p && threadOk t
  | .rmtGet p t _ => coreOk p && threadOk t
  | .rmtPut p t _ => coreOk p && threadOk t
  | .rmtAcc p t _ => coreOk p && threadOk t
  | .rmtWait p t _ => coreOk p && threadOk t
  | .barArrive p t _ => coreOk p && threadOk t
  | .barWait p t _ => coreOk p && threadOk t
  | .barSync p t _ => coreOk p && threadOk t
  | .thrStart p t _ => coreOk p && threadOk t
  | .thrEnd p t _ => coreOk p && threadOk t
  | .thrJoin p t _ => coreOk p && threadOk t
  | .thrRds p t _ => coreOk p && threadOk t
  | .cmdBegin p t _ => coreOk p && threadOk t
  | .cmdPub p t _ => coreOk p && threadOk t
  | .cmdCommit p t _ => coreOk p && threadOk t
  | .cmdAbort p t _ => coreOk p && threadOk t
  | .threadReady p t => coreOk p && threadOk t
  | .cmdBeginComplete p => coreOk p
  | .coreReport p => coreOk p
  | .commitDone p => coreOk p
  | .foldDone p => coreOk p
  | .commandAbort p => coreOk p
  | .slotTimeout p who => coreOk p && waiterOk who
  | .accUpdate p _ => coreOk p
  | .frontDone p => coreOk p
  | .drainDone p _ => coreOk p
  | .engHwFault p _ _ => coreOk p
  | .transferHang p n _ => coreOk p && slotOk n
  | .spareSubstitution p => coreOk p
  | .keeperRampStep p _ => coreOk p
  | .bankSettled p b => coreOk p && bankOk b
  | .strTransferIssue p => coreOk p
  | .transferReply p n _ => coreOk p && slotOk n
  | .stackRequest st _ => stackOk st
  | .stackHang st => stackOk st
  | .refresh st => stackOk st
  | .stackTempChange st temp => stackOk st && tempOk temp
  | .scrubLine st _ => stackOk st
  | .telStackReply p _ st => coreOk p && stackOk st
  | .attnPartial p _ st piece _ => coreOk p && stackOk st && pieceOk piece
  | .mergeDone p => coreOk p
  | .flitTx port bundle => portOk port && bundleOk bundle
  | .flitRx port bundle words _ bytes =>
    portOk port && bundleOk bundle && bytes.length = 256 && words.all fun w => w.all fun i => i < 272
  | .replayTimeout port bundle => portOk port && bundleOk bundle
  | .retrainDone port bundle _ => portOk port && bundleOk bundle
  | .retrainFail port bundle => portOk port && bundleOk bundle
  | .idleFlitInsert port => portOk port
  | .laneFailure port lane => portOk port && laneOk lane.lane
  | .linkTrained port _ => portOk port
  | .hello port _ => portOk port
  | .portTrainRetry port => portOk port
  | .discFlood port _ => portOk port
  | .discAnswer port _ _ => portOk port
  | .discReport port _ _ => portOk port
  | .discTimeout port => portOk port
  | .threadPrepare _ _ _ _ _ _ => true
  | .threadCommit _ _ _ => true
  | .prepareReply _ _ _ _ => true
  | .draftPrepare _ => true
  | .draftCommit => true
  | .launchPrepare _ => true
  | .launchStart _ _ => true
  | .replacePrepare _ _ _ => true
  | .replaceCommit _ _ _ => true
  | .jobStop _ _ => true
  | .faultFlit port _ => portOk port
  | .barrierArriveRx port _ _ _ => portOk port
  | .barrierReleaseRx port _ _ _ => portOk port
  | .barrierTimeout _ => true
  | .beatTimingExchange _ _ _ _ => true
  | .beatValue _ => true
  | .startBeatReached => true
  | .beatMark => true
  | .routedFlit port _ _ _ => portOk port
  | .rmtRequestRx _ _ _ => true
  | .rmtResponseRx _ _ => true
  | .rmtTimeout _ => true
  | .migrateRx _ => true
  | .passSchedule => true
  | .passStart _ => true
  | .passOpen _ => true
  | .warpInject port _ => portOk port
  | .warpFlitRx port _ _ => portOk port
  | .passCloseBound _ => true
  | .imageDelivery p => coreOk p
  | .recallRequestRx _ _ => true
  | .recallDataRx _ _ _ => true
  | .recallRefusedRx _ _ _ => true
  | .recallBudgetExpiry _ _ => true
  | .stepCommit base => baseOk base
  | .commandDispatch ctx => ctxOk ctx
  | .turnExpiry part => partOk part
  | .swapDecision part => partOk part
  | .contextResident part => partOk part
  | .saveRemoteDeadline ctx => ctxOk ctx
  | .saveDone ctx => ctxOk ctx
  | .restore ctx => ctxOk ctx
  | .energyInterval _ => true
  | .stepRecordWrite => true
  | .useCountHalving => true
  | .ethFrameRx _ => true
  | .pfcPauseRx cls _ => bankOk cls
  | .cnpRx qp => qpOk qp
  | .rateRaise qp => qpOk qp
  | .retryTimeout qp => qpOk qp
  | .rnrNakRx qp => qpOk qp
  | .rdmaReadResponse _ _ => true
  | .attach _ _ _ _ _ => true
  | .ackDeadline _ => true
  | .eventSend => true
  | .tokenPost ring => tokenRingOk ring
  | .ringConsReread ring _ => ringOk ring
  | .autonegTimeout => true
  | .deviceInfo _ => true
  | .deviceState _ => true
  | .regRead _ _ _ => true
  | .regWrite _ _ _ _ => true
  | .peakClear _ p _ _ => coreOk p
  | .rearmLostClear _ p n _ _ => coreOk p && slotOk n
  | .ringEnable _ ring _ _ => ringOk ring
  | .ringDisable _ ring _ _ => ringOk ring
  | .ethAddressWrite _ which _ _ => ethRegOk which
  | .testLock _ _ _ => true
  | .lock _ _ _ => true
  | .alertClear _ _ _ => true
  | .validClear _ st _ _ => stackOk st
  | .traceEnable _ part _ _ => bankOk part
  | .attest _ _ => true
  | .enrolPublisher _ _ _ _ => true
  | .revokePublisher _ _ _ => true
  | .discover _ => true
  | .threadLoom _ _ => true
  | .beatAlign _ => true
  | .loadWarpShard _ _ _ => true
  | .loadWeft _ _ _ _ _ => true
  | .evict _ _ _ => true
  | .replaceWarp _ _ _ _ => true
  | .replaceWeft _ _ _ _ _ => true
  | .setDraft _ _ => true
  | .pageSupply _ _ _ _ => true
  | .loadProgram _ _ => true
  | .createContext _ _ _ _ _ _ _ _ _ _ _ => true
  | .launch _ _ => true
  | .preempt _ _ _ => true
  | .resume _ _ => true
  | .destroyContext _ _ => true
  | .openSession _ _ _ _ _ _ _ _ => true
  | .feedPrompt _ _ _ _ _ _ => true
  | .closeSession _ _ => true
  | .migrateSession _ _ _ _ => true
  | .ledgerRead _ _ _ _ => true
  | .ledgerClear _ _ _ _ => true
  | .calRead _ _ _ => true
  | .calWrite _ _ _ => true
  | .setMode _ _ => true
  | .setPowerPlan _ _ => true
  | .setClockPlan _ _ => true
  | .claimResource _ _ _ _ => true
  | .releaseResource _ _ => true
  | .powerOn _ _ => true
  | .reset _ _ => true
  | .phaseDone _ => true
  | .aclkTransition => true
  | .aclkRestart => true
  | .vddRampDone => true
  | .rootLockLost => true
  | .powerEvaluation _ => true
  | .thermalWarn src temp => tempOk temp && sourceOk src
  | .thermTrip _ => true
  | .freeze => true
  | .idcode => true
  | .samplePreload => true
  | .extest => true
  | .ijtag x => instrumentOk x
  | .bypass => true
  | .vaultReadout addr _ => lineOk addr
  | .traceTrigIn gpio => bankOk gpio
  | .clerkWatchdog clerk _ => clerkOk clerk
  | .prepareAbort _ => true
  | .lastRead p slot => coreOk p && slotOk slot
  | .powerOff => true
  | .flashWriteDone => true
  | .quoteSigned => true
  | .ethLaneLockChange _ _ => true
  | .vddIoInWindow _ => true
  | .trstN => true

end Sys2Proof
end

