-- ==== Sys2Proof/Decode.lean ====
section
/-!
DEFINITION. The opcode table gives no row any bits, so no table word spells a command. The words of Poilo instructions
(04_poilo R126, R127) are here as well: the words that stand for an instruction in a code image, and the instruction
that words stand for.
-/
namespace Sys2Proof

/-- The command that a table word spells: the table gives no row bits, so none. -/
def decodeTableWord (_nbits _w : Nat) : Option Instr := none

/-- Word 0 of an instruction (R126): X, CLASS, OP, A, B, C, MOD, IMM from the highest bit down. -/
def word0 (x : BitVec 1) (cls : BitVec 4) (op : BitVec 6) (w : IWord) : W64 :=
  x ++ cls ++ op ++ w.a ++ w.b ++ w.c ++ w.mod ++ w.imm

/-- The fields of word 0 below CLASS and OP. -/
def fieldsOf (x : W64) : IWord where
  a := x.extractLsb' 48 5
  b := x.extractLsb' 43 5
  c := x.extractLsb' 38 5
  mod := x.extractLsb' 32 6
  imm := x.extractLsb' 0 32

/-- The words of a Poilo instruction (R126 and the instruction tables of 04_poilo); none for another command. -/
def encodePoilo : Instr → Option (List W64)
  | .sclAdd _ _ w => some [word0 0 0 0 w]
  | .sclSub _ _ w => some [word0 0 0 1 w]
  | .sclMul _ _ w => some [word0 0 0 2 w]
  | .sclMulh _ _ w => some [word0 0 0 3 w]
  | .sclAnd _ _ w => some [word0 0 0 4 w]
  | .sclOr _ _ w => some [word0 0 0 5 w]
  | .sclXor _ _ w => some [word0 0 0 6 w]
  | .sclShl _ _ w => some [word0 0 0 7 w]
  | .sclShr _ _ w => some [word0 0 0 8 w]
  | .sclSra _ _ w => some [word0 0 0 9 w]
  | .sclMin _ _ w => some [word0 0 0 10 w]
  | .sclMax _ _ w => some [word0 0 0 11 w]
  | .sclMinu _ _ w => some [word0 0 0 12 w]
  | .sclMaxu _ _ w => some [word0 0 0 13 w]
  | .sclSlt _ _ w => some [word0 0 0 14 w]
  | .sclSltu _ _ w => some [word0 0 0 15 w]
  | .sclLi _ _ w y => some [word0 1 0 16 w, y]
  | .brJ _ _ w => some [word0 0 1 0 w]
  | .brBeq _ _ w => some [word0 0 1 1 w]
  | .brBne _ _ w => some [word0 0 1 2 w]
  | .brBlt _ _ w => some [word0 0 1 3 w]
  | .brBge _ _ w => some [word0 0 1 4 w]
  | .brBltu _ _ w => some [word0 0 1 5 w]
  | .brBgeu _ _ w => some [word0 0 1 6 w]
  | .brCall _ _ w => some [word0 0 1 7 w]
  | .brJr _ _ w => some [word0 0 1 8 w]
  | .splLd _ _ w => some [word0 0 2 0 w]
  | .splLds _ _ w => some [word0 0 2 1 w]
  | .splSt _ _ w => some [word0 0 2 2 w]
  | .splAcc _ _ w => some [word0 0 2 3 w]
  | .sltBind _ _ w => some [word0 0 3 0 w]
  | .sltUnbind _ _ w => some [word0 0 3 1 w]
  | .sltState _ _ w => some [word0 0 3 2 w]
  | .sltFill _ _ w => some [word0 0 3 3 w]
  | .sltRel _ _ w => some [word0 0 3 4 w]
  | .strArm _ _ w => some [word0 0 4 0 w]
  | .strCancel _ _ w => some [word0 0 4 1 w]
  | .strWait _ _ w => some [word0 0 4 2 w]
  | .strDld _ _ w => some [word0 0 4 3 w]
  | .strDset _ _ w => some [word0 0 4 4 w]
  | .strStatus _ _ w => some [word0 0 4 5 w]
  | .engLdw _ _ w => some [word0 0 5 0 w]
  | .engMm _ _ w y => some [word0 1 5 1 w, y]
  | .engConv _ _ w y => some [word0 1 5 2 w, y]
  | .engDrn _ _ w y => some [word0 1 5 3 w, y]
  | .engFence _ _ w => some [word0 0 5 4 w]
  | .vecLd _ _ w => some [word0 0 6 0 w]
  | .vecSt _ _ w => some [word0 0 6 1 w]
  | .vecAdd _ _ w => some [word0 0 6 2 w]
  | .vecSub _ _ w => some [word0 0 6 3 w]
  | .vecMul _ _ w => some [word0 0 6 4 w]
  | .vecFma _ _ w => some [word0 0 6 5 w]
  | .vecMax _ _ w => some [word0 0 6 6 w]
  | .vecMin _ _ w => some [word0 0 6 7 w]
  | .vecCmp _ _ w => some [word0 0 6 8 w]
  | .vecSel _ _ w => some [word0 0 6 9 w]
  | .vecExp _ _ w => some [word0 0 6 10 w]
  | .vecLog _ _ w => some [word0 0 6 11 w]
  | .vecRcp _ _ w => some [word0 0 6 12 w]
  | .vecRsqrt _ _ w => some [word0 0 6 13 w]
  | .vecTanh _ _ w => some [word0 0 6 14 w]
  | .vecSig _ _ w => some [word0 0 6 15 w]
  | .vecRsum _ _ w => some [word0 0 6 16 w]
  | .vecRmax _ _ w => some [word0 0 6 17 w]
  | .vecBcast _ _ w => some [word0 0 6 18 w]
  | .vecCvtmx _ _ w => some [word0 0 6 19 w]
  | .vecPhilox _ _ w => some [word0 0 6 20 w]
  | .vecI2f _ _ w => some [word0 0 6 22 w]
  | .vecUnif _ _ w => some [word0 0 6 23 w]
  | .telAttn _ _ w => some [word0 0 7 0 w]
  | .telCmd _ _ w => some [word0 0 7 1 w]
  | .telMerge _ _ w => some [word0 0 7 2 w]
  | .rmtGet _ _ w => some [word0 0 8 0 w]
  | .rmtPut _ _ w => some [word0 0 8 1 w]
  | .rmtAcc _ _ w => some [word0 0 8 2 w]
  | .rmtWait _ _ w => some [word0 0 8 3 w]
  | .barArrive _ _ w => some [word0 0 9 0 w]
  | .barWait _ _ w => some [word0 0 9 1 w]
  | .barSync _ _ w => some [word0 0 9 2 w]
  | .thrStart _ _ w => some [word0 0 10 0 w]
  | .thrEnd _ _ w => some [word0 0 10 1 w]
  | .thrJoin _ _ w => some [word0 0 10 2 w]
  | .thrRds _ _ w => some [word0 0 10 3 w]
  | .cmdBegin _ _ w => some [word0 0 11 0 w]
  | .cmdPub _ _ w => some [word0 0 11 1 w]
  | .cmdCommit _ _ w => some [word0 0 11 2 w]
  | .cmdAbort _ _ w => some [word0 0 11 3 w]
  | .threadReady _ _ => none
  | .cmdBeginComplete _ => none
  | .coreReport _ => none
  | .commitDone _ => none
  | .foldDone _ => none
  | .commandAbort _ => none
  | .slotTimeout _ _ => none
  | .accUpdate _ _ => none
  | .frontDone _ => none
  | .drainDone _ _ => none
  | .engHwFault _ _ _ => none
  | .transferHang _ _ _ => none
  | .spareSubstitution _ => none
  | .keeperRampStep _ _ => none
  | .bankSettled _ _ => none
  | .strTransferIssue _ => none
  | .transferReply _ _ _ => none
  | .stackRequest _ _ => none
  | .stackHang _ => none
  | .refresh _ => none
  | .stackTempChange _ _ => none
  | .scrubLine _ _ => none
  | .telStackReply _ _ _ => none
  | .attnPartial _ _ _ _ _ => none
  | .mergeDone _ => none
  | .flitTx _ _ => none
  | .flitRx _ _ _ _ _ => none
  | .replayTimeout _ _ => none
  | .retrainDone _ _ _ => none
  | .retrainFail _ _ => none
  | .idleFlitInsert _ => none
  | .laneFailure _ _ => none
  | .linkTrained _ _ => none
  | .hello _ _ => none
  | .portTrainRetry _ => none
  | .discFlood _ _ => none
  | .discAnswer _ _ _ => none
  | .discReport _ _ _ => none
  | .discTimeout _ => none
  | .threadPrepare _ _ _ _ _ _ => none
  | .threadCommit _ _ _ => none
  | .prepareReply _ _ _ _ => none
  | .draftPrepare _ => none
  | .draftCommit => none
  | .launchPrepare _ => none
  | .launchStart _ _ => none
  | .replacePrepare _ _ _ => none
  | .replaceCommit _ _ _ => none
  | .jobStop _ _ => none
  | .faultFlit _ _ => none
  | .barrierArriveRx _ _ _ _ => none
  | .barrierReleaseRx _ _ _ _ => none
  | .barrierTimeout _ => none
  | .beatTimingExchange _ _ _ _ => none
  | .beatValue _ => none
  | .startBeatReached => none
  | .beatMark => none
  | .routedFlit _ _ _ _ => none
  | .rmtRequestRx _ _ _ => none
  | .rmtResponseRx _ _ => none
  | .rmtTimeout _ => none
  | .migrateRx _ => none
  | .passSchedule => none
  | .passStart _ => none
  | .passOpen _ => none
  | .warpInject _ _ => none
  | .warpFlitRx _ _ _ => none
  | .passCloseBound _ => none
  | .imageDelivery _ => none
  | .recallRequestRx _ _ => none
  | .recallDataRx _ _ _ => none
  | .recallRefusedRx _ _ _ => none
  | .recallBudgetExpiry _ _ => none
  | .stepCommit _ => none
  | .commandDispatch _ => none
  | .turnExpiry _ => none
  | .swapDecision _ => none
  | .contextResident _ => none
  | .saveRemoteDeadline _ => none
  | .saveDone _ => none
  | .restore _ => none
  | .energyInterval _ => none
  | .stepRecordWrite => none
  | .useCountHalving => none
  | .ethFrameRx _ => none
  | .pfcPauseRx _ _ => none
  | .cnpRx _ => none
  | .rateRaise _ => none
  | .retryTimeout _ => none
  | .rnrNakRx _ => none
  | .rdmaReadResponse _ _ => none
  | .attach _ _ _ _ _ => none
  | .ackDeadline _ => none
  | .eventSend => none
  | .tokenPost _ => none
  | .ringConsReread _ _ => none
  | .autonegTimeout => none
  | .deviceInfo _ => none
  | .deviceState _ => none
  | .regRead _ _ _ => none
  | .regWrite _ _ _ _ => none
  | .peakClear _ _ _ _ => none
  | .rearmLostClear _ _ _ _ _ => none
  | .ringEnable _ _ _ _ => none
  | .ringDisable _ _ _ _ => none
  | .ethAddressWrite _ _ _ _ => none
  | .testLock _ _ _ => none
  | .lock _ _ _ => none
  | .alertClear _ _ _ => none
  | .validClear _ _ _ _ => none
  | .traceEnable _ _ _ _ => none
  | .attest _ _ => none
  | .enrolPublisher _ _ _ _ => none
  | .revokePublisher _ _ _ => none
  | .discover _ => none
  | .threadLoom _ _ => none
  | .beatAlign _ => none
  | .loadWarpShard _ _ _ => none
  | .loadWeft _ _ _ _ _ => none
  | .evict _ _ _ => none
  | .replaceWarp _ _ _ _ => none
  | .replaceWeft _ _ _ _ _ => none
  | .setDraft _ _ => none
  | .pageSupply _ _ _ _ => none
  | .loadProgram _ _ => none
  | .createContext _ _ _ _ _ _ _ _ _ _ _ => none
  | .launch _ _ => none
  | .preempt _ _ _ => none
  | .resume _ _ => none
  | .destroyContext _ _ => none
  | .openSession _ _ _ _ _ _ _ _ => none
  | .feedPrompt _ _ _ _ _ _ => none
  | .closeSession _ _ => none
  | .migrateSession _ _ _ _ => none
  | .ledgerRead _ _ _ _ => none
  | .ledgerClear _ _ _ _ => none
  | .calRead _ _ _ => none
  | .calWrite _ _ _ => none
  | .setMode _ _ => none
  | .setPowerPlan _ _ => none
  | .setClockPlan _ _ => none
  | .claimResource _ _ _ _ => none
  | .releaseResource _ _ => none
  | .powerOn _ _ => none
  | .reset _ _ => none
  | .phaseDone _ => none
  | .aclkTransition => none
  | .aclkRestart => none
  | .vddRampDone => none
  | .rootLockLost => none
  | .powerEvaluation _ => none
  | .thermalWarn _ _ => none
  | .thermTrip _ => none
  | .freeze => none
  | .idcode => none
  | .samplePreload => none
  | .extest => none
  | .ijtag _ => none
  | .bypass => none
  | .vaultReadout _ _ => none
  | .traceTrigIn _ => none
  | .clerkWatchdog _ _ => none
  | .prepareAbort _ => none
  | .lastRead _ _ => none
  | .powerOff => none
  | .flashWriteDone => none
  | .quoteSigned => none
  | .ethLaneLockChange _ _ => none
  | .vddIoInWindow _ => none
  | .trstN => none

/-- The SCL instructions: X, OP, the extension words. An instruction without an extension word has X = 0. -/
def decodeScl (p t : Nat) (x : W64) : Nat → Nat → List W64 → Option Instr
  | 0, 0, [] => some (.sclAdd p t (fieldsOf x))
  | 0, 1, [] => some (.sclSub p t (fieldsOf x))
  | 0, 2, [] => some (.sclMul p t (fieldsOf x))
  | 0, 3, [] => some (.sclMulh p t (fieldsOf x))
  | 0, 4, [] => some (.sclAnd p t (fieldsOf x))
  | 0, 5, [] => some (.sclOr p t (fieldsOf x))
  | 0, 6, [] => some (.sclXor p t (fieldsOf x))
  | 0, 7, [] => some (.sclShl p t (fieldsOf x))
  | 0, 8, [] => some (.sclShr p t (fieldsOf x))
  | 0, 9, [] => some (.sclSra p t (fieldsOf x))
  | 0, 10, [] => some (.sclMin p t (fieldsOf x))
  | 0, 11, [] => some (.sclMax p t (fieldsOf x))
  | 0, 12, [] => some (.sclMinu p t (fieldsOf x))
  | 0, 13, [] => some (.sclMaxu p t (fieldsOf x))
  | 0, 14, [] => some (.sclSlt p t (fieldsOf x))
  | 0, 15, [] => some (.sclSltu p t (fieldsOf x))
  | 1, 16, [y] => some (.sclLi p t (fieldsOf x) y)
  | _, _, _ => none

/-- The BR instructions: X, OP, the extension words. -/
def decodeBr (p t : Nat) (x : W64) : Nat → Nat → List W64 → Option Instr
  | 0, 0, [] => some (.brJ p t (fieldsOf x))
  | 0, 1, [] => some (.brBeq p t (fieldsOf x))
  | 0, 2, [] => some (.brBne p t (fieldsOf x))
  | 0, 3, [] => some (.brBlt p t (fieldsOf x))
  | 0, 4, [] => some (.brBge p t (fieldsOf x))
  | 0, 5, [] => some (.brBltu p t (fieldsOf x))
  | 0, 6, [] => some (.brBgeu p t (fieldsOf x))
  | 0, 7, [] => some (.brCall p t (fieldsOf x))
  | 0, 8, [] => some (.brJr p t (fieldsOf x))
  | _, _, _ => none

/-- The SPL instructions: X, OP, the extension words. -/
def decodeSpl (p t : Nat) (x : W64) : Nat → Nat → List W64 → Option Instr
  | 0, 0, [] => some (.splLd p t (fieldsOf x))
  | 0, 1, [] => some (.splLds p t (fieldsOf x))
  | 0, 2, [] => some (.splSt p t (fieldsOf x))
  | 0, 3, [] => some (.splAcc p t (fieldsOf x))
  | _, _, _ => none

/-- The SLT instructions: X, OP, the extension words. -/
def decodeSlt (p t : Nat) (x : W64) : Nat → Nat → List W64 → Option Instr
  | 0, 0, [] => some (.sltBind p t (fieldsOf x))
  | 0, 1, [] => some (.sltUnbind p t (fieldsOf x))
  | 0, 2, [] => some (.sltState p t (fieldsOf x))
  | 0, 3, [] => some (.sltFill p t (fieldsOf x))
  | 0, 4, [] => some (.sltRel p t (fieldsOf x))
  | _, _, _ => none

/-- The STR instructions: X, OP, the extension words. -/
def decodeStr (p t : Nat) (x : W64) : Nat → Nat → List W64 → Option Instr
  | 0, 0, [] => some (.strArm p t (fieldsOf x))
  | 0, 1, [] => some (.strCancel p t (fieldsOf x))
  | 0, 2, [] => some (.strWait p t (fieldsOf x))
  | 0, 3, [] => some (.strDld p t (fieldsOf x))
  | 0, 4, [] => some (.strDset p t (fieldsOf x))
  | 0, 5, [] => some (.strStatus p t (fieldsOf x))
  | _, _, _ => none

/-- The ENG instructions: X, OP, the extension words. -/
def decodeEng (p t : Nat) (x : W64) : Nat → Nat → List W64 → Option Instr
  | 0, 0, [] => some (.engLdw p t (fieldsOf x))
  | 1, 1, [y] => some (.engMm p t (fieldsOf x) y)
  | 1, 2, [y] => some (.engConv p t (fieldsOf x) y)
  | 1, 3, [y] => some (.engDrn p t (fieldsOf x) y)
  | 0, 4, [] => some (.engFence p t (fieldsOf x))
  | _, _, _ => none

/-- The VEC instructions: X, OP, the extension words. -/
def decodeVec (p t : Nat) (x : W64) : Nat → Nat → List W64 → Option Instr
  | 0, 0, [] => some (.vecLd p t (fieldsOf x))
  | 0, 1, [] => some (.vecSt p t (fieldsOf x))
  | 0, 2, [] => some (.vecAdd p t (fieldsOf x))
  | 0, 3, [] => some (.vecSub p t (fieldsOf x))
  | 0, 4, [] => some (.vecMul p t (fieldsOf x))
  | 0, 5, [] => some (.vecFma p t (fieldsOf x))
  | 0, 6, [] => some (.vecMax p t (fieldsOf x))
  | 0, 7, [] => some (.vecMin p t (fieldsOf x))
  | 0, 8, [] => some (.vecCmp p t (fieldsOf x))
  | 0, 9, [] => some (.vecSel p t (fieldsOf x))
  | 0, 10, [] => some (.vecExp p t (fieldsOf x))
  | 0, 11, [] => some (.vecLog p t (fieldsOf x))
  | 0, 12, [] => some (.vecRcp p t (fieldsOf x))
  | 0, 13, [] => some (.vecRsqrt p t (fieldsOf x))
  | 0, 14, [] => some (.vecTanh p t (fieldsOf x))
  | 0, 15, [] => some (.vecSig p t (fieldsOf x))
  | 0, 16, [] => some (.vecRsum p t (fieldsOf x))
  | 0, 17, [] => some (.vecRmax p t (fieldsOf x))
  | 0, 18, [] => some (.vecBcast p t (fieldsOf x))
  | 0, 19, [] => some (.vecCvtmx p t (fieldsOf x))
  | 0, 20, [] => some (.vecPhilox p t (fieldsOf x))
  | 0, 22, [] => some (.vecI2f p t (fieldsOf x))
  | 0, 23, [] => some (.vecUnif p t (fieldsOf x))
  | _, _, _ => none

/-- The TEL instructions: X, OP, the extension words. -/
def decodeTel (p t : Nat) (x : W64) : Nat → Nat → List W64 → Option Instr
  | 0, 0, [] => some (.telAttn p t (fieldsOf x))
  | 0, 1, [] => some (.telCmd p t (fieldsOf x))
  | 0, 2, [] => some (.telMerge p t (fieldsOf x))
  | _, _, _ => none

/-- The RMT instructions: X, OP, the extension words. -/
def decodeRmt (p t : Nat) (x : W64) : Nat → Nat → List W64 → Option Instr
  | 0, 0, [] => some (.rmtGet p t (fieldsOf x))
  | 0, 1, [] => some (.rmtPut p t (fieldsOf x))
  | 0, 2, [] => some (.rmtAcc p t (fieldsOf x))
  | 0, 3, [] => some (.rmtWait p t (fieldsOf x))
  | _, _, _ => none

/-- The BAR instructions: X, OP, the extension words. -/
def decodeBar (p t : Nat) (x : W64) : Nat → Nat → List W64 → Option Instr
  | 0, 0, [] => some (.barArrive p t (fieldsOf x))
  | 0, 1, [] => some (.barWait p t (fieldsOf x))
  | 0, 2, [] => some (.barSync p t (fieldsOf x))
  | _, _, _ => none

/-- The THR instructions: X, OP, the extension words. -/
def decodeThr (p t : Nat) (x : W64) : Nat → Nat → List W64 → Option Instr
  | 0, 0, [] => some (.thrStart p t (fieldsOf x))
  | 0, 1, [] => some (.thrEnd p t (fieldsOf x))
  | 0, 2, [] => some (.thrJoin p t (fieldsOf x))
  | 0, 3, [] => some (.thrRds p t (fieldsOf x))
  | _, _, _ => none

/-- The CMD instructions: X, OP, the extension words. -/
def decodeCmd (p t : Nat) (x : W64) : Nat → Nat → List W64 → Option Instr
  | 0, 0, [] => some (.cmdBegin p t (fieldsOf x))
  | 0, 1, [] => some (.cmdPub p t (fieldsOf x))
  | 0, 2, [] => some (.cmdCommit p t (fieldsOf x))
  | 0, 3, [] => some (.cmdAbort p t (fieldsOf x))
  | _, _, _ => none

/-- The instruction that words of a code image stand for, issued by thread `t` of core `p`: none for a reserved class,
an unlisted OP or a form that is not the one listed (R127). -/
def decodePoilo (p t : Nat) : List W64 → Option Instr
  | [] => none
  | x :: ys =>
    let ext := (x.extractLsb' 63 1).toNat
    let op := (x.extractLsb' 53 6).toNat
    match (x.extractLsb' 59 4).toNat with
    | 0 => decodeScl p t x ext op ys
    | 1 => decodeBr p t x ext op ys
    | 2 => decodeSpl p t x ext op ys
    | 3 => decodeSlt p t x ext op ys
    | 4 => decodeStr p t x ext op ys
    | 5 => decodeEng p t x ext op ys
    | 6 => decodeVec p t x ext op ys
    | 7 => decodeTel p t x ext op ys
    | 8 => decodeRmt p t x ext op ys
    | 9 => decodeBar p t x ext op ys
    | 10 => decodeThr p t x ext op ys
    | 11 => decodeCmd p t x ext op ys
    | _ => none

end Sys2Proof
end

