-- ==== Sys2Proof/Machine/Maps.lean ====
section
/-!
DEFINITION. Reading and writing the sparse tables of the state: a table is a list of key and value pairs, keys rising;
a key that is not listed has the default that the reader names. `put` lists a value, `del` unlists a key, and `set`
keeps the canonical form in which no listed value is the default. Byte memories use `set`.
-/
namespace Sys2Proof

/-- The value at key `k`, `d` where it is not listed. -/
def SMap.get {α : Type} (m : SMap α) (d : α) (k : Nat) : α :=
  match m with
  | [] => d
  | (k', v) :: m' => if k = k' then v else SMap.get m' d k

/-- Lists `v` at `k`. -/
def SMap.put {α : Type} (m : SMap α) (k : Nat) (v : α) : SMap α :=
  match m with
  | [] => [(k, v)]
  | (k', v') :: m' =>
    if k < k' then (k, v) :: (k', v') :: m'
    else if k = k' then (k, v) :: m'
    else (k', v') :: SMap.put m' k v

/-- Unlists `k`. -/
def SMap.del {α : Type} (m : SMap α) (k : Nat) : SMap α :=
  match m with
  | [] => []
  | (k', v') :: m' => if k = k' then SMap.del m' k else (k', v') :: SMap.del m' k

/-- Writes `v` at `k` and keeps the canonical form for the default `d`. -/
def SMap.set {α : Type} [DecidableEq α] (m : SMap α) (d : α) (k : Nat) (v : α) : SMap α :=
  if v = d then m.del k else m.put k v

/-- Keys rise strictly and all lie above `lo`. -/
def SMap.risingFrom {α : Type} (lo : Nat) : SMap α → Bool
  | [] => true
  | (k, _) :: m => decide (lo ≤ k) && SMap.risingFrom (k + 1) m

/-- The canonical form: keys rise strictly and no listed value is the default. -/
def SMap.wf {α : Type} [DecidableEq α] (m : SMap α) (d : α) : Bool :=
  SMap.risingFrom 0 m && m.all fun e => decide (e.2 ≠ d)

/-- Whether `k` is listed. -/
def SMap.has {α : Type} (m : SMap α) (k : Nat) : Bool := m.any fun e => e.1 = k

/-- The listed pairs whose value satisfies `p`. -/
def SMap.select {α : Type} (m : SMap α) (p : α → Bool) : SMap α := m.filter fun e => p e.2

/-- Every listed value through `f`. -/
def SMap.mapVals {α : Type} (m : SMap α) (f : α → α) : SMap α := m.map fun e => (e.1, f e.2)

/-- Keeps the keys that satisfy `p`. -/
def SMap.keep {α : Type} (m : SMap α) (p : Nat → Bool) : SMap α := m.filter fun e => p e.1

/-- The first number below `n`, counted from `i`, that satisfies `p`. -/
def firstFrom (p : Nat → Bool) (i : Nat) : Nat → Option Nat
  | 0 => none
  | k + 1 => if p i then some i else firstFrom p (i + 1) k

/-! ### Byte memories: every unlisted byte reads 0 -/

def Mem.byte (m : Mem) (a : Nat) : Byte := SMap.get m 0 a

/-- `n` bytes from address `a`. -/
def Mem.bytes (m : Mem) (a : Nat) : Nat → Bytes
  | 0 => []
  | n + 1 => m.byte a :: m.bytes (a + 1) n

/-- Stores a run of bytes from address `a` up. -/
def Mem.store (m : Mem) (a : Nat) : Bytes → Mem
  | [] => m
  | b :: bs => Mem.store (SMap.set m 0 a b) (a + 1) bs

/-- Bytes `lo` up to, not including, `hi` read as 0. -/
def Mem.zero (m : Mem) (lo hi : Nat) : Mem := SMap.keep m fun a => a < lo || hi ≤ a

/-- The part of a memory from `off` up to `off + n - 1`, moved to start at address `to_`. -/
def Mem.window (m : Mem) (off n to_ : Nat) : Mem :=
  (m.filter fun e => off ≤ e.1 && e.1 < off + n).map fun e => (e.1 - off + to_, e.2)

/-- The `n` bytes from address `to_` on become those of `src` from `off` on. -/
def Mem.blit (m : Mem) (to_ n : Nat) (src : Mem) (off : Nat) : Mem :=
  (m.filter fun e => e.1 < to_) ++ src.window off n to_ ++ m.filter fun e => to_ + n ≤ e.1

/-- The canonical form of a byte memory. -/
def Mem.wf (m : Mem) : Bool := SMap.wf m 0

/-! ### Little-endian words in byte runs (spec: every multi-byte field lies lowest byte first) -/

/-- The number a run of bytes spells, lowest byte first. -/
def leNat : Bytes → Nat
  | [] => 0
  | b :: bs => b.toNat + 256 * leNat bs

/-- The lowest `n` bytes of `v`, lowest first. -/
def leBytes (v : Nat) : Nat → Bytes
  | 0 => []
  | n + 1 => BitVec.ofNat 8 v :: leBytes (v / 256) n

/-- Field of `n` bytes at byte `off` of a run; bytes past its end count as 0. -/
def field (bs : Bytes) (off n : Nat) : Nat := leNat ((bs.drop off).take n)

/-- A run of bytes cut into pieces of `n`. -/
def pieces (n : Nat) : Nat → Bytes → List Bytes
  | 0, _ => []
  | k + 1, bs => bs.take n :: pieces n k (bs.drop n)

/-- Rounds up to a multiple of `m`. -/
def roundUp (n m : Nat) : Nat := (n + m - 1) / m * m

def ceilDiv (n m : Nat) : Nat := (n + m - 1) / m

/-- Bits `hi` to `lo` of a number. -/
def bitsOf (n hi lo : Nat) : Nat := n / 2 ^ lo % 2 ^ (hi + 1 - lo)

end Sys2Proof
end

