-- ==== Sys2Proof/Machine/State.lean ====
section
/-!
DEFINITION. The state of the device as plain data, the reasons a step can stop, and the state after reset. Registers
that the spec's tables list live in `State.regs`, at their offset from 0x300_0000_0000, except those that are views of
the structures below (INVENTORY.md says which); every other piece of state the spec gives the machine has a field here.
-/
namespace Sys2Proof.Machine

/-- Why a step stops. -/
inductive Fault where
  /-- A command names a core, thread, port, bundle, stack, die, clerk, partition or queue pair that the device does not
  have. Raised by the range guard of every command. Safe: no such unit exists. -/
  | noSuchUnit
  deriving DecidableEq, Repr

/-- Why a command has no meaning. -/
inductive Refusal where
  /-- The command has no meaning in this model yet. Raised by `exec` only. Safe. -/
  | notModelled (mnemonic : String)
  deriving DecidableEq, Repr

/-! ### Cores -/

/-- Fill state of a slot (03 R90). -/
inductive SlotSt where
  | empty | filling | full | draining
  deriving DecidableEq, Repr

/-- The one producer or consumer that holds a slot (R89, R90). -/
inductive SlotUser where
  | none | thread (t : Nat) | stream (n : Nat) | engine | attn (job : Nat) | tel (job : Nat) | merge
  /-- A multicast stream of another core (R115). -/
  | mcast (p n : Nat)
  deriving DecidableEq, Repr

/-- A slot (R87); base and length in bytes. -/
structure Slot where
  bound : Bool := false
  base : Nat := 0
  len : Nat := 0
  consume : Nat := 0
  remain : Nat := 0
  fillLen : Nat := 0
  st : SlotSt := .empty
  user : SlotUser := .none
  deriving DecidableEq, Repr

/-- Stream states (R104). -/
inductive StreamSt where
  | idle | running | halted | cancelling | faulted
  deriving DecidableEq, Repr

/-- A reply of the far side of a transfer: data of a read, done, or a fault code. -/
inductive XferReply where
  | data (bytes : Bytes) | done | err (code : Nat)
  deriving DecidableEq, Repr

/-- A formed transfer that holds a tag (R100, R101): its first element and its element count, where its near bytes lie
(core and spool address, one for each member of a multicast), its far addresses by element, the physical addresses of
those in the vault, and its reply. -/
structure Xfer where
  start : Nat
  count : Nat
  dst : List (Nat × Nat)
  far : List Nat
  pas : List Nat := []
  /-- Bytes that an OUT or OUT_ACC transfer carries. -/
  bytes : Bytes := []
  /-- Command and rank whose own copy takes an accumulation, and the physical addresses of the elements that go to it
  (09 R345). -/
  copy : Option (Nat × Nat × List Nat) := none
  /-- BEAT_COUNT at which the far side began to serve it (R113). -/
  served : Option Int := none
  reply : Option XferReply := none
  deriving DecidableEq, Repr

/-- A stream (R95 to R112). -/
structure Stream where
  st : StreamSt := .idle
  desc : List W64 := []
  pend : Option (List W64 × Nat) := none
  owner : Nat := 0
  doneCount : Nat := 0
  rearmLost : Bool := false
  fault : Nat := 0
  /-- Index of the next element to be formed into a transfer. -/
  nextElem : Nat := 0
  out : List Xfer := []
  /-- Formed transfers beyond the saved position that have completed, by first element (R105). -/
  doneBeyond : List Nat := []
  /-- First element of the transfer that met a non-resident page (R105). -/
  haltAt : Option Nat := none
  slotWait : Option Int := none
  /-- CORE_SLOT_TMO.TIMEOUT when the slot wait began. -/
  slotTmo : Nat := 0
  /-- Length of the slots of the rotation. -/
  slotLen : Nat := 0
  /-- STR.CANCEL of a FAULTED stream that still has outstanding transfers (R112). -/
  cancelAsked : Bool := false
  /-- Its wait on a slot has timed out: the transfer that waited never starts (R93). -/
  stuck : Bool := false
  deriving DecidableEq, Repr

/-- Wait kinds with what is waited on (R120 and table CORE_THREAD_t). -/
inductive Wait where
  | slotFull (n : Nat) | slotEmpty (n : Nat) | slotBoth (n m : Nat)
  | streamIdle (n : Nat) | tags (k : Nat)
  | warpTile
  | engQueue (e : Eng) | engBoth | rowsFree (r0 r1 : List Nat)
  | fence (e : Eng) | fenceBoth | vecUnit
  | remoteTag | remoteAll
  | setBar (n gen : Nat) | jobBar (n gen : Nat) | threads (mask : BitVec 8)
  | bank (n : Nat)
  | cmdBegin
  | commit
  deriving DecidableEq, Repr

/-- Thread states (R118). -/
inductive ThreadSt where
  | idle | ready | waiting (w : Wait) | faulted
  deriving DecidableEq, Repr

/-- A thread (R118, R123, R124). Register file v is keyed by 128 × register + lane. -/
structure Thread where
  st : ThreadSt := .idle
  pc : W64 := 0
  g : SMap W64 := []
  v : SMap W32 := []
  pr : SMap (BitVec 128) := []
  sat : Bool := false
  waitBeat : Int := 0
  /-- CORE_SLOT_TMO.TIMEOUT when the wait began (R92, R117). -/
  waitTmo : Nat := 0
  fault : Nat := 0
  deriving DecidableEq, Repr

/-- Weight and activation formats, with the codes of R134. -/
inductive EFmt where
  | e4m3 | e5m2 | mxfp4 | int8 | bf16
  deriving DecidableEq, Repr

/-- Where a valid plane was loaded from (R62, R311). -/
inductive PlaneSrc where
  | none | spool (off : Nat) | warp
  deriving DecidableEq, Repr

/-- A weight plane (R59): its image in the layout of R493. A BF16 tile lies in planes 0 and 1, or 2 and 3: the lower plane of
the pair holds the first front row of each cell row, and the upper one, marked `upper`, the second. -/
structure Plane where
  valid : Bool := false
  fmt : EFmt := .e4m3
  upper : Bool := false
  image : Bytes := []
  src : PlaneSrc := .none
  deriving DecidableEq, Repr

/-- States of an accumulator row (R53). -/
inductive AccSt where
  | clear | active (owner : Nat) | draining (owner : Option Nat)
  deriving DecidableEq, Repr

/-- A narrow accumulator row: its state, whether its next accumulation is the first, whether its entries are INT32,
and whether an engine fault poisoned it (R45, R53, R54, R76). -/
structure AccRow where
  st : AccSt := .clear
  fresh : Bool := true
  isInt : Bool := false
  poisoned : Bool := false
  deriving DecidableEq, Repr

/-- The column results of one activation row, waiting for its result latency: target row (narrow, or wide). -/
structure RowRes where
  row : Nat
  wide : Bool
  isInt : Bool
  thread : Nat
  /-- ACLK cycles in which the row enters (02 R42): 1, or 4 in BF16. -/
  cost : Nat
  cols : List W32
  /-- Planes whose weights the row reads (R60): the one that it selects, and the other of the pair in BF16. -/
  planes : List Nat := []
  deriving DecidableEq, Repr

/-- A fold step of a logical-tile run on one engine (R65, R66): the ACLK cycles of its front, until that is done, and the
rows that run behind it. -/
structure FoldStep where
  front : Option Nat
  rows : List RowRes
  deriving DecidableEq, Repr

/-- A drain in an engine queue (R54, R141). -/
structure Drain where
  row : Nat
  count : Nat
  wide : Bool
  ofmt : Nat
  clear : Bool
  cols : Nat
  dst : Nat
  stride : Nat
  /-- Destination row of accumulator row i: `first + step × i` (PAIR interleaves the engines). -/
  first : Nat
  step : Nat
  slot : Option (Nat × Nat)
  deriving DecidableEq, Repr

/-- An instruction in an engine queue (R69, R70). `all` of a run names every narrow row that the instruction writes, in both
engines. -/
inductive EngOp where
  /-- A front, with the ACLK cycles that it takes and the planes that it writes (R56). -/
  | front (cycles : Nat) (planes : List Nat)
  | run (results : List RowRes) (all : List (Eng × Nat))
  /-- A logical-tile run. One that names a single engine, `solo`, has a mark on the other. -/
  | fold (solo : Bool) (steps : List FoldStep) (all : List (Eng × Nat))
  | drain (d : Drain)
  deriving DecidableEq, Repr

/-- Where in an engine's queue the fronts of a logical-tile run of the other engine pass: the entries ahead of the mark, and
the planes that those fronts write (R57). -/
structure FrontMark where
  ahead : Nat
  planes : List Nat
  deriving DecidableEq, Repr

/-- One engine of a core: its queue, accumulator rows and entries, and keeper (R53, R69, R72, R73). The entry of
column c of narrow row r is keyed 128 × r + c. -/
structure Engine where
  queue : List EngOp := []
  marks : List FrontMark := []
  rows : SMap AccRow := []
  acc : SMap W32 := []
  keeper : Nat := 0
  gapFrom : Option Int := none
  deriving DecidableEq, Repr

/-- A tile image in the warp FIFO with the weight format of its pass (R58, R135). -/
structure WarpTile where
  fmt : EFmt
  passSeq : Nat
  image : Bytes
  deriving DecidableEq, Repr

/-- The partial that a piece has computed (R201, R202): its bytes but for ARRIVAL, or the code
that its reply carries. -/
inductive AttnReply where
  | part (bytes : Bytes)
  | err (code : Nat)
  deriving DecidableEq, Repr

/-- An attention fill in progress (R149, R200 to R202): record words, queries, slot, split, and the partials
still to arrive: partial `split × s + k` is piece k of stack s. -/
structure AttnJob where
  thread : Nat
  ctx : Nat
  words : List W64
  queries : Bytes
  slot : Nat
  split : Nat
  left : List Nat
  /-- Partials that their stacks have computed and that have not arrived. -/
  parts : SMap AttnReply := []
  arrived : Nat := 0
  /-- A partial has faulted: the fill never completes. -/
  failed : Bool := false
  deriving DecidableEq, Repr

/-- The answer of one stack to a TEL.CMD (R195, R196). -/
structure TelReply where
  status : Nat := 0
  word1 : W64 := 0
  word2 : W64 := 0
  /-- Output elements of GATHER and DEQUANT, with their index. -/
  elems : List (Nat × Bytes) := []
  fault : Option Nat := none
  deriving DecidableEq, Repr

/-- A TEL.CMD in progress (R190 to R196). -/
structure TelJob where
  thread : Nat
  ctx : Nat
  words : List W64
  indices : List Nat
  data : Bytes
  dst : Nat
  slot : Option Nat
  left : List Nat
  replies : SMap TelReply := []
  /-- A reply has faulted: nothing more of the operation is written, and its fill never completes. -/
  failed : Bool := false
  deriving DecidableEq, Repr

/-- The merge that occupies a vector unit (R150): its whole output, waiting for MERGE_DONE. -/
structure Merge where
  thread : Nat
  dst : Nat
  output : Bytes
  slot : Option Nat
  deriving DecidableEq, Repr

/-- Where a core stands in its command (R158, R162). -/
inductive CorePhase where
  | none | dispatched | beginning | running | committing | met | reported
  deriving DecidableEq, Repr

/-- A physical core. -/
structure Core where
  spool : Mem := []
  banksOff : BitVec 8 := 0
  /-- Banks that settle, with the beat at which each is ready (R86). -/
  settling : SMap Int := []
  slots : SMap Slot := []
  streams : SMap Stream := []
  lastStream : Nat := 31
  /-- d0 to d31, keyed by 8 × register + word. -/
  desc : SMap W64 := []
  threads : SMap Thread := []
  lastThread : Nat := 7
  stopped : Bool := false
  /-- Its command is being saved: no instruction and no transfer issues (08 R331). -/
  saving : Bool := false
  planes : SMap Plane := []
  eng0 : Engine := {}
  eng1 : Engine := {}
  fifo : List WarpTile := []
  merge : Option Merge := none
  attn : SMap AttnJob := []
  tel : SMap TelJob := []
  tagPeak : Nat := 0
  epoch : BitVec 8 := 0
  phase : CorePhase := .none
  /-- Key of the command on the core in `Sched.cmds`. -/
  cmd : Nat := 0
  strict : Bool := false
  client : Nat := 0
  ctx : Nat := 0
  vm1 : Bool := false
  /-- Delivery cursors of the warp unit, by base: pass and number of the next image of the band (R274). -/
  deliver : SMap (Nat × Nat) := []
  /-- Expert mask last read, with its pass and layer (R277). -/
  experts : Option (Nat × Nat × Nat) := none
  deriving DecidableEq, Repr

/-- Logical numbers, retired, fenced and powered-down cores (02 R39, 13 R460 to R462, 12 R435). -/
structure CoreMap where
  logical : List Nat := []
  retired : List Nat := []
  fenced : List Nat := []
  /-- Retired cores whose number waits for a spare, with the spare that takes it (R461). -/
  waiting : List (Nat × Nat) := []
  deriving DecidableEq, Repr

/-! ### Vault -/

/-- A remote operation that holds a remote tag (R151 to R153). -/
structure RmtOp where
  core : Nat
  thread : Nat
  epoch : BitVec 8
  kind : Nat
  /-- Local address at the target. -/
  addr : Nat
  localOff : Nat
  len : Nat
  got : Nat := 0
  beat : Int
  orphan : Bool := false
  /-- Its reply has come too late for the save of its command (08 R331). -/
  late : Bool := false
  deriving DecidableEq, Repr

/-- What a stack is asked to do (R187, R188): a transfer of a stream, its part of a TEL.CMD or TEL.ATTN, a request of another
device, a remote operation of the device to itself under its tag, injection on a ring port, or a recall. -/
inductive VaultWork where
  | xfer (p n start : Nat)
  | tel (p job : Nat)
  | attn (p job : Nat)
  | rmt (h : RmtHdr) (data : Bytes)
  | own (o : RmtOp) (h : RmtHdr) (data : Bytes)
  | inject (port : Nat)
  | recall (m : RecallMsg)
  deriving DecidableEq, Repr

/-- A stack: requests in arrival order, and the beat since which it has completed none (R188, R189). -/
structure Stack where
  queue : List VaultWork := []
  idleFrom : Int := 0
  refreshes : Nat := 0
  /-- NUMBER of the STACK_FAILED entry of a stack that has just failed, until the device has faulted for it (R463). -/
  failNote : Option Nat := none
  deriving DecidableEq, Repr

/-- Who holds a 64 KiB page of the vault (11 R422, 07 R297). -/
inductive Holder where
  | free | client (c : Nat) | shard (base : Nat) | staged (base : Nat) | program (h : Nat) | save (ctx : Nat)
  | weft (w : Nat) | session (n : Nat) | reduction (ctx : Nat)
  deriving DecidableEq, Repr

structure VPage where
  now : Holder := .free
  /-- The holder before `now`, and the client it worked for. -/
  last : Holder := .free
  lastClient : Option Nat := none
  deriving DecidableEq, Repr

/-- State of a 2 MiB translation page (R176). -/
inductive PageSt where
  | unmapped | hostBacked | resident (frame : Nat)
  deriving DecidableEq, Repr

/-! ### Links and loom -/

/-- Discovery on this device (R233 to R235). -/
structure Disc where
  origin : Option W64 := none
  isOrigin : Bool := false
  row : Int := 0
  col : Int := 0
  parent : Option Nat := none
  /-- Ports whose neighbour has not answered yet. -/
  waiting : List Nat := []
  children : List Nat := []
  reported : List Nat := []
  reports : List DiscReport := []
  /-- The DISCOVER command that runs, and the beat of the flood. -/
  seq : Option W64 := none
  beat : Int := 0
  twoPlaces : Bool := false
  timedOut : Bool := false
  /-- It waits for answers or reports. -/
  live : Bool := false
  /-- Result of the last discovery that this device originated. -/
  result : Option Nat := none
  deriving DecidableEq, Repr

/-- A two-phase operation at the origin (R238, R267, R300, R313). -/
structure LoomOp where
  kind : LoomOpKind
  seq : W64
  arg : Nat
  arg2 : Nat := 0
  data : Bytes := []
  replies : List (Nat × Nat × Status) := []
  /-- HOLDER of the replies that name one, by row and column (R228). -/
  holders : List ((Nat × Nat) × Nat) := []
  deriving DecidableEq, Repr

/-- A loom message or flit payload handed to the mesh by the clerks (R218, R245). -/
inductive LoomMsg where
  | prepare (op : LoomOpKind) (arg arg2 : Nat) (data : Bytes)
  | reply (op : LoomOpKind) (row col : Nat) (status : Status) (holder : Nat)
  | commit (op : LoomOpKind) (arg : Nat) (value : W64)
  | abort (op : LoomOpKind)
  | start (job beat : Nat)
  | stop (job : Nat) (status : Status)
  | arrive (port : Nat) (key : BarKey) (flags : BitVec 8) (gen : W64)
  | release (port : Nat) (key : BarKey) (flags : BitVec 8) (gen : W64)
  | flood (port : Nat) (f : Flood)
  | answer (port : Nat) (serial : W64) (accept : Bool)
  | report (port : Nat) (serial : W64) (reports : List DiscReport)
  | hello (port : Nat) (h : Hello)
  | fault (port : Nat) (loc : Option (Nat × Nat))
  | pass (m : PassMsg)
  /-- To the device at (row, col). -/
  | rmtReq (row col : Nat) (h : RmtHdr) (data : Bytes)
  | rmtRsp (h : RmtHdr) (data : Bytes)
  | recall (m : RecallMsg) (homePos : Nat)
  | recallData (m : RecallMsg) (part : Nat) (data : Bytes)
  | recallRefused (m : RecallMsg) (reason : Nat)
  | migrate (row col : Nat) (m : MigMsg)
  | beat (port : Nat) (value : Nat)
  | spare (port lane : Nat)
  deriving DecidableEq, Repr

/-- A flit to be sent: TYPE, VC, ROUTE and payload (R216). Where `msg` is given, the flit carries a message whose bytes the
spec does not lay out. -/
structure OutFlit where
  type : Nat
  vc : Nat
  route : BitVec 27
  payload : Bytes
  msg : Option LoomMsg := none
  /-- Bundles of the express path that it takes (R246); 0 where it takes none. -/
  mask : BitVec 8 := 0
  /-- Slots that it has waited on each bundle (R229). -/
  waits : SMap Nat := []
  deriving DecidableEq, Repr

/-- A flit in a replay buffer (R220, R221). -/
structure SentFlit where
  seq : Nat
  flit : OutFlit
  beat : Int
  replays : Nat := 0
  deriving DecidableEq, Repr

structure Bundle where
  nextSeq : Nat := 0
  expected : Nat := 0
  unacked : List SentFlit := []
  /-- Flits of `unacked`, the newest ones, that a replay has still to send again. -/
  resend : Nat := 0
  credits : SMap Nat := []
  /-- Credits to return, by VC. -/
  owed : SMap Nat := []
  nak : Bool := false
  /-- Discarding until the expected flit arrives (R220). -/
  discarding : Bool := false
  retrainFrom : Option Int := none
  /-- Codewords received, and the lane of each symbol corrected in the last 2^20 of them (R224). -/
  words : Nat := 0
  fixes : List (Nat × Nat) := []
  /-- The 256 bytes of the last flit that the bundle has sent, or as a pass bundle forwarded. -/
  wire : Bytes := []
  deriving DecidableEq, Repr

structure Port where
  txq : List OutFlit := []
  /-- Slots waited, by bundle and VC (R230). -/
  waited : SMap Nat := []
  /-- Flits sent since the last idle flit (R215). -/
  sinceIdle : Nat := 0
  failedLanes : List Nat := []
  /-- Whether a HELLO has been heard since the port last began to train (R231). -/
  heard : Bool := false
  /-- Training retries since P5 ended (12 R428). -/
  tries : Nat := 0
  deriving DecidableEq, Repr

/-- A barrier of the loom on this device (R247 to R250). -/
structure LoomBar where
  gen : W64 := 0
  /-- Cores that have arrived in this generation, for a JOB barrier. -/
  cores : List Nat := []
  localDone : Bool := false
  children : List Nat := []
  sentUp : Bool := false
  flags : BitVec 8 := 0
  firstBeat : Option Int := none
  /-- Generation in which each core last arrived (R154, R155). -/
  arrived : SMap (Option W64) := []
  deriving DecidableEq, Repr

/-- What THREAD_LOOM prepare computes for this device (R236 to R238). -/
structure ThreadPrep where
  nr : Nat
  nc : Nat
  row : Nat
  col : Nat
  paths : List ExpressPath
  deriving DecidableEq, Repr

/-- Threading and the beat on this device. -/
structure Loom where
  disc : Disc := {}
  nr : Nat := 0
  nc : Nat := 0
  row : Nat := 0
  col : Nat := 0
  pos : Nat := 0
  aOut : Nat := 0
  bOut : Nat := 0
  isOrigin : Bool := false
  /-- Device count and position at the last commit (R466). -/
  lastN : Nat := 0
  lastPos : Nat := 0
  /-- Prepared, not committed: what an abort restores (R238). -/
  undo : Option (List (Nat × W64)) := none
  prep : Option ThreadPrep := none
  upAtCommit : List Nat := []
  express : List ExpressPath := []
  /-- Operations of this origin, oldest first; the first one runs (log 23). -/
  ops : List LoomOp := []
  stepBars : SMap LoomBar := []
  /-- Keyed by 16 × job + barrier. -/
  jobBars : SMap LoomBar := []
  barJobs : List Nat := []
  delay : Option Nat := none
  exchanges : Nat := 0
  frac : Nat := 0
  starts : List (Nat × Nat) := []
  out : List LoomMsg := []
  deriving DecidableEq, Repr

/-! ### Warp -/

/-- A pass entry of a draft (R266). -/
structure DraftEntry where
  base : Nat
  transposed : Bool
  plan : Nat
  first : Nat
  count : Nat
  slack : Nat
  deriving DecidableEq, Repr

structure Draft where
  id : W64
  entries : List DraftEntry
  deriving DecidableEq, Repr

/-- Pass states (07 table WARP_PASS_INFO). -/
inductive PassSt where
  | scheduled | open_ | closing | closed | failed
  deriving DecidableEq, Repr

/-- A recalled index with the last beat of its budget (R281). -/
structure Recall where
  index : Nat
  until_ : Int
  deriving DecidableEq, Repr

/-- A pass on this device (R269 to R286). `flits` holds each counted index: its stream bytes when usable. -/
structure Pass where
  msg : PassMsg
  ent : DraftEntry
  total : Nat
  expected : Nat
  st : PassSt := .scheduled
  flits : SMap (Option Bytes) := []
  counted : Nat := 0
  lastBeat : Int := 0
  recalls : List Recall := []
  recalled : Bool := false
  injA : Nat := 0
  injB : Nat := 0
  deriving DecidableEq, Repr

/-- An entry of a package's matrix table (R289). -/
structure Matrix where
  k : Nat
  c : Nat
  expert : Option Nat
  deriving DecidableEq, Repr

/-- A shard held in the vault (R290, R293). -/
structure Shard where
  kind : Nat
  layer : Nat
  first : Nat
  addr : Nat
  len : Nat
  deriving DecidableEq, Repr

/-- What a package gives a base (R288). -/
structure Model where
  modelId : Bytes
  version : W64
  anchor : Bytes
  fmt : Nat
  flags : Nat
  layers : Nat
  matrices : List Matrix
  shards : List Shard
  deriving DecidableEq, Repr

/-- States of a base (07 table WARP_BASE_n). -/
inductive BaseSt where
  | absent | loading | loaded | staged | replacing
  deriving DecidableEq, Repr

structure Base where
  st : BaseSt := .absent
  model : Option Model := none
  staged : Option Model := none
  /-- A committed replacement: first step and mode (R300 to R302). -/
  repl : Option (W64 × Nat) := none
  use : Nat := 0
  step : W64 := 0
  /-- Step in progress: begun on this device; its first pass has opened, and which; over on this device; skipped; late (R23,
  R25, R284, R285). -/
  begun : Bool := false
  passed : Bool := false
  firstPass : Nat := 0
  finished : Bool := false
  skip : Option (Nat × Nat × Nat) := none
  late : Bool := false
  passesLeft : Nat := 0
  /-- Beat at which the running step began (R25). -/
  beganAt : Nat := 0
  /-- Steps that have begun since the oldest running command was accepted, with their beats (R304). -/
  begins : List (W64 × Nat) := []
  mix : W64 × W64 × Nat := (0, 0, 0)
  /-- Newest step whose first pass the origin has scheduled (R270, R300). -/
  planned : Option W64 := none
  /-- MODEL_ID of the base whose steps `step` counts (R21). -/
  counts : Option Bytes := none
  deriving DecidableEq, Repr

/-- A staged replacement of a weft (R304): the step from which it is used, its frames, version, plaintext length and the
command that waits for it. -/
structure WeftStage where
  start : W64
  frames : List Nat
  /-- Where the clerks place it in the window. -/
  progAddr : Nat
  version : W64
  anchor : Bytes
  total : Nat
  seq : W64
  deriving DecidableEq, Repr

/-- A loaded weft (R294, R298, R304). -/
structure Weft where
  client : Nat
  base : Nat
  modelId : Bytes
  version : W64
  anchor : Bytes
  total : Nat
  /-- Its 2 MiB pages: a frame, or none while host-backed. -/
  pages : List (Option Nat)
  progAddr : Nat
  use : Nat := 0
  staged : Option WeftStage := none
  /-- Frames of the contents in use before the step at which a replacement took effect, and its command (R304). -/
  old : Option (List Nat × W64) := none
  deriving DecidableEq, Repr

structure Warp where
  draft : Option Draft := none
  waiting : Option Draft := none
  prepared : Option Draft := none
  /-- Next entry of the draft that the origin schedules, and its PASS_SEQ. -/
  nextEntry : Nat := 0
  nextSeq : Nat := 0
  /-- Beat from which the next halving of the use counts is timed (R296). -/
  halvedAt : Int := 0
  lastStart : Nat := 0
  lastFlits : Nat := 0
  /-- Beat at which the barrier of the last step of each base completed at the origin (R270). -/
  barBeat : SMap Int := []
  bases : SMap Base := []
  passes : List Pass := []
  wefts : SMap (Option Weft) := []
  deriving DecidableEq, Repr

/-! ### Contexts, sessions, ledger -/

/-- A loaded program (R171, R308). -/
structure Program where
  sha : BitVec 512
  vm1 : Bool
  codeSize : Nat
  codeAddr : Nat
  entries : List Nat
  refCores : Nat
  split : Nat
  pins : List (Nat × Nat × Nat)
  deriving DecidableEq, Repr

structure Partition where
  first : Nat
  count : Nat
  serving : Bool
  /-- Context whose turn it is and the beat at which its turn began (R324). -/
  turn : Option (Nat × Int) := none
  deriving DecidableEq, Repr

/-- A region entry in use (R157). -/
structure RegionEnt where
  index : Nat
  append : Bool
  zero : Bool
  base : Nat
  length : Nat
  pub : Nat
  deriving DecidableEq, Repr

inductive CmdPhase where
  | running | folding | committing
  deriving DecidableEq, Repr

/-- A SET barrier of a command (R154, R155). -/
structure SetBar where
  gen : Nat := 0
  cores : List Nat := []
  arrived : SMap (Option Nat) := []
  deriving DecidableEq, Repr

/-- The own copy of a core's reduction regions (09 R345): bytes by physical vault address, and the accumulation
types seen in each 256-byte unit. -/
structure RedCopy where
  mem : Mem := []
  units : SMap (List Nat) := []
  deriving DecidableEq, Repr

/-- Which step a serving command belongs to (R319). -/
structure ServingPos where
  base : Nat
  step : W64
  stage : Nat
  place : Nat
  deriving DecidableEq, Repr

/-- A command on its core set (R157 to R168, R315 to R318). -/
structure RunCmd where
  ctx : Nat
  seq : W64
  first : Nat
  count : Nat
  entry : Nat
  args : List W64
  regions : List RegionEnt
  fence : Bool := false
  last : Bool := false
  serving : Option ServingPos := none
  cl : SMap Nat := []
  strict : Option Bool := none
  side : Bool := false
  phase : CmdPhase := .running
  bars : SMap SetBar := []
  /-- Publish values: rank, entry, value (R161). -/
  pubs : List (Nat × Nat × W64) := []
  copies : SMap RedCopy := []
  /-- First fault: beat, logical core, code (R167). -/
  faulted : Option (Nat × Nat × Nat) := none
  /-- Status with which a commanded abort ends it (R164). -/
  ending : Option Status := none
  beat : Nat := 0
  /-- Engine cycles, vault bytes of the attempt (R336). -/
  cycles : Nat := 0
  vbytes : Nat := 0
  deriving DecidableEq, Repr

inductive CtxSt where
  | free | created | launched | preempted | faulted
  deriving DecidableEq, Repr

/-- A saved command (R331): the command and the saved state of its cores, in rank order. -/
structure SavedCmd where
  cmd : RunCmd
  cores : List Core
  deriving DecidableEq, Repr

/-- A save in progress (R331): key of the command and b_s. -/
structure Saving where
  cmd : Nat
  bs : Nat
  deriving DecidableEq, Repr

structure Context where
  st : CtxSt := .free
  client : Nat := 0
  job : Nat := 0
  part : Nat := 0
  serving : Bool := false
  base : Nat := 0
  program : Nat := 0
  vm1 : Bool := false
  quota : Nat := 0
  pages : SMap PageSt := []
  saveFrames : List Nat := []
  redFrames : List Nat := []
  /-- Command list or step plan. -/
  plan : Bytes := []
  /-- Next record or template, repetition, and the last SEQ dispatched. -/
  recIdx : Nat := 0
  rep : Nat := 0
  prevSeq : Option W64 := none
  lastSeq : W64 := 0
  /-- SEQ of the last record committed since LAUNCH, and how the job's final command ended (R314). -/
  jobSeq : W64 := 0
  final : Option Status := none
  /-- Serving: stage and place of the next command of the running step, with its step table written. -/
  stage : Nat := 0
  place : Nat := 0
  stepReady : Bool := false
  stepDone : Bool := false
  /-- A command of the running step has ended without a commit: the step's sessions lack their output (01 R23). -/
  noOutput : Bool := false
  /-- Sessions and rows of the running step table, in row order: session, kind, position. -/
  rows : List (Nat × Nat × Nat × W32) := []
  prefillMax : Nat := 0
  resident : Bool := false
  waitOrder : Nat := 0
  /-- The lattice of its base: W, S, and its logical cores in order (01 R29, 09 R353). -/
  latW : Nat := 0
  latS : Nat := 0
  lat : List Nat := []
  split : Nat := 1
  exact : Bool := false
  pinned : Bool := false
  startBeat : Option Nat := none
  /-- OUTPUT regions that committed commands have published: length by base address (07 R304). -/
  outs : SMap Nat := []
  rerun : List RunCmd := []
  saved : List SavedCmd := []
  saving : List Saving := []
  /-- A swap of the context that has begun and not ended (R328). -/
  swapping : Bool := false
  /-- PREEMPT commands that wait for the context, and whether a save of it fell back to a kill (R331). -/
  preempts : List W64 := []
  degraded : Bool := false
  deriving DecidableEq, Repr

/-- Bytes that are unspecified to every reader but one command (R165): the command, by context and SEQ; the program address
of the publish word that ends it; and the range. -/
structure Unpublished where
  ctx : Nat
  seq : W64
  pub : Nat
  base : Nat
  length : Nat
  deriving DecidableEq, Repr

structure Sched where
  programs : SMap (Option Program) := []
  parts : SMap (Option Partition) := []
  ctxs : SMap Context := []
  cmds : SMap (Option RunCmd) := []
  nextCmd : Nat := 0
  waitNo : Nat := 0
  /-- Contexts prepared for a LAUNCH (R313). -/
  prepared : List Nat := []
  unpub : List Unpublished := []
  deriving DecidableEq, Repr

/-- A queued prompt token with its acceptance beat and whether it ends a LAST prompt (R25, R392). -/
structure PromptTok where
  tok : W32
  last : Bool
  beat : Nat
  order : Nat
  /-- False while its token has still to be read from the host. -/
  here : Bool := true
  deriving DecidableEq, Repr

structure Session where
  client : Nat
  base : Nat
  weft : Option Nat
  ring : Nat
  maxCtx : Nat
  seed : W64
  params : Bytes
  paramsAddr : Nat
  group : Nat
  committed : Nat := 0
  history : List W32 := []
  lastTok : W32 := 0
  prompt : List PromptTok := []
  promptOpen : Bool := true
  firstAfter : Bool := false
  /-- Physical addresses of its KV pages: layer-major, then head group, then page. -/
  pages : List Nat
  dir : Nat
  /-- Its 2 MiB frames, mapped from `dir` on. -/
  frames : List Nat := []
  ended : Bool := false
  /-- Beat at which CLOSE_SESSION was accepted and its SEQ. -/
  closing : Option (Nat × W64) := none
  /-- SEQ, row and column of a MIGRATE_SESSION. -/
  migrating : Option (W64 × Nat × Nat) := none
  /-- Beat of that command's acceptance, and the step at whose commit the migration was taken. -/
  migBeat : Nat := 0
  left_ : Option W64 := none
  joinStep : W64 := 0
  /-- Takes part in the running step. -/
  inStep : Bool := false
  deriving DecidableEq, Repr

/-- The ten counters of an account in table order (08 R335), and the energy remainders of R337. -/
structure Account where
  counters : SMap Nat := []
  /-- Microjoules charged and not yet a whole millijoule, and the fraction of one that is carried, as a quotient. -/
  uj : Nat := 0
  frac : Nat × Nat := (0, 1)
  /-- Increments of the counters since the energy interval began. -/
  inc : SMap Nat := []
  deriving DecidableEq, Repr

/-- A step record (R339). -/
structure StepRec where
  base : Nat
  flags : Nat
  sessions : Nat
  step : W64
  beat : Nat
  oldVersion : W64
  newVersion : W64
  split : Nat
  client : Nat
  tokens : Nat
  draftId : W64
  passSeq : Nat
  deriving DecidableEq, Repr

structure Ledger where
  /-- Client accounts by id; the shared account is 0xFFFF. -/
  accounts : SMap (Option Account) := [(0xFFFF, some {})]
  held : List StepRec := []
  /-- Beat at which the energy interval began, and the ACLK point then in force (12 R442). -/
  intervalFrom : Int := 0
  point : Nat := 2
  /-- Microjoules measured and not yet a whole millijoule of LEDG_ENERGY. -/
  uj : Nat := 0
  deriving DecidableEq, Repr

/-! ### Ethernet and Genot -/

/-- Kinds of NAK that the device sends (R372). -/
inductive NakKind where
  | remoteAccess | invalidRequest
  deriving DecidableEq, Repr

/-- What a frame of the device carries (R363 to R372): a packet of a SEND or of an RDMA WRITE, with the address at which its bytes
go, an RDMA READ request, an acknowledgement, a NAK, a CNP (BTH opcode 0x81), a reply for an own address, or a pause frame. -/
inductive SentBody where
  | send (last : Bool) (bytes : Bytes)
  | write (addr : W64) (rkey : W32) (bytes : Bytes)
  | read (addr : W64) (rkey : W32) (length : Nat)
  | ack
  | nak (kind : NakKind)
  | cnp
  | arp
  | neighbour
  | echo
  | pause (cls : Nat) (off : Bool)
  deriving DecidableEq, Repr

/-- A frame that the device sends (R364 to R366, R371): its addresses, VLAN id, priority and DSCP, none where the rules give none,
whether it is marked ECT(0), and for RoCEv2 its UDP source port, the host's QPN and its PSN. -/
structure SentFrame where
  dstMac : BitVec 48
  srcMac : BitVec 48
  dstIp : Option IpAddr
  srcIp : Option IpAddr
  vlan : Option Nat := none
  prio : Option Nat := none
  dscp : Option Nat := none
  ect0 : Bool := false
  udpSrc : Nat := 0
  qpn : Nat := 0
  psn : Nat := 0
  body : SentBody
  deriving DecidableEq, Repr

/-- Part of a message that arrives on the command queue pair: its sender, the PSN of its first packet and of the next, and its bytes
so far (R368). -/
structure PartMsg where
  src : BitVec 128
  first : Nat
  next : Nat
  bytes : Bytes
  deriving DecidableEq, Repr

/-- Timers of a queue pair (10 R369, R370, R375), and its requests that wait for an acknowledgement, oldest first. -/
structure Qp where
  lastCnp : Option Int := none
  lastCut : Option Int := none
  lastRaise : Option Int := none
  cnpSent : Option Int := none
  retries : Nat := 0
  /-- Beat from which the oldest unacknowledged request is timed. -/
  sentAt : Option Int := none
  unacked : List SentFrame := []
  deriving DecidableEq, Repr

/-- A completion (R377, R385). -/
structure Completion where
  code : Nat
  seq : W64
  status : Status
  phase : Nat := 0
  detail : Nat := 0
  loc : Option (Nat × Nat) := none
  holder : Nat := 0
  value : W64 := 0
  acceptBeat : Nat
  beat : Nat
  data : Bytes := []
  deriving DecidableEq, Repr

/-- Bytes that a command writes into its region, the VALUE of its completion, and the PSN of their last packet once they are sent. -/
structure HostPut where
  region : Region
  bytes : Bytes
  value : W64
  psn : Option Nat := none
  deriving DecidableEq, Repr

/-- A command that runs (R380, R382). `args` are the fields its later events need. -/
structure Running where
  seq : W64
  code : Nat
  acceptBeat : Nat
  acked : Bool := false
  args : List Nat := []
  region : Option Region := none
  /-- RDMA READ requests that its region has taken so far, and the bytes that have arrived (R372). -/
  asked : Nat := 0
  got : Bytes := []
  /-- What it writes into host memory (R375). -/
  put : Option HostPut := none
  /-- Ledger account of its Ethernet bytes (08 R335). -/
  acct : Nat := 0xFFFF
  /-- Bytes of its message. -/
  rx : Nat := 0
  /-- Sessions (1), bases (2), wefts (3) and contexts (4) that it names (R382). -/
  names : List (Nat × Nat) := []
  /-- Accepted by a frame and not yet started by its row. -/
  fresh : Bool := false
  /-- Not started because a running command maps a page that it would change (05 R177). -/
  waits : Bool := false
  /-- Body of the message that brought it. -/
  body : Bytes := []
  deriving DecidableEq, Repr

/-- An event (R395). -/
structure Event where
  code : Nat
  seq : Nat
  beat : Nat
  id : Nat
  value : W64
  data : Bytes
  loc : Option (Nat × Nat) := none
  deriving DecidableEq, Repr

/-- A token record (R399). -/
structure TokenRec where
  client : Nat
  session : Nat
  position : Nat
  token : W32
  base : Nat
  flags : Nat
  step : W64
  deriving DecidableEq, Repr

/-- A message on the command queue pair: an acknowledgement or a completion (R377). -/
inductive CmdMsg where
  | ack (code : Nat) (seq : W64) (beat : Nat)
  | done (c : Completion)
  deriving DecidableEq, Repr

structure Eth where
  qps : SMap Qp := []
  /-- The device's address to which the attached host sends. -/
  devAddr : Option IpAddr := none
  /-- Classes for which a received pause is in force (R367). -/
  paused : BitVec 8 := 0
  /-- The message that arrives on the command queue pair in PSN order, and one that arrives outside that order, which may be an
  attach message (R373). -/
  msgIn : Option PartMsg := none
  joining : Option PartMsg := none
  /-- Bytes in the receive buffer of each class, and the classes for which XOFF is in force (R367). -/
  rxHeld : SMap Nat := []
  xoff : BitVec 8 := 0
  /-- Frames sent, oldest first. -/
  frames : List SentFrame := []
  /-- Outcomes held for duplicates, newest first: SEQ and its completion when it has one (R381). -/
  outcomes : List (W64 × Option Completion) := []
  highest : W64 := 0
  running : List Running := []
  /-- Messages sent on the command queue pair, oldest first; and those that the host has not acknowledged, or that wait for
  an attach (R374, R375). -/
  sent : List CmdMsg := []
  undelivered : List CmdMsg := []
  /-- Messages that wait because their class is paused (R367). -/
  waiting : List CmdMsg := []
  /-- Events held; those sent; and of those the last ones, which the host has not acknowledged (R375, R395). -/
  events : List Event := []
  delivered : List Event := []
  evtSent : List Event := []
  nextEvent : Nat := 1
  tokens : SMap (List TokenRec) := []
  /-- Rings that have reached 131,072 held records and not yet rejoined (R401). -/
  fullRings : List Nat := []
  consumed : SMap Nat := []
  consBeat : SMap Int := []
  /-- Records posted to host rings: ring, index, record. -/
  posted : List (Nat × Nat × TokenRec) := []
  postedSteps : List (Nat × Bytes) := []
  /-- Bytes written into host regions by commands: address and bytes. -/
  wrote : List (W64 × Bytes) := []
  /-- Beat until which a class raises no further ERROR_LOGGED (R455). -/
  errWindow : SMap Int := []
  anegFrom : Option Int := none
  /-- Tokens accepted so far, for acceptance order (R323). -/
  order : Nat := 0
  deriving DecidableEq, Repr

/-! ### Strongbox, flash, trace, clerks, claims, system -/

/-- State of a publisher slot (11 R410). -/
inductive AnchorSt where
  | empty | enrolled | revoked
  deriving DecidableEq, Repr

structure AnchorSlot where
  st : AnchorSt := .empty
  count : Nat := 0
  key : Bytes := []
  deriving DecidableEq, Repr

/-- An enrolment, with its key, or a revocation, with its AUTH (11 R411). -/
structure AnchorChange where
  seq : W64
  slot : Nat
  key : Option Bytes
  auth : Bytes
  deriving DecidableEq, Repr

/-- A flash operation, carried out one at a time in the order in which it arose (11 R413, 12 R443, R444). -/
inductive FlashOp where
  | enrol (seq : W64) (slot : Nat) (key : Bytes)
  | revoke (seq : W64) (slot : Nat)
  | calWrite (seq : W64) (image : Bytes)
  | retire (p : Nat)
  deriving DecidableEq, Repr

structure Sec where
  minted : Bool := true
  enrolCount : Nat := 0
  slots : SMap AnchorSlot := []
  /-- ATTEST commands in acceptance order: SEQ, nonce; the first one runs (R409). -/
  quotes : List (W64 × Bytes) := []
  keysInUse : List W64 := []
  /-- Verifications that wait for a key (R417). -/
  keyWait : List W64 := []
  /-- Enrolments and revocations that wait to run (R412). -/
  changes : List AnchorChange := []
  /-- Flash writes, the first in progress. -/
  flash : List FlashOp := []
  /-- A freeze has kept the flash writes that wait from starting (12 R445). -/
  flashStopped : Bool := false
  deriving DecidableEq, Repr

/-- The calibration set (12 R441, R442): the stored set, which is the factory's until the device has written one, and what P2
took from it: the voltages of each ACLK point in mV, VDD_CORE and VDD_SRAM, and the energy weights of each. -/
structure Cal where
  own : Bool := false
  image : Mem := []
  /-- Power was lost during a write (R443): its bytes are then free values, from this number on. -/
  broken : Option Nat := none
  volts : List (Nat × Nat) := []
  weights : List (List W32) := []
  deriving DecidableEq, Repr

structure Clerk where
  /-- Tasks with a BEGIN record and no END record (R457). -/
  open_ : Nat := 0
  restarts : List Int := []
  deriving DecidableEq, Repr

/-- A claim (13 R470). -/
structure Claim where
  id : Nat
  kind : Nat
  function : Nat
  index : Nat
  deriving DecidableEq, Repr

/-- An action of the power controller that recovery undoes (12 R436, R437). -/
inductive PowerAct where
  | issue | aclk
  deriving DecidableEq, Repr

/-- An ACLK transition in progress (12 R432): target point, and whether the frequency rises, so that the ramp comes before the
pause. -/
structure Trans where
  point : Nat
  rising : Bool
  /-- VDD_CORE has reached the voltage of the new point. -/
  ramped : Bool := false
  deriving DecidableEq, Repr

/-- A ramp of the voltage targets (12 R432, 14 R480). -/
structure VidRamp where
  core0 : Nat
  sram0 : Nat
  core : Nat
  sram : Nat
  start : Int
  deriving DecidableEq, Repr

structure Sys where
  rails : Bool := true
  pwrGood : Bool := true
  resetN : Bool := true
  freezeN : Bool := true
  thermTripN : Bool := true
  freezeAsked : Bool := false
  loomOrigin : Bool := false
  boardPos : BitVec 4 := 0
  tclk : Bool := false
  bringupHeld : Bool := false
  vddIoOk : Bool := true
  coreVid : Nat := 60
  sramVid : Nat := 70
  trans : Option Trans := none
  /-- SET_CLOCK_PLAN commands that complete with the transition. -/
  clockCmds : List W64 := []
  powerActs : List PowerAct := []
  underFrom : Option Int := none
  rampEnd : Option Int := none
  /-- VID codes under way: the codes of VDD_CORE and VDD_SRAM from which they go and to which, and the beat of their start (14 R480). -/
  vidRamp : Option VidRamp := none
  dieTemps : SMap Nat := []
  warned : Bool := false
  gpioOut : BitVec 8 := 0
  tapIr : Nat := 0x01
  tapDr : W64 := 0
  tapData : Bytes := []
  /-- A freeze before P4 ended has left the vault's contents unspecified (12 R445). -/
  vaultLost : Bool := false
  retryBeat : Option Int := none
  deriving DecidableEq, Repr

/-- The whole device. -/
structure State where
  /-- Commands that wait, first in first out. -/
  pending : List Instr := []
  /-- The model's own counter of free values (log 2). -/
  freeCtr : Nat := 0
  /-- Register words by offset from 0x300_0000_0000; an unlisted word holds its reset value. -/
  regs : SMap W64 := []
  sys : Sys := {}
  cores : SMap Core := []
  cmap : CoreMap := {}
  vault : Mem := []
  vpages : SMap VPage := []
  vstacks : SMap Stack := []
  /-- Wrong symbols that the dies deliver for vault lines, as the last command that brings any has set them (log 128). -/
  lineErrs : List LineErr := []
  /-- Requests, each with its stack, that wait until a host-backed page that they read is resident (log 28). -/
  parked : List (Nat × VaultWork) := []
  ports : SMap Port := []
  bundles : SMap Bundle := []
  loom : Loom := {}
  rmt : SMap (Option RmtOp) := []
  /-- Bytes applied so far of a PUT or ACC of another device, by issuer and tag (06 R244). -/
  rmtIn : SMap Nat := []
  warp : Warp := {}
  sched : Sched := {}
  sessions : SMap (Option Session) := []
  ledger : Ledger := {}
  eth : Eth := {}
  sec : Sec := {}
  cal : Cal := {}
  trace : Mem := []
  /-- Records that a triggered partition in mode POST still takes (12 R451). -/
  traceLeft : SMap Nat := []
  clerkSram : Mem := []
  clerks : SMap Clerk := []
  claims : List Claim := []
  nextClaim : Nat := 1
  deriving DecidableEq, Repr

/-- The machine right after it has left OFF (12 R425): BRINGUP at phase P0, every register at its reset value, every
table empty, the vault unwritten, the strongbox as shipped. -/
def State.reset : State := {}

end Sys2Proof.Machine
end

