-- ==== Sys2Proof/Machine/Regs.lean ====
section
/-!
DEFINITION. The register map of the device, from the register tables of spec/ (00 R5 to R10, 03 R117, 05 R211,
06 R257, 07 R305, 08 R340, 10 R402, 11 R424, 12 R452, 13 R473): for each register its offset from 0x300_0000_0000, and
for each of its fields the place, the access code and the reset value. A field whose table gives no number at reset
(Fused, Straps, Computed at P2 or P3, Set, Strongbox) has 0 here (logs 3 to 6). `Fld` names one field, for reading and
writing it. Registers that are views of other state keep only their writable fields here.
-/
namespace Sys2Proof.Machine

/-- Access codes of R10. -/
inductive Access where
  | ro | rw | rw1c | rwl | ros | rw1cs
  deriving DecidableEq, Repr

/-- One field of a register table: lowest bit, width, access, reset value. -/
structure FieldSpec where
  lo : Nat
  width : Nat
  access : Access
  reset : Nat
  deriving DecidableEq, Repr

/-- The registers of one table: first offset, two strides with their counts, and the fields. -/
structure RegSpec where
  first : Nat
  stride : Nat
  count : Nat
  stride2 : Nat
  count2 : Nat
  fields : List FieldSpec
  deriving DecidableEq, Repr

/-- One field of one register: the register's offset, the field's lowest bit and width. -/
structure Fld where
  off : Nat
  lo : Nat
  width : Nat
  deriving DecidableEq, Repr

/-! ### Offsets -/

def Reg.devId : Nat := 0x0
def Reg.devSerial : Nat := 0x8
def Reg.devGrade : Nat := 0x10
def Reg.devState : Nat := 0x18
def Reg.devMode : Nat := 0x20
def Reg.clkStatus : Nat := 0x10000
def Reg.clkPlan : Nat := 0x10008
def Reg.clkCount : Nat := 0x10010
def Reg.pwrStatus : Nat := 0x20000
def Reg.pwrCap : Nat := 0x20008
def Reg.pwrCtrl : Nat := 0x20010
def Reg.pwrTherm : Nat := 0x20018
def Reg.pwrCores : Nat := 0x20020
def Reg.pwrEntry (i : Nat) : Nat := 0x20100 + 0x8 * i
def Reg.beatCount : Nat := 0x30000
def Reg.beatStatus : Nat := 0x30008
def Reg.beatCtrl : Nat := 0x30010
def Reg.beatBarTmo : Nat := 0x30018
def Reg.beatStart : Nat := 0x30020
def Reg.beatAdjust : Nat := 0x30028
def Reg.lnkPortStatus (i : Nat) : Nat := 0x40000 + 0x1000 * i
def Reg.lnkPeer (i : Nat) : Nat := 0x40008 + 0x1000 * i
def Reg.lnkPeerSerial (i : Nat) : Nat := 0x40010 + 0x1000 * i
def Reg.lnkCtrl (i : Nat) : Nat := 0x40018 + 0x1000 * i
def Reg.lnkSpare (i : Nat) : Nat := 0x40020 + 0x1000 * i
def Reg.lnkFecCorr (i : Nat) : Nat := 0x40028 + 0x1000 * i
def Reg.lnkFecUncorr (i : Nat) : Nat := 0x40030 + 0x1000 * i
def Reg.lnkCrcErr (i : Nat) : Nat := 0x40038 + 0x1000 * i
def Reg.lnkReplay (i : Nat) : Nat := 0x40040 + 0x1000 * i
def Reg.lnkRetrain (i : Nat) : Nat := 0x40048 + 0x1000 * i
def Reg.lnkProtoErr (i : Nat) : Nat := 0x40050 + 0x1000 * i
def Reg.lnkTxFlits (i : Nat) : Nat := 0x40058 + 0x1000 * i
def Reg.lnkRxFlits (i : Nat) : Nat := 0x40060 + 0x1000 * i
def Reg.lnkBundle (i : Nat) (j : Nat) : Nat := 0x40100 + 0x1000 * i + 0x8 * j
def Reg.lnkCoord : Nat := 0x48000
def Reg.lnkDisc : Nat := 0x48008
def Reg.lnkOriginSerial : Nat := 0x48010
def Reg.xptPort (i : Nat) : Nat := 0x50000 + 0x8 * i
def Reg.xptHolder : Nat := 0x50020
def Reg.vltStatus (i : Nat) : Nat := 0x60000 + 0x1000 * i
def Reg.vltCtrl (i : Nat) : Nat := 0x60008 + 0x1000 * i
def Reg.vltCe (i : Nat) : Nat := 0x60010 + 0x1000 * i
def Reg.vltUe (i : Nat) : Nat := 0x60018 + 0x1000 * i
def Reg.vltErrAddr (i : Nat) : Nat := 0x60020 + 0x1000 * i
def Reg.vltErrBeat (i : Nat) : Nat := 0x60028 + 0x1000 * i
def Reg.vltScrubPos (i : Nat) : Nat := 0x60030 + 0x1000 * i
def Reg.vltScrubDone (i : Nat) : Nat := 0x60038 + 0x1000 * i
def Reg.vltRdBytes (i : Nat) : Nat := 0x60040 + 0x1000 * i
def Reg.vltWrBytes (i : Nat) : Nat := 0x60048 + 0x1000 * i
def Reg.vltInner (i : Nat) (j : Nat) : Nat := 0x60100 + 0x1000 * i + 0x8 * j
def Reg.ethStatus : Nat := 0x70000
def Reg.ethMac : Nat := 0x70008
def Reg.ethCfg : Nat := 0x70010
def Reg.ethIp4 : Nat := 0x70018
def Reg.ethIp6Hi : Nat := 0x70020
def Reg.ethIp6Lo : Nat := 0x70028
def Reg.ethCc : Nat := 0x70030
def Reg.ethXport : Nat := 0x70038
def Reg.ethAttach : Nat := 0x70040
def Reg.ethHostIpHi : Nat := 0x70048
def Reg.ethHostIpLo : Nat := 0x70050
def Reg.ethHostMac : Nat := 0x70058
def Reg.ethRxFrames : Nat := 0x70100
def Reg.ethTxFrames : Nat := 0x70108
def Reg.ethRxDrop : Nat := 0x70110
def Reg.ethFecCorr : Nat := 0x70118
def Reg.ethFecUncorr : Nat := 0x70120
def Reg.ethIcrcErr : Nat := 0x70128
def Reg.ethCnpRx : Nat := 0x70130
def Reg.ethCnpTx : Nat := 0x70138
def Reg.ethPfcRx : Nat := 0x70140
def Reg.ethRetry : Nat := 0x70148
def Reg.ethEvtDropped : Nat := 0x70150
def Reg.ethAttachRefused : Nat := 0x70158
def Reg.ethQp (i : Nat) : Nat := 0x71000 + 0x10 * i
def Reg.ethQpPsn (i : Nat) : Nat := 0x71008 + 0x10 * i
def Reg.ethRingAddr (i : Nat) : Nat := 0x75000 + 0x20 * i
def Reg.ethRingCfg (i : Nat) : Nat := 0x75008 + 0x20 * i
def Reg.ethRingCons (i : Nat) : Nat := 0x75010 + 0x20 * i
def Reg.ethRingProd (i : Nat) : Nat := 0x75018 + 0x20 * i
def Reg.secStatus : Nat := 0x80000
def Reg.secCtrl : Nat := 0x80008
def Reg.secEnrolCount : Nat := 0x80010
def Reg.secQuotes : Nat := 0x80018
def Reg.secFail : Nat := 0x80020
def Reg.secRomHash (i : Nat) : Nat := 0x80040 + 0x8 * i
def Reg.secSlot (i : Nat) : Nat := 0x80100 + 0x8 * i
def Reg.secAnchor (i : Nat) (j : Nat) : Nat := 0x80400 + 0x20 * i + 0x8 * j
def Reg.ledgStatus : Nat := 0x90000
def Reg.ledgCtrl : Nat := 0x90008
def Reg.ledgEnergy : Nat := 0x90010
def Reg.ledgInterval : Nat := 0x90018
def Reg.schedStatus : Nat := 0xa0000
def Reg.schedCounts : Nat := 0xa0008
def Reg.schedCtx (i : Nat) : Nat := 0xa0400 + 0x10 * i
def Reg.schedCtxSeq (i : Nat) : Nat := 0xa0408 + 0x10 * i
def Reg.schedPart (i : Nat) : Nat := 0xa0100 + 0x8 * i
def Reg.errStatus : Nat := 0xb0000
def Reg.errCtrl : Nat := 0xb0008
def Reg.errClerks : Nat := 0xb0010
def Reg.errCores : Nat := 0xb0018
def Reg.errCount (i : Nat) : Nat := 0xb0100 + 0x8 * i
def Reg.errLog (i : Nat) (j : Nat) : Nat := 0xb8000 + 0x20 * i + 0x8 * j
def Reg.dbgStatus : Nat := 0xc0000
def Reg.dbgTraceCfg (i : Nat) : Nat := 0xc0100 + 0x10 * i
def Reg.dbgTracePos (i : Nat) : Nat := 0xc0108 + 0x10 * i
def Reg.calStatus : Nat := 0xd0000
def Reg.warpStatus : Nat := 0xe0000
def Reg.warpCtrl : Nat := 0xe0008
def Reg.warpDraftId : Nat := 0xe0010
def Reg.warpPass : Nat := 0xe0018
def Reg.warpPassInfo : Nat := 0xe0020
def Reg.warpPassStart : Nat := 0xe0028
def Reg.warpFlits : Nat := 0xe0030
def Reg.warpRecall : Nat := 0xe0038
def Reg.warpTaint : Nat := 0xe0040
def Reg.warpSkips : Nat := 0xe0048
def Reg.warpBase (i : Nat) : Nat := 0xe0100 + 0x10 * i
def Reg.warpStep (i : Nat) : Nat := 0xe0108 + 0x10 * i
def Reg.warpWefts : Nat := 0xe0500
def Reg.coreMap (i : Nat) : Nat := 0x100000 + 0x1000 * i
def Reg.coreSlotTmo (i : Nat) : Nat := 0x100008 + 0x1000 * i
def Reg.coreSpl (i : Nat) : Nat := 0x100010 + 0x1000 * i
def Reg.coreTags (i : Nat) : Nat := 0x100018 + 0x1000 * i
def Reg.coreThread (i : Nat) (j : Nat) : Nat := 0x100040 + 0x1000 * i + 0x8 * j
def Reg.slt (i : Nat) (j : Nat) : Nat := 0x100100 + 0x1000 * i + 0x8 * j
def Reg.strStatus (i : Nat) (j : Nat) : Nat := 0x100200 + 0x1000 * i + 0x10 * j
def Reg.strPos (i : Nat) (j : Nat) : Nat := 0x100208 + 0x1000 * i + 0x10 * j
def Reg.strDesc (i : Nat) (j : Nat) : Nat := 0x100400 + 0x1000 * i + 0x8 * j

/-! ### Fields -/

def Fld.devId_vendor : Fld := ⟨Reg.devId, 48, 16⟩
def Fld.devId_part : Fld := ⟨Reg.devId, 32, 16⟩
def Fld.devId_stepMajor : Fld := ⟨Reg.devId, 28, 4⟩
def Fld.devId_stepMinor : Fld := ⟨Reg.devId, 24, 4⟩
def Fld.devSerial_serial : Fld := ⟨Reg.devSerial, 0, 64⟩
def Fld.devGrade_retired : Fld := ⟨Reg.devGrade, 32, 9⟩
def Fld.devGrade_ordered : Fld := ⟨Reg.devGrade, 30, 2⟩
def Fld.devGrade_spares : Fld := ⟨Reg.devGrade, 18, 11⟩
def Fld.devGrade_grade : Fld := ⟨Reg.devGrade, 16, 2⟩
def Fld.devGrade_logicalCores : Fld := ⟨Reg.devGrade, 0, 11⟩
def Fld.devState_stateBeat : Fld := ⟨Reg.devState, 16, 48⟩
def Fld.devState_faultCause : Fld := ⟨Reg.devState, 8, 8⟩
def Fld.devState_phase : Fld := ⟨Reg.devState, 4, 4⟩
def Fld.devState_state : Fld := ⟨Reg.devState, 0, 3⟩
def Fld.devMode_vm1Active : Fld := ⟨Reg.devMode, 2, 1⟩
def Fld.devMode_pinned : Fld := ⟨Reg.devMode, 1, 1⟩
def Fld.devMode_exact : Fld := ⟨Reg.devMode, 0, 1⟩
def Fld.clkStatus_ramping : Fld := ⟨Reg.clkStatus, 4, 1⟩
def Fld.clkStatus_point : Fld := ⟨Reg.clkStatus, 2, 2⟩
def Fld.clkStatus_rootLock : Fld := ⟨Reg.clkStatus, 0, 1⟩
def Fld.clkPlan_allowDvfs : Fld := ⟨Reg.clkPlan, 8, 1⟩
def Fld.clkPlan_point : Fld := ⟨Reg.clkPlan, 0, 2⟩
def Fld.clkCount_transitions : Fld := ⟨Reg.clkCount, 0, 32⟩
def Fld.pwrStatus_vddCore : Fld := ⟨Reg.pwrStatus, 52, 12⟩
def Fld.pwrStatus_hottest : Fld := ⟨Reg.pwrStatus, 40, 8⟩
def Fld.pwrStatus_capUnmet : Fld := ⟨Reg.pwrStatus, 24, 1⟩
def Fld.pwrStatus_cause : Fld := ⟨Reg.pwrStatus, 20, 2⟩
def Fld.pwrStatus_issueLimit : Fld := ⟨Reg.pwrStatus, 16, 4⟩
def Fld.pwrStatus_power : Fld := ⟨Reg.pwrStatus, 0, 16⟩
def Fld.pwrCap_cap : Fld := ⟨Reg.pwrCap, 0, 12⟩
def Fld.pwrCtrl_recover : Fld := ⟨Reg.pwrCtrl, 16, 24⟩
def Fld.pwrCtrl_hyst : Fld := ⟨Reg.pwrCtrl, 0, 16⟩
def Fld.pwrTherm_release : Fld := ⟨Reg.pwrTherm, 16, 8⟩
def Fld.pwrTherm_throttle : Fld := ⟨Reg.pwrTherm, 8, 8⟩
def Fld.pwrTherm_warn : Fld := ⟨Reg.pwrTherm, 0, 8⟩
def Fld.pwrCores_banksOff : Fld := ⟨Reg.pwrCores, 16, 14⟩
def Fld.pwrCores_powered : Fld := ⟨Reg.pwrCores, 0, 11⟩
def Fld.pwrEntry_valid (i : Nat) : Fld := ⟨Reg.pwrEntry i, 63, 1⟩
def Fld.pwrEntry_coreOff (i : Nat) : Fld := ⟨Reg.pwrEntry i, 62, 1⟩
def Fld.pwrEntry_bankOff (i : Nat) : Fld := ⟨Reg.pwrEntry i, 48, 8⟩
def Fld.pwrEntry_coreCount (i : Nat) : Fld := ⟨Reg.pwrEntry i, 32, 11⟩
def Fld.pwrEntry_firstCore (i : Nat) : Fld := ⟨Reg.pwrEntry i, 16, 11⟩
def Fld.pwrEntry_id (i : Nat) : Fld := ⟨Reg.pwrEntry i, 0, 7⟩
def Fld.beatCount_count : Fld := ⟨Reg.beatCount, 0, 64⟩
def Fld.beatStatus_treeDepth : Fld := ⟨Reg.beatStatus, 32, 8⟩
def Fld.beatStatus_lateStart : Fld := ⟨Reg.beatStatus, 2, 1⟩
def Fld.beatStatus_aligned : Fld := ⟨Reg.beatStatus, 1, 1⟩
def Fld.beatStatus_origin : Fld := ⟨Reg.beatStatus, 0, 1⟩
def Fld.beatCtrl_launchLead : Fld := ⟨Reg.beatCtrl, 24, 24⟩
def Fld.beatCtrl_markShift : Fld := ⟨Reg.beatCtrl, 16, 6⟩
def Fld.beatBarTmo_timeout : Fld := ⟨Reg.beatBarTmo, 0, 32⟩
def Fld.beatStart_start : Fld := ⟨Reg.beatStart, 0, 64⟩
def Fld.beatAdjust_adjust : Fld := ⟨Reg.beatAdjust, 0, 64⟩
def Fld.lnkPortStatus_bundleUp (i : Nat) : Fld := ⟨Reg.lnkPortStatus i, 48, 8⟩
def Fld.lnkPortStatus_bundleLost (i : Nat) : Fld := ⟨Reg.lnkPortStatus i, 40, 8⟩
def Fld.lnkPortStatus_role (i : Nat) : Fld := ⟨Reg.lnkPortStatus i, 32, 2⟩
def Fld.lnkPortStatus_state (i : Nat) : Fld := ⟨Reg.lnkPortStatus i, 0, 4⟩
def Fld.lnkPeer_peerStepMajor (i : Nat) : Fld := ⟨Reg.lnkPeer i, 52, 4⟩
def Fld.lnkPeer_peerStepMinor (i : Nat) : Fld := ⟨Reg.lnkPeer i, 48, 4⟩
def Fld.lnkPeer_peerPart (i : Nat) : Fld := ⟨Reg.lnkPeer i, 32, 16⟩
def Fld.lnkPeer_peerPort (i : Nat) : Fld := ⟨Reg.lnkPeer i, 30, 2⟩
def Fld.lnkPeer_peerBoardPos (i : Nat) : Fld := ⟨Reg.lnkPeer i, 26, 4⟩
def Fld.lnkPeer_peerOrigin (i : Nat) : Fld := ⟨Reg.lnkPeer i, 25, 1⟩
def Fld.lnkPeer_peerRow (i : Nat) : Fld := ⟨Reg.lnkPeer i, 14, 6⟩
def Fld.lnkPeer_peerCol (i : Nat) : Fld := ⟨Reg.lnkPeer i, 7, 7⟩
def Fld.lnkPeer_valid (i : Nat) : Fld := ⟨Reg.lnkPeer i, 0, 1⟩
def Fld.lnkPeerSerial_serial (i : Nat) : Fld := ⟨Reg.lnkPeerSerial i, 0, 64⟩
def Fld.lnkCtrl_spareThresh (i : Nat) : Fld := ⟨Reg.lnkCtrl i, 32, 16⟩
def Fld.lnkCtrl_replayTmo (i : Nat) : Fld := ⟨Reg.lnkCtrl i, 0, 16⟩
def Fld.lnkSpare_s65Valid (i : Nat) : Fld := ⟨Reg.lnkSpare i, 15, 1⟩
def Fld.lnkSpare_s65Lane (i : Nat) : Fld := ⟨Reg.lnkSpare i, 8, 7⟩
def Fld.lnkSpare_s64Valid (i : Nat) : Fld := ⟨Reg.lnkSpare i, 7, 1⟩
def Fld.lnkSpare_s64Lane (i : Nat) : Fld := ⟨Reg.lnkSpare i, 0, 7⟩
def Fld.lnkFecCorr_count (i : Nat) : Fld := ⟨Reg.lnkFecCorr i, 0, 48⟩
def Fld.lnkFecUncorr_count (i : Nat) : Fld := ⟨Reg.lnkFecUncorr i, 0, 32⟩
def Fld.lnkCrcErr_count (i : Nat) : Fld := ⟨Reg.lnkCrcErr i, 0, 32⟩
def Fld.lnkReplay_count (i : Nat) : Fld := ⟨Reg.lnkReplay i, 0, 32⟩
def Fld.lnkRetrain_count (i : Nat) : Fld := ⟨Reg.lnkRetrain i, 0, 16⟩
def Fld.lnkProtoErr_count (i : Nat) : Fld := ⟨Reg.lnkProtoErr i, 0, 16⟩
def Fld.lnkTxFlits_count (i : Nat) : Fld := ⟨Reg.lnkTxFlits i, 0, 64⟩
def Fld.lnkRxFlits_count (i : Nat) : Fld := ⟨Reg.lnkRxFlits i, 0, 64⟩
def Fld.lnkBundle_rtt (i : Nat) (j : Nat) : Fld := ⟨Reg.lnkBundle i j, 32, 16⟩
def Fld.lnkBundle_share (i : Nat) (j : Nat) : Fld := ⟨Reg.lnkBundle i j, 16, 10⟩
def Fld.lnkCoord_ringPos : Fld := ⟨Reg.lnkCoord, 51, 13⟩
def Fld.lnkCoord_rowsM1 : Fld := ⟨Reg.lnkCoord, 45, 6⟩
def Fld.lnkCoord_colsM1 : Fld := ⟨Reg.lnkCoord, 38, 7⟩
def Fld.lnkCoord_row : Fld := ⟨Reg.lnkCoord, 32, 6⟩
def Fld.lnkCoord_col : Fld := ⟨Reg.lnkCoord, 25, 7⟩
def Fld.lnkCoord_boardPos : Fld := ⟨Reg.lnkCoord, 21, 4⟩
def Fld.lnkCoord_originStrap : Fld := ⟨Reg.lnkCoord, 20, 1⟩
def Fld.lnkCoord_discState : Fld := ⟨Reg.lnkCoord, 0, 3⟩
def Fld.lnkDisc_whereCol : Fld := ⟨Reg.lnkDisc, 38, 7⟩
def Fld.lnkDisc_whereRow : Fld := ⟨Reg.lnkDisc, 32, 6⟩
def Fld.lnkDisc_devices : Fld := ⟨Reg.lnkDisc, 8, 16⟩
def Fld.lnkDisc_result : Fld := ⟨Reg.lnkDisc, 4, 4⟩
def Fld.lnkOriginSerial_serial : Fld := ⟨Reg.lnkOriginSerial, 0, 64⟩
def Fld.xptPort_mode (i b : Nat) : Fld := ⟨Reg.xptPort i, 2 * b, 2⟩
def Fld.xptHolder_holder (i b : Nat) : Fld := ⟨Reg.xptHolder, 2 * (8 * i + b), 2⟩
def Fld.vltStatus_temp (i : Nat) : Fld := ⟨Reg.vltStatus i, 56, 8⟩
def Fld.vltStatus_dieMark (i : Nat) : Fld := ⟨Reg.vltStatus i, 30, 18⟩
def Fld.vltStatus_refresh2x (i : Nat) : Fld := ⟨Reg.vltStatus i, 3, 1⟩
def Fld.vltStatus_state (i : Nat) : Fld := ⟨Reg.vltStatus i, 0, 3⟩
def Fld.vltCtrl_scrubHours (i : Nat) : Fld := ⟨Reg.vltCtrl i, 16, 8⟩
def Fld.vltCtrl_markThresh (i : Nat) : Fld := ⟨Reg.vltCtrl i, 0, 16⟩
def Fld.vltCe_count (i : Nat) : Fld := ⟨Reg.vltCe i, 0, 48⟩
def Fld.vltUe_count (i : Nat) : Fld := ⟨Reg.vltUe i, 0, 32⟩
def Fld.vltErrAddr_valid (i : Nat) : Fld := ⟨Reg.vltErrAddr i, 63, 1⟩
def Fld.vltErrAddr_kind (i : Nat) : Fld := ⟨Reg.vltErrAddr i, 60, 3⟩
def Fld.vltErrAddr_addr (i : Nat) : Fld := ⟨Reg.vltErrAddr i, 0, 44⟩
def Fld.vltErrBeat_beat (i : Nat) : Fld := ⟨Reg.vltErrBeat i, 0, 64⟩
def Fld.vltScrubPos_line (i : Nat) : Fld := ⟨Reg.vltScrubPos i, 0, 30⟩
def Fld.vltScrubDone_passes (i : Nat) : Fld := ⟨Reg.vltScrubDone i, 0, 32⟩
def Fld.vltRdBytes_bytes (i : Nat) : Fld := ⟨Reg.vltRdBytes i, 0, 64⟩
def Fld.vltWrBytes_bytes (i : Nat) : Fld := ⟨Reg.vltWrBytes i, 0, 64⟩
def Fld.vltInner_outerSym (i : Nat) (j : Nat) : Fld := ⟨Reg.vltInner i j, 32, 32⟩
def Fld.vltInner_inner (i : Nat) (j : Nat) : Fld := ⟨Reg.vltInner i j, 0, 32⟩
def Fld.ethStatus_laneLock : Fld := ⟨Reg.ethStatus, 8, 8⟩
def Fld.ethStatus_pmd : Fld := ⟨Reg.ethStatus, 4, 2⟩
def Fld.ethStatus_state : Fld := ⟨Reg.ethStatus, 0, 2⟩
def Fld.ethMac_mac : Fld := ⟨Reg.ethMac, 0, 48⟩
def Fld.ethCfg_vlanId : Fld := ⟨Reg.ethCfg, 40, 12⟩
def Fld.ethCfg_vlanEn : Fld := ⟨Reg.ethCfg, 39, 1⟩
def Fld.ethCfg_prio : Fld := ⟨Reg.ethCfg, 36, 3⟩
def Fld.ethCfg_cnpPrio : Fld := ⟨Reg.ethCfg, 33, 3⟩
def Fld.ethCfg_dscp : Fld := ⟨Reg.ethCfg, 27, 6⟩
def Fld.ethCfg_cnpDscp : Fld := ⟨Reg.ethCfg, 21, 6⟩
def Fld.ethCfg_pfcEn : Fld := ⟨Reg.ethCfg, 13, 8⟩
def Fld.ethCfg_pmtu : Fld := ⟨Reg.ethCfg, 11, 2⟩
def Fld.ethIp4_valid : Fld := ⟨Reg.ethIp4, 32, 1⟩
def Fld.ethIp4_addr : Fld := ⟨Reg.ethIp4, 0, 32⟩
def Fld.ethIp6Hi_addrHi : Fld := ⟨Reg.ethIp6Hi, 0, 64⟩
def Fld.ethIp6Lo_addrLo : Fld := ⟨Reg.ethIp6Lo, 0, 64⟩
def Fld.ethCc_rMin : Fld := ⟨Reg.ethCc, 56, 8⟩
def Fld.ethCc_step : Fld := ⟨Reg.ethCc, 48, 8⟩
def Fld.ethCc_hold : Fld := ⟨Reg.ethCc, 24, 24⟩
def Fld.ethCc_quiet : Fld := ⟨Reg.ethCc, 0, 24⟩
def Fld.ethXport_cnpGap : Fld := ⟨Reg.ethXport, 48, 16⟩
def Fld.ethXport_retryCnt : Fld := ⟨Reg.ethXport, 44, 4⟩
def Fld.ethXport_retryTmo : Fld := ⟨Reg.ethXport, 0, 24⟩
def Fld.ethAttach_qpCount : Fld := ⟨Reg.ethAttach, 32, 11⟩
def Fld.ethAttach_cmdError : Fld := ⟨Reg.ethAttach, 1, 1⟩
def Fld.ethAttach_attached : Fld := ⟨Reg.ethAttach, 0, 1⟩
def Fld.ethHostIpHi_addr : Fld := ⟨Reg.ethHostIpHi, 0, 64⟩
def Fld.ethHostIpLo_addr : Fld := ⟨Reg.ethHostIpLo, 0, 64⟩
def Fld.ethHostMac_mac : Fld := ⟨Reg.ethHostMac, 0, 48⟩
def Fld.ethRxFrames_count : Fld := ⟨Reg.ethRxFrames, 0, 64⟩
def Fld.ethTxFrames_count : Fld := ⟨Reg.ethTxFrames, 0, 64⟩
def Fld.ethRxDrop_count : Fld := ⟨Reg.ethRxDrop, 0, 32⟩
def Fld.ethFecCorr_count : Fld := ⟨Reg.ethFecCorr, 0, 48⟩
def Fld.ethFecUncorr_count : Fld := ⟨Reg.ethFecUncorr, 0, 32⟩
def Fld.ethIcrcErr_count : Fld := ⟨Reg.ethIcrcErr, 0, 32⟩
def Fld.ethCnpRx_count : Fld := ⟨Reg.ethCnpRx, 0, 32⟩
def Fld.ethCnpTx_count : Fld := ⟨Reg.ethCnpTx, 0, 32⟩
def Fld.ethPfcRx_count : Fld := ⟨Reg.ethPfcRx, 0, 32⟩
def Fld.ethRetry_count : Fld := ⟨Reg.ethRetry, 0, 32⟩
def Fld.ethEvtDropped_count : Fld := ⟨Reg.ethEvtDropped, 0, 32⟩
def Fld.ethAttachRefused_count : Fld := ⟨Reg.ethAttachRefused, 0, 16⟩
def Fld.ethQp_state (i : Nat) : Fld := ⟨Reg.ethQp i, 62, 2⟩
def Fld.ethQp_rate (i : Nat) : Fld := ⟨Reg.ethQp i, 48, 9⟩
def Fld.ethQp_hostQpn (i : Nat) : Fld := ⟨Reg.ethQp i, 24, 24⟩
def Fld.ethQp_devQpn (i : Nat) : Fld := ⟨Reg.ethQp i, 0, 24⟩
def Fld.ethQpPsn_nextSend (i : Nat) : Fld := ⟨Reg.ethQpPsn i, 24, 24⟩
def Fld.ethQpPsn_expected (i : Nat) : Fld := ⟨Reg.ethQpPsn i, 0, 24⟩
def Fld.ethRingAddr_addr (i : Nat) : Fld := ⟨Reg.ethRingAddr i, 0, 64⟩
def Fld.ethRingCfg_rkey (i : Nat) : Fld := ⟨Reg.ethRingCfg i, 32, 32⟩
def Fld.ethRingCfg_enable (i : Nat) : Fld := ⟨Reg.ethRingCfg i, 31, 1⟩
def Fld.ethRingCfg_log2Entries (i : Nat) : Fld := ⟨Reg.ethRingCfg i, 26, 5⟩
def Fld.ethRingCfg_qp (i : Nat) : Fld := ⟨Reg.ethRingCfg i, 16, 10⟩
def Fld.ethRingCons_consAddr (i : Nat) : Fld := ⟨Reg.ethRingCons i, 0, 64⟩
def Fld.ethRingProd_produced (i : Nat) : Fld := ⟨Reg.ethRingProd i, 0, 64⟩
def Fld.secStatus_enrolled : Fld := ⟨Reg.secStatus, 40, 7⟩
def Fld.secStatus_revoked : Fld := ⟨Reg.secStatus, 32, 7⟩
def Fld.secStatus_verifying : Fld := ⟨Reg.secStatus, 16, 5⟩
def Fld.secStatus_wipePending : Fld := ⟨Reg.secStatus, 3, 1⟩
def Fld.secStatus_owned : Fld := ⟨Reg.secStatus, 2, 1⟩
def Fld.secStatus_romOk : Fld := ⟨Reg.secStatus, 1, 1⟩
def Fld.secStatus_minted : Fld := ⟨Reg.secStatus, 0, 1⟩
def Fld.secCtrl_testLock : Fld := ⟨Reg.secCtrl, 1, 1⟩
def Fld.secCtrl_lock : Fld := ⟨Reg.secCtrl, 0, 1⟩
def Fld.secEnrolCount_count : Fld := ⟨Reg.secEnrolCount, 0, 16⟩
def Fld.secQuotes_count : Fld := ⟨Reg.secQuotes, 0, 64⟩
def Fld.secFail_denied : Fld := ⟨Reg.secFail, 48, 16⟩
def Fld.secFail_signature : Fld := ⟨Reg.secFail, 32, 16⟩
def Fld.secFail_integrity : Fld := ⟨Reg.secFail, 16, 16⟩
def Fld.secFail_auth : Fld := ⟨Reg.secFail, 0, 16⟩
def Fld.secRomHash_hash (i : Nat) : Fld := ⟨Reg.secRomHash i, 0, 64⟩
def Fld.secSlot_count (i : Nat) : Fld := ⟨Reg.secSlot i, 32, 16⟩
def Fld.secSlot_state (i : Nat) : Fld := ⟨Reg.secSlot i, 0, 2⟩
def Fld.secAnchor_anchor (i : Nat) (j : Nat) : Fld := ⟨Reg.secAnchor i j, 0, 64⟩
def Fld.ledgStatus_dropped : Fld := ⟨Reg.ledgStatus, 32, 32⟩
def Fld.ledgStatus_accounts : Fld := ⟨Reg.ledgStatus, 17, 11⟩
def Fld.ledgStatus_held : Fld := ⟨Reg.ledgStatus, 0, 17⟩
def Fld.ledgCtrl_stepRecords : Fld := ⟨Reg.ledgCtrl, 0, 1⟩
def Fld.ledgEnergy_energy : Fld := ⟨Reg.ledgEnergy, 0, 64⟩
def Fld.ledgInterval_lastUj : Fld := ⟨Reg.ledgInterval, 32, 32⟩
def Fld.ledgInterval_intervals : Fld := ⟨Reg.ledgInterval, 0, 32⟩
def Fld.schedStatus_contexts : Fld := ⟨Reg.schedStatus, 32, 9⟩
def Fld.schedStatus_partitions : Fld := ⟨Reg.schedStatus, 16, 7⟩
def Fld.schedStatus_programs : Fld := ⟨Reg.schedStatus, 7, 9⟩
def Fld.schedCounts_swaps : Fld := ⟨Reg.schedCounts, 32, 32⟩
def Fld.schedCounts_degraded : Fld := ⟨Reg.schedCounts, 0, 32⟩
def Fld.schedCtx_client (i : Nat) : Fld := ⟨Reg.schedCtx i, 48, 16⟩
def Fld.schedCtx_prefillRows (i : Nat) : Fld := ⟨Reg.schedCtx i, 32, 16⟩
def Fld.schedCtx_base (i : Nat) : Fld := ⟨Reg.schedCtx i, 26, 6⟩
def Fld.schedCtx_partition (i : Nat) : Fld := ⟨Reg.schedCtx i, 20, 6⟩
def Fld.schedCtx_program (i : Nat) : Fld := ⟨Reg.schedCtx i, 12, 8⟩
def Fld.schedCtx_vm1 (i : Nat) : Fld := ⟨Reg.schedCtx i, 11, 1⟩
def Fld.schedCtx_sideEffecting (i : Nat) : Fld := ⟨Reg.schedCtx i, 10, 1⟩
def Fld.schedCtx_resident (i : Nat) : Fld := ⟨Reg.schedCtx i, 9, 1⟩
def Fld.schedCtx_running (i : Nat) : Fld := ⟨Reg.schedCtx i, 8, 1⟩
def Fld.schedCtx_wait (i : Nat) : Fld := ⟨Reg.schedCtx i, 4, 4⟩
def Fld.schedCtx_state (i : Nat) : Fld := ⟨Reg.schedCtx i, 0, 3⟩
def Fld.schedCtxSeq_lastSeq (i : Nat) : Fld := ⟨Reg.schedCtxSeq i, 0, 64⟩
def Fld.schedPart_slice (i : Nat) : Fld := ⟨Reg.schedPart i, 48, 16⟩
def Fld.schedPart_coreCount (i : Nat) : Fld := ⟨Reg.schedPart i, 32, 11⟩
def Fld.schedPart_firstCore (i : Nat) : Fld := ⟨Reg.schedPart i, 16, 11⟩
def Fld.schedPart_resident (i : Nat) : Fld := ⟨Reg.schedPart i, 8, 3⟩
def Fld.schedPart_class (i : Nat) : Fld := ⟨Reg.schedPart i, 1, 1⟩
def Fld.schedPart_valid (i : Nat) : Fld := ⟨Reg.schedPart i, 0, 1⟩
def Fld.errStatus_next : Fld := ⟨Reg.errStatus, 32, 32⟩
def Fld.errStatus_overwritten : Fld := ⟨Reg.errStatus, 16, 16⟩
def Fld.errStatus_alert : Fld := ⟨Reg.errStatus, 0, 1⟩
def Fld.errCtrl_alertLevel : Fld := ⟨Reg.errCtrl, 0, 2⟩
def Fld.errClerks_restarts : Fld := ⟨Reg.errClerks, 32, 16⟩
def Fld.errClerks_failed : Fld := ⟨Reg.errClerks, 16, 16⟩
def Fld.errClerks_alive : Fld := ⟨Reg.errClerks, 0, 16⟩
def Fld.errCores_fenced : Fld := ⟨Reg.errCores, 32, 11⟩
def Fld.errCores_fieldRetired : Fld := ⟨Reg.errCores, 0, 32⟩
def Fld.errCount_count (i : Nat) : Fld := ⟨Reg.errCount i, 0, 32⟩
def Fld.errLog_entry (i : Nat) (j : Nat) : Fld := ⟨Reg.errLog i j, 0, 64⟩
def Fld.dbgStatus_triggered : Fld := ⟨Reg.dbgStatus, 8, 8⟩
def Fld.dbgStatus_readout : Fld := ⟨Reg.dbgStatus, 4, 1⟩
def Fld.dbgStatus_cause : Fld := ⟨Reg.dbgStatus, 0, 4⟩
def Fld.dbgTraceCfg_post (i : Nat) : Fld := ⟨Reg.dbgTraceCfg i, 32, 16⟩
def Fld.dbgTraceCfg_trigMask (i : Nat) : Fld := ⟨Reg.dbgTraceCfg i, 24, 8⟩
def Fld.dbgTraceCfg_sources (i : Nat) : Fld := ⟨Reg.dbgTraceCfg i, 16, 8⟩
def Fld.dbgTraceCfg_trigOut (i : Nat) : Fld := ⟨Reg.dbgTraceCfg i, 5, 1⟩
def Fld.dbgTraceCfg_trigExt (i : Nat) : Fld := ⟨Reg.dbgTraceCfg i, 4, 1⟩
def Fld.dbgTraceCfg_mode (i : Nat) : Fld := ⟨Reg.dbgTraceCfg i, 2, 2⟩
def Fld.dbgTraceCfg_enable (i : Nat) : Fld := ⟨Reg.dbgTraceCfg i, 0, 1⟩
def Fld.dbgTracePos_trigIndex (i : Nat) : Fld := ⟨Reg.dbgTracePos i, 32, 15⟩
def Fld.dbgTracePos_stopped (i : Nat) : Fld := ⟨Reg.dbgTracePos i, 17, 1⟩
def Fld.dbgTracePos_wrapped (i : Nat) : Fld := ⟨Reg.dbgTracePos i, 16, 1⟩
def Fld.dbgTracePos_index (i : Nat) : Fld := ⟨Reg.dbgTracePos i, 0, 15⟩
def Fld.calStatus_writes : Fld := ⟨Reg.calStatus, 32, 32⟩
def Fld.calStatus_pending : Fld := ⟨Reg.calStatus, 2, 1⟩
def Fld.calStatus_defaults : Fld := ⟨Reg.calStatus, 1, 1⟩
def Fld.calStatus_valid : Fld := ⟨Reg.calStatus, 0, 1⟩
def Fld.warpStatus_passCount : Fld := ⟨Reg.warpStatus, 16, 16⟩
def Fld.warpStatus_open : Fld := ⟨Reg.warpStatus, 8, 4⟩
def Fld.warpStatus_hold : Fld := ⟨Reg.warpStatus, 5, 1⟩
def Fld.warpStatus_lateStart : Fld := ⟨Reg.warpStatus, 4, 1⟩
def Fld.warpStatus_draftState : Fld := ⟨Reg.warpStatus, 0, 3⟩
def Fld.warpCtrl_passSlack : Fld := ⟨Reg.warpCtrl, 40, 24⟩
def Fld.warpCtrl_recallBudget : Fld := ⟨Reg.warpCtrl, 16, 24⟩
def Fld.warpCtrl_startLead : Fld := ⟨Reg.warpCtrl, 0, 16⟩
def Fld.warpDraftId_draftId : Fld := ⟨Reg.warpDraftId, 0, 64⟩
def Fld.warpPass_passSeq : Fld := ⟨Reg.warpPass, 0, 64⟩
def Fld.warpPassInfo_entry : Fld := ⟨Reg.warpPassInfo, 52, 12⟩
def Fld.warpPassInfo_base : Fld := ⟨Reg.warpPassInfo, 46, 6⟩
def Fld.warpPassInfo_orient : Fld := ⟨Reg.warpPassInfo, 45, 1⟩
def Fld.warpPassInfo_tag : Fld := ⟨Reg.warpPassInfo, 42, 3⟩
def Fld.warpPassInfo_state : Fld := ⟨Reg.warpPassInfo, 0, 3⟩
def Fld.warpPassStart_start : Fld := ⟨Reg.warpPassStart, 0, 64⟩
def Fld.warpFlits_expected : Fld := ⟨Reg.warpFlits, 32, 23⟩
def Fld.warpFlits_received : Fld := ⟨Reg.warpFlits, 0, 23⟩
def Fld.warpRecall_requested : Fld := ⟨Reg.warpRecall, 32, 32⟩
def Fld.warpRecall_recovered : Fld := ⟨Reg.warpRecall, 0, 32⟩
def Fld.warpTaint_stray : Fld := ⟨Reg.warpTaint, 48, 16⟩
def Fld.warpTaint_received : Fld := ⟨Reg.warpTaint, 24, 24⟩
def Fld.warpTaint_detected : Fld := ⟨Reg.warpTaint, 0, 24⟩
def Fld.warpSkips_failed : Fld := ⟨Reg.warpSkips, 32, 32⟩
def Fld.warpSkips_skipped : Fld := ⟨Reg.warpSkips, 0, 32⟩
def Fld.warpBase_use (i : Nat) : Fld := ⟨Reg.warpBase i, 32, 32⟩
def Fld.warpBase_layers (i : Nat) : Fld := ⟨Reg.warpBase i, 16, 16⟩
def Fld.warpBase_inDraft (i : Nat) : Fld := ⟨Reg.warpBase i, 4, 1⟩
def Fld.warpBase_state (i : Nat) : Fld := ⟨Reg.warpBase i, 0, 4⟩
def Fld.warpStep_step (i : Nat) : Fld := ⟨Reg.warpStep i, 0, 64⟩
def Fld.warpWefts_paged : Fld := ⟨Reg.warpWefts, 32, 13⟩
def Fld.warpWefts_resident : Fld := ⟨Reg.warpWefts, 16, 13⟩
def Fld.warpWefts_loaded : Fld := ⟨Reg.warpWefts, 0, 13⟩
def Fld.coreMap_vm1 (i : Nat) : Fld := ⟨Reg.coreMap i, 40, 1⟩
def Fld.coreMap_context (i : Nat) : Fld := ⟨Reg.coreMap i, 32, 8⟩
def Fld.coreMap_client (i : Nat) : Fld := ⟨Reg.coreMap i, 16, 16⟩
def Fld.coreMap_role (i : Nat) : Fld := ⟨Reg.coreMap i, 12, 2⟩
def Fld.coreMap_logical (i : Nat) : Fld := ⟨Reg.coreMap i, 0, 11⟩
def Fld.coreSlotTmo_timeout (i : Nat) : Fld := ⟨Reg.coreSlotTmo i, 0, 24⟩
def Fld.coreSpl_bankReady (i : Nat) : Fld := ⟨Reg.coreSpl i, 8, 8⟩
def Fld.coreSpl_bankOn (i : Nat) : Fld := ⟨Reg.coreSpl i, 0, 8⟩
def Fld.coreTags_peak (i : Nat) : Fld := ⟨Reg.coreTags i, 16, 7⟩
def Fld.coreTags_free (i : Nat) : Fld := ⟨Reg.coreTags i, 0, 7⟩
def Fld.coreThread_waitBeat (i : Nat) (j : Nat) : Fld := ⟨Reg.coreThread i j, 32, 32⟩
def Fld.coreThread_waitOn (i : Nat) (j : Nat) : Fld := ⟨Reg.coreThread i j, 16, 5⟩
def Fld.coreThread_fault (i : Nat) (j : Nat) : Fld := ⟨Reg.coreThread i j, 8, 8⟩
def Fld.coreThread_wait (i : Nat) (j : Nat) : Fld := ⟨Reg.coreThread i j, 4, 4⟩
def Fld.coreThread_state (i : Nat) (j : Nat) : Fld := ⟨Reg.coreThread i j, 0, 3⟩
def Fld.slt_fillLen (i : Nat) (j : Nat) : Fld := ⟨Reg.slt i j, 47, 17⟩
def Fld.slt_remain (i : Nat) (j : Nat) : Fld := ⟨Reg.slt i j, 39, 8⟩
def Fld.slt_consume (i : Nat) (j : Nat) : Fld := ⟨Reg.slt i j, 31, 8⟩
def Fld.slt_len (i : Nat) (j : Nat) : Fld := ⟨Reg.slt i j, 22, 9⟩
def Fld.slt_base (i : Nat) (j : Nat) : Fld := ⟨Reg.slt i j, 11, 11⟩
def Fld.slt_bound (i : Nat) (j : Nat) : Fld := ⟨Reg.slt i j, 3, 1⟩
def Fld.slt_state (i : Nat) (j : Nat) : Fld := ⟨Reg.slt i j, 0, 2⟩
def Fld.strStatus_doneCount (i : Nat) (j : Nat) : Fld := ⟨Reg.strStatus i j, 32, 16⟩
def Fld.strStatus_owner (i : Nat) (j : Nat) : Fld := ⟨Reg.strStatus i j, 24, 3⟩
def Fld.strStatus_fault (i : Nat) (j : Nat) : Fld := ⟨Reg.strStatus i j, 16, 8⟩
def Fld.strStatus_tags (i : Nat) (j : Nat) : Fld := ⟨Reg.strStatus i j, 8, 7⟩
def Fld.strStatus_slotWait (i : Nat) (j : Nat) : Fld := ⟨Reg.strStatus i j, 5, 1⟩
def Fld.strStatus_rearmLost (i : Nat) (j : Nat) : Fld := ⟨Reg.strStatus i j, 4, 1⟩
def Fld.strStatus_pending (i : Nat) (j : Nat) : Fld := ⟨Reg.strStatus i j, 3, 1⟩
def Fld.strStatus_state (i : Nat) (j : Nat) : Fld := ⟨Reg.strStatus i j, 0, 3⟩
def Fld.strPos_position (i : Nat) (j : Nat) : Fld := ⟨Reg.strPos i j, 0, 40⟩
def Fld.strDesc_desc (i : Nat) (j : Nat) : Fld := ⟨Reg.strDesc i j, 0, 64⟩

/-! ### The register tables -/

/-- Tables of the DEV block. -/
def regTableDev : List RegSpec := [
  /- DEV_ID -/ ⟨0x0, 0x0, 1, 0x0, 1, [⟨48, 16, .ro, 0x5d1a⟩, ⟨32, 16, .ro, 2⟩, ⟨28, 4, .ro, 0⟩, ⟨24, 4, .ro, 0⟩]⟩,
  /- DEV_SERIAL -/ ⟨0x8, 0x0, 1, 0x0, 1, [⟨0, 64, .ro, 0⟩]⟩,
  /- DEV_GRADE -/ ⟨0x10, 0x0, 1, 0x0, 1, [⟨32, 9, .ros, 0⟩, ⟨30, 2, .ro, 0⟩, ⟨18, 11, .ro, 0⟩, ⟨16, 2, .ro, 0⟩, ⟨0, 11, .ro, 0⟩]⟩,
  /- DEV_STATE -/ ⟨0x18, 0x0, 1, 0x0, 1, [⟨16, 48, .ro, 0⟩, ⟨8, 8, .ro, 0⟩, ⟨4, 4, .ro, 0⟩, ⟨0, 3, .ro, 1⟩]⟩,
  /- DEV_MODE -/ ⟨0x20, 0x0, 1, 0x0, 1, [⟨2, 1, .ro, 0⟩, ⟨1, 1, .ro, 0⟩, ⟨0, 1, .ro, 0⟩]⟩]

/-- Tables of the CLK block. -/
def regTableClk : List RegSpec := [
  /- CLK_STATUS -/ ⟨0x10000, 0x0, 1, 0x0, 1, [⟨4, 1, .ro, 0⟩, ⟨2, 2, .ro, 2⟩, ⟨0, 1, .ro, 0⟩]⟩,
  /- CLK_PLAN -/ ⟨0x10008, 0x0, 1, 0x0, 1, [⟨8, 1, .ro, 1⟩, ⟨0, 2, .ro, 0⟩]⟩,
  /- CLK_COUNT -/ ⟨0x10010, 0x0, 1, 0x0, 1, [⟨0, 32, .ros, 0⟩]⟩]

/-- Tables of the PWR block. -/
def regTablePwr : List RegSpec := [
  /- PWR_STATUS -/ ⟨0x20000, 0x0, 1, 0x0, 1, [⟨52, 12, .ro, 0⟩, ⟨40, 8, .ro, 0⟩, ⟨24, 1, .rw1cs, 0⟩, ⟨20, 2, .ro, 0⟩, ⟨16, 4, .ro, 8⟩, ⟨0, 16, .ro, 0⟩]⟩,
  /- PWR_CAP -/ ⟨0x20008, 0x0, 1, 0x0, 1, [⟨0, 12, .ro, 0xbb8⟩]⟩,
  /- PWR_CTRL -/ ⟨0x20010, 0x0, 1, 0x0, 1, [⟨16, 24, .rw, 0x445c⟩, ⟨0, 16, .rw, 0x32⟩]⟩,
  /- PWR_THERM -/ ⟨0x20018, 0x0, 1, 0x0, 1, [⟨16, 8, .rw, 5⟩, ⟨8, 8, .rw, 0x69⟩, ⟨0, 8, .rw, 0x5f⟩]⟩,
  /- PWR_CORES -/ ⟨0x20020, 0x0, 1, 0x0, 1, [⟨16, 14, .ro, 0⟩, ⟨0, 11, .ro, 0x4d0⟩]⟩,
  /- PWR_ENTRY -/ ⟨0x20100, 0x8, 64, 0x0, 1, [⟨63, 1, .ro, 0⟩, ⟨62, 1, .ro, 0⟩, ⟨48, 8, .ro, 0⟩, ⟨32, 11, .ro, 0⟩, ⟨16, 11, .ro, 0⟩, ⟨0, 7, .ro, 0⟩]⟩]

/-- Tables of the BEAT block. -/
def regTableBeat : List RegSpec := [
  /- BEAT_COUNT -/ ⟨0x30000, 0x0, 1, 0x0, 1, [⟨0, 64, .ro, 0⟩]⟩,
  /- BEAT_STATUS -/ ⟨0x30008, 0x0, 1, 0x0, 1, [⟨32, 8, .ro, 0⟩, ⟨2, 1, .rw1c, 0⟩, ⟨1, 1, .ro, 0⟩, ⟨0, 1, .ro, 0⟩]⟩,
  /- BEAT_CTRL -/ ⟨0x30010, 0x0, 1, 0x0, 1, [⟨24, 24, .rw, 0x445c⟩, ⟨16, 6, .rw, 0⟩]⟩,
  /- BEAT_BAR_TMO -/ ⟨0x30018, 0x0, 1, 0x0, 1, [⟨0, 32, .rw, 0xa6e49c0⟩]⟩,
  /- BEAT_START -/ ⟨0x30020, 0x0, 1, 0x0, 1, [⟨0, 64, .ro, 0⟩]⟩,
  /- BEAT_ADJUST -/ ⟨0x30028, 0x0, 1, 0x0, 1, [⟨0, 64, .ro, 0⟩]⟩]

/-- Tables of the LNK blocks. -/
def regTableLnk : List RegSpec := [
  /- LNK_PORT_STATUS -/ ⟨0x40000, 0x1000, 4, 0x0, 1, [⟨48, 8, .ro, 0⟩, ⟨40, 8, .ros, 0⟩, ⟨32, 2, .ro, 0⟩, ⟨0, 4, .ro, 0⟩]⟩,
  /- LNK_PEER -/ ⟨0x40008, 0x1000, 4, 0x0, 1, [⟨52, 4, .ro, 0⟩, ⟨48, 4, .ro, 0⟩, ⟨32, 16, .ro, 0⟩, ⟨30, 2, .ro, 0⟩, ⟨26, 4, .ro, 0⟩, ⟨25, 1, .ro, 0⟩, ⟨14, 6, .ro, 0⟩, ⟨7, 7, .ro, 0⟩, ⟨0, 1, .ro, 0⟩]⟩,
  /- LNK_PEER_SERIAL -/ ⟨0x40010, 0x1000, 4, 0x0, 1, [⟨0, 64, .ro, 0⟩]⟩,
  /- LNK_CTRL -/ ⟨0x40018, 0x1000, 4, 0x0, 1, [⟨32, 16, .rw, 0x200⟩, ⟨0, 16, .rw, 0x15e⟩]⟩,
  /- LNK_SPARE -/ ⟨0x40020, 0x1000, 4, 0x0, 1, [⟨15, 1, .ro, 0⟩, ⟨8, 7, .ro, 0⟩, ⟨7, 1, .ro, 0⟩, ⟨0, 7, .ro, 0⟩]⟩,
  /- LNK_FEC_CORR -/ ⟨0x40028, 0x1000, 4, 0x0, 1, [⟨0, 48, .ros, 0⟩]⟩,
  /- LNK_FEC_UNCORR -/ ⟨0x40030, 0x1000, 4, 0x0, 1, [⟨0, 32, .ros, 0⟩]⟩,
  /- LNK_CRC_ERR -/ ⟨0x40038, 0x1000, 4, 0x0, 1, [⟨0, 32, .ros, 0⟩]⟩,
  /- LNK_REPLAY -/ ⟨0x40040, 0x1000, 4, 0x0, 1, [⟨0, 32, .ros, 0⟩]⟩,
  /- LNK_RETRAIN -/ ⟨0x40048, 0x1000, 4, 0x0, 1, [⟨0, 16, .ros, 0⟩]⟩,
  /- LNK_PROTO_ERR -/ ⟨0x40050, 0x1000, 4, 0x0, 1, [⟨0, 16, .ros, 0⟩]⟩,
  /- LNK_TX_FLITS -/ ⟨0x40058, 0x1000, 4, 0x0, 1, [⟨0, 64, .ro, 0⟩]⟩,
  /- LNK_RX_FLITS -/ ⟨0x40060, 0x1000, 4, 0x0, 1, [⟨0, 64, .ro, 0⟩]⟩,
  /- LNK_BUNDLE -/ ⟨0x40100, 0x1000, 4, 0x8, 8, [⟨32, 16, .ro, 0⟩, ⟨16, 10, .ro, 0⟩]⟩,
  /- LNK_COORD -/ ⟨0x48000, 0x0, 1, 0x0, 1, [⟨51, 13, .ro, 0⟩, ⟨45, 6, .ro, 0⟩, ⟨38, 7, .ro, 0⟩, ⟨32, 6, .ro, 0⟩, ⟨25, 7, .ro, 0⟩, ⟨21, 4, .ro, 0⟩, ⟨20, 1, .ro, 0⟩, ⟨0, 3, .ro, 0⟩]⟩,
  /- LNK_DISC -/ ⟨0x48008, 0x0, 1, 0x0, 1, [⟨38, 7, .ro, 0⟩, ⟨32, 6, .ro, 0⟩, ⟨8, 16, .ro, 0⟩, ⟨4, 4, .ro, 0⟩]⟩,
  /- LNK_ORIGIN_SERIAL -/ ⟨0x48010, 0x0, 1, 0x0, 1, [⟨0, 64, .ro, 0⟩]⟩]

/-- Tables of the XPT block. -/
def regTableXpt : List RegSpec := [
  /- XPT_PORT -/ ⟨0x50000, 0x8, 4, 0x0, 1, [⟨0, 16, .ro, 0⟩]⟩,
  /- XPT_HOLDER -/ ⟨0x50020, 0x0, 1, 0x0, 1, [⟨0, 64, .ro, 0⟩]⟩]

/-- Tables of the VLT blocks. -/
def regTableVlt : List RegSpec := [
  /- VLT_STATUS -/ ⟨0x60000, 0x1000, 16, 0x0, 1, [⟨56, 8, .ro, 0⟩, ⟨30, 18, .ros, 0⟩, ⟨3, 1, .ro, 0⟩, ⟨0, 3, .ro, 0⟩]⟩,
  /- VLT_CTRL -/ ⟨0x60008, 0x1000, 16, 0x0, 1, [⟨16, 8, .rw, 0x18⟩, ⟨0, 16, .rw, 0x100⟩]⟩,
  /- VLT_CE -/ ⟨0x60010, 0x1000, 16, 0x0, 1, [⟨0, 48, .ros, 0⟩]⟩,
  /- VLT_UE -/ ⟨0x60018, 0x1000, 16, 0x0, 1, [⟨0, 32, .ros, 0⟩]⟩,
  /- VLT_ERR_ADDR -/ ⟨0x60020, 0x1000, 16, 0x0, 1, [⟨63, 1, .rw1cs, 0⟩, ⟨60, 3, .ros, 0⟩, ⟨0, 44, .ros, 0⟩]⟩,
  /- VLT_ERR_BEAT -/ ⟨0x60028, 0x1000, 16, 0x0, 1, [⟨0, 64, .ros, 0⟩]⟩,
  /- VLT_SCRUB_POS -/ ⟨0x60030, 0x1000, 16, 0x0, 1, [⟨0, 30, .ro, 0⟩]⟩,
  /- VLT_SCRUB_DONE -/ ⟨0x60038, 0x1000, 16, 0x0, 1, [⟨0, 32, .ros, 0⟩]⟩,
  /- VLT_RD_BYTES -/ ⟨0x60040, 0x1000, 16, 0x0, 1, [⟨0, 64, .ro, 0⟩]⟩,
  /- VLT_WR_BYTES -/ ⟨0x60048, 0x1000, 16, 0x0, 1, [⟨0, 64, .ro, 0⟩]⟩,
  /- VLT_INNER -/ ⟨0x60100, 0x1000, 16, 0x8, 18, [⟨32, 32, .ro, 0⟩, ⟨0, 32, .ros, 0⟩]⟩]

/-- Tables of the ETH block. -/
def regTableEth : List RegSpec := [
  /- ETH_STATUS -/ ⟨0x70000, 0x0, 1, 0x0, 1, [⟨8, 8, .ro, 0⟩, ⟨4, 2, .ro, 0⟩, ⟨0, 2, .ro, 0⟩]⟩,
  /- ETH_MAC -/ ⟨0x70008, 0x0, 1, 0x0, 1, [⟨0, 48, .ro, 0⟩]⟩,
  /- ETH_CFG -/ ⟨0x70010, 0x0, 1, 0x0, 1, [⟨40, 12, .rw, 0⟩, ⟨39, 1, .rw, 0⟩, ⟨36, 3, .rw, 3⟩, ⟨33, 3, .rw, 6⟩, ⟨27, 6, .rw, 0x1a⟩, ⟨21, 6, .rw, 0x30⟩, ⟨13, 8, .rw, 8⟩, ⟨11, 2, .rw, 2⟩]⟩,
  /- ETH_IP4 -/ ⟨0x70018, 0x0, 1, 0x0, 1, [⟨32, 1, .rw, 0⟩, ⟨0, 32, .rw, 0⟩]⟩,
  /- ETH_IP6_HI -/ ⟨0x70020, 0x0, 1, 0x0, 1, [⟨0, 64, .rw, 0⟩]⟩,
  /- ETH_IP6_LO -/ ⟨0x70028, 0x0, 1, 0x0, 1, [⟨0, 64, .rw, 0⟩]⟩,
  /- ETH_CC -/ ⟨0x70030, 0x0, 1, 0x0, 1, [⟨56, 8, .rw, 2⟩, ⟨48, 8, .rw, 4⟩, ⟨24, 24, .rw, 0x222e⟩, ⟨0, 24, .rw, 0x222e⟩]⟩,
  /- ETH_XPORT -/ ⟨0x70038, 0x0, 1, 0x0, 1, [⟨48, 16, .rw, 0x36b⟩, ⟨44, 4, .rw, 7⟩, ⟨0, 24, .rw, 0x1ab3f0⟩]⟩,
  /- ETH_ATTACH -/ ⟨0x70040, 0x0, 1, 0x0, 1, [⟨32, 11, .ro, 0⟩, ⟨1, 1, .ro, 0⟩, ⟨0, 1, .ro, 0⟩]⟩,
  /- ETH_HOST_IP_HI -/ ⟨0x70048, 0x0, 1, 0x0, 1, [⟨0, 64, .ro, 0⟩]⟩,
  /- ETH_HOST_IP_LO -/ ⟨0x70050, 0x0, 1, 0x0, 1, [⟨0, 64, .ro, 0⟩]⟩,
  /- ETH_HOST_MAC -/ ⟨0x70058, 0x0, 1, 0x0, 1, [⟨0, 48, .ro, 0⟩]⟩,
  /- ETH_RX_FRAMES -/ ⟨0x70100, 0x0, 1, 0x0, 1, [⟨0, 64, .ro, 0⟩]⟩,
  /- ETH_TX_FRAMES -/ ⟨0x70108, 0x0, 1, 0x0, 1, [⟨0, 64, .ro, 0⟩]⟩,
  /- ETH_RX_DROP -/ ⟨0x70110, 0x0, 1, 0x0, 1, [⟨0, 32, .ros, 0⟩]⟩,
  /- ETH_FEC_CORR -/ ⟨0x70118, 0x0, 1, 0x0, 1, [⟨0, 48, .ros, 0⟩]⟩,
  /- ETH_FEC_UNCORR -/ ⟨0x70120, 0x0, 1, 0x0, 1, [⟨0, 32, .ros, 0⟩]⟩,
  /- ETH_ICRC_ERR -/ ⟨0x70128, 0x0, 1, 0x0, 1, [⟨0, 32, .ros, 0⟩]⟩,
  /- ETH_CNP_RX -/ ⟨0x70130, 0x0, 1, 0x0, 1, [⟨0, 32, .ros, 0⟩]⟩,
  /- ETH_CNP_TX -/ ⟨0x70138, 0x0, 1, 0x0, 1, [⟨0, 32, .ros, 0⟩]⟩,
  /- ETH_PFC_RX -/ ⟨0x70140, 0x0, 1, 0x0, 1, [⟨0, 32, .ros, 0⟩]⟩,
  /- ETH_RETRY -/ ⟨0x70148, 0x0, 1, 0x0, 1, [⟨0, 32, .ros, 0⟩]⟩,
  /- ETH_EVT_DROPPED -/ ⟨0x70150, 0x0, 1, 0x0, 1, [⟨0, 32, .ros, 0⟩]⟩,
  /- ETH_ATTACH_REFUSED -/ ⟨0x70158, 0x0, 1, 0x0, 1, [⟨0, 16, .ros, 0⟩]⟩,
  /- ETH_QP -/ ⟨0x71000, 0x10, 1024, 0x0, 1, [⟨62, 2, .ro, 0⟩, ⟨48, 9, .ro, 0⟩, ⟨24, 24, .ro, 0⟩, ⟨0, 24, .ro, 0⟩]⟩,
  /- ETH_QP_PSN -/ ⟨0x71008, 0x10, 1024, 0x0, 1, [⟨24, 24, .ro, 0⟩, ⟨0, 24, .ro, 0⟩]⟩,
  /- ETH_RING_ADDR -/ ⟨0x75000, 0x20, 256, 0x0, 1, [⟨0, 64, .rw, 0⟩]⟩,
  /- ETH_RING_CFG -/ ⟨0x75008, 0x20, 256, 0x0, 1, [⟨32, 32, .rw, 0⟩, ⟨31, 1, .rw, 0⟩, ⟨26, 5, .rw, 0⟩, ⟨16, 10, .rw, 0⟩]⟩,
  /- ETH_RING_CONS -/ ⟨0x75010, 0x20, 256, 0x0, 1, [⟨0, 64, .rw, 0⟩]⟩,
  /- ETH_RING_PROD -/ ⟨0x75018, 0x20, 256, 0x0, 1, [⟨0, 64, .ro, 0⟩]⟩]

/-- Tables of the SEC block. -/
def regTableSec : List RegSpec := [
  /- SEC_STATUS -/ ⟨0x80000, 0x0, 1, 0x0, 1, [⟨40, 7, .ro, 0⟩, ⟨32, 7, .ro, 0⟩, ⟨16, 5, .ro, 0⟩, ⟨3, 1, .ros, 0⟩, ⟨2, 1, .ro, 0⟩, ⟨1, 1, .ro, 0⟩, ⟨0, 1, .ro, 0⟩]⟩,
  /- SEC_CTRL -/ ⟨0x80008, 0x0, 1, 0x0, 1, [⟨1, 1, .rwl, 0⟩, ⟨0, 1, .rwl, 0⟩]⟩,
  /- SEC_ENROL_COUNT -/ ⟨0x80010, 0x0, 1, 0x0, 1, [⟨0, 16, .ro, 0⟩]⟩,
  /- SEC_QUOTES -/ ⟨0x80018, 0x0, 1, 0x0, 1, [⟨0, 64, .ro, 0⟩]⟩,
  /- SEC_FAIL -/ ⟨0x80020, 0x0, 1, 0x0, 1, [⟨48, 16, .ros, 0⟩, ⟨32, 16, .ros, 0⟩, ⟨16, 16, .ros, 0⟩, ⟨0, 16, .ros, 0⟩]⟩,
  /- SEC_ROM_HASH -/ ⟨0x80040, 0x8, 8, 0x0, 1, [⟨0, 64, .ro, 0⟩]⟩,
  /- SEC_SLOT -/ ⟨0x80100, 0x8, 64, 0x0, 1, [⟨32, 16, .ro, 0⟩, ⟨0, 2, .ro, 0⟩]⟩,
  /- SEC_ANCHOR -/ ⟨0x80400, 0x20, 64, 0x8, 4, [⟨0, 64, .ro, 0⟩]⟩]

/-- Tables of the LEDG block. -/
def regTableLedg : List RegSpec := [
  /- LEDG_STATUS -/ ⟨0x90000, 0x0, 1, 0x0, 1, [⟨32, 32, .ros, 0⟩, ⟨17, 11, .ro, 0⟩, ⟨0, 17, .ro, 0⟩]⟩,
  /- LEDG_CTRL -/ ⟨0x90008, 0x0, 1, 0x0, 1, [⟨0, 1, .rw, 1⟩]⟩,
  /- LEDG_ENERGY -/ ⟨0x90010, 0x0, 1, 0x0, 1, [⟨0, 64, .ro, 0⟩]⟩,
  /- LEDG_INTERVAL -/ ⟨0x90018, 0x0, 1, 0x0, 1, [⟨32, 32, .ro, 0⟩, ⟨0, 32, .ro, 0⟩]⟩]

/-- Tables of the SCHED block. -/
def regTableSched : List RegSpec := [
  /- SCHED_STATUS -/ ⟨0xa0000, 0x0, 1, 0x0, 1, [⟨32, 9, .ro, 0⟩, ⟨16, 7, .ro, 0⟩, ⟨7, 9, .ro, 0⟩]⟩,
  /- SCHED_COUNTS -/ ⟨0xa0008, 0x0, 1, 0x0, 1, [⟨32, 32, .ros, 0⟩, ⟨0, 32, .ros, 0⟩]⟩,
  /- SCHED_CTX -/ ⟨0xa0400, 0x10, 256, 0x0, 1, [⟨48, 16, .ro, 0⟩, ⟨32, 16, .rw, 0x1000⟩, ⟨26, 6, .ro, 0⟩, ⟨20, 6, .ro, 0⟩, ⟨12, 8, .ro, 0⟩, ⟨11, 1, .ro, 0⟩, ⟨10, 1, .ro, 0⟩, ⟨9, 1, .ro, 0⟩, ⟨8, 1, .ro, 0⟩, ⟨4, 4, .ro, 0⟩, ⟨0, 3, .ro, 0⟩]⟩,
  /- SCHED_CTX_SEQ -/ ⟨0xa0408, 0x10, 256, 0x0, 1, [⟨0, 64, .ro, 0⟩]⟩,
  /- SCHED_PART -/ ⟨0xa0100, 0x8, 64, 0x0, 1, [⟨48, 16, .rw, 0x222e⟩, ⟨32, 11, .ro, 0⟩, ⟨16, 11, .ro, 0⟩, ⟨8, 3, .ro, 0⟩, ⟨1, 1, .ro, 0⟩, ⟨0, 1, .ro, 0⟩]⟩]

/-- Tables of the ERR block. -/
def regTableErr : List RegSpec := [
  /- ERR_STATUS -/ ⟨0xb0000, 0x0, 1, 0x0, 1, [⟨32, 32, .ro, 0⟩, ⟨16, 16, .ro, 0⟩, ⟨0, 1, .rw1c, 0⟩]⟩,
  /- ERR_CTRL -/ ⟨0xb0008, 0x0, 1, 0x0, 1, [⟨0, 2, .rw, 2⟩]⟩,
  /- ERR_CLERKS -/ ⟨0xb0010, 0x0, 1, 0x0, 1, [⟨32, 16, .ros, 0⟩, ⟨16, 16, .ro, 0⟩, ⟨0, 16, .ro, 0xffff⟩]⟩,
  /- ERR_CORES -/ ⟨0xb0018, 0x0, 1, 0x0, 1, [⟨32, 11, .ro, 0⟩, ⟨0, 32, .ros, 0⟩]⟩,
  /- ERR_COUNT -/ ⟨0xb0100, 0x8, 16, 0x0, 1, [⟨0, 32, .ro, 0⟩]⟩,
  /- ERR_LOG -/ ⟨0xb8000, 0x20, 1024, 0x8, 4, [⟨0, 64, .ro, 0⟩]⟩]

/-- Tables of the DBG block. -/
def regTableDbg : List RegSpec := [
  /- DBG_STATUS -/ ⟨0xc0000, 0x0, 1, 0x0, 1, [⟨8, 8, .ro, 0⟩, ⟨4, 1, .ro, 0⟩, ⟨0, 4, .ro, 0⟩]⟩,
  /- DBG_TRACE_CFG -/ ⟨0xc0100, 0x10, 8, 0x0, 1, [⟨32, 16, .rw, 0⟩, ⟨24, 8, .rw, 0⟩, ⟨16, 8, .rw, 0⟩, ⟨5, 1, .rw, 0⟩, ⟨4, 1, .rw, 0⟩, ⟨2, 2, .rw, 0⟩, ⟨0, 1, .rw, 0⟩]⟩,
  /- DBG_TRACE_POS -/ ⟨0xc0108, 0x10, 8, 0x0, 1, [⟨32, 15, .ro, 0⟩, ⟨17, 1, .ro, 0⟩, ⟨16, 1, .ro, 0⟩, ⟨0, 15, .ro, 0⟩]⟩]

/-- Tables of the CAL block. -/
def regTableCal : List RegSpec := [
  /- CAL_STATUS -/ ⟨0xd0000, 0x0, 1, 0x0, 1, [⟨32, 32, .ro, 0⟩, ⟨2, 1, .ro, 0⟩, ⟨1, 1, .ro, 0⟩, ⟨0, 1, .ro, 0⟩]⟩]

/-- Tables of the WARP block. -/
def regTableWarp : List RegSpec := [
  /- WARP_STATUS -/ ⟨0xe0000, 0x0, 1, 0x0, 1, [⟨16, 16, .ro, 0⟩, ⟨8, 4, .ro, 0⟩, ⟨5, 1, .ro, 0⟩, ⟨4, 1, .rw1c, 0⟩, ⟨0, 3, .ro, 0⟩]⟩,
  /- WARP_CTRL -/ ⟨0xe0008, 0x0, 1, 0x0, 1, [⟨40, 24, .rw, 0x55730⟩, ⟨16, 24, .rw, 0x55730⟩, ⟨0, 16, .rw, 0x222e⟩]⟩,
  /- WARP_DRAFT_ID -/ ⟨0xe0010, 0x0, 1, 0x0, 1, [⟨0, 64, .ro, 0⟩]⟩,
  /- WARP_PASS -/ ⟨0xe0018, 0x0, 1, 0x0, 1, [⟨0, 64, .ro, 0⟩]⟩,
  /- WARP_PASS_INFO -/ ⟨0xe0020, 0x0, 1, 0x0, 1, [⟨52, 12, .ro, 0⟩, ⟨46, 6, .ro, 0⟩, ⟨45, 1, .ro, 0⟩, ⟨42, 3, .ro, 0⟩, ⟨0, 3, .ro, 0⟩]⟩,
  /- WARP_PASS_START -/ ⟨0xe0028, 0x0, 1, 0x0, 1, [⟨0, 64, .ro, 0⟩]⟩,
  /- WARP_FLITS -/ ⟨0xe0030, 0x0, 1, 0x0, 1, [⟨32, 23, .ro, 0⟩, ⟨0, 23, .ro, 0⟩]⟩,
  /- WARP_RECALL -/ ⟨0xe0038, 0x0, 1, 0x0, 1, [⟨32, 32, .ros, 0⟩, ⟨0, 32, .ros, 0⟩]⟩,
  /- WARP_TAINT -/ ⟨0xe0040, 0x0, 1, 0x0, 1, [⟨48, 16, .ros, 0⟩, ⟨24, 24, .ros, 0⟩, ⟨0, 24, .ros, 0⟩]⟩,
  /- WARP_SKIPS -/ ⟨0xe0048, 0x0, 1, 0x0, 1, [⟨32, 32, .ros, 0⟩, ⟨0, 32, .ros, 0⟩]⟩,
  /- WARP_BASE -/ ⟨0xe0100, 0x10, 64, 0x0, 1, [⟨32, 32, .ro, 0⟩, ⟨16, 16, .ro, 0⟩, ⟨4, 1, .ro, 0⟩, ⟨0, 4, .ro, 0⟩]⟩,
  /- WARP_STEP -/ ⟨0xe0108, 0x10, 64, 0x0, 1, [⟨0, 64, .ro, 0⟩]⟩,
  /- WARP_WEFTS -/ ⟨0xe0500, 0x0, 1, 0x0, 1, [⟨32, 13, .ro, 0⟩, ⟨16, 13, .ro, 0⟩, ⟨0, 13, .ro, 0⟩]⟩]

/-- Tables of the CORE blocks. -/
def regTableCore : List RegSpec := [
  /- CORE_MAP -/ ⟨0x100000, 0x1000, 1232, 0x0, 1, [⟨40, 1, .ro, 0⟩, ⟨32, 8, .ro, 0⟩, ⟨16, 16, .ro, 0⟩, ⟨12, 2, .ro, 0⟩, ⟨0, 11, .ro, 0⟩]⟩,
  /- CORE_SLOT_TMO -/ ⟨0x100008, 0x1000, 1232, 0x0, 1, [⟨0, 24, .rw, 0x2ab98⟩]⟩,
  /- CORE_SPL -/ ⟨0x100010, 0x1000, 1232, 0x0, 1, [⟨8, 8, .ro, 0⟩, ⟨0, 8, .ro, 0⟩]⟩,
  /- CORE_TAGS -/ ⟨0x100018, 0x1000, 1232, 0x0, 1, [⟨16, 7, .rw1c, 0⟩, ⟨0, 7, .ro, 0⟩]⟩,
  /- CORE_THREAD -/ ⟨0x100040, 0x1000, 1232, 0x8, 8, [⟨32, 32, .ro, 0⟩, ⟨16, 5, .ro, 0⟩, ⟨8, 8, .ro, 0⟩, ⟨4, 4, .ro, 0⟩, ⟨0, 3, .ro, 0⟩]⟩,
  /- SLT -/ ⟨0x100100, 0x1000, 1232, 0x8, 32, [⟨47, 17, .ro, 0⟩, ⟨39, 8, .ro, 0⟩, ⟨31, 8, .ro, 0⟩, ⟨22, 9, .ro, 0⟩, ⟨11, 11, .ro, 0⟩, ⟨3, 1, .ro, 0⟩, ⟨0, 2, .ro, 0⟩]⟩,
  /- STR_STATUS -/ ⟨0x100200, 0x1000, 1232, 0x10, 32, [⟨32, 16, .ro, 0⟩, ⟨24, 3, .ro, 0⟩, ⟨16, 8, .ro, 0⟩, ⟨8, 7, .ro, 0⟩, ⟨5, 1, .ro, 0⟩, ⟨4, 1, .rw1c, 0⟩, ⟨3, 1, .ro, 0⟩, ⟨0, 3, .ro, 0⟩]⟩,
  /- STR_POS -/ ⟨0x100208, 0x1000, 1232, 0x10, 32, [⟨0, 40, .ro, 0⟩]⟩,
  /- STR_DESC -/ ⟨0x100400, 0x1000, 1232, 0x8, 256, [⟨0, 64, .ro, 0⟩]⟩]

def regTable : List RegSpec :=
  regTableDev ++ regTableClk ++ regTablePwr ++ regTableBeat ++ regTableLnk ++ regTableXpt ++ regTableVlt ++ regTableEth ++ regTableSec ++ regTableLedg ++ regTableSched ++ regTableErr ++ regTableDbg ++ regTableCal ++ regTableWarp ++ regTableCore

/-- Whether `off` is a register of the table. -/
def RegSpec.has (r : RegSpec) (off : Nat) : Bool :=
  let d := off - r.first
  let d2 := if r.stride = 0 then d else d % r.stride
  let i := if r.stride = 0 then 0 else d / r.stride
  let j := if r.stride2 = 0 then d2 else d2 / r.stride2
  let e := if r.stride2 = 0 then d2 else d2 % r.stride2
  r.first ≤ off && i < r.count && (if r.stride2 = 0 then j = 0 else j < r.count2) && e = 0

/-- The table that holds the register at `off`; a reserved offset has none. -/
def regSpec (off : Nat) : Option RegSpec := regTable.find? (·.has off)

/-- The word that the fields of a table spell at reset. -/
def RegSpec.resetWord (r : RegSpec) : W64 := r.fields.foldl (fun w f => w ||| BitVec.ofNat 64 (f.reset * 2 ^ f.lo)) 0

/-- The value of the register at `off` after reset, as far as the tables state a number. DEV_QPN of queue pair q is
0x000100 + q. -/
def resetWord (off : Nat) : W64 :=
  let q := if Reg.ethQp 0 ≤ off ∧ off < Reg.ethQp 1024 ∧ (off - Reg.ethQp 0) % 16 = 0 then
      BitVec.ofNat 64 (0x100 + (off - Reg.ethQp 0) / 16) else 0
  match regSpec off with
  | some r => r.resetWord ||| q
  | none => 0

/-- The bits of a register whose fields have one of the given access codes. -/
def RegSpec.maskOf (r : RegSpec) (as : List Access) : W64 :=
  r.fields.foldl (fun w f => if f.access ∈ as then w ||| BitVec.ofNat 64 ((2 ^ f.width - 1) * 2 ^ f.lo) else w) 0

end Sys2Proof.Machine
end

