-- ==== Sys2Proof/Machine/Flags.lean ====
section
/-!
DEFINITION. Register words and their fields: reading, writing, counting, the sticky and saturating forms that the
register tables name ("stops at all ones", "counting modulo"), and the write of a register under the access codes of
R10.
-/
namespace Sys2Proof.Machine

/-- The stored word of the register at `off`. -/
def State.raw (s : State) (off : Nat) : W64 := SMap.get s.regs (resetWord off) off

/-- Stores a register word, canonically. -/
def State.setRaw (s : State) (off : Nat) (w : W64) : State :=
  { s with regs := SMap.set s.regs (resetWord off) off w }

/-- The mask of a field within its word. -/
def Fld.mask (f : Fld) : W64 := BitVec.ofNat 64 ((2 ^ f.width - 1) * 2 ^ f.lo)

/-- The value of a field. -/
def State.fld (s : State) (f : Fld) : Nat := (s.raw f.off).toNat / 2 ^ f.lo % 2 ^ f.width

/-- `w` with field `f` replaced by `v` modulo its width. -/
def Fld.insert (f : Fld) (w : W64) (v : Nat) : W64 :=
  (w &&& ~~~f.mask) ||| BitVec.ofNat 64 (v % 2 ^ f.width * 2 ^ f.lo)

/-- Writes a field. -/
def State.setFld (s : State) (f : Fld) (v : Nat) : State := s.setRaw f.off (f.insert (s.raw f.off) v)

/-- Whether a one-bit field is 1. -/
def State.flag (s : State) (f : Fld) : Bool := s.fld f ≠ 0

/-- A counter that stops at all ones. -/
def State.count (s : State) (f : Fld) (n : Nat := 1) : State := s.setFld f (min (s.fld f + n) (2 ^ f.width - 1))

/-- A counter that wraps. -/
def State.countWrap (s : State) (f : Fld) (n : Nat := 1) : State := s.setFld f (s.fld f + n)

/-- The word that a write of `val` under `mask` leaves (R10): fields marked RW take the masked bits, fields marked
RW1C or RW1CS lose the bits written 1, and fields marked RWL take the masked bits while `locked` is false. Every other
bit keeps its value. -/
def RegSpec.written (r : RegSpec) (old val mask : W64) (locked : Bool) : W64 :=
  let rw := r.maskOf (if locked then [.rw] else [.rw, .rwl]) &&& mask
  let w1c := r.maskOf [.rw1c, .rw1cs] &&& mask &&& val
  ((old &&& ~~~rw) ||| (val &&& rw)) &&& ~~~w1c

end Sys2Proof.Machine
end

