-- ==== Sys2Proof/Machine/Float.lean ====
section
/-!
DEFINITION. The number formats and their arithmetic (02 R43 to R51, 03 R82, 04 R143). A format value is read exactly
as NaN, an infinity, or a signed dyadic; every operation is exact and rounded once, to nearest even.
-/
namespace Sys2Proof.Machine

/-- A value read from a format: `fin neg m e` is `(-1)^neg × m × 2^e`. -/
inductive FV where
  | nan
  | inf (neg : Bool)
  | fin (neg : Bool) (m : Nat) (e : Int)
  deriving DecidableEq, Repr

/-- A binary format: precision with the hidden bit, exponent of its smallest subnormal, and the first magnitude code
that is not finite (R47). -/
structure BinFmt where
  p : Nat
  emin : Int
  top : Nat
  deriving DecidableEq, Repr

def fmtFp32 : BinFmt := ⟨24, -149, 0x7F800000⟩
def fmtBf16 : BinFmt := ⟨8, -133, 0x7F80⟩
def fmtE4m3 : BinFmt := ⟨4, -9, 0x7F⟩
def fmtE5m2 : BinFmt := ⟨3, -16, 0x7C⟩
def fmtE2m1 : BinFmt := ⟨2, -1, 0x8⟩

/-- Magnitude code of `m × 2^e` rounded to nearest even, as if exponents had no upper limit. -/
def BinFmt.roundMag (f : BinFmt) (m : Nat) (e : Int) : Nat :=
  if m = 0 ∨ e + (Nat.log2 m + 1 : Nat) < f.emin then 0 else
  let q := max f.emin (e + (Nat.log2 m + 1 : Nat) - f.p)
  let r :=
    if q ≤ e then m * 2 ^ (e - q).toNat
    else
      let d := (q - e).toNat
      let lo := m % 2 ^ d
      let hi := m / 2 ^ d
      if 2 ^ d < 2 * lo ∨ (2 * lo = 2 ^ d ∧ hi % 2 = 1) then hi + 1 else hi
  (q - f.emin).toNat * 2 ^ (f.p - 1) + r

/-- The value of a finite magnitude code. -/
def BinFmt.readMag (f : BinFmt) (neg : Bool) (c : Nat) : FV :=
  let h := 2 ^ (f.p - 1)
  if c / h = 0 then .fin neg c f.emin else .fin neg (c % h + h) (f.emin + (c / h : Nat) - 1)

/-- FP32 (R47). -/
def readFp32 (w : W32) : FV :=
  let c := w.toNat % 0x80000000
  let neg := w.getLsbD 31
  if c < fmtFp32.top then fmtFp32.readMag neg c else if c = fmtFp32.top then .inf neg else .nan

/-- BF16 (R47). -/
def readBf16 (h : Nat) : FV :=
  let c := h % 0x8000
  let neg := h / 0x8000 % 2 = 1
  if c < fmtBf16.top then fmtBf16.readMag neg c else if c = fmtBf16.top then .inf neg else .nan

/-- E4M3 (R47): no infinity, 0x7F and 0xFF are NaN. -/
def readE4m3 (b : Nat) : FV :=
  let c := b % 0x80
  if c = 0x7F then .nan else fmtE4m3.readMag (b / 0x80 % 2 = 1) c

/-- E5M2 (R47). -/
def readE5m2 (b : Nat) : FV :=
  let c := b % 0x80
  let neg := b / 0x80 % 2 = 1
  if c < 0x7C then fmtE5m2.readMag neg c else if c = 0x7C then .inf neg else .nan

/-- E2M1 (R47): four bits. -/
def readE2m1 (n : Nat) : FV := fmtE2m1.readMag (n / 8 % 2 = 1) (n % 8)

/-- INT8 as its integer. -/
def readInt8 (b : Nat) : FV := if b % 256 < 128 then .fin false (b % 256) 0 else .fin true (256 - b % 256) 0

/-- INT32 as its integer. -/
def readInt32 (w : W32) : FV := .fin w.msb w.toInt.natAbs 0

/-- The canonical FP32 NaN (R49). -/
def nan32 : W32 := 0x7FC00000#32

def signed32 (neg : Bool) (c : Nat) : W32 := BitVec.ofNat 32 (c + if neg then 0x80000000 else 0)

/-- Rounds a value once into FP32: beyond the range it is an infinity. -/
def toFp32 : FV → W32
  | .nan => nan32
  | .inf neg => signed32 neg 0x7F800000
  | .fin neg m e => signed32 neg (min (fmtFp32.roundMag m e) 0x7F800000)

/-- R50: BF16. -/
def toBf16 : FV → Nat
  | .nan => 0x7FC0
  | .inf neg => 0x7F80 + if neg then 0x8000 else 0
  | .fin neg m e => min (fmtBf16.roundMag m e) 0x7F80 + if neg then 0x8000 else 0

/-- R50: E4M3, saturating. -/
def toE4m3 : FV → Nat
  | .nan => 0x7F
  | .inf neg => 0x7E + if neg then 0x80 else 0
  | .fin neg m e => min (fmtE4m3.roundMag m e) 0x7E + if neg then 0x80 else 0

/-- R50: E5M2; a finite value saturates. -/
def toE5m2 : FV → Nat
  | .nan => 0x7E
  | .inf neg => 0x7C + if neg then 0x80 else 0
  | .fin neg m e => min (fmtE5m2.roundMag m e) 0x7B + if neg then 0x80 else 0

/-- The integer nearest to `m × 2^e`, ties to even. -/
def roundInt (m : Nat) (e : Int) : Nat :=
  if 0 ≤ e then m * 2 ^ e.toNat
  else
    let d := (-e).toNat
    let lo := m % 2 ^ d
    let hi := m / 2 ^ d
    if 2 ^ d < 2 * lo ∨ (2 * lo = 2 ^ d ∧ hi % 2 = 1) then hi + 1 else hi

/-- R50: INT8, saturating; NaN gives 0. -/
def toInt8 : FV → Nat
  | .nan => 0
  | .inf neg => if neg then 0x80 else 0x7F
  | .fin neg m e =>
    let r := roundInt m e
    if neg then (256 - min r 128) % 256 else min r 127

/-- R51: one E2M1 element, saturating to ±6. -/
def toE2m1 : FV → Nat
  | .nan => 0
  | .inf neg => 7 + if neg then 8 else 0
  | .fin neg m e => min (fmtE2m1.roundMag m e) 7 + if neg then 8 else 0

/-! ### Exact operations -/

/-- The integer that a finite value is in units of `2^q`, for `q` at most its exponent. -/
def scaleTo (q : Int) (neg : Bool) (m : Nat) (e : Int) : Int :=
  let n : Int := (m * 2 ^ (e - q).toNat : Nat)
  if neg then -n else n

/-- Exact sum; a zero sum of zeros keeps their common sign, any other zero sum is +0. -/
def FV.add : FV → FV → FV
  | .nan, _ => .nan
  | _, .nan => .nan
  | .inf a, .inf b => if a = b then .inf a else .nan
  | .inf a, .fin .. => .inf a
  | .fin .., .inf b => .inf b
  | .fin na ma ea, .fin nb mb eb =>
    let q := min ea eb
    let t := scaleTo q na ma ea + scaleTo q nb mb eb
    if t = 0 then .fin (decide (ma = 0 ∧ mb = 0) && na && nb) 0 q else .fin (decide (t < 0)) t.natAbs q

/-- Exact product; infinity times zero is NaN (R49). -/
def FV.mul : FV → FV → FV
  | .nan, _ => .nan
  | _, .nan => .nan
  | .inf a, .inf b => .inf (a != b)
  | .inf a, .fin b m _ => if m = 0 then .nan else .inf (a != b)
  | .fin a m _, .inf b => if m = 0 then .nan else .inf (a != b)
  | .fin a m e, .fin b n f => .fin (a != b) (m * n) (e + f)

def FV.neg : FV → FV
  | .nan => .nan
  | .inf a => .inf (!a)
  | .fin a m e => .fin (!a) m e

/-- Exact scaling by a power of two. -/
def FV.scale (k : Int) : FV → FV
  | .fin a m e => .fin a m (e + k)
  | x => x

/-- Strict order of two values that are not NaN; zeros are equal. -/
def FV.lt : FV → FV → Bool
  | .nan, _ => false
  | _, .nan => false
  | .inf a, .inf b => a && !b
  | .inf a, .fin .. => a
  | .fin .., .inf b => !b
  | .fin na ma ea, .fin nb mb eb =>
    let q := min ea eb
    decide (scaleTo q na ma ea < scaleTo q nb mb eb)

def FV.isNan : FV → Bool
  | .nan => true
  | _ => false

def FV.isNeg : FV → Bool
  | .nan => false
  | .inf a => a
  | .fin a _ _ => a

/-! ### FP32 operations of the vector unit (R143): one rounding to nearest even each -/

def fadd (a b : W32) : W32 := toFp32 ((readFp32 a).add (readFp32 b))
def fneg (a : W32) : W32 := toFp32 (readFp32 a).neg
def fsub (a b : W32) : W32 := toFp32 ((readFp32 a).add (readFp32 b).neg)
def fmul (a b : W32) : W32 := toFp32 ((readFp32 a).mul (readFp32 b))
def ffma (a b c : W32) : W32 := toFp32 (((readFp32 a).mul (readFp32 b)).add (readFp32 c))

/-- R143: NaN if either is NaN; +0 is greater than −0. -/
def fmax (a b : W32) : W32 :=
  let x := readFp32 a
  let y := readFp32 b
  if x.isNan || y.isNan then nan32
  else if x.lt y then b else if y.lt x then a else if x.isNeg then b else a

def fmin (a b : W32) : W32 :=
  let x := readFp32 a
  let y := readFp32 b
  if x.isNan || y.isNan then nan32
  else if x.lt y then a else if y.lt x then b else if x.isNeg then a else b

/-- R143: the comparison codes of VEC.CMP. -/
def fcmp (cond : Nat) (a b : W32) : Bool :=
  let x := readFp32 a
  let y := readFp32 b
  if x.isNan || y.isNan then cond = 1
  else
    let lt := x.lt y
    let gt := y.lt x
    match cond with
    | 0 => !lt && !gt
    | 1 => lt || gt
    | 2 => lt
    | 3 => !gt
    | 4 => gt
    | _ => !lt

/-- Saturating INT32 addition and whether it saturated (R45, R82). -/
def satAdd32 (a b : W32) : W32 × Bool :=
  let t := a.toInt + b.toInt
  if t > 2147483647 then (0x7FFFFFFF#32, true)
  else if t < -2147483648 then (0x80000000#32, true) else (BitVec.ofInt 32 t, false)

/-- R82, BF16: widen, one FP32 addition, convert. -/
def bf16Acc (old : Nat) (x : W32) : Nat :=
  toBf16 (readFp32 (toFp32 ((readBf16 old).add (readFp32 x))))

/-- Accumulate-on-write of one element (R82): type 0 FP32, 1 INT32, 2 BF16. The new bytes, and whether it saturated. -/
def accElem (type : Nat) (old : Bytes) (x : W32) : Bytes × Bool :=
  match type with
  | 0 => (leBytes (fadd (BitVec.ofNat 32 (leNat old)) x).toNat 4, false)
  | 1 => let r := satAdd32 (BitVec.ofNat 32 (leNat old)) x; (leBytes r.1.toNat 4, r.2)
  | _ => (leBytes (bf16Acc (leNat old) x) 2, false)

/-- Element size of an accumulation type. -/
def accSize (type : Nat) : Nat := if type = 2 then 2 else 4

/-- Storage bytes of one element of `src` as the FP32 or INT32 operand of an accumulation. -/
def accOperand (type : Nat) (src : Bytes) : W32 :=
  if type = 2 then toFp32 (readBf16 (leNat src)) else BitVec.ofNat 32 (leNat src)

/-- Accumulates a run of stored elements into a memory, lowest address first: the memory, and whether any saturated.
`n` bounds the elements. -/
def accRun (type : Nat) (m : Mem) (a : Nat) (sat : Bool) : Nat → Bytes → Mem × Bool
  | 0, _ => (m, sat)
  | n + 1, bs =>
    let k := accSize type
    if bs.length < k then (m, sat)
    else
      let r := accElem type (m.bytes a k) (accOperand type (bs.take k))
      accRun type (m.store a r.1) (a + k) (sat || r.2) n (bs.drop k)

end Sys2Proof.Machine
end

