-- ==== Sys2Proof/Machine/Ops.lean ====
section
/-!
DEFINITION. The named operations over cores, threads, slots, spools and streams that every family shares: reading and
writing each table of the state, taking a thread fault (04 R166, R167), starting and ending a wait (R120), the slot
fill states (03 R90), and cancelling a stream (03 R112).
-/
namespace Sys2Proof.Machine

abbrev Out := Host.Outcome State Fault Refusal

/-- Answers `t` where the command names units that exist, and the fault `noSuchUnit` where it does not. -/
def onUnit (ok : Bool) (t : State) : Out := if ok then .next t else .fault .noSuchUnit

/-- The answer of a command that needs a condition: its effect where the condition holds, no effect where it does not
(log 15). -/
def whenDo (c : Bool) (s : State) (f : State → State) : State := if c then f s else s

def nCores : Nat := 1232
def nStacks : Nat := 16
def nPorts : Nat := 4
def nBundles : Nat := 8

/-- BEAT_COUNT. -/
def State.beat (s : State) : Nat := (s.raw Reg.beatCount).toNat

/-! ### Device state (00 table DEV_STATE) -/

def stBringup : Nat := 1
def stReady : Nat := 2
def stThreaded : Nat := 3
def stFrozen : Nat := 4
def stFaulted : Nat := 5

def State.devState (s : State) : Nat := s.fld Fld.devState_state

/-- READY or THREADED. -/
def State.serving (s : State) : Bool := s.devState = stReady || s.devState = stThreaded

/-- Moves to a device state; STATE_BEAT is the beat of the last change of STATE. -/
def State.setDevState (s : State) (st phase cause : Nat) : State :=
  let w := if s.devState = st then s.raw Reg.devState else Fld.devState_stateBeat.insert 0 s.beat
  let w := Fld.devState_faultCause.insert w cause
  let w := Fld.devState_phase.insert w phase
  s.setRaw Reg.devState (Fld.devState_state.insert w st)

def State.exact (s : State) : Bool := s.flag Fld.devMode_exact

/-- Place of the i-th core of a lattice of W weight groups by S session groups: its weight group and its session group
(01 R29, R30, R31). Each place is taken once; which core takes it is free (log 16). -/
def latticePlace (w h i : Nat) : Nat × Nat :=
  let key := Config.latticeKey w h
  let r := ((List.range (w * h)).filter fun j => key j < key i || (key j = key i && j < i)).length
  (r / h, r % h)

/-- Weight group and session group of logical core `n` in the lattice of a context (01 R29); none outside it. -/
def Context.latPlace (c : Context) (n : Nat) : Option (Nat × Nat) :=
  (c.lat.findIdx? (· = n)).map (latticePlace c.latW c.latS)

/-! ### Free values (log 2) -/

def State.freeByte (s : State) : Byte × State := (Config.freeByte s.freeCtr, { s with freeCtr := s.freeCtr + 1 })
def State.freeWord (s : State) : W64 × State := (Config.freeWord s.freeCtr, { s with freeCtr := s.freeCtr + 1 })

/-- Free bytes. -/
def State.freeBytes (s : State) : Nat → Bytes × State
  | 0 => ([], s)
  | n + 1 =>
    let r := s.freeBytes n
    let f := r.2.freeByte
    (r.1 ++ [f.1], f.2)

/-! ### Cores and threads -/

def State.core (s : State) (p : Nat) : Core := SMap.get s.cores {} p
def State.setCore (s : State) (p : Nat) (c : Core) : State := { s with cores := SMap.put s.cores p c }
def State.modCore (s : State) (p : Nat) (f : Core → Core) : State := s.setCore p (f (s.core p))

def Core.thread (c : Core) (t : Nat) : Thread := SMap.get c.threads {} t
def Core.setThread (c : Core) (t : Nat) (th : Thread) : Core := { c with threads := SMap.put c.threads t th }
def Core.modThread (c : Core) (t : Nat) (f : Thread → Thread) : Core := c.setThread t (f (c.thread t))

def State.thread (s : State) (p t : Nat) : Thread := (s.core p).thread t
def State.modThread (s : State) (p t : Nat) (f : Thread → Thread) : State := s.modCore p (·.modThread t f)

def Core.slot (c : Core) (n : Nat) : Slot := SMap.get c.slots {} n
def Core.setSlot (c : Core) (n : Nat) (x : Slot) : Core := { c with slots := SMap.put c.slots n x }
def Core.modSlot (c : Core) (n : Nat) (f : Slot → Slot) : Core := c.setSlot n (f (c.slot n))

def Core.stream (c : Core) (n : Nat) : Stream := SMap.get c.streams {} n
def Core.setStream (c : Core) (n : Nat) (x : Stream) : Core := { c with streams := SMap.put c.streams n x }

def Core.plane (c : Core) (n : Nat) : Plane := SMap.get c.planes {} n
def Core.setPlane (c : Core) (n : Nat) (x : Plane) : Core := { c with planes := SMap.put c.planes n x }

def Core.eng (c : Core) : Eng → Engine
  | .e0 => c.eng0
  | .e1 => c.eng1

def Core.setEng (c : Core) (e : Eng) (x : Engine) : Core :=
  match e with
  | .e0 => { c with eng0 := x }
  | .e1 => { c with eng1 := x }

/-- The logical number of physical core `p`, when it has one (02 R39). -/
def State.logicalOf (s : State) (p : Nat) : Option Nat := s.cmap.logical.findIdx? (· = p)

/-- The physical core of a logical number. -/
def State.physOf (s : State) (n : Nat) : Option Nat := s.cmap.logical[n]?

/-! ### Register files (04 R124) -/

def Thread.rg (t : Thread) (i : Nat) : W64 := if i = 0 then 0 else SMap.get t.g 0 i

/-- Writes gN; a write to g0 is discarded. -/
def Thread.wg (t : Thread) (i : Nat) (v : W64) : Thread := if i = 0 then t else { t with g := SMap.set t.g 0 i v }

/-- Lane `l` of vN. -/
def Thread.lane (t : Thread) (i l : Nat) : W32 := SMap.get t.v 0 (128 * i + l)

def lanes : List Nat := List.range 128

/-- Writes lane l of vN. -/
def Thread.wLane (t : Thread) (i l : Nat) (x : W32) : Thread := { t with v := SMap.set t.v 0 (128 * i + l) x }

/-- Writes the lanes that `mask` selects. -/
def Thread.wLanes (t : Thread) (i : Nat) (mask : BitVec 128) (f : Nat → W32) : Thread :=
  lanes.foldl (fun t l => if mask.getLsbD l then t.wLane i l (f l) else t) t

/-- pN; p0 reads as all ones. -/
def Thread.rp (t : Thread) (i : Nat) : BitVec 128 := if i = 0 then BitVec.allOnes 128 else SMap.get t.pr 0 i

/-- Writes pN; a write to p0 is discarded. -/
def Thread.wp (t : Thread) (i : Nat) (v : BitVec 128) : Thread :=
  if i = 0 then t else { t with pr := SMap.set t.pr 0 i v }

/-- The thread as R118 starts it: registers zero, g1 to g8 from `args`, ready at `pc`. SAT keeps its value. -/
def Thread.started (t : Thread) (pc : W64) (args : List W64) : Thread :=
  let t0 : Thread := { st := .ready, pc := pc, sat := t.sat }
  (List.range 8).foldl (fun t i => t.wg (i + 1) (args.getD i 0)) t0

/-! ### Commands on core sets -/

def State.cmdAt (s : State) (k : Nat) : Option RunCmd := SMap.get s.sched.cmds none k
def State.setCmd (s : State) (k : Nat) (c : RunCmd) : State :=
  { s with sched := { s.sched with cmds := SMap.put s.sched.cmds k (some c) } }
def State.dropCmd (s : State) (k : Nat) : State :=
  { s with sched := { s.sched with cmds := SMap.del s.sched.cmds k } }

/-- The command that runs on core `p`. -/
def State.cmdOf (s : State) (p : Nat) : Option RunCmd :=
  if (s.core p).phase = .none then none else s.cmdAt (s.core p).cmd

def State.modCmdOf (s : State) (p : Nat) (f : RunCmd → RunCmd) : State :=
  match s.cmdOf p with
  | some c => s.setCmd (s.core p).cmd (f c)
  | none => s

/-- Rank of core `p` in its command's set (04 R125). -/
def State.rank (s : State) (p : Nat) : Nat :=
  match s.cmdOf p, s.logicalOf p with
  | some c, some n => n - c.first
  | _, _ => 0

/-- Physical cores of a command, in rank order. -/
def State.setCores (s : State) (c : RunCmd) : List Nat :=
  (List.range c.count).filterMap fun i => s.physOf (c.first + i)

/-- The lead core of the command on `p`, rank 0. -/
def State.leadOf (s : State) (p : Nat) : Nat :=
  match s.cmdOf p with
  | some c => (s.physOf c.first).getD p
  | none => p

/-! ### Thread faults (04 R166, R167) -/

/-- Poilo fault codes (R166). -/
def fIllegal : Nat := 0x01
def fIllegalVm1 : Nat := 0x02
def fPcAddr : Nat := 0x03
def fSplAddr : Nat := 0x04
def fSplOff : Nat := 0x05
def fSltBind : Nat := 0x06
def fSltBusy : Nat := 0x07
def fSlotTimeout : Nat := 0x08
def fStrDesc : Nat := 0x09
def fStrAddr : Nat := 0x0A
def fStrState : Nat := 0x0B
def fStrData : Nat := 0x0C
def fEngPlane : Nat := 0x0D
def fEngFormat : Nat := 0x0E
def fEngShape : Nat := 0x0F
def fAccOwner : Nat := 0x10
def fEngHw : Nat := 0x11
def fTelCmd : Nat := 0x12
def fTelData : Nat := 0x13
def fRmtAddr : Nat := 0x14
def fRmtDenied : Nat := 0x15
def fRmtTimeout : Nat := 0x16
def fBarScope : Nat := 0x17
def fCmdOrder : Nat := 0x18
def fCmdRegion : Nat := 0x19
def fThrState : Nat := 0x1A
def fExactDeny : Nat := 0x1B

/-- The lowest code of a list. -/
def lowest : List Nat → Option Nat
  | [] => none
  | c :: cs => some (cs.foldl min c)

/-- Which of two faults the completion carries (R167): the earlier beat, then the lower logical core, then, on one
core, the lower code. -/
def firstFault (old : Option (Nat × Nat × Nat)) (new : Nat × Nat × Nat) : Nat × Nat × Nat :=
  match old with
  | none => new
  | some o =>
    if new.1 < o.1 ∨ (new.1 = o.1 ∧ (new.2.1 < o.2.1 ∨ (new.2.1 = o.2.1 ∧ new.2.2 < o.2.2))) then new else o

/-- A fault counts against the command only before its commit phase (R164). -/
def State.noteFault (s : State) (p code : Nat) : State :=
  s.modCmdOf p fun c =>
    if c.phase = .committing ∨ c.ending.isSome then c
    else { c with faulted := some (firstFault c.faulted (s.beat, (s.logicalOf p).getD p, code)) }

/-- Thread `t` of core `p` faults with `code`: the thread is faulted, every thread of the core stops issuing, and the
command is to be aborted (COMMAND_ABORT). A thread that is idle has nothing to fault. -/
def State.threadFault (s : State) (p t code : Nat) : State :=
  let s := s.modCore p fun c => { c.modThread t (fun th => { th with st := .faulted, fault := code }) with stopped := true }
  s.noteFault p code

/-- Thread `t` starts to wait (R120). A thread that already waits keeps the beat at which its wait began. -/
def State.startWait (s : State) (p t : Nat) (w : Wait) : State :=
  s.modThread p t fun th => { th with st := .waiting w, waitBeat := s.beat, waitTmo := s.fld (Fld.coreSlotTmo_timeout p) }

/-! ### Spool access (03 R78, R85, R86) -/

def spoolSize : Nat := 0x80000

/-- Banks that bytes `off` to `off + n - 1` touch. -/
def banksOf (off n : Nat) : List Nat := (List.range 8).filter fun b => n ≠ 0 ∧ off < (b + 1) * 0x10000 ∧ b * 0x10000 < off + n

/-- Whether an access touches a bank that is powered down. -/
def Core.touchesOff (c : Core) (off n : Nat) : Bool := (banksOf off n).any fun b => c.banksOff.getLsbD b

/-- The settling bank that an access must wait for. -/
def Core.settlingBank (c : Core) (off n : Nat) : Option Nat :=
  (banksOf off n).find? fun b => SMap.has c.settling b

/-- Codes that a thread's access of `n` bytes at `off` breaks. -/
def Core.spoolFaults (c : Core) (off n : Nat) : List Nat :=
  (if off + n > spoolSize then [fSplAddr] else []) ++ (if c.touchesOff off n then [fSplOff] else [])

def Core.load (c : Core) (off n : Nat) : Bytes := c.spool.bytes off n
def Core.store (c : Core) (off : Nat) (bs : Bytes) : Core := { c with spool := c.spool.store off bs }

/-! ### Tags (03 R101) -/

/-- Stacks of which some partial has still to arrive. -/
def AttnJob.stacksLeft (j : AttnJob) : List Nat := (j.left.map (· / j.split)).dedup

/-- Tags that core `c` holds: one per outstanding transfer, one per stack of a teller instruction not yet replied. -/
def Core.tagsHeld (c : Core) : Nat :=
  (c.streams.map fun e => e.2.out.length).sum + (c.attn.map fun e => e.2.stacksLeft.length).sum
    + (c.tel.map fun e => e.2.left.length).sum

def Core.tagsFree (c : Core) : Nat := 64 - c.tagsHeld

/-- Records the peak after tags were taken. -/
def Core.notePeak (c : Core) : Core := { c with tagPeak := max c.tagPeak c.tagsHeld }

/-! ### Slot fill states (03 R90, R91) -/

/-- A producer starts: empty to filling. -/
def Slot.startFill (x : Slot) (u : SlotUser) : Slot := { x with st := .filling, user := u }

/-- The fill of `n` bytes is complete: filling to full. -/
def Slot.endFill (x : Slot) (n : Nat) : Slot :=
  { x with st := .full, user := .none, fillLen := n, remain := x.consume }

/-- A consumer starts: full to draining. -/
def Slot.startUse (x : Slot) (u : SlotUser) : Slot := { x with st := .draining, user := u }

/-- The consumer's last read: draining to full, or to empty with the last consumption. -/
def Slot.endUse (x : Slot) : Slot :=
  { x with st := if x.remain ≤ 1 then .empty else .full, user := .none, remain := x.remain - 1 }

/-- The producing or consuming stream ended early: filling to empty, draining to full. -/
def Slot.abandon (x : Slot) : Slot :=
  match x.st with
  | .filling => { x with st := .empty, user := .none }
  | .draining => { x with st := .full, user := .none }
  | _ => x

/-- Every slot that `u` holds is abandoned. -/
def Core.abandonSlots (c : Core) (u : SlotUser) : Core :=
  { c with slots := c.slots.mapVals fun x => if x.user = u then x.abandon else x }

/-! ### Streams: descriptor fields (03 R95) -/

def descField (d : List W64) (w hi lo : Nat) : Nat := bitsOf (d.getD w 0).toNat hi lo

def dDir (d : List W64) : Nat := descField d 0 1 0
def dEsize (d : List W64) : Nat := 2 ^ descField d 0 4 2
def dNdim (d : List W64) : Nat := descField d 0 7 5
def dTranspose (d : List W64) : Bool := descField d 0 8 8 = 1
def dMcast (d : List W64) : Nat := descField d 0 10 9
def dBase (d : List W64) : Nat := descField d 0 16 11
def dNearSlot (d : List W64) : Bool := descField d 0 17 17 = 1
def dSlot (d : List W64) : Nat := descField d 0 22 18
def dNslot (d : List W64) : Nat := 2 ^ descField d 0 24 23
def dAccType (d : List W64) : Nat := descField d 0 27 25
def dFarBase (d : List W64) : Nat := descField d 1 43 0
def dNearBase (d : List W64) : Nat := descField d 2 18 0
def dTagCap (d : List W64) : Nat := let c := descField d 2 38 32; if c = 0 then 64 else c
def dCount (d : List W64) (k : Nat) : Nat := descField d (3 + k) 19 0
/-- STRIDE_k, signed. -/
def dStride (d : List W64) (k : Nat) : Int := ((d.getD (3 + k) 0).extractLsb' 20 44).toInt

/-- Elements of the descriptor: the product of the used counts. -/
def dElems (d : List W64) : Nat := ((List.range (dNdim d)).map (dCount d)).foldl (· * ·) 1

/-- Bytes that the near side holds. -/
def dBytes (d : List W64) : Nat := dElems d * dEsize d

/-- Index of element `j` in each dimension, dimension 0 first (R96). -/
def dIndex (d : List W64) (j : Nat) : Nat → List Nat
  | 0 => []
  | n + 1 =>
    let k := dNdim d - (n + 1)
    (j % dCount d k) :: dIndex d (j / dCount d k) n

/-- Far address of element `j`. -/
def dFar (d : List W64) (j : Nat) : Int :=
  let ix := dIndex d j (dNdim d)
  ((List.range (dNdim d)).map fun k => (ix.getD k 0 : Int) * dStride d k).foldl (· + ·) (dFarBase d : Int)

/-- A stream has everything delivered and nothing to do (R104). -/
def Stream.quiet (x : Stream) : Bool := x.st = .idle && x.pend = none

/-- A stream without a descriptor; its counts go on. STR_POS of an IDLE stream reads 0, on which the spec is silent (DESIGN
CHOICE, log 126). -/
def Stream.ended (x : Stream) : Stream := { owner := x.owner, doneCount := x.doneCount, rearmLost := x.rearmLost }

/-- STR.CANCEL of stream `n` (R112). -/
def Core.cancelStream (c : Core) (n : Nat) : Core :=
  let x := c.stream n
  match x.st with
  | .running | .halted =>
    let c := c.abandonSlots (.stream n)
    if x.out.isEmpty then c.setStream n x.ended
    else c.setStream n { x with st := .cancelling, pend := none, slotWait := none }
  | .faulted =>
    if x.out.isEmpty then c.setStream n x.ended
    else c.setStream n { x with pend := none, cancelAsked := true }
  | _ => c

/-- Every stream is cancelled (R113, R164). -/
def Core.cancelAll (c : Core) : Core := (List.range 32).foldl (fun c n => c.cancelStream n) c

/-! ### Waits: when an issue condition holds (R91, R120) -/

/-- Whether an engine's queue has room: four deep (02 R69). -/
def Core.room (c : Core) (e : Eng) : Bool := (c.eng e).queue.length < 4

/-- Whether a narrow row is being drained. -/
def Engine.isDraining (x : Engine) (r : Nat) : Bool :=
  match (SMap.get x.rows {} r).st with
  | .draining _ => true
  | _ => false

/-- None of some narrow rows of an engine is draining. -/
def Engine.rowsQuiet (x : Engine) (rows : List Nat) : Bool := rows.all fun r => !x.isDraining r

/-- Remote operations of thread `t` of core `p` that have no reply yet. -/
def State.rmtOpen (s : State) (p t : Nat) : Bool :=
  s.rmt.any fun e => match e.2 with
    | some o => o.core = p && o.thread = t && !o.orphan
    | none => false

def State.rmtFree (s : State) : Bool := (s.rmt.filter fun e => e.2.isSome).length < 4096

/-- Generation of a JOB barrier. -/
def State.jobBar (s : State) (job bar : Nat) : LoomBar := SMap.get s.loom.jobBars {} (16 * job + bar)

/-- The job of the command on core `p`. -/
def State.jobOf (s : State) (p : Nat) : Nat :=
  match s.cmdOf p with
  | some c => (SMap.get s.sched.ctxs {} c.ctx).job
  | none => 0

/-- Whether the condition of a wait holds. CMD.BEGIN and CMD.COMMIT end by events of their own. -/
def State.waitHolds (s : State) (p t : Nat) (w : Wait) : Bool :=
  let c := s.core p
  match w with
  | .slotFull n => (c.slot n).st = .full
  | .slotEmpty n => (c.slot n).st = .empty
  | .slotBoth n m => (c.slot n).st = .full && (c.slot m).st = .full
  | .streamIdle n => (c.stream n).quiet
  | .tags k => k ≤ c.tagsFree
  | .warpTile => !c.fifo.isEmpty
  | .engQueue e => c.room e
  | .engBoth => c.room .e0 && c.room .e1
  | .rowsFree r0 r1 => c.eng0.rowsQuiet r0 && c.eng1.rowsQuiet r1
  | .fence e => (c.eng e).queue.isEmpty
  | .fenceBoth => c.eng0.queue.isEmpty && c.eng1.queue.isEmpty
  | .vecUnit => c.merge.isNone
  | .remoteTag => s.rmtFree
  | .remoteAll => !s.rmtOpen p t
  | .setBar n gen =>
    match s.cmdOf p with
    | some k => gen < (SMap.get k.bars {} n).gen
    | none => true
  | .jobBar n gen => decide (BitVec.ofNat 64 gen < (s.jobBar (s.jobOf p) n).gen)
  | .threads mask => (List.range 8).all fun i => !mask.getLsbD i || (c.thread i).st = .idle
  | .bank n => !SMap.has c.settling n
  | .cmdBegin => false
  | .commit => false

end Sys2Proof.Machine
end

