-- ==== Sys2Proof/Machine/Events.lean ====
section
/-!
DEFINITION. What the device records about itself: the trace (12 R450, R451), the events held for the host (10 R395,
R396), the error log (13 R453 to R456), and ALERT_N.
-/
namespace Sys2Proof.Machine

/-! ### Claims (13 R470) -/

def State.claimed (s : State) (kind index : Nat) : Option Claim :=
  s.claims.find? fun c => c.kind = kind && c.index = index

/-- The GPIOs that are claimed for a function (12 R440). -/
def State.gpiosFor (s : State) (function : Nat) : BitVec 8 :=
  s.claims.foldl (fun a c => if c.kind = 0 ∧ c.function = function then a ||| BitVec.ofNat 8 (2 ^ c.index) else a) 0

/-- Drives the GPIOs that are claimed for a function. -/
def State.drive (s : State) (function : Nat) (high : Bool) : State :=
  let bits := s.gpiosFor function
  { s with sys := { s.sys with gpioOut := if high then s.sys.gpioOut ||| bits else s.sys.gpioOut &&& ~~~bits } }

/-! ### Trace -/

def traceSize : Nat := 32768

/-- Partition `i` triggers with the trigger record at `ix`. -/
def State.traceTrigger (s : State) (i ix : Nat) : State :=
  if (s.fld Fld.dbgStatus_triggered).testBit i then s
  else
    let s := s.setFld Fld.dbgStatus_triggered (s.fld Fld.dbgStatus_triggered ||| 2 ^ i)
    let s := s.setFld (Fld.dbgTracePos_trigIndex i) ix
    let s := { s with traceLeft := SMap.put s.traceLeft i (s.fld (Fld.dbgTraceCfg_post i)) }
    if s.flag (Fld.dbgTraceCfg_trigOut i) then s.drive 2 true else s

/-- Whether partition `i` records: it does while TCLK runs (12 R445). -/
def State.tracing (s : State) (i : Nat) : Bool :=
  s.sys.tclk && (s.claimed 2 i).isSome && s.flag (Fld.dbgTraceCfg_enable i) && !s.flag (Fld.dbgTracePos_stopped i)

/-- Partition `i` takes one record. -/
def State.traceInto (s : State) (src : Nat) (rec : Bytes) (i : Nat) : State :=
  if s.tracing i && (s.fld (Fld.dbgTraceCfg_sources i)).testBit src then
    let ix := s.fld (Fld.dbgTracePos_index i)
    let mode := s.fld (Fld.dbgTraceCfg_mode i)
    let trig := (s.fld Fld.dbgStatus_triggered).testBit i
    let s := { s with trace := s.trace.store (i * 0x100000 + 32 * ix) rec }
    let s := s.setFld (Fld.dbgTracePos_index i) ((ix + 1) % traceSize)
    let s := if ix + 1 = traceSize then s.setFld (Fld.dbgTracePos_wrapped i) 1 else s
    let left := SMap.get s.traceLeft 0 i
    let s :=
      if trig then { s with traceLeft := SMap.put s.traceLeft i (left - 1) }
      else if (s.fld (Fld.dbgTraceCfg_trigMask i)).testBit src then s.traceTrigger i ix else s
    let stop : Bool := (mode == 1 && ix + 1 == traceSize) ||
      (mode == 2 && (s.fld Fld.dbgStatus_triggered).testBit i && SMap.get s.traceLeft 0 i == 0)
    if stop then s.setFld (Fld.dbgTracePos_stopped i) 1 else s
  else s

/-- A trace record of R450 from source bit `src`. -/
def State.traceRec (s : State) (src code core id : Nat) (data : Bytes) : State :=
  let rec' := leBytes s.beat 8 ++ leBytes (2 ^ src) 1 ++ leBytes code 1 ++ leBytes core 2 ++ leBytes id 4 ++
    (data ++ List.replicate 16 0).take 16
  (List.range 8).foldl (fun s i => s.traceInto src rec' i) s

/-! ### Events -/

/-- WHERE of a message: bit 15 valid, row in [12:7], column in [6:0]. -/
def whereWord : Option (Nat × Nat) → Nat
  | some (r, c) => 0x8000 + r * 128 + c
  | none => 0

/-- Raises an event (10 R395): at most 4,096 wait for their delivery; one more discards the oldest. -/
def State.raise (s : State) (code id : Nat) (value : W64) (data : Bytes) (loc : Option (Nat × Nat) := none) : State :=
  let e : Event := ⟨code, s.eth.nextEvent, s.beat, id, value, (data ++ List.replicate 16 0).take 16, loc⟩
  let full : Bool := 4096 ≤ s.eth.evtSent.length + s.eth.events.length
  let n := if full then 1 else 0
  let eth := { s.eth with evtSent := s.eth.evtSent.drop n, events := s.eth.events.drop (n - s.eth.evtSent.length) ++ [e] }
  let s := { s with eth := { eth with nextEvent := s.eth.nextEvent + 1 } }
  let s := if full then s.count Fld.ethEvtDropped_count else s
  s.traceRec 1 1 0xFFFF code (leBytes value.toNat 8)

/-! ### The error log -/

def eVaultUe : Nat := 0x01
def eDieMarked : Nat := 0x02
def eStackFailed : Nat := 0x03
def eLaneSpared : Nat := 0x04
def eBundleLost : Nat := 0x05
def ePortFailed : Nat := 0x06
def eWarpMismatch : Nat := 0x07
def eCoreRetired : Nat := 0x08
def eClerkRestart : Nat := 0x09
def eClerkFailed : Nat := 0x0A
def eCalInvalid : Nat := 0x0B
def eRegrade : Nat := 0x0C
def eDeviceFault : Nat := 0x0D
def eLoomFault : Nat := 0x0E

/-- SEVERITY of each class (R454). -/
def severityOf (cls : Nat) : Nat :=
  if cls = eWarpMismatch ∨ cls = eClerkRestart then 1
  else if cls = eStackFailed ∨ cls = eDeviceFault ∨ cls = eLoomFault then 3 else 2

/-- Makes an entry of the error log (R453 to R456): the entry, OVERWRITTEN, ERR_COUNT, ALERT, and ERROR_LOGGED unless
its class has raised one within 17,500 beats or TCLK stands still (12 R445). -/
def State.logError (s : State) (cls unit : Nat) (a b : W64) : State :=
  let n := s.fld Fld.errStatus_next
  let full : Bool := 1024 ≤ n || s.fld Fld.errStatus_overwritten != 0
  let w0 := BitVec.ofNat 64 (n * 2 ^ 32 + cls * 2 ^ 16 + severityOf cls * 2 ^ 12 + unit % 2048)
  let i := n % 1024
  let s := s.setRaw (Reg.errLog i 0) w0
  let s := s.setRaw (Reg.errLog i 1) (BitVec.ofNat 64 s.beat)
  let s := s.setRaw (Reg.errLog i 2) a
  let s := s.setRaw (Reg.errLog i 3) b
  let s := s.countWrap Fld.errStatus_next
  let s := if full then s.count Fld.errStatus_overwritten else s
  let s := s.count (Fld.errCount_count cls)
  let lvl := s.fld Fld.errCtrl_alertLevel
  let s := if lvl ≠ 0 ∧ lvl ≤ severityOf cls then s.setFld Fld.errStatus_alert 1 else s
  let quiet : Bool := !s.sys.tclk || (SMap.has s.eth.errWindow cls && s.beat < SMap.get s.eth.errWindow 0 cls)
  if quiet then s
  else
    let s := { s with eth := { s.eth with errWindow := SMap.put s.eth.errWindow cls (s.beat + 17500) } }
    s.raise 0x0040 0 (BitVec.ofNat 64 n) (leBytes w0.toNat 8 ++ leBytes a.toNat 8)

/-- The level of ALERT_N (R456): low while bring-up is held, while FAULTED, and while ERR_STATUS.ALERT is 1. -/
def State.alertN (s : State) : Bool :=
  !(s.sys.bringupHeld || s.devState = stFaulted || s.flag Fld.errStatus_alert)

/-- A change of DEV_STATE with its event (10 R396): none where the device is in that state already. -/
def State.changeState (s : State) (st phase cause : Nat) : State :=
  let t := s.setDevState st phase cause
  if s.devState = st then t else t.raise 0x0001 0 (t.raw Reg.devState) []

/-- A thread fault with its trace record (12 R450): ID the context, DATA the command's SEQ. -/
def State.faultThread (s : State) (p t code : Nat) : State :=
  let s := s.threadFault p t code
  match s.cmdOf p with
  | some c => s.traceRec 4 code ((s.logicalOf p).getD 0xFFFF) c.ctx (leBytes c.seq.toNat 8)
  | none => s

/-- A fault of a stream or an engine: on its owning thread, or on thread 0 once that thread has ended (R156). -/
def State.faultFor (s : State) (p t code : Nat) : State :=
  if (s.thread p t).st = .idle then s.faultThread p 0 code else s.faultThread p t code

/-- GPIOs whose function is a pulse of one beat: BEAT_MARK, TRACE_TRIG_OUT, LEDG_PULSE (12 R440). -/
def State.pulses (s : State) : BitVec 8 := s.gpiosFor 0 ||| s.gpiosFor 2 ||| s.gpiosFor 4

/-! ### Temperature (05 R184, 12 R438) -/

/-- The highest die or stack reading. -/
def State.hottest (s : State) : Nat :=
  let die := s.sys.dieTemps.foldl (fun a e => max a e.2) 0
  (List.range nStacks).foldl (fun a st => max a (s.fld (Fld.vltStatus_temp st))) die

/-- Stores a reading; above 85 °C a stack refreshes at twice the rate. -/
def State.storeReading (s : State) (src : TempSource) (temp : Nat) : State := match src with
  | .die n => { s with sys := { s.sys with dieTemps := SMap.put s.sys.dieTemps n temp } }
  | .stack st => (s.setFld (Fld.vltStatus_temp st) temp).setFld (Fld.vltStatus_refresh2x st) (if 85 < temp then 1 else 0)

/-- DATA of THERMAL_WARN. -/
def sourceData : TempSource → Bytes
  | .die n => [0, BitVec.ofNat 8 n]
  | .stack n => [1, BitVec.ofNat 8 n]

/-- A reading arrives: THERM_WARN follows the highest one, and the first to reach WARN raises THERMAL_WARN. -/
def State.takeReading (s : State) (src : TempSource) (temp : Nat) : State :=
  let s := s.storeReading src temp
  let warn := s.fld Fld.pwrTherm_warn
  let s := s.drive 5 (warn ≤ s.hottest)
  if warn ≤ temp then
    if s.sys.warned then s
    else { s with sys := { s.sys with warned := true } }.raise 0x0042 0 (BitVec.ofNat 64 temp) (sourceData src)
  else if s.hottest < warn - s.fld Fld.pwrTherm_release then { s with sys := { s.sys with warned := false } }
  else s

end Sys2Proof.Machine
end

