-- ==== Sys2Proof/Machine/Operands.lean ====
section
/-!
DEFINITION. The issue of a Poilo instruction and its operand forms: which field bits an instruction may carry
(04 R126, R127), the entry checks of R119 and R129, the lowest of several fault codes (R167), waits (R120), the scalar
source operand (R128), spool addresses (R130), vector addresses (R132, R148), and slot references (R138, R492).
-/
namespace Sys2Proof.Machine

/-! ### Fields of the word -/

/-- IMM sign-extended to 64 bits. -/
def immS (w : IWord) : W64 := w.imm.signExtend 64

/-- Bits `hi` to `lo` of IMM. -/
def immBits (w : IWord) (hi lo : Nat) : Nat := bitsOf w.imm.toNat hi lo

/-- Bits `hi` to `lo` of MOD. -/
def modBits (w : IWord) (hi lo : Nat) : Nat := bitsOf w.mod.toNat hi lo

/-- ILLEGAL where a field outside the used ones is not zero (R127): `ua`, `ub`, `uc` say which register fields are
used, the masks which bits of MOD and IMM. -/
def unused (w : IWord) (ua ub uc : Bool) (modMask : BitVec 6) (immMask : BitVec 32) : List Nat :=
  if (!ua && w.a != 0) || (!ub && w.b != 0) || (!uc && w.c != 0) || (w.mod &&& ~~~modMask) != 0 ||
      (w.imm &&& ~~~immMask) != 0 then [fIllegal] else []

/-- ILLEGAL where a vector register field names v16 to v31 (R124). -/
def vecReg (r : BitVec 5) : List Nat := if 16 ≤ r.toNat then [fIllegal] else []

/-- ILLEGAL where a predicate register field names p8 to p31 (R124). -/
def predReg (r : BitVec 5) : List Nat := if 8 ≤ r.toNat then [fIllegal] else []

/-- A fault code where a rule is broken. -/
def codeIf (broken : Bool) (code : Nat) : List Nat := if broken then [code] else []

/-- ILLEGAL_VM1 in VM1 program mode (R169). -/
def noVm1 (s : State) (p : Nat) : List Nat := codeIf (s.core p).vm1 fIllegalVm1

/-! ### Issue -/

/-- Bytes of the code image of the program that runs on core `p`. -/
def State.codeSize (s : State) (p : Nat) : Nat :=
  match s.cmdOf p with
  | some c => match SMap.get s.sched.programs none (SMap.get s.sched.ctxs {} c.ctx).program with
    | some pr => pr.codeSize
    | none => 0
  | none => 0

/-- Whether thread `t` of core `p` can issue: the core clock runs, the core issues and the thread is ready. -/
def State.canIssue (s : State) (p t : Nat) : Bool :=
  s.sys.tclk && !(s.core p).stopped && !(s.core p).saving && (s.thread p t).st = .ready

/-- Codes broken whatever the instruction does: the first instruction of a command that is not CMD.BEGIN (R119), and a
PC whose instruction does not lie within the code image (R129). -/
def entryCodes (s : State) (p t size : Nat) (isBegin : Bool) : List Nat :=
  codeIf ((s.core p).phase = .dispatched && t = 0 && !isBegin) fCmdOrder ++
  codeIf (s.codeSize p < (s.thread p t).pc.toNat + size) fPcAddr

/-- Thread `t` issued last. -/
def Core.issuedBy (c : Core) (t : Nat) : Core := { c with lastThread := t }

/-- The PC passes an instruction of `size` bytes. -/
def Thread.pass (th : Thread) (size : Nat) : Thread := { th with pc := th.pc + BitVec.ofNat 64 size }

/-- The issue slot is used: `t` issued last, and its PC passes the instruction. -/
def State.passed (s : State) (p t size : Nat) : State :=
  s.modCore p fun c => (c.modThread t (·.pass size)).issuedBy t

/-- What the issue of an instruction of `size` bytes does: nothing where the thread cannot issue (log 15); the fault of
the lowest broken code; a wait where the issue condition does not hold; its effect otherwise. -/
def issueTo (p t size : Nat) (isBegin : Bool) (codes : List Nat) (wait : Option Wait) (eff : State → State)
    (s : State) : State :=
  if s.canIssue p t then
    match lowest (entryCodes s p t size isBegin ++ codes) with
    | some code => s.faultThread p t code
    | none =>
      match wait with
      | some w => s.startWait p t w
      | none => eff (s.passed p t size)
  else s

/-- An S-form instruction. -/
def issue (p t : Nat) (codes : List Nat) (wait : Option Wait) (eff : State → State) (s : State) : Out :=
  onUnit (p < nCores && t < 8) (issueTo p t 8 false codes wait eff s)

/-- An X-form instruction. -/
def issueX (p t : Nat) (codes : List Nat) (wait : Option Wait) (eff : State → State) (s : State) : Out :=
  onUnit (p < nCores && t < 8) (issueTo p t 16 false codes wait eff s)

/-- A wait where its condition does not hold. -/
def waitFor (s : State) (p t : Nat) (w : Wait) : Option Wait := if s.waitHolds p t w then none else some w

/-- The first wait of a list that applies. -/
def firstWait : List (Option Wait) → Option Wait
  | [] => none
  | some w :: _ => some w
  | none :: ws => firstWait ws

/-- Writes gN of a thread. -/
def State.wg (s : State) (p t : Nat) (r : BitVec 5) (v : W64) : State := s.modThread p t (·.wg r.toNat v)

/-- gN of a thread. -/
def State.rg (s : State) (p t : Nat) (r : BitVec 5) : W64 := (s.thread p t).rg r.toNat

/-! ### Operand forms -/

/-- The second source of an SCL operation: gC, or IMM sign-extended when MOD bit 0 is 1 (R128). -/
def sclSrc (s : State) (p t : Nat) (w : IWord) : W64 := if w.mod.getLsbD 0 then immS w else s.rg p t w.c

/-- The address gB + IMM of R130, as a 64-bit number. -/
def splAddr (s : State) (p t : Nat) (w : IWord) : Nat := (s.rg p t w.b + immS w).toNat

/-- The wait for a settling bank that an access touches (03 R86). -/
def bankWait (s : State) (p off n : Nat) : Option Wait := ((s.core p).settlingBank off n).map .bank

/-- Codes of a thread's spool access of `n` bytes at `off` that must be aligned to `align` (R130, R148, R85). -/
def splCodes (s : State) (p off n align : Nat) : List Nat :=
  codeIf (off % align ≠ 0) fSplAddr ++ (s.core p).spoolFaults off n

/-- Whether VEC.LD or VEC.ST names a slot (R132). -/
def vecSlotForm (w : IWord) : Bool := w.imm.getLsbD 31

/-- Slot number of the slot form. -/
def vecSlot (s : State) (p t : Nat) (w : IWord) : Nat := (s.rg p t w.b).toNat % 32

/-- Offset within the slot. -/
def vecSlotOff (w : IWord) : Nat := immBits w 18 0

/-- Spool offset of a VEC.LD or VEC.ST: gB + IMM[30:0] signed, or the slot's base plus the offset within it (R132). -/
def vecAddr (s : State) (p t : Nat) (w : IWord) : Nat :=
  if vecSlotForm w then ((s.core p).slot (vecSlot s p t w)).base + vecSlotOff w
  else (s.rg p t w.b + (w.imm.extractLsb' 0 31).signExtend 64).toNat

/-- A slot reference of R138: slot number and byte offset. -/
def refSlot (r : W64) : Nat := r.toNat % 32
def refOff (r : W64) : Nat := bitsOf r.toNat 47 32

/-- SLT_BUSY where the slot is unbound (R492). -/
def slotBound (s : State) (p n : Nat) : List Nat := codeIf (!((s.core p).slot n).bound) fSltBusy

/-- Spool address that a slot reference or a plain offset names. -/
def refAddr (s : State) (p : Nat) (isSlot : Bool) (r : W64) : Nat :=
  if isSlot then ((s.core p).slot (refSlot r)).base + refOff r else r.toNat

/-- Spool address of an operand of R492: the slot's base, or a plain offset. -/
def slotAddr (s : State) (p : Nat) (isSlot : Bool) (r : W64) : Nat :=
  if isSlot then ((s.core p).slot (refSlot r)).base else r.toNat

/-- SLOT wait of R91: the producer needs an empty slot, the consumer a full one. -/
def needEmpty (s : State) (p t n : Nat) : Option Wait := waitFor s p t (.slotEmpty n)
def needFull (s : State) (p t n : Nat) : Option Wait := waitFor s p t (.slotFull n)

/-- Lane mask of a VEC instruction: the predicate that MOD[5:3] names (R143). -/
def vecMask (s : State) (p t : Nat) (w : IWord) : BitVec 128 := (s.thread p t).rp (modBits w 5 3)

/-- Lane `l` of vN of a thread. -/
def State.rv (s : State) (p t : Nat) (r : BitVec 5) (l : Nat) : W32 := (s.thread p t).lane r.toNat l

/-- Writes the masked lanes of vN. -/
def State.wv (s : State) (p t : Nat) (r : BitVec 5) (mask : BitVec 128) (f : Nat → W32) : State :=
  s.modThread p t (·.wLanes r.toNat mask f)

end Sys2Proof.Machine
end

