-- ==== Sys2Proof/Machine/SpoolSlot.lean ====
section
/-!
DEFINITION. Spool, slot and stream instructions (04 R130 to R133; 03 R82, R87 to R91, R95 to R97, R108 to R112).
-/
namespace Sys2Proof.Machine

/-! ### SPL -/

/-- Bytes that SPL.LD, SPL.LDS and SPL.ST move: 2^MOD[1:0]. -/
def splSize (w : IWord) : Nat := 2 ^ modBits w 1 0

def splMemCodes (s : State) (p t : Nat) (w : IWord) : List Nat :=
  unused w true true false 0b000011 0xFFFFFFFF ++ splCodes s p (splAddr s p t w) (splSize w) (splSize w)

/-- The value at the address, as an unsigned number. -/
def splValue (s : State) (p t : Nat) (w : IWord) : Nat := leNat ((s.core p).load (splAddr s p t w) (splSize w))

/-- SPL.LD (R130): zero-extended load. -/
def execSplLd (p t : Nat) (w : IWord) (s : State) : Out :=
  issue p t (splMemCodes s p t w) (bankWait s p (splAddr s p t w) (splSize w))
    (fun s' => s'.wg p t w.a (BitVec.ofNat 64 (splValue s p t w))) s

/-- Sign extension of an `n`-byte value. -/
def signExtendBytes (n v : Nat) : W64 := if v < 2 ^ (8 * n - 1) then BitVec.ofNat 64 v else BitVec.ofInt 64 (v - 2 ^ (8 * n))

/-- SPL.LDS (R130): sign-extended load. -/
def execSplLds (p t : Nat) (w : IWord) (s : State) : Out :=
  issue p t (splMemCodes s p t w) (bankWait s p (splAddr s p t w) (splSize w))
    (fun s' => s'.wg p t w.a (signExtendBytes (splSize w) (splValue s p t w))) s

/-- SPL.ST (R130): stores the low bytes of gA. -/
def execSplSt (p t : Nat) (w : IWord) (s : State) : Out :=
  issue p t (splMemCodes s p t w) (bankWait s p (splAddr s p t w) (splSize w))
    (fun s' => s'.modCore p (·.store (splAddr s p t w) (leBytes (s.rg p t w.a).toNat (splSize w)))) s

/-- One lane of SPL.ACC into a core's spool; the flag is the sticky saturation so far. -/
def accLane (type base : Nat) (x : Nat → W32) (c : Core × Bool) (l : Nat) : Core × Bool :=
  let k := accSize type
  let r := accElem type (c.1.load (base + k * l) k) (x l)
  (c.1.store (base + k * l) r.1, c.2 || r.2)

/-- SPL.ACC (R130, 03 R82): lane l of vA, where pC selects it, goes to element l. -/
def execSplAcc (p t : Nat) (w : IWord) (s : State) : Out :=
  let type := modBits w 1 0
  let n := 128 * accSize type
  let a := splAddr s p t w
  let mask := (s.thread p t).rp w.c.toNat
  issue p t (unused w true true true 0b000011 0xFFFFFFFF ++ vecReg w.a ++ predReg w.c ++ codeIf (type = 3) fIllegal ++
      splCodes s p a n n) (bankWait s p a n)
    (fun s' =>
      let r := (lanes.filter fun l => mask.getLsbD l).foldl (accLane type a (s.rv p t w.a)) (s'.core p, false)
      (s'.setCore p r.1).modThread p t fun th => { th with sat := th.sat || r.2 }) s

/-! ### SLT -/

def sltNo (w : IWord) : Nat := immBits w 4 0

/-- A binding rule of R87 is broken. -/
def bindBad (c : Core) (n base len count : Nat) : Bool :=
  base % 256 ≠ 0 || len % 256 ≠ 0 || len < 256 || 65536 < len || spoolSize < base + len || count = 0 ||
  c.slots.any fun e => e.1 ≠ n && e.2.bound && base < e.2.base + e.2.len && e.2.base < base + len

/-- SLT.BIND (R131, 03 R87). -/
def execSltBind (p t : Nat) (w : IWord) (s : State) : Out :=
  let n := sltNo w
  let base := (s.rg p t w.a).toNat
  let len := (s.rg p t w.b).toNat
  let count := immBits w 15 8
  let x := (s.core p).slot n
  issue p t (unused w true true false 0 0xFF1F ++ codeIf (bindBad (s.core p) n base len count) fSltBind ++
      codeIf (x.bound && x.st ≠ .empty) fSltBusy) none
    (fun s' => s'.modCore p (·.setSlot n { bound := true, base := base, len := len, consume := count })) s

/-- SLT.UNBIND (R131, 03 R88). -/
def execSltUnbind (p t : Nat) (w : IWord) (s : State) : Out :=
  let x := (s.core p).slot (sltNo w)
  issue p t (unused w false false false 0 0x1F ++ codeIf (x.bound && x.st ≠ .empty) fSltBusy) none
    (fun s' => if x.bound then s'.modCore p (·.setSlot (sltNo w) { x with bound := false }) else s') s

/-- Codes of the fill states (table SLT_n). -/
def SlotSt.code : SlotSt → Nat
  | .empty => 0
  | .filling => 1
  | .full => 2
  | .draining => 3

/-- SLT_n (03 R117). -/
def Slot.word (x : Slot) : W64 :=
  BitVec.ofNat 64 (x.fillLen * 2 ^ 47 + x.remain * 2 ^ 39 + x.consume * 2 ^ 31 + x.len / 256 * 2 ^ 22 +
    x.base / 256 * 2 ^ 11 + (if x.bound then 8 else 0) + x.st.code)

/-- SLT.STATE (R131): gA becomes SLT_n. -/
def execSltState (p t : Nat) (w : IWord) (s : State) : Out :=
  issue p t (unused w true false false 0 0x1F) none
    (fun s' => s'.wg p t w.a ((s.core p).slot (sltNo w)).word) s

/-- SLT.FILL (R131): completes the vector fill of this thread. -/
def execSltFill (p t : Nat) (w : IWord) (s : State) : Out :=
  let n := sltNo w
  let x := (s.core p).slot n
  let len := (s.rg p t w.a).toNat
  issue p t (unused w true false false 0 0x1F ++ slotBound s p n ++
      codeIf (x.st ≠ .filling || x.user ≠ .thread t || x.len < len) fSltBusy) none
    (fun s' => s'.modCore p (·.setSlot n (x.endFill len))) s

/-- SLT.REL (R131): ends the vector consumption of this thread. -/
def execSltRel (p t : Nat) (w : IWord) (s : State) : Out :=
  let n := sltNo w
  let x := (s.core p).slot n
  issue p t (unused w false false false 0 0x1F ++ slotBound s p n ++
      codeIf (x.st ≠ .draining || x.user ≠ .thread t) fSltBusy) none
    (fun s' => s'.modCore p (·.setSlot n x.endUse)) s

/-! ### STR -/

/-- Descriptor register dN as eight words. -/
def Core.descReg (c : Core) (i : Nat) : List W64 := (List.range 8).map fun k => SMap.get c.desc 0 (8 * i + k)

def Core.setDescWord (c : Core) (i k : Nat) (v : W64) : Core := { c with desc := SMap.set c.desc 0 (8 * i + k) v }

def State.ctx (s : State) (k : Nat) : Context := SMap.get s.sched.ctxs {} k
def State.part (s : State) (k : Nat) : Option Partition := SMap.get s.sched.parts none k

/-- The context whose lattice is the heddle map of a base for the command on core `p`: its own context where that names
the base, else a context of its job that has the core in its lattice of the base. -/
def State.latticeCtx (s : State) (c : RunCmd) (n base : Nat) : Option Context :=
  let own := s.ctx c.ctx
  if own.base = base then some own
  else (s.sched.ctxs.find? fun e => e.2.st = .launched && e.2.job = own.job && e.2.base = base && e.2.lat.contains n).map (·.2)

/-- The heddle map of a base as core `p` sees it in its launch (04 R125, 01 R29): its context, weight group, session group;
none if the base has none or the core is outside its lattice. -/
def heddle (s : State) (p base : Nat) : Option (Context × Nat × Nat) :=
  match s.cmdOf p, s.logicalOf p with
  | some c, some n => (s.latticeCtx c n base).bind fun k => (k.latPlace n).map fun g => (k, g.1, g.2)
  | _, _ => none

/-- A descriptor that STR.ARM refuses with STR_DESC (03 R97, R98, R114). -/
def descBad (s : State) (p : Nat) (d : List W64) : Bool :=
  let c := s.core p
  descField d 0 63 28 ≠ 0 || descField d 1 63 44 ≠ 0 || descField d 2 63 39 ≠ 0 || descField d 2 31 19 ≠ 0 ||
  dDir d = 3 || dMcast d = 3 || 3 ≤ dAccType d || descField d 0 24 23 = 3 ||
  dNdim d = 0 || 5 < dNdim d || (List.range (dNdim d)).any (fun k => dCount d k = 0) || 2 ^ 40 < dElems d ||
  64 < descField d 2 38 32 ||
  (!dNearSlot d && spoolSize < dNearBase d + dBytes d) ||
  (dNearSlot d && (32 < dSlot d + dNslot d || (List.range (dNslot d)).any fun i =>
    !(c.slot (dSlot d + i)).bound || (c.slot (dSlot d + i)).len ≠ (c.slot (dSlot d)).len)) ||
  (dAccType d ≠ 0 && dDir d ≠ 2) ||
  (dTranspose d && (dDir d ≠ 0 || dNdim d ≠ 2 || 4 < dEsize d || 256 < dCount d 0 || 256 < dCount d 1 ||
    0x20000000000 ≤ dFarBase d)) ||
  (dMcast d ≠ 0 && (dDir d ≠ 0 || (heddle s p (dBase d)).isNone))

def strNo (w : IWord) : Nat := immBits w 4 0

/-- A stream that starts descriptor `d` for thread `t`; its counts go on. -/
def Stream.start (x : Stream) (d : List W64) (t slotLen : Nat) : Stream :=
  { st := .running, desc := d, owner := t, doneCount := x.doneCount, rearmLost := x.rearmLost, slotLen := slotLen }

/-- Slots of other cores that multicast stream `n` of core `p` fills are abandoned with it (03 R90, R115). -/
def State.abandonMcast (s : State) (p n : Nat) : State :=
  { s with cores := s.cores.mapVals fun c => c.abandonSlots (.mcast p n) }

/-- STR.ARM (R133, 03 R97, R109 to R111). -/
def execStrArm (p t : Nat) (w : IWord) (s : State) : Out :=
  let n := strNo w
  let d := (s.core p).descReg w.b.toNat
  let x := (s.core p).stream n
  issue p t (unused w false true false 0 0x1F ++ (if dMcast d ≠ 0 then noVm1 s p else []) ++
      codeIf (descBad s p d) fStrDesc ++ codeIf (x.st = .cancelling || x.st = .faulted) fStrState) none
    (fun s' => s'.modCore p fun c => c.setStream n (
      if x.st = .idle then x.start d t (c.slot (dSlot d)).len
      else { x with pend := some (d, t), rearmLost := x.rearmLost || x.pend.isSome })) s

/-- STR.CANCEL (R133, 03 R112). -/
def execStrCancel (p t : Nat) (w : IWord) (s : State) : Out :=
  issue p t (unused w false false false 0 0x1F) none (fun s' =>
    let s' := s'.modCore p (·.cancelStream (strNo w))
    if dMcast ((s.core p).stream (strNo w)).desc ≠ 0 then s'.abandonMcast p (strNo w) else s') s

/-- STR.WAIT (R133, 03 R108): waits until the stream is IDLE with no pending descriptor. -/
def execStrWait (p t : Nat) (w : IWord) (s : State) : Out :=
  let x := (s.core p).stream (strNo w)
  issue p t (unused w false false false 0 0x1F ++ codeIf (x.st = .faulted) x.fault)
    (waitFor s p t (.streamIdle (strNo w))) id s

/-- STR.DLD (R133): dA takes the 64 bytes at gB + IMM. -/
def execStrDld (p t : Nat) (w : IWord) (s : State) : Out :=
  let a := splAddr s p t w
  issue p t (unused w true true false 0 0xFFFFFFFF ++ splCodes s p a 64 64) (bankWait s p a 64)
    (fun s' => s'.modCore p fun c => (List.range 8).foldl
      (fun c k => c.setDescWord w.a.toNat k (BitVec.ofNat 64 (leNat ((s.core p).load (a + 8 * k) 8)))) c) s

/-- STR.DSET (R133): word MOD[2:0] of dA becomes gB. -/
def execStrDset (p t : Nat) (w : IWord) (s : State) : Out :=
  issue p t (unused w true true false 0b000111 0) none
    (fun s' => s'.modCore p (·.setDescWord w.a.toNat (modBits w 2 0) (s.rg p t w.b))) s

/-- Codes of the stream states (R104). -/
def StreamSt.code : StreamSt → Nat
  | .idle => 0
  | .running => 1
  | .halted => 2
  | .cancelling => 3
  | .faulted => 4

/-- STR_STATUS_s (03 R117). -/
def Stream.word (x : Stream) : W64 :=
  BitVec.ofNat 64 (x.doneCount % 65536 * 2 ^ 32 + x.owner * 2 ^ 24 + x.fault * 2 ^ 16 + x.out.length * 2 ^ 8 +
    (if x.slotWait.isSome then 32 else 0) + (if x.rearmLost then 16 else 0) + (if x.pend.isSome then 8 else 0) +
    x.st.code)

/-- STR.STATUS (R133): gA becomes STR_STATUS_s. -/
def execStrStatus (p t : Nat) (w : IWord) (s : State) : Out :=
  issue p t (unused w true false false 0 0x1F) none
    (fun s' => s'.wg p t w.a ((s.core p).stream (strNo w)).word) s

end Sys2Proof.Machine
end

