-- ==== Sys2Proof/Machine/Vaddr.lean ====
section
/-!
DEFINITION. Vault addresses (05 R174 to R176), the address windows (03 R79, R99), vault bytes, the ledger's
counters (08 R334, R335), and the holders of vault pages (11 R422, 07 R297).
-/
namespace Sys2Proof.Machine

/-! ### Addresses -/

/-- The stack of a physical address: PA[15:12] (R174). -/
def stackOf (pa : Nat) : Nat := pa / 4096 % 16

/-- Stack-local offset L = (PA[39:16] << 12) | PA[11:0]. -/
def localOff (pa : Nat) : Nat := pa / 65536 * 4096 + pa % 4096

/-- Line address L[35:6] of a physical address. -/
def lineAddr (pa : Nat) : Nat := localOff pa / 64

/-- The physical address of line address `la` of stack `st`. -/
def lineToPa (st la : Nat) : Nat := la / 64 * 65536 + st * 4096 + la % 64 * 64

def aliasBase : Nat := 0x10000000000
def windowBase : Nat := 0x20000000000

/-- The interleaved address that a stack-linear window names (R175). -/
def unalias (a : Nat) : Nat :=
  if aliasBase ≤ a ∧ a < windowBase then
    let r := a - aliasBase
    let st := r / 2 ^ 36
    let l := r % 2 ^ 36
    l / 4096 * 65536 + st * 4096 + l % 4096
  else a

/-- What a program address of a context names (R176). -/
inductive Where where
  | at (pa : Nat)
  | host (page : Nat)
  | unmapped
  deriving DecidableEq, Repr

def pageBytes : Nat := 0x200000

/-- Translation of a program address of context `k`. -/
def State.translate (s : State) (k a : Nat) : Where :=
  let v := unalias a
  if windowBase ≤ a then .unmapped
  else
    match SMap.get (s.ctx k).pages .unmapped (v / pageBytes) with
    | .resident frame => .at (frame * pageBytes + v % pageBytes)
    | .hostBacked => .host (v / pageBytes)
    | .unmapped => .unmapped

/-- Bytes of one translation page in each stack, 128 KiB of stack-linear addresses (R174, R175). An aligned run of as many
interleaved or alias addresses lies in one translation page. -/
def aliasStep : Nat := 0x20000

/-- Whether all of a program range is mapped to the context, resident or not. -/
def State.mapped (s : State) (k a n : Nat) : Bool :=
  n = 0 || (a + n ≤ windowBase && (List.range (ceilDiv (a % aliasStep + n) aliasStep)).all fun i =>
    s.translate k (a / aliasStep * aliasStep + i * aliasStep) ≠ .unmapped)

/-- Whether a program address is mapped to the context for writing. A weft is mapped read-only (07 R294, 08 R310); the spec
does not say what a write to one does: it counts as unmapped for the write (log 132). -/
def State.writable (s : State) (k a : Nat) : Bool :=
  match s.translate k a with
  | .at x => match (SMap.get s.vpages {} (x / 0x10000)).now with
    | .weft _ => false
    | _ => true
  | _ => false

/-- Whether all of a program range is mapped to the context, and may be written. -/
def State.mappedRw (s : State) (k a n : Nat) : Bool :=
  n = 0 || (a + n ≤ windowBase && (List.range (ceilDiv (a % aliasStep + n) aliasStep)).all fun i =>
    s.writable k (a / aliasStep * aliasStep + i * aliasStep))

/-- Physical address of a program address, 0 where it is not resident; used after a check. -/
def State.pa (s : State) (k a : Nat) : Nat :=
  match s.translate k a with
  | .at x => x
  | _ => 0

/-! ### Vault bytes -/

def State.vload (s : State) (pa n : Nat) : Bytes := s.vault.bytes pa n
def State.vstore (s : State) (pa : Nat) (bs : Bytes) : State := { s with vault := s.vault.store pa bs }
def State.vzero (s : State) (pa n : Nat) : State := { s with vault := s.vault.zero pa (pa + n) }

/-- Zeroes a run of whole 64 KiB blocks, a sixteenth of it in each stack, which counts what it writes (05 R211). -/
def State.wipe (s : State) (pa n : Nat) : State :=
  (List.range 16).foldl (fun s st => s.countWrap (Fld.vltWrBytes_bytes st) (n / 16)) (s.vzero pa n)

/-- The bytes of a program range; a byte that is not resident counts as 0 (used after a check). -/
def State.pload (s : State) (k a n : Nat) : Bytes := (List.range n).map fun i =>
  match s.translate k (a + i) with
  | .at x => s.vault.byte x
  | _ => 0

/-- Stores a run of bytes at a program range, where it is resident. -/
def State.pstore (s : State) (k a : Nat) (bs : Bytes) : State :=
  { s with vault := (bs.zip (List.range bs.length)).foldl (fun m e =>
      match s.translate k (a + e.2) with
      | .at x => SMap.set m 0 x e.1
      | _ => m) s.vault }

/-! ### The ledger (08 R334, R335) -/

def lEngine : Nat := 0
def lVault : Nat := 1
def lLink : Nat := 2
def lEth : Nat := 3
def lEnergy : Nat := 4
def lCommands : Nat := 5
def lKilled : Nat := 6
def lFaulted : Nat := 7
def lTokens : Nat := 8
def lUnserved : Nat := 9

def sharedAcct : Nat := 0xFFFF

/-- Adds to a counter of an account; it stops at all ones. An account that does not exist counts nothing. -/
def State.charge (s : State) (acct counter n : Nat) : State :=
  match SMap.get s.ledger.accounts none acct with
  | none => s
  | some a =>
    let v := min (SMap.get a.counters 0 counter + n) (2 ^ 64 - 1)
    let a' : Account := { a with counters := SMap.put a.counters counter v,
                                 inc := SMap.put a.inc counter (SMap.get a.inc 0 counter + n) }
    { s with ledger := { s.ledger with accounts := SMap.put s.ledger.accounts acct (some a') } }

/-! ### Holders of 64 KiB pages -/

def vpageBytes : Nat := 0x10000
def nVpages : Nat := 16777216

def State.vpage (s : State) (n : Nat) : VPage := SMap.get s.vpages {} n

/-- Whether page `n` is free. -/
def State.vfree (s : State) (n : Nat) : Bool := (s.vpage n).now = .free

/-- Number of free 64 KiB pages. -/
def State.freePages (s : State) : Nat := nVpages - (s.vpages.filter fun e => e.2.now ≠ .free).length

/-- The lowest `count` free runs of `len` pages aligned to `len`, looking from `start`; `fuel` bounds the search. -/
def State.findRuns (s : State) (len : Nat) : Nat → Nat → Nat → List Nat
  | 0, _, _ => []
  | _, _, 0 => []
  | fuel + 1, start, count + 1 =>
    if nVpages < start + len then []
    else if (List.range len).all fun i => s.vfree (start + i) then
      start :: s.findRuns len fuel (start + len) count
    else s.findRuns len fuel (start + len) (count + 1)

/-- Enough search steps to pass every listed page and find `count` runs. -/
def State.searchFuel (s : State) (count : Nat) : Nat := s.vpages.length + count + 1

/-- Client that a holder works for, where it works for one (11 R422). -/
def State.holderClient (s : State) : Holder → Option Nat
  | .client c => some c
  | .weft w => (SMap.get s.warp.wefts none w).map (·.client)
  | .session n => (SMap.get s.sessions none n).map (·.client)
  | .save k => some (s.ctx k).client
  | .reduction k => some (s.ctx k).client
  | _ => none

/-- Gives page `n` to a holder; it is zeroed when it last held another client's data, a shard, a program or a save
area (11 R422). -/
def State.takePage (s : State) (h : Holder) (client : Option Nat) (n : Nat) : State :=
  let old := s.vpage n
  let shared := match old.last with
    | .shard _ | .staged _ | .program _ | .save _ => true
    | _ => false
  let clean : Bool := old.last = .free || (!shared && old.lastClient = client && client.isSome)
  let s := if clean then s else (s.wipe (n * vpageBytes) vpageBytes).charge sharedAcct lVault vpageBytes
  { s with vpages := SMap.put s.vpages n ⟨h, h, client⟩ }

/-- Frees page `n`; what it last held is remembered. -/
def State.freePage (s : State) (n : Nat) : State :=
  { s with vpages := SMap.put s.vpages n { s.vpage n with now := .free } }

/-- Frees every page of a holder. -/
def State.freeHeld (s : State) (h : Holder) : State :=
  { s with vpages := s.vpages.mapVals fun v => if v.now = h then { v with now := .free } else v }

/-- Pages of one 2 MiB frame. -/
def framePages : Nat := 32

/-- Frees whole 2 MiB frames. -/
def State.freeFrames (s : State) (frames : List Nat) : State :=
  frames.foldl (fun (s : State) (f : Nat) => (List.range framePages).foldl (fun s i => s.freePage (f * framePages + i)) s) s

/-- Takes `count` runs of `len` pages for a holder; none when they cannot be found. -/
def State.takeRuns (s : State) (len count : Nat) (h : Holder) (client : Option Nat) : Option (List Nat × State) :=
  let rs := s.findRuns len (s.searchFuel count) 0 count
  if rs.length = count then
    some (rs, rs.foldl (fun s r => (List.range len).foldl (fun s i => s.takePage h client (r + i)) s) s)
  else none

/-! ### Room in the vault (07 R297, R298) -/

def State.weft (s : State) (w : Nat) : Option Weft := SMap.get s.warp.wefts none w
def State.setWeft (s : State) (w : Nat) (x : Weft) : State :=
  { s with warp := { s.warp with wefts := SMap.put s.warp.wefts w (some x) } }
def State.base (s : State) (b : Nat) : Base := SMap.get s.warp.bases {} b
def State.setBase (s : State) (b : Nat) (x : Base) : State :=
  { s with warp := { s.warp with bases := SMap.put s.warp.bases b x } }
def State.setCtx (s : State) (k : Nat) (x : Context) : State :=
  { s with sched := { s.sched with ctxs := SMap.put s.sched.ctxs k x } }
def State.modCtx (s : State) (k : Nat) (f : Context → Context) : State := s.setCtx k (f (s.ctx k))

/-- The SERVING context of a client and base (08 R309 allows one). -/
def State.servingCtx (s : State) (client base : Nat) : Option Nat :=
  (s.sched.ctxs.find? fun e => e.2.st ≠ .free && e.2.serving && e.2.client = client && e.2.base = base).map (·.1)

/-- A weft is resident when every page is (R298). -/
def Weft.resident (w : Weft) : Bool := w.pages.all Option.isSome

/-- The translation pages of a context with those of a weft. -/
def Weft.mapped (w : Weft) (m : SMap PageSt) : SMap PageSt :=
  (w.pages.zip (List.range w.pages.length)).foldl (fun m e => SMap.put m (w.progAddr / pageBytes + e.2)
    (match e.1 with
      | some f => PageSt.resident f
      | none => .hostBacked)) m

/-- Maps the pages of a weft into every context of its client (R294). -/
def State.mapWeft (s : State) (w : Weft) : State :=
  { s with sched := { s.sched with ctxs := s.sched.ctxs.mapVals fun c =>
      if c.st ≠ .free ∧ c.client = w.client then { c with pages := w.mapped c.pages } else c } }

/-- Whether the pages of a context stay as they are, but for host-backed ones that become resident (03 R105). -/
def pagesStand (old new : SMap PageSt) : Bool :=
  old.map (·.1) = new.map (·.1) && old.all fun e =>
    let x := SMap.get old .unmapped e.1
    x = .hostBacked || SMap.get new .unmapped e.1 = x

/-- Whether `t` changes no page of a context that has a running command (05 R177). -/
def State.pagesKept (s t : State) : Bool := t.sched.cmds.all fun e => match e.2 with
  | some c => pagesStand (s.ctx c.ctx).pages (t.ctx c.ctx).pages
  | none => true

/-- The clerks change a page only while no command of a context that maps it is running (05 R177, 07 R297): what would change
one has no effect yet, and its row comes again. -/
def State.betweenCommands (s : State) (f : State → State) : State := if s.pagesKept (f s) then f s else s

/-- Pages out a weft (R298). -/
def State.pageOut (s : State) (w : Nat) : State :=
  match s.weft w with
  | none => s
  | some x =>
    let y := { x with pages := x.pages.map fun _ => none }
    ((s.freeFrames (x.pages.filterMap id)).setWeft w y).mapWeft y

/-- Discards the shards of a base: the base becomes absent (R297). -/
def State.discardBase (s : State) (b : Nat) : State :=
  let x := s.base b
  (s.freeHeld (.shard b)).setBase b { x with st := .absent, model := none }

/-- Whether a base has a pass in the running draft. -/
def State.inDraft (s : State) (b : Nat) : Bool :=
  match s.warp.draft with
  | some d => d.entries.any fun e => e.base = b
  | none => false

def State.weftSessions (s : State) (w : Nat) : Bool := s.sessions.any fun e => match e.2 with
  | some x => x.weft = some w
  | none => false

/-- Insertion by use count, then id. -/
def byUse (x : Nat × Nat) : List (Nat × Nat) → List (Nat × Nat)
  | [] => [x]
  | y :: ys => if x.1 < y.1 ∨ (x.1 = y.1 ∧ x.2 < y.2) then x :: y :: ys else y :: byUse x ys

/-- What R297 reclaims, in its order: a weft to page, or a base to discard. -/
def State.reclaimOrder (s : State) : List (Bool × Nat) :=
  let wefts := fun (open_ : Bool) => ((s.warp.wefts.filterMap fun e => match e.2 with
    | some x => if x.resident && s.weftSessions e.1 = open_ then some (x.use, e.1) else none
    | none => none).foldr byUse []).map fun e => (true, e.2)
  let bases := ((s.warp.bases.filterMap fun e =>
    if e.2.st = .loaded && !s.inDraft e.1 && e.2.repl.isNone && e.2.staged.isNone then some (e.2.use, e.1)
    else none).foldr byUse []).map fun e => (false, e.2)
  wefts false ++ wefts true ++ bases

/-- Takes runs for a holder, reclaiming in the given order while they cannot be found. -/
def State.reserveFrom (len count : Nat) (h : Holder) (client : Option Nat) :
    List (Bool × Nat) → State → Option (List Nat × State)
  | [], s => s.takeRuns len count h client
  | c :: cs, s =>
    match s.takeRuns len count h client with
    | some r => some r
    | none => State.reserveFrom len count h client cs (if c.1 then s.pageOut c.2 else s.discardBase c.2)

/-- Room in the order of R297; none where the whole order cannot free enough, and then nothing is reclaimed. -/
def State.reserve (s : State) (len count : Nat) (h : Holder) (client : Option Nat) : Option (List Nat × State) :=
  State.reserveFrom len count h client s.reclaimOrder s

end Sys2Proof.Machine
end

