-- ==== Sys2Proof/Machine/Frames.lean ====
section
/-!
DEFINITION. The messages of the command and event queue pairs as bytes (10 R377, R378, R385, R395), token records (R399), and the
frames that the device sends (R363 to R372).
-/
namespace Sys2Proof.Machine

/-- Status codes of R378. -/
def stCode : Status → Nat
  | .ok => 0x00
  | .notReady => 0x01
  | .busy => 0x02
  | .badCommand => 0x03
  | .badArgument => 0x04
  | .noResource => 0x05
  | .conflict => 0x06
  | .denied => 0x07
  | .badSignature => 0x08
  | .integrity => 0x09
  | .timeout => 0x0A
  | .aborted => 0x0B
  | .preemptDegraded => 0x0C
  | .fault => 0x0D
  | .notFound => 0x0E
  | .stale => 0x0F
  | .loomFault => 0x10
  | .calInvalid => 0x11
  | .slotTimeout => 0x12

def statusOf : Nat → Status
  | 0x01 => .notReady
  | 0x02 => .busy
  | 0x03 => .badCommand
  | 0x04 => .badArgument
  | 0x05 => .noResource
  | 0x06 => .conflict
  | 0x07 => .denied
  | 0x08 => .badSignature
  | 0x09 => .integrity
  | 0x0A => .timeout
  | 0x0B => .aborted
  | 0x0C => .preemptDegraded
  | 0x0D => .fault
  | 0x0E => .notFound
  | 0x0F => .stale
  | 0x10 => .loomFault
  | 0x11 => .calInvalid
  | 0x12 => .slotTimeout
  | _ => .ok

/-! ### Messages as bytes -/

/-- The 32-byte header of a Genot message (R377). -/
def msgHeader (kind code length : Nat) (seq : W64) (status phase detail beat : Nat) : Bytes :=
  [1, BitVec.ofNat 8 kind] ++ leBytes code 2 ++ leBytes length 4 ++ leBytes seq.toNat 8 ++ leBytes status 1 ++ leBytes phase 1 ++
    leBytes detail 2 ++ leBytes 0 4 ++ leBytes beat 8

/-- Body of a completion: its 24-byte prefix and its data (R385). -/
def Completion.body (c : Completion) : Bytes :=
  leBytes (whereWord c.loc) 2 ++ leBytes 0 2 ++ leBytes c.holder 4 ++ leBytes c.value.toNat 8 ++ leBytes c.acceptBeat 8 ++ c.data

/-- The bytes of a message of the command queue pair. An acknowledgement has no body. -/
def CmdMsg.image : CmdMsg → Bytes
  | .ack code seq beat => msgHeader 2 code 0 seq 0 0 0 beat
  | .done c => msgHeader 3 c.code c.body.length c.seq (stCode c.status) c.phase c.detail c.beat ++ c.body

/-- The bytes of an event (R395): a header and 32 bytes of body. -/
def Event.image (e : Event) : Bytes :=
  msgHeader 4 e.code 32 (BitVec.ofNat 64 e.seq) 0 0 0 e.beat ++
    (leBytes (whereWord e.loc) 2 ++ leBytes 0 2 ++ leBytes e.id 4 ++ leBytes e.value.toNat 8 ++ e.data)

/-- The 16 bytes of a token record (R399). -/
def TokenRec.image (t : TokenRec) : Bytes :=
  leBytes t.session 4 ++ leBytes t.position 4 ++ leBytes t.token.toNat 4 ++ leBytes t.base 1 ++ leBytes t.flags 1 ++
    leBytes t.step.toNat 2

/-! ### Addresses (R364, R365) -/

/-- ETH_MAC (10 R364). -/
def macOf (serial : W64) : BitVec 48 := BitVec.ofNat 48 (0x02 * 2 ^ 40 + serial.toNat % 2 ^ 40)

/-- The 128 bits in which the host's address is recorded. -/
def IpBits (a : IpAddr) : BitVec 128 := match a with
  | .v4 x => BitVec.ofNat 128 (0xFFFF * 2 ^ 32 + x.toNat)
  | .v6 x => x

/-- The recorded address of the attached host. -/
def State.hostIp (s : State) : BitVec 128 := BitVec.ofNat 128 ((s.raw Reg.ethHostIpHi).toNat * 2 ^ 64 + (s.raw Reg.ethHostIpLo).toNat)

/-- The attached host's address: an IPv4 address is recorded as ::ffff:a.b.c.d (R402). -/
def State.hostAddr (s : State) : IpAddr :=
  if s.hostIp.toNat / 2 ^ 32 = 0xFFFF then .v4 (s.hostIp.setWidth 32) else .v6 s.hostIp

/-! ### Frames -/

/-- The VLAN id with which every frame is tagged while VLAN_EN is 1 (R366). -/
def State.tagNow (s : State) : Option Nat := if s.flag Fld.ethCfg_vlanEn then some (s.fld Fld.ethCfg_vlanId) else none

/-- A RoCEv2 packet of queue pair `q` with a PSN (R365, R366, R371): a CNP takes the priority and DSCP of CNPs, everything else those
of data, marked ECT(0). -/
def State.packet (s : State) (q psn : Nat) (body : SentBody) : SentFrame :=
  let cnp : Bool := body = .cnp
  { dstMac := BitVec.ofNat 48 (s.raw Reg.ethHostMac).toNat, srcMac := macOf Config.serial, dstIp := some s.hostAddr, srcIp := s.eth.devAddr,
    vlan := s.tagNow, prio := some (s.fld (if cnp then Fld.ethCfg_cnpPrio else Fld.ethCfg_prio)),
    dscp := some (s.fld (if cnp then Fld.ethCfg_cnpDscp else Fld.ethCfg_dscp)), ect0 := !cnp, udpSrc := 0xC000 + q,
    qpn := s.fld (Fld.ethQp_hostQpn q), psn := psn, body := body }

/-- Whether a frame is the last packet of a message. -/
def SentFrame.ends (f : SentFrame) : Bool := match f.body with
  | .send last _ => last
  | _ => false

/-- The host address that an RDMA READ request asks for, or an RDMA WRITE packet writes. -/
def SentFrame.reads (f : SentFrame) : Option W64 := match f.body with
  | .read a _ _ => some a
  | _ => none

def SentFrame.writes (f : SentFrame) : Option W64 := match f.body with
  | .write a _ _ => some a
  | _ => none

/-- Whether an address lies in a host region. -/
def regionCovers (r : Region) (a : W64) : Bool := r.addr.toNat ≤ a.toNat && a.toNat < r.addr.toNat + max 1 r.length.toNat

/-- Frames go out and are counted. -/
def State.putFrames (s : State) (fs : List SentFrame) : State :=
  { s with eth := { s.eth with frames := s.eth.frames ++ fs } }.countWrap Fld.ethTxFrames_count fs.length

/-- A packet of queue pair `q` that is no request: an acknowledgement, a NAK or a CNP. -/
def State.reply (s : State) (q psn : Nat) (body : SentBody) : State := s.putFrames [s.packet q psn body]

/-! ### Requests of a queue pair (R368, R372, R375) -/

/-- Payload bytes of a packet (R368). -/
def State.pmtu (s : State) : Nat := 1024 * 2 ^ min 2 (s.fld Fld.ethCfg_pmtu)

def State.modQp (s : State) (q : Nat) (f : Qp → Qp) : State :=
  { s with eth := { s.eth with qps := SMap.put s.eth.qps q (f (SMap.get s.eth.qps {} q)) } }

/-- Requests of queue pair `q` that take `n` PSNs wait for their acknowledgement, whose timing starts (R375). -/
def State.qpRequest (s : State) (q n : Nat) (fs : List SentFrame) : State :=
  let s := s.countWrap (Fld.ethQpPsn_nextSend q) n
  s.modQp q fun x => { x with sentAt := some (x.sentAt.getD s.beat), unacked := x.unacked ++ fs }

/-- The packets of a request on queue pair `q`, with PSNs from the next one on. -/
def State.packets (s : State) (q : Nat) (bs : List SentBody) : List SentFrame :=
  (bs.zip (List.range bs.length)).map fun e => s.packet q ((s.fld (Fld.ethQpPsn_nextSend q) + e.2) % 2 ^ 24) e.1

/-- A SEND or RDMA WRITE goes out on queue pair `q`. -/
def State.qpSend (s : State) (q : Nat) (bs : List SentBody) : State :=
  (s.putFrames (s.packets q bs)).qpRequest q bs.length (s.packets q bs)

/-- Packets of a SEND of some bytes: at most the path MTU each, and at least one. -/
def State.sendPackets (s : State) (bs : Bytes) : List SentBody :=
  let k := max 1 (ceilDiv bs.length s.pmtu)
  ((pieces s.pmtu k bs).zip (List.range k)).map fun e => .send (e.2 + 1 = k) e.1

/-- Packets of an RDMA WRITE of some bytes at a host address. -/
def State.writePackets (s : State) (addr : W64) (rkey : W32) (bs : Bytes) : List SentBody :=
  let k := max 1 (ceilDiv bs.length s.pmtu)
  ((pieces s.pmtu k bs).zip (List.range k)).map fun e => .write (addr + BitVec.ofNat 64 (s.pmtu * e.2)) rkey e.1

/-- An RDMA WRITE on queue pair `q`. -/
def State.qpWrite (s : State) (q : Nat) (addr : W64) (rkey : W32) (bs : Bytes) : State := s.qpSend q (s.writePackets addr rkey bs)

/-- An RDMA READ request on queue pair `q`, whose response takes a PSN for each packet of the path MTU. -/
def State.qpRead (s : State) (q : Nat) (addr : W64) (rkey : W32) (n : Nat) : State :=
  let fs := s.packets q [.read addr rkey n]
  (s.putFrames fs).qpRequest q (max 1 (ceilDiv n s.pmtu)) fs

/-! ### Pauses (R367) -/

/-- Whether a received pause is in force for a class that takes part in PFC (R367). -/
def State.classPaused (s : State) (c : Nat) : Bool := s.eth.paused.getLsbD c && (s.fld Fld.ethCfg_pfcEn).testBit c

/-- Whether RoCEv2 data is paused. -/
def State.dataPaused (s : State) : Bool := s.classPaused (s.fld Fld.ethCfg_prio)

/-! ### Receive buffers (R366, R367) -/

/-- The class of a received frame (R366): its PCP where it is tagged, and otherwise bits [5:3] of its DSCP. -/
def frameClass (f : EthFrame) : Nat := match f.vlan with
  | some (_, pcp) => pcp.toNat
  | none => f.dscp.toNat / 8

/-- The group address of pause frames. PRESUMED: IEEE 802.1Qbb (log 135). -/
def pauseMac : BitVec 48 := 0x0180C2000001

/-- XOFF or XON for a class. -/
def State.sendPause (s : State) (c : Nat) (off : Bool) : State :=
  let bit := BitVec.twoPow 8 c
  let now := if off then s.eth.xoff ||| bit else s.eth.xoff &&& ~~~bit
  { s with eth := { s.eth with xoff := now } }.putFrames
    [{ dstMac := pauseMac, srcMac := macOf Config.serial, dstIp := none, srcIp := none, vlan := s.tagNow, body := .pause c off }]

/-- Whether the buffer of a frame's class, of 256 KiB, has room for it. -/
def State.rxRoom (s : State) (f : EthFrame) : Bool := SMap.get s.eth.rxHeld 0 (frameClass f) + f.length ≤ 0x40000

/-- A frame enters the buffer of its class: XOFF goes out above 192 KiB where the class takes part in PFC. -/
def State.rxTake (s : State) (f : EthFrame) : State :=
  let c := frameClass f
  let n := SMap.get s.eth.rxHeld 0 c + f.length
  let s := { s with eth := { s.eth with rxHeld := SMap.set s.eth.rxHeld 0 c n } }
  let off : Bool := 0x30000 < n && (s.fld Fld.ethCfg_pfcEn).testBit c && !s.eth.xoff.getLsbD c
  if off then s.sendPause c true else s

/-- The receive buffers empty, and XON goes out for the classes for which XOFF did (log 135). -/
def State.drainRx (s : State) : State :=
  let s := { s with eth := { s.eth with rxHeld := [] } }
  (List.range 8).foldl (fun s c => if s.eth.xoff.getLsbD c then s.sendPause c false else s) s

end Sys2Proof.Machine
end

