-- ==== Sys2Proof/Machine/Beat.lean ====
section
/-!
DEFINITION. What one beat does: the beat counter (06 R251), the voltage targets that are under way (14 R480), the pulses of one beat
(12 R440) and the receive buffers (10 R367).
-/
namespace Sys2Proof.Machine

/-- The VID codes that the device drives; PWR_STATUS shows VDD_CORE. -/
def State.putVid (s : State) (core sram : Nat) : State :=
  { s with sys := { s.sys with coreVid := core, sramVid := sram } }.setFld Fld.pwrStatus_vddCore (500 + 5 * core)

/-- A code that goes from `a` to `b`, after `n` steps of one. -/
def stepCode (a b n : Nat) : Nat := if a ≤ b then min b (a + n) else max b (a - n)

/-- Steps of a ramp that has lasted some beats: one every 0.5 µs, which is 87.5 beats (14 R480). -/
def rampSteps (beats : Int) : Nat := beats.toNat * 2 / 175

/-- The voltage targets follow their ramp. -/
def State.stepVid (s : State) : State :=
  match s.sys.vidRamp with
  | some r =>
    let n := rampSteps (s.beat - r.start)
    s.putVid (stepCode r.core0 r.core n) (stepCode r.sram0 r.sram n)
  | none => s

/-- One beat: while TCLK runs, BEAT_COUNT grows by 1, the voltage targets follow their ramp, the pulses of the last beat end and the
receive buffers empty (log 20). -/
def State.tick (s : State) : State :=
  if s.sys.tclk then
    let s := s.drainRx.stepVid
    let s := { s with sys := { s.sys with gpioOut := s.sys.gpioOut &&& ~~~s.pulses } }
    s.setRaw Reg.beatCount (s.raw Reg.beatCount + 1)
  else s

end Sys2Proof.Machine
end

