-- ==== Sys2Proof/Machine/EngineMath.lean ====
section
/-!
DEFINITION. The arithmetic of an engine (02 R43 to R45, R48, R49): the column results of one activation row against a
tile image in the layout of R493, and the accumulation of a result into its row.
-/
namespace Sys2Proof.Machine

/-- The format codes of 04 R134. -/
def efmt : Nat → Option EFmt
  | 0 => some .e4m3
  | 1 => some .e5m2
  | 2 => some .mxfp4
  | 3 => some .int8
  | 4 => some .bf16
  | _ => none

/-- The pairings of R48: weight format, activation format. -/
def pairs (wf af : EFmt) : Bool :=
  match wf, af with
  | .e4m3, .e4m3 | .e4m3, .e5m2 | .e5m2, .e4m3 | .e5m2, .e5m2 => true
  | .int8, .int8 => true
  | .mxfp4, .e4m3 | .mxfp4, .e5m2 | .mxfp4, .mxfp4 => true
  | .bf16, .bf16 => true
  | _, _ => false

/-- Bytes of a front record, and of a whole tile image (R493). -/
def recSize : EFmt → Nat
  | .mxfp4 => 136
  | .bf16 => 256
  | _ => 128

def imageSize (f : EFmt) : Nat := 128 * recSize f

/-- Bytes of one activation row image (04 R137). -/
def rowSize : EFmt → Nat
  | .mxfp4 => 68
  | .bf16 => 256
  | _ => 128

/-- Byte `i` of a run, 0 past its end. -/
def byteAt (bs : Bytes) (i : Nat) : Nat := (bs.getD i 0).toNat

/-- Nibble `i` of a run: the low half of a byte for even `i`. -/
def nibbleAt (bs : Bytes) (i : Nat) : Nat :=
  if i % 2 = 0 then byteAt bs (i / 2) % 16 else byteAt bs (i / 2) / 16

/-- Element `i` of a run of elements of a format. -/
def readElem (f : EFmt) (bs : Bytes) (i : Nat) : FV :=
  match f with
  | .e4m3 => readE4m3 (byteAt bs i)
  | .e5m2 => readE5m2 (byteAt bs i)
  | .mxfp4 => readE2m1 (nibbleAt bs i)
  | .int8 => readInt8 (byteAt bs i)
  | .bf16 => readBf16 (byteAt bs (2 * i) + 256 * byteAt bs (2 * i + 1))

/-- The exact sum of products; a zero sum is +0 (R43). -/
def exactSum (ps : List FV) : FV :=
  match ps.foldl FV.add (.fin false 0 0) with
  | .fin _ 0 e => .fin false 0 e
  | x => x

/-- The power of two of an E8M0 scale; none for NaN (R47). -/
def e8m0 (b : Nat) : Option Int := if b = 0xFF then none else some ((b : Int) - 127)

/-- The products of cell rows `lo` to `hi - 1` of a column. -/
def products (wf af : EFmt) (recs : List Bytes) (act : Bytes) (col lo hi : Nat) : List FV :=
  (List.range (hi - lo)).map fun i => (readElem wf (recs.getD (lo + i) []) col).mul (readElem af act (lo + i))

/-- The column result of FP8, INT8 and BF16 runs over cell rows `lo` to `lo + k - 1`, activation elements 0 to
`k - 1` (R43; R64 for a stacked half). -/
def plainCol (wf af : EFmt) (recs : List Bytes) (act : Bytes) (col lo k : Nat) : W32 :=
  let x := exactSum ((List.range k).map fun i =>
    (readElem wf (recs.getD (lo + i) []) col).mul (readElem af act i))
  match wf, x with
  | .int8, .fin neg m e => BitVec.ofInt 32 (scaleTo 0 neg m e)
  | _, _ => toFp32 x

/-- Block result `b` of an MX column (R44, R63): +0 where the block lies wholly at or beyond `k`. -/
def mxBlock (af : EFmt) (recs : List Bytes) (act : Bytes) (col k b : Nat) : W32 :=
  if k ≤ 32 * b then 0#32
  else
    let sum := exactSum (products .mxfp4 af recs act col (32 * b) (min k (32 * b + 32)))
    let sw := e8m0 (byteAt (recs.getD (32 * b + col / 8) []) (128 + col % 8))
    let sa := match af with
      | .mxfp4 => e8m0 (byteAt act (64 + b))
      | _ => some 0
    match sw, sa with
    | some x, some y => toFp32 (sum.scale (x + y))
    | _, _ => nan32

/-- The column result of an MX run (R44). -/
def mxCol (af : EFmt) (recs : List Bytes) (act : Bytes) (k col : Nat) : W32 :=
  fadd (fadd (mxBlock af recs act col k 0) (mxBlock af recs act col k 1))
    (fadd (mxBlock af recs act col k 2) (mxBlock af recs act col k 3))

/-- All column results of one activation row against one tile: 128, or 256 for MX and stacked runs. Only elements
below `k` enter a sum. -/
def rowCols (wf af : EFmt) (recs : List Bytes) (act : Bytes) (k : Nat) (stacked : Bool) : List W32 :=
  match wf with
  | .mxfp4 => (List.range 256).map (mxCol af recs act k)
  | _ =>
    if stacked then
      (List.range 256).map fun c => plainCol wf af recs act (c % 128) (64 * (c / 128)) k
    else (List.range 128).map fun c => plainCol wf af recs act c 0 k

/-- The records of a tile image. -/
def records (f : EFmt) (image : Bytes) : List Bytes := pieces (recSize f) 128 image

/-! ### Accumulation (R45, R53) -/

/-- One narrow row takes a run of column results; whether any entry saturated. -/
def Engine.accNarrow (x : Engine) (r : Nat) (isInt : Bool) (cols : List W32) : Engine × Bool :=
  let row := SMap.get x.rows {} r
  let step := fun (a : SMap W32 × Bool) (e : W32 × Nat) =>
    let old := SMap.get a.1 0 (128 * r + e.2)
    if row.fresh then (SMap.set a.1 0 (128 * r + e.2) e.1, a.2)
    else if isInt then
      let t := satAdd32 old e.1
      (SMap.set a.1 0 (128 * r + e.2) t.1, a.2 || t.2)
    else (SMap.set a.1 0 (128 * r + e.2) (fadd old e.1), a.2)
  let a := (cols.zip (List.range 128)).foldl step (x.acc, false)
  ({ x with acc := a.1, rows := SMap.put x.rows r { row with fresh := false, isInt := isInt } }, a.2)

/-- A result row lands: a narrow row, or the two narrow rows of a wide row (R52). -/
def Engine.land (x : Engine) (r : RowRes) : Engine × Bool :=
  if r.wide then
    let a := x.accNarrow (2 * r.row) r.isInt (r.cols.take 128)
    let b := a.1.accNarrow (2 * r.row + 1) r.isInt (r.cols.drop 128)
    (b.1, a.2 || b.2)
  else x.accNarrow r.row r.isInt r.cols

/-- Entry `c` of a narrow row as it reads: a clear row reads as +0.0 (R53). -/
def Engine.entry (x : Engine) (r c : Nat) : W32 :=
  if (SMap.get x.rows {} r).fresh then 0 else SMap.get x.acc 0 (128 * r + c)

/-- Entry `c` of a narrow or wide row, with whether it is INT32. -/
def Engine.drainEntry (x : Engine) (wide : Bool) (r c : Nat) : W32 × Bool :=
  let n := if wide then 2 * r + c / 128 else r
  (x.entry n (if wide then c % 128 else c), (SMap.get x.rows {} n).isInt)

/-- Element size of a drain format (04 R141). -/
def ofmtSize (f : Nat) : Nat := if f = 0 then 4 else if f = 1 then 2 else 1

/-- A drained entry in its output format (R54, R50). -/
def drainBytes (f : Nat) (v : W32 × Bool) : Bytes :=
  let x := if v.2 then readInt32 v.1 else readFp32 v.1
  match f with
  | 0 => leBytes v.1.toNat 4
  | 1 => leBytes (toBf16 x) 2
  | 2 => leBytes (toE4m3 x) 1
  | 3 => leBytes (toE5m2 x) 1
  | _ => leBytes (toInt8 x) 1

end Sys2Proof.Machine
end

