-- ==== Sys2Proof/Machine/Engines.lean ====
section
/-!
DEFINITION. Engine instructions (04 R134 to R142) and the events of an engine (02 R45, R53 to R57, R69 to R73). The
operands of a run are read when it issues, and its column results wait in the engine's queue until their row is
updated (log 17).
-/
namespace Sys2Proof.Machine

/-! ### Issue of work -/

/-- Engines an instruction names: 0 E0, 1 E1, 2 PAIR. -/
def engsOf : Nat → List Eng
  | 0 => [.e0]
  | 1 => [.e1]
  | _ => [.e0, .e1]

/-- Whether an engine holds rows. -/
def Engine.hasRows (x : Engine) : Bool := x.queue.any fun o => match o with
  | .run _ _ | .fold _ _ _ => true
  | .front _ _ | .drain _ => false

/-- The keeper's view after a queue changed (02 R72): real rows end the gap; an engine left without rows starts one at
the full rate. The gap begins when the last results land, not when their row enters (DEDUCED, log 127). -/
def Engine.keep (x : Engine) (beat : Nat) (had : Bool) : Engine :=
  if x.hasRows then { x with gapFrom := none, keeper := 0 }
  else if had then { x with gapFrom := some beat, keeper := 8 } else x

/-- Adds work at the end of an engine's queue. -/
def Core.enqueue (c : Core) (beat : Nat) (e : Eng) (o : EngOp) : Core :=
  let x := c.eng e
  let y := { x with queue := x.queue ++ [o] }
  c.setEng e (y.keep beat x.hasRows)

/-- Entry `i` of an engine's queue becomes `o`; with none, the instruction is over and leaves the queue. -/
def Core.setOp (c : Core) (beat : Nat) (e : Eng) (i : Nat) (o : Option EngOp) : Core :=
  let x := c.eng e
  let marks := match o with
    | some _ => x.marks
    | none => x.marks.map fun m => { m with ahead := if i < m.ahead then m.ahead - 1 else m.ahead }
  let y := { x with queue := x.queue.take i ++ o.toList ++ x.queue.drop (i + 1), marks := marks }
  c.setEng e (y.keep beat x.hasRows)

/-- Narrow rows of a narrow or wide row. -/
def narrowOf (wide : Bool) (r : Nat) : List Nat := if wide then [2 * r, 2 * r + 1] else [r]

/-- A row becomes active, owned by `t`; a row that was clear takes its next result as its first (R45, R53). -/
def Engine.own (x : Engine) (t r : Nat) : Engine :=
  let row := SMap.get x.rows {} r
  { x with rows := SMap.put x.rows r { row with st := .active t } }

/-- Whether thread `t` may write a narrow row (R53). -/
def Engine.mayWrite (x : Engine) (t r : Nat) : Bool :=
  match (SMap.get x.rows {} r).st with
  | .active o => o = t
  | _ => true

/-- Queues with room: the wait of R69. -/
def queueWait (s : State) (p t eng : Nat) : Option Wait :=
  match eng with
  | 0 => waitFor s p t (.engQueue .e0)
  | 1 => waitFor s p t (.engQueue .e1)
  | _ => waitFor s p t .engBoth

/-- The wait for draining rows among the narrow rows that an instruction takes in each engine. -/
def rowsWait (s : State) (p t : Nat) (rows : Eng → List Nat) : Option Wait :=
  waitFor s p t (.rowsFree (rows .e0) (rows .e1))

/-- ACC_OWNER where a row that an instruction writes is active and owned by another thread (02 R53). -/
def ownerCodes (c : Core) (t : Nat) (rows : Eng → List Nat) : List Nat :=
  codeIf ([Eng.e0, Eng.e1].any fun e => (rows e).any fun r => !(c.eng e).mayWrite t r) fAccOwner

/-- Rows with the engine they lie in. -/
def allRows (rows : Eng → List Nat) : List (Eng × Nat) := [Eng.e0, Eng.e1].flatMap fun e => (rows e).map (e, ·)

/-- Starts one consumption of a slot by the engines. -/
def Core.useSlot (c : Core) (isSlot : Bool) (r : W64) : Core :=
  if isSlot then c.modSlot (refSlot r) (·.startUse .engine) else c

/-- Codes of an engine operand of `n` bytes: through a slot reference (R138), or plain in the spool. `align` is the
rule for the offset, `alignCode` its fault. An unbound slot has no base and no length to check (R492). -/
def operandCodes (s : State) (p : Nat) (isSlot : Bool) (r : W64) (n align alignCode : Nat) : List Nat :=
  let c := s.core p
  if isSlot then
    if !(c.slot (refSlot r)).bound then [fSltBusy]
    else codeIf (refOff r % align ≠ 0) alignCode ++ codeIf ((c.slot (refSlot r)).len < refOff r + n) fEngShape ++
      codeIf (c.touchesOff (refAddr s p true r) n) fSplOff
  else c.spoolFaults r.toNat n

/-- The wait of an engine operand: a full slot, then its banks. -/
def operandWait (s : State) (p t : Nat) (isSlot : Bool) (r : W64) (n : Nat) : List (Option Wait) :=
  [if isSlot then needFull s p t (refSlot r) else none, bankWait s p (refAddr s p isSlot r) n]

/-! ### ENG.LDW -/

/-- The first or the second front rows of a BF16 image (R493): one half of each record. -/
def bf16Half (image : Bytes) (upper : Bool) : Bytes :=
  (records .bf16 image).flatMap fun r => if upper then r.drop 128 else r.take 128

/-- Loads a tile image into a plane of both engines (R58, R59): a BF16 image takes the pair. -/
def Core.loadPlane (c : Core) (n : Nat) (f : EFmt) (image : Bytes) (src : PlaneSrc) : Core :=
  if f = .bf16 then
    (c.setPlane n { valid := true, fmt := f, upper := false, image := bf16Half image false, src := src }).setPlane (n + 1)
      { valid := true, fmt := f, upper := true, image := bf16Half image true, src := src }
  else c.setPlane n { valid := true, fmt := f, upper := false, image := image, src := src }

/-- The records that a row reads which selects plane `n`: in BF16, the front rows of both planes of the pair, whatever the
upper one holds by then (DEDUCED, log 127). -/
def Core.planeRecs (c : Core) (n : Nat) : List Bytes :=
  let x := c.plane n
  if x.fmt = .bf16 then
    let y := c.plane (n + 1)
    ((pieces 128 128 x.image).zip (pieces (if y.fmt = .mxfp4 then 136 else 128) 128 y.image)).map fun r =>
      r.1 ++ r.2.take 128
  else records x.fmt x.image

/-- Planes that a front writes, or a row reads, for plane `n` in a format (R59). -/
def planesOf (n : Nat) (f : EFmt) : List Nat := if f = .bf16 then [n, n + 1] else [n]

/-- ACLK cycles of a front: one front row each, two per cell row in BF16. -/
def frontCycles (f : EFmt) : Nat := if f = .bf16 then 256 else 128

/-- Source of an ENG.LDW: 0 spool, 1 slot, 2 warp FIFO. -/
def ldwKind (w : IWord) : Nat := modBits w 3 2

/-- Weight format of an ENG.LDW. -/
def ldwFmt (w : IWord) : EFmt := (efmt (immBits w 2 0)).getD .e4m3

/-- Codes of ENG.LDW (R127, R135, R138; 02 R58, R59). -/
def ldwCodes (s : State) (p t : Nat) (w : IWord) : List Nat :=
  let c := s.core p
  let plane := modBits w 5 4
  let kind := ldwKind w
  let fcode := immBits w 2 0
  let f := ldwFmt w
  let r := s.rg p t w.a
  unused w true false false 0b111100 0x7 ++ codeIf (kind = 3 || 5 ≤ fcode) fIllegal ++
  (if kind = 2 then noVm1 s p else []) ++
  codeIf ((kind = 2 && plane ≠ 0) || (f = .bf16 && plane % 2 = 1)) fEngPlane ++
  codeIf (kind = 2 && (match c.fifo.head? with
    | some tile => decide (tile.fmt ≠ f)
    | none => false)) fEngFormat ++
  (if kind = 0 then codeIf (r.toNat % 256 ≠ 0) fSplAddr else []) ++
  (if kind = 2 then [] else operandCodes s p (kind = 1) r (imageSize f) 256 fSplAddr)

/-- What ENG.LDW waits for. -/
def ldwWait (s : State) (p t : Nat) (w : IWord) : Option Wait :=
  firstWait ((if ldwKind w = 2 then [waitFor s p t .warpTile]
    else operandWait s p t (ldwKind w = 1) (s.rg p t w.a) (imageSize (ldwFmt w))) ++ [queueWait s p t 2])

/-- ENG.LDW (R134, R135; 02 R58, R59). -/
def execEngLdw (p t : Nat) (w : IWord) (s : State) : Out :=
  let plane := modBits w 5 4
  let kind := ldwKind w
  let f := ldwFmt w
  let r := s.rg p t w.a
  let n := imageSize f
  let a := refAddr s p (kind = 1) r
  issue p t (ldwCodes s p t w) (ldwWait s p t w)
    (fun s' => s'.modCore p fun c =>
      let image := if kind = 2 then (match c.fifo.head? with
        | some tile => tile.image
        | none => []) else c.load a n
      let c := if kind = 2 then { c with fifo := c.fifo.drop 1 } else c.useSlot (kind = 1) r
      let c := c.loadPlane plane f image (if kind = 2 then .warp else .spool a)
      let o := EngOp.front (frontCycles f) (planesOf plane f)
      (c.enqueue s.beat .e0 o).enqueue s.beat .e1 o) s

/-! ### ENG.MM -/

def extBits (x : W64) (hi lo : Nat) : Nat := bitsOf x.toNat hi lo

/-- The fields of ENG.MM's extension word (R136), with the operands the run reads. -/
structure MmOp where
  rows : Nat
  base : Nat
  eng : Nat
  sel : Nat
  selList : Bool
  afmt : EFmt
  srcSlot : Bool
  lt : Bool
  ltSlot : Bool
  ltFmt : EFmt
  k : Nat
  n : Nat
  stride : Nat
  src : W64
  list : W64
  tile : W64
  deriving DecidableEq, Repr

def mmOp (s : State) (p t : Nat) (w : IWord) (x : W64) : MmOp where
  rows := extBits x 63 54
  base := extBits x 53 46
  eng := extBits x 45 44
  sel := extBits x 43 42
  selList := extBits x 41 41 = 1
  afmt := (efmt (extBits x 40 38)).getD .e4m3
  srcSlot := extBits x 37 37 = 1
  lt := extBits x 36 36 = 1
  ltSlot := extBits x 35 35 = 1
  ltFmt := (efmt (extBits x 34 32)).getD .e4m3
  k := extBits x 31 22 + 1
  n := extBits x 21 12 + 1
  stride := w.imm.toNat
  src := s.rg p t w.a
  list := s.rg p t w.b
  tile := s.rg p t w.c

/-- Depth segments of the run. -/
def MmOp.segs (o : MmOp) : Nat := if o.lt then ceilDiv o.k 128 else 1

/-- FP8 or INT8 with K at most 64: a stacked tile (02 R64). -/
def MmOp.stacked (o : MmOp) : Bool :=
  o.lt && o.k ≤ 64 && (o.ltFmt = .e4m3 || o.ltFmt = .e5m2 || o.ltFmt = .int8)

/-- Columns of a column block (02 R63). -/
def MmOp.blockCols (o : MmOp) : Nat := if o.stacked || o.ltFmt = .mxfp4 then 256 else 128

def MmOp.blocks (o : MmOp) : Nat := if o.lt then ceilDiv o.n o.blockCols else 1

/-- Bytes of one activation row of the run (R137, 02 R494). -/
def MmOp.rowLen (o : MmOp) : Nat := o.segs * rowSize o.afmt

def MmOp.step (o : MmOp) : Nat := if o.stride = 0 then o.rowLen else o.stride

/-- Bytes from the first row's first byte to the last row's last. -/
def MmOp.srcLen (o : MmOp) : Nat := (o.rows - 1) * o.step + o.rowLen

/-- Rows per engine, the most either takes: M_e of R65. -/
def MmOp.perEng (o : MmOp) : Nat := if o.eng = 2 then ceilDiv o.rows 2 else o.rows

/-- Rows that one engine takes. -/
def MmOp.count (o : MmOp) (e : Eng) : Nat :=
  match o.eng, e with
  | 0, .e0 => o.rows
  | 0, .e1 => 0
  | 1, .e0 => 0
  | 1, .e1 => o.rows
  | _, .e0 => ceilDiv o.rows 2
  | _, .e1 => o.rows / 2

/-- Bytes of the logical tile (02 R494). -/
def MmOp.tileLen (o : MmOp) : Nat :=
  match o.ltFmt with
  | .bf16 => 2 * o.k * o.n
  | .mxfp4 => o.k * ceilDiv o.n 2 + ceilDiv o.k 32 * o.n
  | _ => o.k * o.n

/-- Plane select of row `i` (02 R60), from the packed list where there is one. -/
def MmOp.selOf (o : MmOp) (list : Bytes) (i : Nat) : Nat :=
  if o.selList then byteAt list (i / 4) / 4 ^ (i % 4) % 4 else o.sel

/-- Engine and accumulator row of row `i` within its block. -/
def MmOp.place (o : MmOp) (i : Nat) : Eng × Nat :=
  if o.eng = 2 then (if i % 2 = 0 then .e0 else .e1, o.base + i / 2)
  else (if o.eng = 0 then .e0 else .e1, o.base + i)

/-- Weight format of the run: of the logical tile, or of the planes that its rows select. -/
def MmOp.wfmt (o : MmOp) (c : Core) (list : Bytes) : EFmt := if o.lt then o.ltFmt else (c.plane (o.selOf list 0)).fmt

/-- Wide rows: MX and stacked runs. -/
def MmOp.wide (o : MmOp) (wf : EFmt) : Bool := wf = .mxfp4 || o.stacked

/-- Weight (k, n) of a logical tile, as the bits of its format (02 R494). -/
def ltWeight (f : EFmt) (tile : Bytes) (cols k n : Nat) : Nat :=
  match f with
  | .bf16 => byteAt tile (2 * (k * cols + n)) + 256 * byteAt tile (2 * (k * cols + n) + 1)
  | .mxfp4 => let b := byteAt tile (k * ceilDiv cols 2 + n / 2); if n % 2 = 0 then b % 16 else b / 16
  | _ => byteAt tile (k * cols + n)

/-- The tile image of segment `d` of column block `q` (02 R63, R64): missing weights are zero, missing scales 0x7F. -/
def ltImage (o : MmOp) (tile : Bytes) (q d : Nat) : List Bytes :=
  let cols := o.blockCols
  let wt := fun k c => if k < o.k ∧ c < o.n then ltWeight o.ltFmt tile o.n k c else 0
  (List.range 128).map fun r =>
    match o.ltFmt with
    | .mxfp4 =>
      let k := 128 * d + r
      let b := r / 32
      (List.range 128).map (fun j => BitVec.ofNat 8 (wt k (q * cols + 2 * j) + 16 * wt k (q * cols + 2 * j + 1))) ++
      (List.range 8).map fun i =>
        let c := q * cols + 8 * (r % 32) + i
        let row := 4 * d + b
        BitVec.ofNat 8 (if c < o.n ∧ row < ceilDiv o.k 32 then
          byteAt tile (o.k * ceilDiv o.n 2 + row * o.n + c) else 0x7F)
    | .bf16 => ((List.range 128).map fun c => leBytes (wt (128 * d + r) (q * cols + c)) 2).flatten
    | _ =>
      if o.stacked then
        (List.range 128).map fun c => BitVec.ofNat 8 (if r % 64 < o.k then wt (r % 64) (q * cols + 128 * (r / 64) + c) else 0)
      else (List.range 128).map fun c => BitVec.ofNat 8 (wt (128 * d + r) (q * cols + c))

/-- Activation bytes of row `i`, segment `d`. -/
def MmOp.act (o : MmOp) (c : Core) (a i d : Nat) : Bytes := c.load (a + i * o.step + d * rowSize o.afmt) (rowSize o.afmt)

/-- ACLK cycles in which one row enters (02 R42). -/
def rowCost (f : EFmt) : Nat := if f = .bf16 then 4 else 1

/-- The results of row `i` against a tile in plane `n`: column block `q`, depth segment `d`, of which `k` elements enter. -/
def MmOp.result (o : MmOp) (c : Core) (t a : Nat) (wf : EFmt) (recs : List Bytes) (n k q i d : Nat) : Eng × RowRes :=
  ((o.place i).1, {
    row := (o.place i).2 + q * o.perEng
    wide := o.wide wf
    isInt := wf = .int8
    thread := t
    cost := rowCost wf
    cols := rowCols wf o.afmt recs (o.act c a i d) k o.stacked
    planes := planesOf n wf })

/-- All results of a run against the planes, each with its engine. -/
def MmOp.results (o : MmOp) (c : Core) (t a : Nat) (list : Bytes) : List (Eng × RowRes) :=
  (List.range o.rows).map fun i =>
    let n := o.selOf list i
    o.result c t a (c.plane n).fmt (c.planeRecs n) n 128 0 i 0

/-- Fold steps of a logical tile in the order of R65: column block and depth segment. -/
def MmOp.folds (o : MmOp) : List (Nat × Nat) :=
  (List.range o.blocks).flatMap fun q => (List.range o.segs).map fun d => (q, d)

/-- The results of a fold step, each with its engine. -/
def MmOp.foldResults (o : MmOp) (c : Core) (t a : Nat) (tile : Bytes) (f : Nat × Nat) : List (Eng × RowRes) :=
  let recs := ltImage o tile f.1 f.2
  (List.range o.rows).map fun i => o.result c t a o.ltFmt recs o.sel (min 128 (o.k - 128 * f.2)) f.1 i f.2

/-- The fold steps of a logical-tile run on one engine: a front each, and the rows behind it. -/
def MmOp.foldSteps (o : MmOp) (rs : List (List (Eng × RowRes))) (e : Eng) : List FoldStep :=
  rs.map fun r => ⟨some (frontCycles o.ltFmt), (r.filter fun x => x.1 = e).map (·.2)⟩

/-- Narrow rows that the run writes in one engine. -/
def MmOp.rowsIn (o : MmOp) (wf : EFmt) (e : Eng) : List Nat :=
  (List.range o.blocks).flatMap fun q => (List.range (o.count e)).flatMap fun i =>
    narrowOf (o.wide wf) (o.base + q * o.perEng + i)

/-- The rows of an engine that an instruction writes become active. -/
def Core.ownRows (c : Core) (t : Nat) (e : Eng) (rows : List Nat) : Core :=
  c.setEng e (rows.foldl (fun (x : Engine) r => x.own t r) (c.eng e))

/-- Puts a run into the queues of its engines and makes its rows active; `all` names them all. -/
def Core.run (c : Core) (beat t : Nat) (rs : List (Eng × RowRes)) (all : List (Eng × Nat)) : Core :=
  let push := fun (c : Core) (e : Eng) =>
    let mine := (rs.filter fun r => r.1 = e).map (·.2)
    if mine.isEmpty then c
    else (c.ownRows t e ((all.filter fun r => r.1 = e).map (·.2))).enqueue beat e (.run mine all)
  push (push c .e0) .e1

/-- Puts a mark for the fronts of a logical-tile run of the other engine behind all that an engine's queue holds. -/
def Core.mark (c : Core) (e : Eng) (planes : List Nat) : Core :=
  let x := c.eng e
  c.setEng e { x with marks := x.marks ++ [⟨x.queue.length, planes⟩] }

/-- Puts a logical-tile run into the queues of its engines (02 R65, R66). A run on one engine marks the other, since its
fronts write the planes of both (R57). -/
def MmOp.fold (o : MmOp) (c : Core) (beat t : Nat) (rs : List (List (Eng × RowRes))) : Core :=
  let all := allRows (o.rowsIn o.ltFmt)
  let solo := o.eng ≠ 2
  let put := fun (c : Core) (e : Eng) =>
    if e ∈ engsOf o.eng then
      (c.ownRows t e (o.rowsIn o.ltFmt e)).enqueue beat e (.fold solo (o.foldSteps rs e) all)
    else c.mark e (planesOf o.sel o.ltFmt)
  put (put c .e0) .e1

/-- Codes of ENG.MM (R127, R136 to R139; 02 R53, R60, R61, R63, R65). -/
def mmCodes (s : State) (p t : Nat) (w : IWord) (x : W64) : List Nat :=
  let c := s.core p
  let o := mmOp s p t w x
  let list := c.load o.list.toNat (ceilDiv o.rows 4)
  let wf := o.wfmt c list
  let sels := (List.range o.rows).map (o.selOf list)
  let planesBad := if o.lt then o.ltFmt = .bf16 && o.sel % 2 = 1
    else sels.any fun i => !(c.plane i).valid || (o.afmt = .bf16 && i % 2 = 1)
  let fmtBad := if o.lt then !pairs o.ltFmt o.afmt
    else sels.any fun i => (c.plane i).fmt ≠ wf || !pairs (c.plane i).fmt o.afmt
  let limit := if o.wide wf then 128 else 256
  let tileA := refAddr s p o.ltSlot o.tile
  unused w true true true 0 0xFFFFFFFF ++
  codeIf (extBits x 11 0 ≠ 0 || o.rows = 0 || 512 < o.rows || o.eng = 3 || 5 ≤ extBits x 40 38 || 5 ≤ extBits x 34 32)
    fIllegal ++
  codeIf planesBad fEngPlane ++ codeIf fmtBad fEngFormat ++
  codeIf (o.stride ≠ 0 && (o.stride % 4 ≠ 0 || o.stride < o.rowLen)) fEngShape ++
  codeIf (limit < o.base + o.blocks * o.perEng || (o.lt && o.selList)) fEngShape ++
  operandCodes s p o.srcSlot o.src o.srcLen 4 fEngShape ++
  (if o.selList then c.spoolFaults o.list.toNat (ceilDiv o.rows 4) else []) ++
  (if o.lt then
    (if o.ltSlot then operandCodes s p true o.tile o.tileLen 4 fEngShape
     else codeIf (tileA % 4 ≠ 0 || spoolSize < tileA + o.tileLen) fEngShape ++ codeIf (c.touchesOff tileA o.tileLen) fSplOff)
   else []) ++
  ownerCodes c t (o.rowsIn wf)

/-- What ENG.MM waits for: its slots, two at once where it names two; the banks of its operands; its rows; its queues. -/
def mmWait (s : State) (p t : Nat) (w : IWord) (x : W64) : Option Wait :=
  let o := mmOp s p t w x
  let n := ceilDiv o.rows 4
  let wf := o.wfmt (s.core p) ((s.core p).load o.list.toNat n)
  let slots := if o.srcSlot && o.lt && o.ltSlot then waitFor s p t (.slotBoth (refSlot o.src) (refSlot o.tile))
    else if o.srcSlot then needFull s p t (refSlot o.src)
    else if o.lt && o.ltSlot then needFull s p t (refSlot o.tile) else none
  firstWait [slots, bankWait s p (refAddr s p o.srcSlot o.src) o.srcLen,
    if o.lt then bankWait s p (refAddr s p o.ltSlot o.tile) o.tileLen else none,
    if o.selList then bankWait s p o.list.toNat n else none,
    rowsWait s p t (o.rowsIn wf), queueWait s p t o.eng]

/-- ENG.MM (R134, R136 to R139; 02 R60 to R66). One slot named both as row source and as logical tile is one consumption
(DEDUCED from R138, log 127). -/
def execEngMm (p t : Nat) (w : IWord) (x : W64) (s : State) : Out :=
  let c := s.core p
  let o := mmOp s p t w x
  let list := c.load o.list.toNat (ceilDiv o.rows 4)
  let a := refAddr s p o.srcSlot o.src
  let tile := if o.lt then c.load (refAddr s p o.ltSlot o.tile) o.tileLen else []
  issueX p t (mmCodes s p t w x) (mmWait s p t w x)
    (fun s' => s'.modCore p fun c' =>
      let c' := if o.lt then (o.fold c' s.beat t (o.folds.map (o.foldResults c t a tile))).loadPlane o.sel o.ltFmt
          (ltImage o tile (o.blocks - 1) (o.segs - 1)).flatten .none
        else c'.run s.beat t (o.results c t a list) (allRows (o.rowsIn (o.wfmt c list)))
      let c' := c'.useSlot o.srcSlot o.src
      if o.lt && !(o.srcSlot && o.ltSlot && refSlot o.src = refSlot o.tile) then c'.useSlot o.ltSlot o.tile else c') s

/-! ### ENG.CONV -/

/-- The fields of ENG.CONV's extension word (R140). -/
structure ConvOp where
  kh : Nat
  kw : Nat
  cin : Nat
  cout : Nat
  stride : Nat
  padl : Nat
  padr : Nat
  wout : Nat
  base : Nat
  eng : Eng
  sel : Nat
  afmt : EFmt
  srcSlot : Bool
  src : W64
  deriving DecidableEq, Repr

def convOp (s : State) (p t : Nat) (w : IWord) (x : W64) : ConvOp where
  kh := extBits x 63 61 + 1
  kw := extBits x 60 58 + 1
  cin := extBits x 57 51 + 1
  cout := extBits x 50 44 + 1
  stride := 2 ^ extBits x 43 42
  padl := extBits x 41 39
  padr := extBits x 38 36
  wout := extBits x 35 28 + 1
  base := extBits x 27 20
  eng := if extBits x 19 19 = 0 then .e0 else .e1
  sel := extBits x 18 17
  afmt := (efmt (extBits x 16 14)).getD .e4m3
  srcSlot := extBits x 13 13 = 1
  src := s.rg p t w.a

def ConvOp.k (o : ConvOp) : Nat := o.kh * o.kw * o.cin

/-- Bytes of one element. -/
def ConvOp.esize (o : ConvOp) : Nat := if o.afmt = .bf16 then 2 else 1

/-- Slices that the instruction reads from its source: none where the padding covers every input column, for which the spec
gives no count (DESIGN CHOICE, log 127). -/
def ConvOp.slices (o : ConvOp) : Nat := (o.wout - 1) * o.stride + o.kw - o.padl - o.padr

def ConvOp.sliceLen (o : ConvOp) : Nat := o.kh * o.cin * o.esize

/-- The row of output `x` expanded into tap order, k = (tw × kh + th) × Cin + c, zero in padding (R67, R68). -/
def ConvOp.row (o : ConvOp) (src : Bytes) (x : Nat) : Bytes :=
  ((List.range o.kw).map fun tw =>
    let j := x * o.stride + tw
    if o.padl ≤ j ∧ j - o.padl < o.slices then (src.drop ((j - o.padl) * o.sliceLen)).take o.sliceLen
    else List.replicate o.sliceLen 0).flatten

/-- Accumulator rows that the instruction writes in one engine. -/
def ConvOp.rowsIn (o : ConvOp) (e : Eng) : List Nat := if e = o.eng then (List.range o.wout).map (o.base + ·) else []

/-- Codes of ENG.CONV (R127, R138, R140; 02 R53, R61, R67). -/
def convCodes (s : State) (p t : Nat) (w : IWord) (x : W64) : List Nat :=
  let c := s.core p
  let o := convOp s p t w x
  let pl := c.plane o.sel
  unused w true false false 0 0 ++
  codeIf (extBits x 12 0 ≠ 0 || extBits x 43 42 = 3 || 5 ≤ extBits x 16 14) fIllegal ++
  codeIf (!pl.valid || (o.afmt = .bf16 && o.sel % 2 = 1)) fEngPlane ++
  codeIf (o.afmt = .mxfp4 || !pairs pl.fmt o.afmt) fEngFormat ++
  codeIf (o.kw ≤ o.padl || o.kw ≤ o.padr || 256 < o.base + o.wout || 128 < o.k || pl.fmt = .mxfp4) fEngShape ++
  operandCodes s p o.srcSlot o.src (o.slices * o.sliceLen) 4 fEngShape ++ ownerCodes c t o.rowsIn

/-- What ENG.CONV waits for. -/
def convWait (s : State) (p t : Nat) (w : IWord) (x : W64) : Option Wait :=
  let o := convOp s p t w x
  firstWait (operandWait s p t o.srcSlot o.src (o.slices * o.sliceLen) ++
    [rowsWait s p t o.rowsIn, queueWait s p t (extBits x 19 19)])

/-- The column results of an ENG.CONV, each with its engine. -/
def ConvOp.results (o : ConvOp) (c : Core) (t : Nat) (src : Bytes) : List (Eng × RowRes) :=
  let f := (c.plane o.sel).fmt
  (List.range o.wout).map fun i =>
    (o.eng, {
      row := o.base + i
      wide := false
      isInt := f = .int8
      thread := t
      cost := rowCost f * o.stride
      cols := rowCols f o.afmt (c.planeRecs o.sel) (o.row src i) o.k false
      planes := planesOf o.sel f })

/-- ENG.CONV (R134, R140; 02 R67, R68). -/
def execEngConv (p t : Nat) (w : IWord) (x : W64) (s : State) : Out :=
  let o := convOp s p t w x
  let src := (s.core p).load (refAddr s p o.srcSlot o.src) (o.slices * o.sliceLen)
  issueX p t (convCodes s p t w x) (convWait s p t w x)
    (fun s' => s'.modCore p fun c =>
      (c.run s.beat t (o.results (s.core p) t src) (allRows o.rowsIn)).useSlot o.srcSlot o.src) s

/-! ### ENG.DRN -/

/-- The fields of ENG.DRN's extension word (R141). -/
structure DrnOp where
  row : Nat
  count : Nat
  eng : Nat
  wide : Bool
  ofmt : Nat
  clear : Bool
  dstSlot : Bool
  cols : Nat
  stride : Nat
  dst : W64
  deriving DecidableEq, Repr

def drnOp (s : State) (p t : Nat) (w : IWord) (x : W64) : DrnOp where
  row := extBits x 63 56
  count := extBits x 55 47
  eng := extBits x 46 45
  wide := extBits x 44 44 = 1
  ofmt := extBits x 43 41
  clear := extBits x 40 40 = 1
  dstSlot := extBits x 39 39 = 1
  cols := extBits x 38 31 + 1
  stride := w.imm.toNat
  dst := s.rg p t w.a

def DrnOp.rowLen (o : DrnOp) : Nat := o.cols * ofmtSize o.ofmt
def DrnOp.step (o : DrnOp) : Nat := if o.stride = 0 then o.rowLen else o.stride
/-- Destination rows: twice COUNT under PAIR. -/
def DrnOp.total (o : DrnOp) : Nat := if o.eng = 2 then 2 * o.count else o.count
def DrnOp.len (o : DrnOp) : Nat := (o.total - 1) * o.step + o.rowLen

/-- Narrow rows that a drain takes from each engine. -/
def DrnOp.rows (o : DrnOp) : List Nat := (List.range o.count).flatMap fun i => narrowOf o.wide (o.row + i)

def DrnOp.rowsIn (o : DrnOp) (e : Eng) : List Nat := if e ∈ engsOf o.eng then o.rows else []

/-- Codes of ENG.DRN (R127, R138, R141, R142). -/
def drnCodes (s : State) (p t : Nat) (w : IWord) (x : W64) : List Nat :=
  let c := s.core p
  let o := drnOp s p t w x
  let a := refAddr s p o.dstSlot o.dst
  unused w true false false 0 0xFFFFFFFF ++
  codeIf (extBits x 30 0 ≠ 0 || o.count = 0 || 256 < o.count || o.eng = 3 || 5 ≤ o.ofmt) fIllegal ++
  codeIf ((if o.wide then 128 else 256) < o.row + o.count || (!o.wide && 128 < o.cols)) fEngShape ++
  (if o.dstSlot then operandCodes s p true o.dst o.len 256 fEngShape
   else codeIf (spoolSize < a + o.len) fEngShape ++ codeIf (c.touchesOff a o.len) fSplOff) ++
  ownerCodes c t o.rowsIn

/-- A narrow row begins to drain (R53). -/
def Engine.startDrain (x : Engine) (r : Nat) : Engine :=
  let row := SMap.get x.rows {} r
  { x with rows := SMap.put x.rows r { row with st := .draining (match row.st with
      | .active o => some o
      | _ => none) } }

/-- The drain that an engine gets: its destination rows are `first`, `first + step`, … -/
def DrnOp.drain (o : DrnOp) (a first step : Nat) : Drain :=
  ⟨o.row, o.count, o.wide, o.ofmt, o.clear, o.cols, a, o.step, first, step,
    if o.dstSlot then some (refSlot o.dst, refOff o.dst + o.total * o.rowLen) else none⟩

/-- Puts a drain into an engine's queue; its rows begin to drain. -/
def Core.putDrain (c : Core) (beat : Nat) (e : Eng) (rows : List Nat) (d : Drain) : Core :=
  (c.setEng e (rows.foldl (fun x r => x.startDrain r) (c.eng e))).enqueue beat e (.drain d)

/-- What ENG.DRN waits for. Rows that are draining already are waited for too, where R69 speaks of the rows that an
instruction writes (DEDUCED, log 127). -/
def drnWait (s : State) (p t : Nat) (w : IWord) (x : W64) : Option Wait :=
  let o := drnOp s p t w x
  firstWait [if o.dstSlot then needEmpty s p t (refSlot o.dst) else none,
    bankWait s p (refAddr s p o.dstSlot o.dst) o.len, rowsWait s p t o.rowsIn, queueWait s p t o.eng]

/-- ENG.DRN (R134, R141, R142; 02 R54). -/
def execEngDrn (p t : Nat) (w : IWord) (x : W64) (s : State) : Out :=
  let o := drnOp s p t w x
  let a := refAddr s p o.dstSlot o.dst
  issueX p t (drnCodes s p t w x) (drnWait s p t w x)
    (fun s' => s'.modCore p fun c =>
      let c := if o.dstSlot then c.modSlot (refSlot o.dst) (·.startFill .engine) else c
      match o.eng with
      | 0 => c.putDrain s.beat .e0 o.rows (o.drain a 0 1)
      | 1 => c.putDrain s.beat .e1 o.rows (o.drain a 0 1)
      | _ => (c.putDrain s.beat .e0 o.rows (o.drain a 0 2)).putDrain s.beat .e1 o.rows (o.drain a 1 2)) s

/-- ENG.FENCE (R134): waits until the named queues are empty. -/
def execEngFence (p t : Nat) (w : IWord) (s : State) : Out :=
  let m := modBits w 1 0
  issue p t (unused w false false false 0b000011 0 ++ codeIf (m = 3) fIllegal)
    (waitFor s p t (if m = 0 then .fence .e0 else if m = 1 then .fence .e1 else .fenceBoth)) id s

/-! ### Events of an engine -/

/-- Charges engine cycles to the command on core `p` (08 R335). -/
def State.chargeCycles (s : State) (p n : Nat) : State := s.modCmdOf p fun c => { c with cycles := c.cycles + n }

/-- Planes that the marks at place `i` of a queue hold for the fronts of the other engine. -/
def Engine.marked (x : Engine) (i : Nat) : List Nat := (x.marks.filter fun m => m.ahead = i).flatMap (·.planes)

/-- A fold step without its front and its rows is over. -/
def foldRest (steps : List FoldStep) : List FoldStep := steps.dropWhile fun f => f.front = none && f.rows.isEmpty

/-- An instruction that has `steps` left of its fold; none when it is over. -/
def foldOp (solo : Bool) (steps : List FoldStep) (all : List (Eng × Nat)) : Option EngOp :=
  match foldRest steps with
  | [] => none
  | fs => some (.fold solo fs all)

/-- The next column results of an engine that may land, of the instructions from place `i` of its queue: their place, and
what the instruction is after them. Rows run in issue order (02 R70); a row waits for the fronts issued before it that write a
plane it reads, `held`, and not for others (R57). -/
def Engine.landing (x : Engine) : List Nat → Nat → List EngOp → Option (Nat × RowRes × Option EngOp)
  | _, _, [] => none
  | held, i, .front _ planes :: rest => x.landing (held ++ x.marked i ++ planes) (i + 1) rest
  | held, i, .run (r :: rs) all :: _ =>
    if r.planes.any fun n => (held ++ x.marked i).contains n then none
    else some (i, r, if rs.isEmpty then none else some (.run rs all))
  | _, i, .fold solo (⟨none, r :: rs⟩ :: fs) all :: _ => some (i, r, foldOp solo (⟨none, rs⟩ :: fs) all)
  | _, _, _ :: _ => none

/-- ACC_UPDATE (02 R45): the next waiting column results of engine `e` land in their row. -/
def accUpdate (p : Nat) (e : Eng) (s : State) : State :=
  let c := s.core p
  match (c.eng e).landing [] 0 (c.eng e).queue with
  | some (i, r, o) =>
    let x := (c.eng e).land r
    let c := (c.setEng e x.1).setOp s.beat e i o
    let c := if x.2 then c.modThread r.thread fun th => { th with sat := true } else c
    (s.setCore p c).chargeCycles p r.cost
  | none => s

/-- ACC_UPDATE. -/
def execAccUpdate (p : Nat) (e : Eng) (s : State) : Out :=
  onUnit (p < nCores) (whenDo s.sys.tclk s (accUpdate p e))

/-- The next front of an engine: that of an ENG.LDW or of a fold step at a place of its queue, with its cycles and with what
the instruction is after it; or a mark. -/
inductive NextFront where
  | op (i cycles : Nat) (after : Option EngOp)
  | mark
  deriving DecidableEq, Repr

/-- A fold whose next front is done: the cycles of that front, and the steps after it. -/
def frontOff : List FoldStep → Option (Nat × List FoldStep)
  | [] => none
  | ⟨some k, rows⟩ :: fs => some (k, ⟨none, rows⟩ :: fs)
  | ⟨none, rows⟩ :: fs => (frontOff fs).map fun r => (r.1, ⟨none, rows⟩ :: r.2)

/-- The next front among the instructions from place `i` of an engine's queue. Rows issued before it have entered before their
results land, so it may be done ahead of those (02 R57); it is not done ahead of a drain issued before it (R70). -/
def Engine.nextFront (x : Engine) : Nat → List EngOp → Option NextFront
  | i, [] => if x.marks.any (·.ahead = i) then some .mark else none
  | i, o :: rest =>
    if x.marks.any (·.ahead = i) then some .mark
    else match o with
      | .front k _ => some (.op i k none)
      | .run _ _ => x.nextFront (i + 1) rest
      | .fold solo steps all =>
        match frontOff steps with
        | some r => some (.op i r.1 (foldOp solo r.2 all))
        | none => x.nextFront (i + 1) rest
      | .drain _ => none

/-- A front is done on one engine. A mark stands until the last front of its run is done, `last`. -/
def Core.passFront (c : Core) (beat : Nat) (e : Eng) (last : Bool) : NextFront → Core
  | .op i _ o => c.setOp beat e i o
  | .mark =>
    let x := c.eng e
    if last then c.setEng e { x with marks := x.marks.drop 1 } else c

/-- Whether the instruction after its front, `o`, has no front left. -/
def frontless : Option EngOp → Bool
  | some (.fold _ steps _) => steps.all fun f => f.front = none
  | _ => true

def NextFront.last : NextFront → Bool
  | .op _ _ o => frontless o
  | .mark => false

def NextFront.cycles : NextFront → Nat
  | .op _ k _ => k
  | .mark => 0

/-- FRONT_DONE (02 R56, R57): the front that comes next in both engines has written cell row 127. The cycles in which a front
row runs beside no activation row depend on timing (log 18). -/
def frontDone (p : Nat) (s : State) : State :=
  let c := s.core p
  match c.eng0.nextFront 0 c.eng0.queue, c.eng1.nextFront 0 c.eng1.queue with
  | some a, some b =>
    let last := a.last || b.last
    let f := s.freeWord
    (f.2.setCore p ((c.passFront s.beat .e0 last a).passFront s.beat .e1 last b)).chargeCycles p
      (f.1.toNat % (2 * max a.cycles b.cycles + 1))
  | _, _ => s

/-- FRONT_DONE. -/
def execFrontDone (p : Nat) (s : State) : Out := onUnit (p < nCores) (whenDo s.sys.tclk s (frontDone p))

/-- Bytes of destination row `i` of a drain. -/
def Drain.rowBytes (d : Drain) (x : Engine) (i : Nat) : Bytes :=
  ((List.range d.cols).map fun c => drainBytes d.ofmt (x.drainEntry d.wide (d.row + i) c)).flatten

/-- A narrow row after a drain (02 R54). -/
def Engine.endDrain (x : Engine) (clear : Bool) (r : Nat) : Engine :=
  let row := SMap.get x.rows {} r
  let st := match row.st with
    | .draining (some o) => if clear then AccSt.clear else .active o
    | .draining none => .clear
    | y => y
  { x with rows := SMap.put x.rows r { row with st := st, fresh := row.fresh || clear } }

/-- Whether an engine still holds a drain into slot `n`. -/
def Engine.drainsTo (x : Engine) (n : Nat) : Bool := x.queue.any fun o => match o with
  | .drain d => d.slot.map (·.1) = some n
  | _ => false

/-- DRAIN_DONE (02 R54): the drain at the head of the queue writes its rows and ends. -/
def drainDone (p : Nat) (e : Eng) (s : State) : State :=
  let c := s.core p
  let x := c.eng e
  match x.queue with
  | .drain d :: _ =>
    let c := (List.range d.count).foldl
      (fun c i => c.store (d.dst + (d.first + d.step * i) * d.stride) (d.rowBytes x i)) c
    let rows := (List.range d.count).flatMap fun i => narrowOf d.wide (d.row + i)
    let c := c.setEng e (rows.foldl (fun x r => x.endDrain d.clear r) (c.eng e))
    let c := c.setOp s.beat e 0 none
    let c := match d.slot with
      | some (n, len) => if c.eng0.drainsTo n || c.eng1.drainsTo n then c else c.modSlot n (·.endFill len)
      | none => c
    s.setCore p c
  | _ => s

/-- DRAIN_DONE. -/
def execDrainDone (p : Nat) (e : Eng) (s : State) : Out := onUnit (p < nCores) (whenDo s.sys.tclk s (drainDone p e))

/-- Beat of an engine gap at which the keeper takes its next step (02 R73). -/
def keeperMark (keeper : Nat) : Nat := 525 + 175 * (8 - keeper)

/-- KEEPER_RAMP_STEP (02 R73): at its mark, the keeper's rate falls by one eighth. -/
def keeperStep (p : Nat) (e : Eng) (s : State) : State :=
  let x := (s.core p).eng e
  match x.gapFrom with
  | some b => if x.keeper ≠ 0 ∧ b + keeperMark x.keeper ≤ s.beat then
      s.modCore p (·.setEng e { x with keeper := x.keeper - 1 }) else s
  | none => s

/-- KEEPER_RAMP_STEP. -/
def execKeeperRampStep (p : Nat) (e : Eng) (s : State) : Out :=
  onUnit (p < nCores) (whenDo s.sys.tclk s (keeperStep p e))

/-- LAST_READ (03 R91): the last row or front row of the engines' consumption of a slot has left the spool. -/
def lastRead (p n : Nat) (s : State) : State :=
  let x := (s.core p).slot n
  if x.st = .draining ∧ (x.user = .engine ∨ x.user = .merge) then s.modCore p (·.setSlot n x.endUse) else s

/-- LAST_READ. -/
def execLastRead (p n : Nat) (s : State) : Out := onUnit (p < nCores && n < 32) (whenDo s.sys.tclk s (lastRead p n))

end Sys2Proof.Machine
end

