-- ==== Sys2Proof/Machine/Genot.lean ====
section
/-!
DEFINITION. Genot messages (10 R377 to R385): admitting a command, completing it, and the outcomes held for
duplicates; and the work of attempts (08 R336).
-/
namespace Sys2Proof.Machine

/-! ### Completions -/

/-- What a completion carries beside its status. -/
structure Answer where
  status : Status := .ok
  value : W64 := 0
  data : Bytes := []
  detail : Nat := 0
  loc : Option (Nat × Nat) := none
  holder : Nat := 0
  deriving DecidableEq, Repr

def Answer.fail (st : Status) : Answer := { status := st }

/-- Message bytes: the 32-byte header, and a completion's first 24 bytes and its data. -/
def CmdMsg.bytes : CmdMsg → Nat
  | .ack _ _ _ => 32
  | .done c => 56 + c.data.length

/-- Hands a message of the command queue pair to the port. -/
def State.transmit (s : State) (m : CmdMsg) : State :=
  let s := { s with eth := { s.eth with undelivered := s.eth.undelivered ++ [m], sent := s.eth.sent ++ [m] } }
  s.qpSend 0 (s.sendPackets m.image)

/-- Sends a message on the command queue pair; it is held while that queue pair is not ready (R375) or paused (R367). -/
def State.send (s : State) (m : CmdMsg) : State :=
  if s.fld (Fld.ethQp_state 0) ≠ 1 then { s with eth := { s.eth with undelivered := s.eth.undelivered ++ [m] } }
  else if s.dataPaused then { s with eth := { s.eth with waiting := s.eth.waiting ++ [m] } }
  else s.transmit m


/-- Records the outcome of a SEQ, keeping the 4,096 most recent (R381). -/
def State.hold (s : State) (seq : W64) (c : Option Completion) : State :=
  let rest := s.eth.outcomes.filter fun e => e.1 ≠ seq
  { s with eth := { s.eth with outcomes := ((seq, c) :: rest).take 4096 } }

/-- Updates the outcome of a SEQ that is held. -/
def State.settle (s : State) (seq : W64) (c : Completion) : State :=
  { s with eth := { s.eth with outcomes := s.eth.outcomes.map fun e => if e.1 = seq then (seq, some c) else e } }

/-- The account of a command's Ethernet bytes. -/
def State.ethAcct (s : State) (seq : W64) : Nat :=
  ((s.eth.running.find? fun r => r.seq = seq).map (·.acct)).getD sharedAcct

/-- Names the client that a running command works for. -/
def State.forClient (s : State) (seq : W64) (client : Nat) : State :=
  { s with eth := { s.eth with running := s.eth.running.map fun r => if r.seq = seq then { r with acct := client } else r } }

/-- Completes a command (R380, R385): every command receives exactly one completion, whose bytes are counted. -/
def State.completeAs (s : State) (code : Nat) (seq : W64) (acceptBeat : Nat) (a : Answer) : State :=
  let phase := if a.status = .notReady then s.fld Fld.devState_phase else 0
  let c : Completion := ⟨code, seq, a.status, phase, a.detail, a.loc, a.holder, a.value, acceptBeat, s.beat, a.data⟩
  let rx := ((s.eth.running.find? fun r => r.seq = seq).map (·.rx)).getD 0
  let s := s.charge (s.ethAcct seq) lEth (56 + a.data.length + rx)
  let s := { s with eth := { s.eth with running := s.eth.running.filter fun r => r.seq ≠ seq } }
  let s := (s.settle seq c).send (.done c)
  s.traceRec 0 2 0xFFFF code (leBytes seq.toNat 8 ++ leBytes (stCode a.status) 1)

/-- The running command of a SEQ. -/
def State.running? (s : State) (seq : W64) : Option Running := s.eth.running.find? fun r => r.seq = seq

/-- Completes a running command; nothing where it does not run. -/
def State.complete (s : State) (seq : W64) (a : Answer) : State :=
  match s.running? seq with
  | some r => s.completeAs r.code seq r.acceptBeat a
  | none => s

/-- Changes what a running command keeps for its later events. -/
def State.modRunning (s : State) (seq : W64) (f : Running → Running) : State :=
  { s with eth := { s.eth with running := s.eth.running.map fun r => if r.seq = seq then f r else r } }

/-! ### Admission (R379 to R384) -/

/-- Whether this device is the origin of the loom. -/
def State.isOrigin (s : State) : Bool := s.loom.isOrigin

/-- Device states in which a command runs (R384). -/
structure States where
  ready : Bool := false
  threaded : Bool := false
  faulted : Bool := false
  /-- "Origin" when THREADED. -/
  origin : Bool := false
  deriving DecidableEq, Repr

/-- The refusal of R384 for the present device state, if there is one. -/
def State.stateRefusal (s : State) (st : States) : Option Status :=
  let d := s.devState
  if d = stFaulted then
    (if st.faulted then (if st.origin && s.loom.disc.origin.isSome && !s.loom.disc.isOrigin then some .badArgument else none)
     else some (statusOf (s.fld Fld.devState_faultCause)))
  else if d = stThreaded then
    (if st.threaded then (if st.origin && !s.isOrigin then some .badArgument else none) else some .busy)
  else if d = stReady then
    (if st.ready then none else if st.threaded then some .notFound else some .busy)
  else some .notReady

/-- Whether the port takes commands: up, attached, and not frozen (R373, R383). -/
def State.portTakes (s : State) : Bool :=
  s.sys.tclk && s.fld Fld.ethStatus_state = 2 && s.flag Fld.ethAttach_attached &&
  (s.serving || s.devState = stFaulted || (s.devState = stBringup && 6 ≤ s.fld Fld.devState_phase))

/-- Records a SEQ as accepted and the highest so far. -/
def State.takeSeq (s : State) (code : Nat) (seq : W64) : State :=
  let s := s.hold seq none
  let s := { s with eth := { s.eth with highest := seq } }
  s.traceRec 0 1 0xFFFF code (leBytes seq.toNat 8)

/-- A command enters the list of those that run. -/
def State.enter (s : State) (code : Nat) (seq : W64) (fresh : Bool) : State :=
  let r : Running := { seq := seq, code := code, acceptBeat := s.beat, fresh := fresh }
  { s with eth := { s.eth with running := s.eth.running ++ [r] } }

/-- The refusal of a new SEQ after it is recorded, if there is one (R382 to R384). -/
def State.newRefusal (s : State) (st : States) : Option Status :=
  if s.devState = stBringup then some .notReady
  else if 256 ≤ s.eth.running.length then some .busy
  else s.stateRefusal st

/-- A command arrives under its SEQ (R379 to R384): a held SEQ is answered again and not run; a SEQ below the highest
completes with STALE; in bring-up it completes with NOT_READY; past 256 running commands with BUSY; in a device state
not listed for it with that state's refusal. Otherwise it is accepted, and `run` is its effect. -/
def State.accept (s : State) (code : Nat) (seq : W64) (st : States) (fresh : Bool) (run : State → State) : State :=
  match s.eth.outcomes.find? fun e => e.1 = seq with
  | some (_, some c) => (s.charge sharedAcct lEth (CmdMsg.done c).bytes).send (.done c)
  | some (_, none) => (s.charge sharedAcct lEth 32).send (.ack (((s.running? seq).map (·.code)).getD code) seq s.beat)
  | none =>
    if seq = 0 then s.completeAs code seq s.beat (.fail .badCommand)
    else if seq.ult s.eth.highest then (s.hold seq none).completeAs code seq s.beat (.fail .stale)
    else
      match (s.takeSeq code seq).newRefusal st with
      | some e => (s.takeSeq code seq).completeAs code seq s.beat (.fail e)
      | none => run ((s.takeSeq code seq).enter code seq fresh)

/-- Whether a command that names an object has still to take effect: it reads host memory, waits for running commands, or is a
PREEMPT whose context still runs (R382). -/
def Running.unsettled (r : Running) : Bool := r.region.isSome || r.waits || r.code = 0x53

/-- Whether a running command comes before the command of `seq` and holds it up (R382): one that has not started, or
one that names the same object and has still to take effect. -/
def holdsUp (seq : W64) (names : List (Nat × Nat)) : List Running → Bool
  | [] => false
  | r :: rs => if r.seq = seq then false
    else (r.fresh && !r.waits) || (r.unsettled && r.names.any fun n => names.contains n) || holdsUp seq names rs

/-- Runs a command that has been accepted, where the commands before it allow it. One that would change a page that a running
command maps waits (05 R177), and meanwhile holds up those that name the same objects. -/
def State.start (s : State) (seq : W64) (names : List (Nat × Nat)) (run : State → State) : State :=
  if holdsUp seq names s.eth.running then s
  else
    let t := run (s.modRunning seq fun r => { r with fresh := false, waits := false, names := names })
    if s.pagesKept t then t else s.modRunning seq fun r => { r with fresh := true, waits := true, names := names }

/-- A command row, with the objects that it names: it starts the command that was accepted before under its SEQ, or is
the arrival of the command itself (log 19). -/
def genotOn (names : List (Nat × Nat)) (code : Nat) (seq : W64) (st : States) (run : State → State) (s : State) : Out :=
  .next (whenDo s.portTakes s fun s =>
    match s.running? seq with
    | some r => if r.fresh && r.code = code then s.start seq names run else s.accept code seq st true fun s => s
    | none => s.accept code seq st true fun s => s.start seq names run)

/-- A command row that names no object of `genotOn`. -/
def genot (code : Nat) (seq : W64) (st : States) (run : State → State) (s : State) : Out := genotOn [] code seq st run s

/-- The region rules of R376. -/
def State.regionBad (s : State) (r : Region) : Bool :=
  r.qp.toNat < 2 || 1024 ≤ r.qp.toNat || s.fld (Fld.ethQp_state r.qp.toNat) ≠ 1

/-- BAD_ARGUMENT with DETAIL 0x0001: a descriptor that breaks R376. -/
def badRegion : Answer := { status := .badArgument, detail := 1 }

/-! ### Host regions (R372, R376) -/

/-- RDMA READ requests in which a region is read, of at most 1 MiB each. -/
def readParts (r : Region) : Nat := max 1 (ceilDiv r.length.toNat 0x100000)

/-- Bytes of request `k` of a region. -/
def partLen (r : Region) (k : Nat) : Nat := min 0x100000 (r.length.toNat - 0x100000 * k)

/-- Requests of a running command that have been answered. -/
def Running.answered (r : Running) : Nat := ceilDiv r.got.length 0x100000

/-- The queue pair from which a running command reads. -/
def Running.readQp (r : Running) : Option Nat := r.region.map (·.qp.toNat)

/-- Running commands that read host memory through queue pair `q`. -/
def State.readsOn (s : State) (q : Nat) : List Running := s.eth.running.filter fun r => r.readQp = some q

/-- RDMA READ requests outstanding on queue pair `q`. -/
def State.outstanding (s : State) (q : Nat) : Nat := ((s.readsOn q).map fun r => r.asked - r.answered).sum

/-- Running command `r` makes its next request where queue pair `q` has fewer than 16 outstanding and is not paused. -/
def State.ask (s : State) (q : Nat) (r : Running) : State :=
  match s.running? r.seq with
  | some r => match r.region with
    | some g =>
      let may : Bool := s.fld (Fld.ethQp_state q) = 1 && !s.dataPaused && s.outstanding q < 16 && r.asked < readParts g
      if may then
        (s.qpRead q (g.addr + BitVec.ofNat 64 (0x100000 * r.asked)) g.rkey (partLen g r.asked)).modRunning r.seq fun x =>
          { x with asked := x.asked + 1 }
      else s
    | none => s
  | none => s

/-- The commands that read through queue pair `q` make the requests that they may, in acceptance order, each as many as it can. -/
def State.askAll (s : State) (q : Nat) : State :=
  (s.readsOn q).foldl (fun s r => (List.range 16).foldl (fun s _ => s.ask q r) s) s

/-- A command that reads host memory starts its read. -/
def State.startRead (s : State) (seq : W64) (args : List Nat) (r : Region) : State :=
  (s.modRunning seq fun q => { q with args := args, region := some r, asked := 0, got := [] }).askAll r.qp.toNat

/-- Sends what a command writes into its region, where its queue pair is ready and not paused. -/
def State.issuePut (s : State) (r : Running) : State :=
  match r.put with
  | some p =>
    let q := p.region.qp.toNat
    let may : Bool := s.fld (Fld.ethQp_state q) = 1 && !s.dataPaused && p.psn.isNone
    if may then
      let s := s.qpWrite q p.region.addr p.region.rkey p.bytes
      let last := (s.fld (Fld.ethQpPsn_nextSend q) + 2 ^ 24 - 1) % 2 ^ 24
      s.modRunning r.seq fun x => { x with put := some { p with psn := some last } }
    else s
  | none => s

/-- A command writes its answer into its region: it completes once the host has acknowledged the last packet (R375). -/
def State.startPut (s : State) (seq : W64) (r : Region) (bytes : Bytes) (value : W64) : State :=
  let s := s.modRunning seq fun x => { x with put := some { region := r, bytes := bytes, value := value } }
  match s.running? seq with
  | some x => s.issuePut x
  | none => s

/-- What a pause held back goes out once it has ended: messages, reads and writes (R367). -/
def State.flushWaiting (s : State) : State :=
  if s.dataPaused then s
  else
    let s := s.eth.waiting.foldl (fun s m => s.send m) { s with eth := { s.eth with waiting := [] } }
    let s := s.eth.running.foldl (fun s r => s.issuePut r) s
    s.eth.running.foldl (fun s r => ((r.readQp).map fun q => s.askAll q).getD s) s

/-! ### Attempts (08 R336) -/

/-- Vault bytes of the work of core `p`: held with the attempt on it until that ends (R336), or its client's. -/
def State.chargeVault (s : State) (p n : Nat) : State :=
  match s.cmdOf p with
  | some c => s.setCmd (s.core p).cmd { c with vbytes := c.vbytes + n }
  | none => s.charge (s.core p).client lVault n

/-- An attempt ends: its engine cycles and vault bytes go to an account. -/
def State.chargeAttempt (s : State) (c : RunCmd) (acct : Nat) : State :=
  (s.charge acct lEngine c.cycles).charge acct lVault c.vbytes

end Sys2Proof.Machine
end

