-- ==== Sys2Proof/Machine/Lines.lean ====
section
/-!
DEFINITION. Vault lines as a stack's controller reads and writes them (05 R178 to R183, R209, R210): the outer code over
GF(2^16), its bounded decoding, the counters and records of errors, die marking and the failure of a stack.
-/
namespace Sys2Proof.Machine

/-! ### GF(2^16) with x^16 + x^12 + x^3 + x + 1, α = x -/

/-- Times α. -/
def gfTwice (a : W16) : W16 := if a.getLsbD 15 then (a <<< 1) ^^^ 0x100B#16 else a <<< 1

def gfMul (a b : W16) : W16 :=
  (List.range 16).foldl (fun acc i => let acc := gfTwice acc; if b.getLsbD (15 - i) then acc ^^^ a else acc) 0

/-- α^j. -/
def gfAlpha : Nat → W16
  | 0 => 1
  | j + 1 => gfTwice (gfAlpha j)

/-- The inverse: a^(2^16 − 2). -/
def gfInv (a : W16) : W16 :=
  ((List.range 15).foldl (fun (r : W16 × W16) _ => let q := gfMul r.2 r.2; (gfMul r.1 q, q)) (1, a)).1

/-! ### The outer code -/

/-- Codeword position of a symbol: data symbol k at k + 4, check symbol 32 + i at i, address symbols at 36 and 37
(R179). -/
def codePos (k : Nat) : Nat := if k < 32 then k + 4 else if k < 36 then k - 32 else k

/-- Locator of a symbol: α to its position. -/
def symX (k : Nat) : W16 := gfAlpha (codePos k)

/-- Syndrome S_i of a pattern of symbol errors. -/
def syndrome (i : Nat) (syms : List (Nat × W16)) : W16 :=
  syms.foldl (fun a e => a ^^^ gfMul e.2 (gfAlpha (i * codePos e.1))) 0

/-- What the decoder makes of a line: delivered with these corrections, or uncorrectable of kind 1 DATA or 2 ADDRESS. -/
inductive LineRead where
  | ok (fixes : List (Nat × W16))
  | bad (kind : Nat)
  deriving DecidableEq, Repr

/-- A located pattern is corrected where it lies among the stored positions, and is of kind ADDRESS otherwise. -/
def located (fixes : List (Nat × W16)) : LineRead :=
  if fixes.any fun e => 36 ≤ e.1 then .bad 2 else .ok (fixes.filter fun e => e.2 ≠ 0)

/-- The one error that explains the syndromes (R180). -/
def findOne (s0 s1 s2 s3 : W16) : Option (List (Nat × W16)) :=
  if s0 = 0 then none
  else
    match (List.range 38).find? fun k => s1 = gfMul s0 (symX k) && s2 = gfMul s1 (symX k) && s3 = gfMul s2 (symX k) with
    | some k => some [(k, s0)]
    | none => none

/-- The two errors that explain the syndromes (R180). -/
def findTwo (s0 s1 s2 s3 : W16) : Option (List (Nat × W16)) :=
  let hit := fun (k m : Nat) =>
    let a := symX k ^^^ symX m
    let b := gfMul (symX k) (symX m)
    s2 = gfMul a s1 ^^^ gfMul b s0 && s3 = gfMul a s2 ^^^ gfMul b s1
  match (List.range 38).findSome? fun k => ((List.range k).find? fun m => hit k m).map fun m => (k, m) with
  | some (k, m) =>
    let e := gfMul (s1 ^^^ gfMul s0 (symX m)) (gfInv (symX k ^^^ symX m))
    some [(k, e), (m, s0 ^^^ e)]
  | none => none

/-- Decoding without a marked die (R180). -/
def decodePlain (syms : List (Nat × W16)) : LineRead :=
  let s0 := syndrome 0 syms
  let s1 := syndrome 1 syms
  let s2 := syndrome 2 syms
  let s3 := syndrome 3 syms
  if s0 = 0 ∧ s1 = 0 ∧ s2 = 0 ∧ s3 = 0 then .ok []
  else
    match findOne s0 s1 s2 s3 with
    | some f => located f
    | none =>
      match findTwo s0 s1 s2 s3 with
      | some f => located f
      | none => .bad 1

/-- The erasures of die `d` solved once the further error, if any, is taken out of S0 and S1. -/
def solveErased (d : Nat) (s0 s1 : W16) : List (Nat × W16) :=
  let x := symX (2 * d)
  let y := symX (2 * d + 1)
  let e := gfMul (s1 ^^^ gfMul s0 y) (gfInv (x ^^^ y))
  [(2 * d, e), (2 * d + 1, s0 ^^^ e)]

/-- Decoding while die `d` is marked (R181): its two symbols are erasures, beside at most one further error. -/
def decodeMarked (d : Nat) (syms : List (Nat × W16)) : LineRead :=
  let s0 := syndrome 0 syms
  let s1 := syndrome 1 syms
  let s2 := syndrome 2 syms
  let s3 := syndrome 3 syms
  let g1 := symX (2 * d) ^^^ symX (2 * d + 1)
  let g2 := gfMul (symX (2 * d)) (symX (2 * d + 1))
  let t0 := s2 ^^^ gfMul g1 s1 ^^^ gfMul g2 s0
  let t1 := s3 ^^^ gfMul g1 s2 ^^^ gfMul g2 s1
  if t0 = 0 ∧ t1 = 0 then located (solveErased d s0 s1)
  else
    match (List.range 38).find? fun k => k / 2 ≠ d && t0 ≠ 0 && t1 = gfMul t0 (symX k) with
    | some k =>
      let x := symX k
      let e := gfMul t0 (gfInv (gfMul x x ^^^ gfMul g1 x ^^^ g2))
      located ((k, e) :: solveErased d (s0 ^^^ e) (s1 ^^^ gfMul e x))
    | none => .bad 1

/-! ### Reading a line -/

/-- Who asks for a line: physical core, another device, injection or recall, or scrub. -/
inductive Asker where
  | core (p : Nat)
  | other
  | inject
  | scrub
  deriving DecidableEq, Repr

def stkFailed : Nat := 5

def State.stack (s : State) (st : Nat) : Stack := SMap.get s.vstacks {} st
def State.setStack (s : State) (st : Nat) (x : Stack) : State := { s with vstacks := SMap.put s.vstacks st x }

/-- The die of a stack that is marked. -/
def State.marked (s : State) (st : Nat) : Option Nat :=
  (List.range 18).find? fun d => (s.fld (Fld.vltStatus_dieMark st)).testBit d

/-- Records an event in VLT_ERR_ADDR unless it holds one (R210). -/
def State.recordErr (s : State) (st kind addr : Nat) : State :=
  if s.flag (Fld.vltErrAddr_valid st) then s
  else
    let s := s.setFld (Fld.vltErrAddr_kind st) kind
    let s := s.setFld (Fld.vltErrAddr_addr st) addr
    let s := s.setFld (Fld.vltErrAddr_valid st) 1
    s.setRaw (Reg.vltErrBeat st) (BitVec.ofNat 64 s.beat)

/-- A stack enters FAILED (R210): the record, and the STACK_FAILED entry for which the device faults. -/
def State.failStack (s : State) (st cause addr : Nat) : State :=
  let s := s.setFld (Fld.vltStatus_state st) stkFailed
  let s := s.recordErr st 5 addr
  let n := s.fld Fld.errStatus_next
  let die := match s.marked st with
    | some d => d
    | none => 0xFF
  let s := s.logError eStackFailed st (BitVec.ofNat 64 cause) (BitVec.ofNat 64 die)
  s.setStack st { s.stack st with failNote := some n }

/-- The outer code corrected a symbol of die `d` in line `pa` (R182). -/
def State.countDie (s : State) (st pa : Nat) (d : Nat) : State :=
  let s := s.count (Fld.vltInner_outerSym st d)
  let limit := s.fld (Fld.vltCtrl_markThresh st)
  let reached : Bool := limit ≠ 0 && s.fld (Fld.vltInner_outerSym st d) = limit
  if reached then
    match s.marked st with
    | none =>
      let s := s.setFld (Fld.vltStatus_dieMark st) (2 ^ d)
      s.logError eDieMarked st (BitVec.ofNat 64 d) (BitVec.ofNat 64 (s.fld (Fld.vltInner_outerSym st d)))
    | some m => if m ≠ d && s.fld (Fld.vltStatus_state st) ≠ stkFailed then s.failStack st 1 pa else s
  else s

/-- An uncorrectable line (R209, R210): counted, recorded, entered in the error log. A line of a FAILED stack is of kind DATA
whoever asks for it. -/
def State.badLine (s : State) (st pa kind : Nat) (who : Asker) : State :=
  let failed : Bool := s.fld (Fld.vltStatus_state st) = stkFailed
  let kind := match who with
    | .inject => if failed then kind else 4
    | .scrub => if failed then kind else 3
    | _ => kind
  let s := s.count (Fld.vltUe_count st)
  let s := s.recordErr st kind pa
  let core := match who with
    | .core p => p
    | _ => 0x7FF
  s.logError eVaultUe st (BitVec.ofNat 64 (kind * 2 ^ 60 + pa)) (BitVec.ofNat 64 core)

/-- The error pattern of line `line` among those that arrived with a command. -/
def errOf (errs : List LineErr) (line : Nat) : LineErr := (errs.find? fun e => e.line = line).getD ⟨line, [], []⟩

/-- The decoder's verdict on a line, with everything it counts. -/
def State.decodeLine (s : State) (line : Nat) (errs : List LineErr) (who : Asker) : State × LineRead :=
  let pa := 64 * line
  let st := stackOf pa
  if s.fld (Fld.vltStatus_state st) = stkFailed then (s.badLine st pa 1 who, .bad 1)
  else
    let e := errOf errs line
    let s := (e.inner.filter fun d => d < 18).foldl (fun s d => s.count (Fld.vltInner_inner st d)) s
    let r := match s.marked st with
      | some d => decodeMarked d e.syms
      | none => decodePlain e.syms
    match r with
    | .bad kind => (s.badLine st pa kind who, r)
    | .ok [] => (s, r)
    | .ok fixes =>
      let s := s.count (Fld.vltCe_count st)
      let dies := (fixes.map fun f => f.1 / 2).dedup
      (dies.foldl (fun s d => s.countDie st pa d) s, r)

/-- The difference that remains in data symbol `k` after the corrections. -/
def leftover (syms fixes : List (Nat × W16)) (k : Nat) : W16 :=
  ((syms ++ fixes).filter fun e => e.1 = k).foldl (fun a e => a ^^^ e.2) 0

/-- The 64 bytes that are delivered: those stored, with what a miscorrection leaves. -/
def State.lineBytes (s : State) (line : Nat) (syms fixes : List (Nat × W16)) : Bytes :=
  (List.range 64).map fun i =>
    let x := leftover syms fixes (i / 2)
    s.vault.byte (64 * line + i) ^^^ (if i % 2 = 0 then x.extractLsb' 0 8 else x.extractLsb' 8 8)

/-- A read of one line: its bytes, or none where it is uncorrectable. -/
def State.readLine (s : State) (line : Nat) (errs : List LineErr) (who : Asker) : State × Option Bytes :=
  match s.decodeLine line errs who with
  | (s, .bad _) => (s, none)
  | (s, .ok fixes) => (s, some (s.lineBytes line (errOf errs line).syms fixes))

/-- Lines of a set of bytes, in increasing order of first use. -/
def linesOf (pas : List Nat) : List Nat := (pas.map (· / 64)).dedup

/-- Reads every line of a set of bytes: the lines with their contents, an uncorrectable one with none. -/
def State.readLines (s : State) (errs : List LineErr) (who : Asker) : List Nat → State × List (Nat × Option Bytes)
  | [] => (s, [])
  | l :: ls =>
    let r := s.readLine l errs who
    let rest := r.1.readLines errs who ls
    (rest.1, (l, r.2) :: rest.2)

/-- Byte at `pa` among lines that were read; none where its line is uncorrectable. -/
def byteIn (lines : List (Nat × Option Bytes)) (pa : Nat) : Option Byte :=
  match lines.find? fun e => e.1 = pa / 64 with
  | some (_, some bs) => bs[pa % 64]?
  | _ => none

/-- Counts data bytes read at the stack of each byte. -/
def State.countRead (s : State) (st n : Nat) : State := s.countWrap (Fld.vltRdBytes_bytes st) n
def State.countWrite (s : State) (st n : Nat) : State := s.countWrap (Fld.vltWrBytes_bytes st) n

/-- A request joins the queue of a stack; the bound of R189 starts where none waited. -/
def State.queueWork (s : State) (st : Nat) (w : VaultWork) : State :=
  let k := s.stack st
  s.setStack st { k with queue := k.queue ++ [w], idleFrom := if k.queue.isEmpty then s.beat else k.idleFrom }

/-- Requests that waited for a page, of those that `p` names, join the queues of their stacks again. -/
def State.unpark (s : State) (p : VaultWork → Bool) : State :=
  let go := s.parked.filter fun e => p e.2
  go.foldl (fun (s : State) (e : Nat × VaultWork) => s.queueWork e.1 e.2) { s with parked := s.parked.filter fun e => !p e.2 }

/-- Whether a request is part of a teller instruction, or a remote operation to the device itself, of a core among `ps`. -/
def VaultWork.ofCores (ps : List Nat) : VaultWork → Bool
  | .tel p _ => ps.contains p
  | .attn p _ => ps.contains p
  | .own o _ _ => ps.contains o.core
  | _ => false

/-- A stack has completed a request: the bound of R189 starts anew for those that wait. -/
def State.completed (s : State) (st : Nat) : State :=
  if (s.stack st).queue.isEmpty then s else s.setStack st { s.stack st with idleFrom := s.beat }

/-- Counts bytes per stack for a set of physical addresses that a request has read or written. -/
def State.countBytes (s : State) (pas : List Nat) (write : Bool) : State :=
  (List.range nStacks).foldl (fun s st =>
    let n := (pas.filter fun a => stackOf a = st).length
    if n = 0 then s else ((if write then s.countWrite st n else s.countRead st n).completed st)) s

/-- Program addresses of a context that name physical address `pa`. -/
def Context.namesOf (c : Context) (pa : Nat) : List Nat :=
  c.pages.filterMap fun e => match e.2 with
    | .resident f => if f = pa / pageBytes then some (e.1 * pageBytes + pa % pageBytes) else none
    | _ => none

/-- Whether a byte is unspecified to a reader: a command other than the reader's has still to publish it (04 R165). -/
def State.hidden (s : State) (who : Asker) (pa : Nat) : Bool :=
  s.sched.unpub.any fun u =>
    let own : Bool := match who with
      | .core p => match s.cmdOf p with
        | some c => c.ctx = u.ctx && c.seq = u.seq
        | none => false
      | _ => false
    !own && ((s.ctx u.ctx).namesOf pa).any fun a => u.base ≤ a && a < u.base + u.length

/-- Unspecified bytes among bytes that were read are free values. -/
def State.freeHidden (s : State) (who : Asker) : List Nat → Bytes → State × Bytes
  | a :: as, b :: bs =>
    let r := s.freeHidden who as bs
    if r.1.hidden who a then let f := r.1.freeByte; (f.2, f.1 :: r.2) else (r.1, b :: r.2)
  | _, _ => (s, [])

/-- Reads bytes at physical addresses: all of them, or none where some line is uncorrectable. -/
def State.readBytes (s : State) (pas : List Nat) (errs : List LineErr) (who : Asker) : State × Option Bytes :=
  let r := s.readLines errs who (linesOf pas)
  let s := r.1.countBytes pas false
  match pas.mapM (byteIn r.2) with
  | some bs => if s.sched.unpub.isEmpty then (s, some bs) else let f := s.freeHidden who pas bs; (f.1, some f.2)
  | none => (s, none)

/-- Whether a set of bytes covers all of a line. -/
def wholeLine (pas : List Nat) (l : Nat) : Bool := ((pas.filter fun a => a / 64 = l).dedup).length = 64

/-- The vault after lines that were read, and corrected, are re-encoded. -/
def mergeLines (m : Mem) (lines : List (Nat × Option Bytes)) : Mem :=
  lines.foldl (fun (m : Mem) (e : Nat × Option Bytes) => match e.2 with
    | some bs => m.store (64 * e.1) bs
    | none => m) m

/-- Writes bytes at physical addresses, line by line (R183): a line written in part is read first, and is left as it is
where it is uncorrectable; the flag says whether every line was written. -/
def State.writeBytes (s : State) (es : List (Nat × Byte)) (errs : List LineErr) (who : Asker) : State × Bool :=
  let pas := es.map (·.1)
  let part := (linesOf pas).filter fun l => !wholeLine pas l
  let r := s.readLines errs who part
  let bad := r.2.filterMap fun e => if e.2.isNone then some e.1 else none
  let put := es.filter fun e => !bad.contains (e.1 / 64)
  let m := put.foldl (fun (m : Mem) (e : Nat × Byte) => SMap.set m 0 e.1 e.2) (mergeLines r.1.vault r.2)
  let s := { r.1 with vault := m }
  (s.countBytes (put.map (·.1)) true, bad.isEmpty)

/-- Accumulates elements (physical address and operand) into the vault, line by line (R183, 03 R82): whether every line
was written, and whether an INT32 sum saturated. -/
def State.accBytes (s : State) (type : Nat) (es : List (Nat × W32)) (errs : List LineErr) (who : Asker) :
    State × Bool × Bool :=
  let k := accSize type
  let r := s.readLines errs who (linesOf (es.map (·.1)))
  let bad := r.2.filterMap fun e => if e.2.isNone then some e.1 else none
  let put := es.filter fun e => !bad.contains (e.1 / 64)
  let m := put.foldl (fun (m : Mem × Bool) e =>
    let x := accElem type (m.1.bytes e.1 k) e.2
    (m.1.store e.1 x.1, m.2 || x.2)) (mergeLines r.1.vault r.2, false)
  let s := { r.1 with vault := m.1 }
  let pas := put.flatMap fun e => (List.range k).map (e.1 + ·)
  ((s.countBytes pas false).countBytes pas true, bad.isEmpty, m.2)

/-! ### Clerk accesses (R187)

The clerks read and write the vault as any requester does: each line is decoded, with the errors that the dies deliver at
the time (log 128). The spec says nothing of data that a clerk's read cannot correct: it is free (log 128). -/

/-- A clerk's read of bytes at physical addresses. -/
def State.clerkRead (s : State) (pas : List Nat) : State × Bytes :=
  let r := s.readBytes pas s.lineErrs .other
  match r.2 with
  | some bs => (r.1, bs)
  | none => let f := r.1.freeBytes pas.length; (f.2, f.1)

/-- A clerk's write at physical addresses: a line written in part that cannot be corrected is left as it is (R183). -/
def State.clerkWrite (s : State) (es : List (Nat × Byte)) : State := (s.writeBytes es s.lineErrs .other).1

/-- Physical addresses of the bytes of a program range, where it is resident. -/
def State.spotsOf (s : State) (k a n : Nat) : List (Nat × Nat) :=
  (List.range n).filterMap fun i => match s.translate k (a + i) with
    | .at x => some (x, i)
    | _ => none

/-- Physical addresses of the bytes of a program range that may be written. -/
def State.spotsRw (s : State) (k a n : Nat) : List (Nat × Nat) := (s.spotsOf k a n).filter fun e => s.writable k (a + e.2)

/-- A clerk's read of a program range, which is resident. -/
def State.clerkGet (s : State) (k a n : Nat) : State × Bytes := s.clerkRead ((s.spotsOf k a n).map (·.1))

/-- A clerk's write of a program range. -/
def State.clerkPut (s : State) (k a : Nat) (bs : Bytes) : State :=
  s.clerkWrite ((s.spotsRw k a bs.length).map fun e => (e.1, bs.getD e.2 0))

/-- A clerk's read and write of a run of bytes at a physical address. -/
def State.clerkLoad (s : State) (pa n : Nat) : State × Bytes := s.clerkRead ((List.range n).map (pa + ·))
def State.clerkStore (s : State) (pa : Nat) (bs : Bytes) : State :=
  s.clerkWrite (((List.range bs.length).map (pa + ·)).zip bs)

end Sys2Proof.Machine
end

