-- ==== Sys2Proof/Machine/Mesh.lean ====
section
/-!
DEFINITION. The mesh as its devices send over it: ports and bundles (06 R212, R216 to R218), places in the mesh and on the
ring (06 R234, R236, R237), the routing of flits (06 R246), the payloads that the spec lays out (06 R242, R248; 07 R269,
R282), and the flits of a loom message.
-/
namespace Sys2Proof.Machine

/-! ### Ports and bundles -/

def bunId (p b : Nat) : Nat := 8 * p + b
def State.bundle (s : State) (p b : Nat) : Bundle := SMap.get s.bundles {} (bunId p b)
def State.setBundle (s : State) (p b : Nat) (x : Bundle) : State := { s with bundles := SMap.put s.bundles (bunId p b) x }
def State.port (s : State) (p : Nat) : Port := SMap.get s.ports {} p
def State.setPort (s : State) (p : Nat) (x : Port) : State := { s with ports := SMap.put s.ports p x }

def pDown : Nat := 0
def pTraining : Nat := 1
def pUp : Nat := 2
def pDegraded : Nat := 3
def pRetrain : Nat := 4
def pFailed : Nat := 5
def pIdle : Nat := 6

def State.portState (s : State) (p : Nat) : Nat := s.fld (Fld.lnkPortStatus_state p)

/-- Ports that are UP, DEGRADED or RETRAIN (table LNK_PORT_STATUS). -/
def State.portUp (s : State) (p : Nat) : Bool :=
  s.portState p = pUp || s.portState p = pDegraded || s.portState p = pRetrain

/-- A port changes state, with its trace record (12 R450). -/
def State.setPortState (s : State) (p v : Nat) : State :=
  if s.portState p = v then s
  else
    let s := s.setFld (Fld.lnkPortStatus_state p) v
    s.traceRec 7 v 0xFFFF p (leBytes (s.raw (Reg.lnkPortStatus p)).toNat 8)

/-- Whether bundle `b` of port `p` is in service. -/
def State.bundleUp (s : State) (p b : Nat) : Bool := (s.fld (Fld.lnkPortStatus_bundleUp p)).testBit b

/-- Whether a port is a ring port (table LNK_PORT_STATUS). -/
def State.ringPort (s : State) (p : Nat) : Bool :=
  s.fld (Fld.lnkPortStatus_role p) = 1 || s.fld (Fld.lnkPortStatus_role p) = 2

/-- Virtual channel of a flit type (R218). -/
def typeVc (type : Nat) : Option Nat :=
  match type with
  | 1 => some 0
  | 2 => some 1
  | 3 => some 1
  | 4 => some 1
  | 5 => some 1
  | 6 => some 2
  | 7 => some 3
  | 8 => some 4
  | 9 => some 5
  | 10 => some 5
  | _ => none

/-! ### Places: N is port 0, E 1, S 2, W 3 -/

/-- Coordinates of the neighbour that a port faces. -/
def stepTo (r c : Int) : Nat → Int × Int
  | 0 => (r - 1, c)
  | 1 => (r, c + 1)
  | 2 => (r + 1, c)
  | _ => (r, c - 1)

/-- Ring position of device (r, c) in an nr by nc loom (R236). -/
def ringPos (nr nc r c : Nat) : Nat :=
  if r = 0 then c
  else if c = 0 then nc + (nr - 1) * (nc - 1) + (nr - 1 - r)
  else if r % 2 = 1 then nc + (r - 1) * (nc - 1) + (nc - 1 - c)
  else nc + (r - 1) * (nc - 1) + (c - 1)

/-- The device at a ring position. -/
def ringPlace (nr nc pos : Nat) : Nat × Nat :=
  if pos < nc then (0, pos)
  else
    let q := pos - nc
    if (nr - 1) * (nc - 1) ≤ q then (nr - 1 - (q - (nr - 1) * (nc - 1)), 0)
    else
      let r := 1 + q / (nc - 1)
      let k := q % (nc - 1)
      (r, if r % 2 = 1 then nc - 1 - k else k + 1)

/-- Ring position of the neighbour on port `p`, where there is one. -/
def posAt (nr nc r c p : Nat) : Option Nat :=
  let q := stepTo r c p
  if 0 ≤ q.1 ∧ q.1 < nr ∧ 0 ≤ q.2 ∧ q.2 < nc then some (ringPos nr nc q.1.toNat q.2.toNat) else none

/-- The port towards a ring position (R237). -/
def portTo (nr nc r c pos : Nat) : Nat := ((List.range nPorts).find? fun p => posAt nr nc r c p = some pos).getD 0

def aOutPort (nr nc r c : Nat) : Nat := portTo nr nc r c ((ringPos nr nc r c + 1) % (nr * nc))
def bOutPort (nr nc r c : Nat) : Nat := portTo nr nc r c ((ringPos nr nc r c + nr * nc - 1) % (nr * nc))

/-- Child ports of the barrier tree (R247). -/
def treeChildren (nr nc r c : Nat) : List Nat :=
  (if r = 0 ∧ c + 1 < nc then [1] else []) ++ (if r + 1 < nr then [2] else [])

def State.parentPort (s : State) : Nat := if 1 ≤ s.loom.row then 0 else 3

def State.childPorts (s : State) : List Nat :=
  if s.devState ≠ stThreaded then [] else treeChildren s.loom.nr s.loom.nc s.loom.row s.loom.col

/-- The coordinates by which this device routes: those of its threading, or of the discovery before one. -/
def State.place (s : State) : Nat × Nat :=
  if s.devState = stThreaded then (s.loom.row, s.loom.col) else (s.fld Fld.lnkCoord_row, s.fld Fld.lnkCoord_col)

/-! ### Express paths (R227) -/

/-- Devices and ports that an express path uses: row, column, port. -/
def pathSpots (x : ExpressPath) : List (Nat × Nat × Nat) :=
  if x.aRow = x.bRow then
    let lo := min x.aCol x.bCol
    let n := max x.aCol x.bCol - lo
    (List.range n).flatMap fun i => [(x.aRow, lo + i, 1), (x.aRow, lo + i + 1, 3)]
  else
    let lo := min x.aRow x.bRow
    let n := max x.aRow x.bRow - lo
    (List.range n).flatMap fun i => [(lo + i, x.aCol, 2), (lo + i + 1, x.aCol, 0)]

/-- The far end of an express path that begins at (r, c) and leaves by port `p`. -/
def pathFarEnd (x : ExpressPath) (r c p : Nat) : Option (Nat × Nat) :=
  let far := if (x.aRow, x.aCol) = (r, c) then some (x.bRow, x.bCol)
    else if (x.bRow, x.bCol) = (r, c) then some (x.aRow, x.aCol) else none
  if (pathSpots x).contains (r, c, p) then far else none

/-! ### Routing (R246) -/

/-- The port of the next hop to (dr, dc); none at the destination. -/
def State.hopTo (s : State) (dr dc : Nat) : Option Nat :=
  if s.place.1 < dr then some 2
  else if dr < s.place.1 then some 0
  else if s.place.2 < dc then some 1
  else if dc < s.place.2 then some 3
  else none

/-- Hops that an express path saves towards (dr, dc), when its far end does not pass the destination. -/
def State.expressGain (s : State) (x : ExpressPath) (p dr dc : Nat) : Nat :=
  match pathFarEnd x s.loom.row s.loom.col p with
  | none => 0
  | some (fr, fc) =>
    let ok : Bool := match p with
      | 0 => dr ≤ fr
      | 1 => fc ≤ dc
      | 2 => fr ≤ dr
      | _ => dc ≤ fc
    if ok then (max fr s.loom.row - min fr s.loom.row) + (max fc s.loom.col - min fc s.loom.col) else 0

/-- The bundles of the longest express path that the hop may take; 0 for none. -/
def State.expressMask (s : State) (p dr dc : Nat) : BitVec 8 :=
  if s.devState ≠ stThreaded then 0 else
  (s.loom.express.foldl (fun (a : Nat × BitVec 8) x =>
    let g := s.expressGain x p dr dc
    if a.1 < g then (g, x.mask) else a) (0, 0)).2

/-- ROUTE of a flit to (r, c) (R216). -/
def routeTo (r c : Nat) : BitVec 27 := BitVec.ofNat 27 (r % 64 * 2 ^ 21 + c % 128 * 2 ^ 14)

/-- The ring port by which a warp flit that arrives on ring port `p` goes on. -/
def State.throughPort (s : State) (p : Nat) : Nat := if p = s.loom.bOut then s.loom.aOut else s.loom.bOut

/-- Whether the device cannot place a warp flit that arrives on ring port `p` (07 R276): as many as its buffer holds wait to go
on. The spec does not state that number (log 61). -/
def State.holdsWarp (s : State) (p : Nat) : Bool :=
  s.ringPort p && Config.warpRoom < ((s.port (s.throughPort p)).txq.filter fun f => f.vc = 0).length

/-! ### Payloads that the spec lays out -/

/-- Data bytes of one flit of a request or a reply (R242). -/
def rmtChunk : Nat := 208
/-- Payload bytes of a flit. -/
def flitPayload : Nat := 240

/-- The payload of an RMT_REQ or RMT_RSP flit, up to its last data byte (R242). -/
def rmtPayload (h : RmtHdr) (data : Bytes) : Bytes :=
  leBytes h.addr.toNat 8 ++ leBytes (h.row * 128 + h.col) 2 ++ leBytes h.tag 2 ++ leBytes h.epoch.toNat 1 ++
    leBytes (h.op + 16 * h.accType) 1 ++ leBytes h.count 2 ++ leBytes h.total 2 ++ leBytes h.refusal 1 ++ leBytes h.phase 1 ++
    leBytes h.job 2 ++ leBytes h.client 2 ++ List.replicate 8 0 ++ data

/-- The header of an RMT flit by its payload. -/
def rmtHead (bs : Bytes) : RmtHdr :=
  { addr := BitVec.ofNat 64 (field bs 0 8 % 2 ^ 44), row := field bs 8 2 / 128 % 64, col := field bs 8 2 % 128,
    tag := field bs 10 2, epoch := BitVec.ofNat 8 (field bs 12 1), op := field bs 13 1 % 16, accType := field bs 13 1 / 16 % 4,
    count := field bs 14 2, total := field bs 16 2, refusal := field bs 18 1, phase := field bs 19 1, job := field bs 20 2,
    client := field bs 22 2 }

/-- The data of an RMT flit: COUNT bytes. -/
def rmtBody (bs : Bytes) : Bytes := (bs.drop 32).take (min rmtChunk (field bs 14 2))

/-- The payload of a BARRIER flit: KIND 1 ARRIVE, 2 RELEASE (table of R248). -/
def barrierPayload (kind : Nat) (key : BarKey) (flags : BitVec 8) (gen : W64) : Bytes :=
  let k := match key with
    | .step b => (1, b, 0)
    | .job j n => (2, n, j)
  leBytes kind 1 ++ leBytes k.1 1 ++ leBytes k.2.1 2 ++ leBytes k.2.2 2 ++ leBytes flags.toNat 1 ++ [0] ++
    leBytes gen.toNat 8 ++ List.replicate 224 0

/-- The payload of PASS_START (07 R269). -/
def passPayload (m : PassMsg) : Bytes :=
  leBytes 0x10 2 ++ leBytes m.entry 2 ++ List.replicate 4 0 ++ leBytes m.seq 8 ++ leBytes m.draftId.toNat 8 ++
    leBytes m.start 8 ++ leBytes m.step.toNat 8 ++ leBytes m.split 2 ++ List.replicate 6 0 ++ leBytes m.newVersion.toNat 8 ++
    leBytes m.oldVersion.toNat 8 ++ List.replicate 176 0

/-- The payload of a RECALL flit: KIND 1 request, 2 data, 3 refused (table of 07 R282). -/
def recallPayload (kind reason part : Nat) (m : RecallMsg) (data : Bytes) : Bytes :=
  leBytes kind 1 ++ leBytes reason 1 ++ leBytes m.count 1 ++ leBytes part 1 ++ List.replicate 4 0 ++ leBytes m.passSeq 8 ++
    leBytes m.index 4 ++ leBytes (m.row * 128 + m.col) 2 ++ [0, 0] ++ (data ++ List.replicate 216 0).take 216

/-! ### The flits of a loom message (R218) -/

/-- A flit to a neighbour on port `p`. -/
def nearFlit (p type : Nat) (m : LoomMsg) (payload : Bytes := []) : List (Nat × OutFlit) :=
  [(p, { type := type, vc := (typeVc type).getD 0, route := 0, payload := payload, msg := some m })]

/-- A routed flit to the device at (r, c); none where that is this device. -/
def State.farFlit (s : State) (rc : Nat × Nat) (type : Nat) (m : LoomMsg) (payload : Bytes := []) : List (Nat × OutFlit) :=
  match s.hopTo rc.1 rc.2 with
  | some p => [(p, { type := type, vc := (typeVc type).getD 0, route := routeTo rc.1 rc.2, payload := payload, msg := some m,
                     mask := s.expressMask p rc.1 rc.2 })]
  | none => []

/-- Rows and columns of the loom to which this origin sends: that of its running THREAD_LOOM, or of the threading. -/
def State.loomSize (s : State) : Nat × Nat :=
  match s.loom.ops with
  | o :: _ => if o.kind = .thread then (o.arg, o.arg2) else (s.loom.nr, s.loom.nc)
  | [] => (s.loom.nr, s.loom.nc)

/-- A MSG flit to every other device of the loom (log 129). -/
def State.toAll (s : State) (m : LoomMsg) : List (Nat × OutFlit) :=
  (List.range s.loomSize.1).flatMap fun r => (List.range s.loomSize.2).flatMap fun c => s.farFlit (r, c) 0xA m

/-- The flits in which a message leaves, with their ports. A message whose bytes the spec does not lay out leaves in one
flit to each device that it goes to (log 129); the state of a session in as many as its bytes need. -/
def State.flitsOf (s : State) (m : LoomMsg) : List (Nat × OutFlit) :=
  match m with
  | .prepare _ _ _ _ => s.toAll m
  | .commit _ _ _ => s.toAll m
  | .abort _ => s.toAll m
  | .start _ _ => s.toAll m
  | .stop _ _ => s.toAll m
  | .reply _ _ _ _ _ => s.farFlit (0, 0) 0xA m
  | .arrive p key fl gen => nearFlit p 4 m (barrierPayload 1 key fl gen)
  | .release p key fl gen => nearFlit p 4 m (barrierPayload 2 key fl gen)
  | .flood p _ => nearFlit p 3 m
  | .answer p _ _ => nearFlit p 3 m
  | .report p _ _ => nearFlit p 3 m
  | .hello p _ => nearFlit p 2 m
  | .fault p _ => nearFlit p 5 m
  | .beat p _ => nearFlit p 2 m
  | .spare p _ => nearFlit p 2 m
  | .pass x => s.childPorts.flatMap fun p => nearFlit p 0xA m (passPayload x)
  | .rmtReq row col h data => s.farFlit (row, col) 7 m (rmtPayload h data)
  | .rmtRsp h data => s.farFlit (h.row, h.col) 8 m (rmtPayload h data)
  | .recall x home => s.farFlit (ringPlace s.loom.nr s.loom.nc home) 6 m (recallPayload 1 0 0 x [])
  | .recallData x part data => s.farFlit (x.row, x.col) 6 m (recallPayload 2 0 part x data)
  | .recallRefused x reason => s.farFlit (x.row, x.col) 6 m (recallPayload 3 reason 0 x [])
  | .migrate row col x =>
    let n := match x with
      | .state _ _ _ y => ceilDiv (64 + y.params.length + 4 * y.history.length + 4 * y.prompt.length + 65536 * y.kv.length) 240
      | .reply _ _ _ => 1
    (List.range n).flatMap fun _ => s.farFlit (row, col) 9 m

/-- Flits wait on their ports. -/
def State.queueFlits (s : State) (fs : List (Nat × OutFlit)) : State :=
  fs.foldl (fun s e => s.setPort e.1 { s.port e.1 with txq := (s.port e.1).txq ++ [e.2] }) s

/-- Whether the flit of a loom message is charged to the shared account (08 R335). -/
def LoomMsg.shared : LoomMsg → Bool
  | .rmtReq _ _ _ _ => false
  | .rmtRsp _ _ => false
  | .migrate _ _ _ => false
  | _ => true

/-- Hands a loom message to the mesh (log 22): its flits wait on their ports, and their payload bytes are counted (08 R335). -/
def State.loomSend (s : State) (m : LoomMsg) : State :=
  let fs := s.flitsOf m
  let s := s.queueFlits fs
  let s := { s with loom := { s.loom with out := s.loom.out ++ [m] } }
  if m.shared then s.charge sharedAcct lLink (flitPayload * fs.length) else s

/-- A FAULT flit floods from every port that is up (06 R239). -/
def State.floodFault (s : State) (loc : Option (Nat × Nat)) : State :=
  ((List.range nPorts).filter s.portUp).foldl (fun s p => s.loomSend (.fault p loc)) s

end Sys2Proof.Machine
end

