-- ==== Sys2Proof/Machine/Work.lean ====
section
/-!
DEFINITION. How commands end: the commit (04 R161 to R163), the fold of exact mode (09 R345 to R347), aborts and kills
(04 R164, 08 R330), the end of a job (08 R314), stopping a job and faulting the device (13 R463 to R465), and the
retirement of a core (13 R460 to R462).
-/
namespace Sys2Proof.Machine

/-! ### Cores of a command -/

/-- A core whose command is aborted: its streams are cancelled, its threads idle (R164). A merge in progress ends. -/
def Core.aborted (c : Core) : Core :=
  let c := c.cancelAll
  { c with threads := c.threads.mapVals (fun th => { th with st := .idle }), phase := .none, stopped := false, saving := false,
           merge := none }

/-- A core whose command has committed: its threads become idle (R163). -/
def Core.released (c : Core) : Core :=
  { c with threads := c.threads.mapVals (fun th => { th with st := .idle }), phase := .none, stopped := false, saving := false }

/-- The remote operations of some cores become orphans (08 R330); one whose reply came too late for a save is over. -/
def State.orphan (s : State) (ps : List Nat) : State :=
  let gone := fun (o : Option RmtOp) => (o.map fun r => ps.contains r.core && r.late) = some true
  let held : SMap (Option RmtOp) := s.rmt.filter fun e => !gone e.2
  let rmt := held.mapVals fun o => o.map fun r => if ps.contains r.core then { r with orphan := true } else r
  { s with rmt := rmt }

/-- Slots of other cores that streams of some cores fill are abandoned with those streams (03 R90, R112, R115). -/
def State.abandonMcasts (s : State) (ps : List Nat) : State :=
  { s with cores := s.cores.mapVals fun (c : Core) => { c with slots := c.slots.mapVals fun x => match x.user with
      | .mcast p _ => if ps.contains p then x.abandon else x
      | _ => x } }

/-- Every core of a command is aborted, and the command is gone. -/
def State.abortCmd (s : State) (key : Nat) (c : RunCmd) : State :=
  let ps := s.setCores c
  let s := (ps.foldl (fun s p => s.modCore p Core.aborted) s).abandonMcasts ps
  let s := ((s.orphan ps).unpark (VaultWork.ofCores ps)).dropCmd key
  s.traceRec 6 3 0xFFFF c.ctx (leBytes c.seq.toNat 8)

/-- The command as it was at its dispatch (08 R318): its SEQ and its substituted words stay. -/
def RunCmd.again (c : RunCmd) : RunCmd :=
  { c with phase := .running, bars := [], pubs := [], copies := [], cl := [], strict := none, faulted := none,
           ending := none, cycles := 0, vbytes := 0 }

/-- Commands of a context that run. -/
def State.cmdsOf (s : State) (k : Nat) : List (Nat × RunCmd) :=
  s.sched.cmds.filterMap fun e => match e.2 with
    | some c => if c.ctx = k then some (e.1, c) else none
    | none => none

/-- Commands of a context that still have to end: running, to be run again, or saved. -/
def State.busyCtx (s : State) (k : Nat) : Bool :=
  !(s.cmdsOf k).isEmpty || !(s.ctx k).rerun.isEmpty || !(s.ctx k).saved.isEmpty

/-- Saved commands of context `k` that never run again are dropped, their work so far charged to the client (08 R336). -/
def State.dropSaved (s : State) (k : Nat) (p : RunCmd → Bool) : State :=
  let c := s.ctx k
  let s := (c.saved.filter fun v => p v.cmd).foldl (fun s v => s.chargeAttempt v.cmd c.client) s
  s.modCtx k fun c => { c with saved := c.saved.filter fun v => !p v.cmd }

/-! ### Context states and jobs -/

/-- A partition whose turn was context `k`'s gives it up. -/
def Partition.endTurn (k : Nat) (q : Partition) : Partition :=
  match q.turn with
  | some t => if t.1 = k then { q with turn := none } else q
  | none => q

/-- Context `k` has no turn. -/
def State.endTurn (s : State) (k : Nat) : State :=
  { s with sched := { s.sched with parts := s.sched.parts.mapVals fun q => q.map (Partition.endTurn k) } }

/-- A context changes state (08 R312): it keeps its residence only while LAUNCHED, its reduction area only while
LAUNCHED or PREEMPTED (09 R346), and its saved and killed commands only where they can run again. -/
def State.ctxTo (s : State) (k : Nat) (st : CtxSt) : State :=
  let ended : Bool := st = .created || st = .faulted
  let s := if ended then s.freeHeld (.reduction k) else s
  let keepTurn : Bool := st = .launched
  let s := if keepTurn then s else s.endTurn k
  let s := if ended then s.dropSaved k fun _ => true else s
  s.modCtx k fun c => { c with
    st := st, resident := c.resident && keepTurn, saving := if ended then [] else c.saving,
    swapping := c.swapping && keepTurn,
    redFrames := if ended then [] else c.redFrames, rerun := if ended then [] else c.rerun }

/-- JOB_END (10 R396). -/
def State.jobEnd (s : State) (job : Nat) (value : W64) (st : Status) : State :=
  s.raise 0x0020 job value (leBytes (stCode st) 1)

/-- COMMAND_FAULT and CONTEXT_FAULT (10 R396). -/
def State.cmdEvent (s : State) (code k : Nat) (seq : W64) (st : Status) (fault core : Nat) : State :=
  s.raise code k seq (leBytes (stCode st) 1 ++ [0] ++ leBytes fault 2 ++ leBytes core 2)

/-- A swap ends when no command of its context runs: the context waits again, at the back (08 R328). -/
def State.swapCheck (s : State) (k : Nat) : State :=
  let c := s.ctx k
  if c.swapping && (s.cmdsOf k).isEmpty then
    let s := (s.endTurn k).setCtx k { c with resident := false, swapping := false, saving := [], waitOrder := s.sched.waitNo }
    { s with sched := { s.sched with waitNo := s.sched.waitNo + 1 } }
  else s

/-- How a PREEMPT of a context ends (08 R331): FAULT where the context has faulted, PREEMPT_DEGRADED where a save fell back
to a kill. -/
def Context.preempted (c : Context) : Status :=
  if c.st = .faulted then .fault else if c.degraded then .preemptDegraded else .ok

/-- PREEMPT completes when no command of its context runs (08 R329). -/
def State.preemptCheck (s : State) (k : Nat) : State :=
  let s := s.swapCheck k
  let c := s.ctx k
  if !c.preempts.isEmpty && (s.cmdsOf k).isEmpty then
    let s := s.setCtx k { c with preempts := [], degraded := false, saving := [] }
    let s := if c.st = .launched then s.ctxTo k .preempted else s
    c.preempts.foldl (fun (s : State) (seq : W64) =>
      let s := if c.preempted = .preemptDegraded then s.count Fld.schedCounts_degraded else s
      s.complete seq (.fail c.preempted)) s
  else s

/-- A dedicated job ends once its final command has ended and no other command of it is left (08 R314, log 21). The context
returns to CREATED unless it has become FAULTED. -/
def State.jobCheck (s : State) (k : Nat) : State :=
  let c := s.ctx k
  match c.final with
  | some st =>
    let live : Bool := !c.serving && (c.st = .launched || c.st = .preempted || c.st = .faulted) && !s.busyCtx k
    if live then
      let s := (s.jobEnd c.job c.jobSeq st).modCtx k fun c => { c with final := none }
      if c.st = .faulted then s else s.ctxTo k .created
    else s
  | none => s

/-- What follows the end of a command of context `k`: the final command's status is kept, the job may end, a PREEMPT
may complete. -/
def State.afterEnd (s : State) (c : RunCmd) (st : Status) : State :=
  let s := if c.last then s.modCtx c.ctx fun x => { x with final := some st } else s
  (s.jobCheck c.ctx).preemptCheck c.ctx

/-! ### The fold (09 R347) -/

/-- Sums of neighbours, level by level; the flag says whether an INT32 sum saturated. -/
def foldLevel (type : Nat) : List W32 → List W32 × Bool
  | x :: y :: rest =>
    let r := if type = 1 then satAdd32 x y
      else if type = 2 then
        (BitVec.ofNat 32 (toBf16 (readFp32 (fadd (toFp32 (readBf16 x.toNat)) (toFp32 (readBf16 y.toNat))))), false)
      else (fadd x y, false)
    let t := foldLevel type rest
    (r.1 :: t.1, r.2 || t.2)
  | xs => (xs, false)

def foldTree (type : Nat) : Nat → List W32 → W32 × Bool
  | 0, xs => (xs.getD 0 0, false)
  | fuel + 1, xs =>
    match xs with
    | [] => (0, false)
    | [x] => (x, false)
    | _ =>
      let l := foldLevel type xs
      let t := foldTree type fuel l.1
      (t.1, l.2 || t.2)

/-- One element of a folded unit. -/
def foldElem (type : Nat) (copies : List RedCopy) (pa : Nat) : Bytes × Bool :=
  let k := accSize type
  let r := foldTree type copies.length (copies.map fun c => BitVec.ofNat 32 (leNat (c.mem.bytes pa k)))
  (leBytes r.1.toNat k, r.2)

/-- Types seen in a unit over all copies. -/
def unitTypes (copies : List RedCopy) (u : Nat) : List Nat :=
  (copies.flatMap fun c => SMap.get c.units [] u).dedup

/-- Folds one 256-byte unit at physical address `u`: one type folds; several leave free bytes. Each copy is read in the stack of the
unit (R348). -/
def State.foldUnit (s : State) (copies : List RedCopy) (u : Nat) : State × Bool :=
  let s := s.countRead (stackOf u) (256 * copies.length)
  match unitTypes copies u with
  | [] => (s, false)
  | [t] =>
    let es := (List.range (256 / accSize t)).map fun i => foldElem t copies (u + accSize t * i)
    (s.clerkStore u (es.flatMap (·.1)), es.any (·.2))
  | _ => let f := s.freeBytes 256; (f.2.clerkStore u f.1, false)

/-- The fold of a command: every unit that some core accumulated into. SAT of thread 0 of the lead core records a
saturation. -/
def State.foldCmd (s : State) (c : RunCmd) : State :=
  let copies := (List.range c.count).map fun r => SMap.get c.copies {} r
  let us := (copies.flatMap fun x => x.units.map (·.1)).dedup
  let r := us.foldl (fun r u => let x := r.1.foldUnit copies u; (x.1, r.2 || x.2)) (s, false)
  match s.physOf c.first with
  | some p => if r.2 then r.1.modThread p 0 fun th => { th with sat := true } else r.1
  | none => r.1

/-! ### The commit -/

/-- The value that an entry publishes (04 R161): the maximum for APPEND, the OR for OUTPUT, none without values. -/
def RunCmd.pubOf (c : RunCmd) (e : RegionEnt) : Option W64 :=
  match (c.pubs.filter fun x => x.2.1 = e.index).map (·.2.2) with
  | [] => none
  | v :: vs => some (if e.append then vs.foldl (fun a b => if a.ult b then b else a) v else vs.foldl (· ||| ·) v)

/-- The bytes that publish word `pub` of context `k` covers are specified again to every reader (R165). -/
def State.covered (s : State) (k pub : Nat) : State :=
  { s with sched := { s.sched with unpub := s.sched.unpub.filter fun u => !(u.ctx = k && u.pub = pub) } }

/-- Writes the publish words in entry order (R163). -/
def State.publish (s : State) (c : RunCmd) : State :=
  ((List.range 16).filterMap fun i => c.regions.find? fun e => e.index = i).foldl (fun s e =>
    match c.pubOf e with
    | some v => (s.clerkPut c.ctx e.pub (leBytes v.toNat 8)).covered c.ctx e.pub
    | none => s) s

/-- The command has committed (R163): its cores are idle, its work is its client's. -/
def State.commitCmd (s : State) (key : Nat) (c : RunCmd) : State :=
  let s := s.publish c
  let s := (s.setCores c).foldl (fun s p => s.modCore p Core.released) s
  let client := (s.ctx c.ctx).client
  let s := ((s.chargeAttempt c client).charge client lCommands 1).dropCmd key
  let outs := c.regions.filter fun e => !e.append && (c.pubOf e).isSome
  let s := s.modCtx c.ctx fun x => { x with
    lastSeq := c.seq, jobSeq := c.seq, outs := outs.foldl (fun m e => SMap.put m e.base e.length) x.outs }
  let s := s.traceRec 6 2 0xFFFF c.ctx (leBytes c.seq.toNat 8)
  s.afterEnd c .ok

/-- Completes the commit phase of a command at once: the fold where it is due, then the publish words. -/
def State.finishCommit (s : State) (key : Nat) (c : RunCmd) : State :=
  match c.phase with
  | .folding => (s.foldCmd c).commitCmd key c
  | .committing => s.commitCmd key c
  | .running => s

/-- Every command in its commit phase commits (13 R464). -/
def State.finishCommits (s : State) (p : RunCmd → Bool) : State :=
  s.sched.cmds.foldl (fun s e => match e.2 with
    | some c => if p c then s.finishCommit e.1 c else s
    | none => s) s

/-! ### Ends of a command -/

/-- Every running command of a context is aborted, its work charged to an account; one in its commit phase commits first
(04 R163). -/
def State.abortAll (s : State) (k acct : Nat) : State :=
  let s := s.finishCommits fun c => c.ctx = k
  (s.cmdsOf k).foldl (fun s e => (s.chargeAttempt e.2 acct).abortCmd e.1 e.2) s

/-- A context fault (08 R312): the context is FAULTED and runs nothing. -/
def State.ctxFault (s : State) (k : Nat) : State := (s.abortAll k (s.ctx k).client).ctxTo k .faulted

/-- The command `key` ends by a fault, or by CMD.ABORT (04 R164, R168): a side-effecting command's fault is its
context's (R160). -/
def State.endCmd (s : State) (key : Nat) (c : RunCmd) (st : Status) (fault core : Nat) (isFault : Bool) : State :=
  let client := (s.ctx c.ctx).client
  let s := (s.chargeAttempt c client).abortCmd key c
  let s := if isFault then s.charge client lFaulted 1 else s
  let s := if c.serving.isSome then s.modCtx c.ctx fun x => { x with noOutput := true } else s
  let s := if isFault && c.side then (s.cmdEvent 0x0022 c.ctx c.seq st fault core).ctxFault c.ctx
    else s.cmdEvent 0x0021 c.ctx c.seq st fault core
  s.afterEnd c st

/-- Places a command that is to run again in the order of the list or plan of its context (08 R317). -/
def RunCmd.inOrder (c : RunCmd) : List RunCmd → List RunCmd
  | [] => [c]
  | x :: xs => if c.seq.ult x.seq then c :: x :: xs else x :: RunCmd.inOrder c xs

/-- The device kills a command that is to run again (08 R330): it waits in its context for its next run. -/
def State.killCmd (s : State) (key : Nat) (c : RunCmd) (acct : Nat) : State :=
  let s := (s.chargeAttempt c acct).abortCmd key c
  s.modCtx c.ctx fun x => { x with rerun := c.again.inOrder x.rerun }

/-- COMMAND_ABORT (04 R164, R167): a command with a fault or a CMD.ABORT before its commit phase ends. -/
def State.abortPending (s : State) (key : Nat) (c : RunCmd) : State :=
  match c.ending with
  | some st => s.endCmd key c st 0 0 false
  | none =>
    match c.faulted with
    | some (_, core, code) => s.endCmd key c (if code = fSlotTimeout then .slotTimeout else .fault) code core true
    | none => s

/-- Whether a command is to end by CMD.ABORT or by a fault that its cores have taken (R164). -/
def RunCmd.pending (c : RunCmd) : Bool := c.ending.isSome || c.faulted.isSome

/-! ### Stopping a job (13 R465) -/

/-- Contexts of a job that are LAUNCHED or PREEMPTED. -/
def State.jobCtxs (s : State) (job : Nat) : List Nat :=
  s.sched.ctxs.filterMap fun e =>
    if e.2.job = job && (e.2.st = .launched || e.2.st = .preempted) then some e.1 else none

/-- One context of a stopped job. -/
def State.stopCtx (s : State) (k : Nat) : State :=
  let side : Bool := (s.cmdsOf k).any fun e => e.2.side
  let s := s.abortAll k (s.ctx k).client
  let s := s.ctxTo k (if side then .faulted else .created)
  let s := s.modCtx k fun c => { c with final := none }
  s.preemptCheck k

/-- Stops a job's work on this device with a status. -/
def State.stopJob (s : State) (job : Nat) (st : Status) : State :=
  match s.jobCtxs job with
  | [] => s
  | k :: _ =>
    let value := (s.ctx k).jobSeq
    let s := s.finishCommits fun c => (s.ctx c.ctx).job = job
    let s := (s.jobCtxs job).foldl State.stopCtx s
    s.jobEnd job value st

/-- Every job with work on this device. -/
def State.activeJobs (s : State) : List Nat :=
  (s.sched.ctxs.filterMap fun e => if e.2.st = .launched || e.2.st = .preempted then some e.2.job else none).dedup

/-- Stops every job (R464). -/
def State.stopAllJobs (s : State) (st : Status) : State := s.activeJobs.foldl (fun s j => s.stopJob j st) s

/-! ### FAULTED (13 R463, 06 R239) -/

/-- Discards the staged replacement of base `b`. -/
def State.dropStaging (s : State) (b : Nat) : State :=
  let x := s.base b
  match x.staged with
  | some _ =>
    let s := s.freeHeld (.staged b)
    s.setBase b { x with st := if x.model.isSome then .loaded else .absent, staged := none, repl := none }
  | none => s

/-- Bases with a staged replacement that is not committed. -/
def State.stagedBases (s : State) : List Nat :=
  s.warp.bases.filterMap fun e => if e.2.staged.isSome && e.2.repl.isNone then some e.1 else none

/-- Puts back what a prepared THREAD_LOOM has changed (06 R238). -/
def State.undoThread (s : State) : State :=
  let s := match s.loom.undo with
    | some ws => ws.foldl (fun (s : State) (e : Nat × W64) => s.setRaw e.1 e.2) s
    | none => s
  { s with loom := { s.loom with undo := none, prep := none } }

/-- What a prepared loom operation has set aside is discarded (13 R467). -/
def State.dropPrepared (s : State) : State :=
  let s := s.stagedBases.foldl State.dropStaging s.undoThread
  { s with warp := { s.warp with prepared := none }, sched := { s.sched with prepared := [] } }

/-- The loom operations of this origin end with a status. -/
def State.endOps (s : State) (st : Status) : State :=
  let s := s.loom.ops.foldl (fun s o => s.complete o.seq (.fail st)) s
  { s with loom := { s.loom with ops := [], starts := [] } }

/-- The device enters FAULTED with a cause: commits complete first, then its work stops (R464, R467). -/
def State.enterFaulted (s : State) (cause : Status) : State :=
  let s := s.finishCommits fun _ => true
  -- A cause of 0x0D leaves FAULTED only through reset (R463).
  let keeps : Bool := s.devState = stFaulted && s.fld Fld.devState_faultCause = stCode .fault
  let s := if keeps then s else s.changeState stFaulted 15 (stCode cause)
  ((s.stopAllJobs cause).endOps cause).dropPrepared

/-- The device faults (R463): the DEVICE_FAULT entry names the entry that caused it. -/
def State.deviceFault (s : State) (cause : W64) : State :=
  let threaded : Bool := s.devState = stThreaded
  let s := s.logError eDeviceFault 0 0x0D cause
  let s := s.enterFaulted .fault
  if threaded then s.floodFault (some (s.loom.row, s.loom.col)) else s

/-- The device faults for every stack that has just failed (13 R463). -/
def State.settleStacks (s : State) : State :=
  (List.range nStacks).foldl (fun s st =>
    match (s.stack st).failNote with
    | some n => (s.setStack st { s.stack st with failNote := none }).deviceFault (BitVec.ofNat 64 n)
    | none => s) s

/-! ### Retirement of a core (13 R460 to R462) -/

/-- Spare cores: physical cores without a logical number that are neither retired nor fenced nor promised. -/
def State.spares (s : State) : List Nat :=
  (List.range nCores).filter fun p => !s.cmap.logical.contains p && !s.cmap.retired.contains p &&
    !s.cmap.fenced.contains p && !(s.cmap.waiting.any fun e => e.2 = p)

/-- Jobs whose LAUNCHED or PREEMPTED contexts hold logical core `n`. -/
def State.jobsAt (s : State) (n : Nat) : List Nat :=
  (s.sched.ctxs.filterMap fun e =>
    if e.2.st = .launched || e.2.st = .preempted then
      match SMap.get s.sched.parts none e.2.part with
      | some q => if q.first ≤ n && n < q.first + q.count then some e.2.job else none
      | none => none
    else none).dedup


/-- Core `p`, which holds logical number `l`, is fenced: no spare is left for it (R462). -/
def State.fenceCore (s : State) (p l : Nat) : State :=
  let s := { s with cmap := { s.cmap with fenced := s.cmap.fenced ++ [p] } }
  let s := s.count Fld.errCores_fenced
  let s := s.raise 0x0041 p (s.raw Reg.devGrade) []
  let jobs := s.jobsAt l
  let threaded : Bool := s.devState = stThreaded
  let s := if threaded then jobs.foldl (fun s j => s.loomSend (.stop j .noResource)) s else s
  jobs.foldl (fun s j => s.stopJob j .noResource) s

/-- The spare that core `r` was promised is gone: it waits for the lowest one left, or is fenced. -/
def State.heirGone (s : State) (r : Nat) : State :=
  let w := s.cmap.waiting.filter fun e => e.1 ≠ r
  match s.spares, s.logicalOf r with
  | q :: _, _ => { s with cmap := { s.cmap with waiting := w ++ [(r, q)] } }
  | [], some l =>
    { s with cmap := { s.cmap with waiting := w, retired := s.cmap.retired.erase r } }.fenceCore r l
  | [], none => s

/-- Retires physical core `p` for a cause of the error class table: the log entry, the retired map, and either the
spare that is to take its number or the fence. Answers whether the core is fenced. -/
def State.retire (s : State) (p cause : Nat) : State × Bool :=
  let n := s.logicalOf p
  let spare := s.spares.filter (· ≠ p)
  let heir := match n with
    | some _ => spare.head?
    | none => none
  let b := n.getD 0x7FF + (heir.getD 0x7FF) * 65536
  let s := s.logError eCoreRetired p (BitVec.ofNat 64 cause) (BitVec.ofNat 64 b)
  let s := s.count Fld.errCores_fieldRetired
  let s := { s with sec := { s.sec with flash := s.sec.flash ++ [FlashOp.retire p] } }
  match n, heir with
  | some _, some q =>
    let s := { s with cmap := { s.cmap with retired := s.cmap.retired ++ [p], waiting := s.cmap.waiting ++ [(p, q)] } }
    (s, false)
  | some l, none => (s.fenceCore p l, true)
  | none, _ =>
    -- A core without a number holds no command; it leaves the spares at once.
    let s := { s with cmap := { s.cmap with retired := s.cmap.retired ++ [p] } }
    let s := s.setFld Fld.devGrade_spares (s.fld Fld.devGrade_spares - 1)
    let s := s.count Fld.devGrade_retired
    let s := s.raise 0x0041 p (s.raw Reg.devGrade) []
    (((s.cmap.waiting.filter fun e => e.2 = p).map (·.1)).foldl State.heirGone s, false)

/-- A core fails in its engines or by a transfer hang (02 R76, 13 R460): its threads fault with ENG_HW. Its command, if it
is in its commit phase, commits first (04 R163, 09 R348); where an earlier fault, one of a lower core in the same beat, or
CMD.ABORT came first, it ends by that (04 R164, R167). Else it is killed to run again where a spare is left, or faults its
context where it is side-effecting. Then the core is retired. -/
def State.coreFails (s : State) (p cause : Nat) : State :=
  let s := s.modCore p fun c => { (List.range 8).foldl (fun (c : Core) t =>
    c.modThread t fun th => { th with st := .faulted, fault := fEngHw }) c with stopped := true }
  let s := s.noteFault p fEngHw
  let fence : Bool := (s.spares.filter (· ≠ p)).isEmpty
  let key := (s.core p).cmd
  let mine := (s.beat, (s.logicalOf p).getD p, fEngHw)
  let s := match s.cmdOf p with
    | some c =>
      let s := s.traceRec 4 fEngHw ((s.logicalOf p).getD 0xFFFF) c.ctx (leBytes c.seq.toNat 8)
      if c.phase ≠ CmdPhase.running then s.finishCommit key c
      else if c.side || c.ending.isSome || c.faulted ≠ some mine then s.abortPending key c
      else if fence then
        let client := (s.ctx c.ctx).client
        ((s.chargeAttempt c client).charge client lFaulted 1).abortCmd key c
      else s.killCmd key c sharedAcct
    | none => s
  (s.retire p cause).1

end Sys2Proof.Machine
end

