-- ==== Sys2Proof/Machine/Streams.lean ====
section
/-!
DEFINITION. The stream unit (03 R98 to R116): forming and issuing transfers, their service at a stack or in a spool, and
their replies.
-/
namespace Sys2Proof.Machine

/-! ### Elements -/

/-- Far address of element `j`; with TRANSPOSE, `j` counts near elements (R96, R98). -/
def dFarOf (d : List W64) (j : Nat) : Int :=
  if dTranspose d then (dFarBase d : Int) + (j / dCount d 1 : Nat) * dStride d 0 + (j % dCount d 1 : Nat) * dStride d 1
  else dFar d j

/-- Fill or consumption in which element `j` lies. -/
def Stream.fillOf (x : Stream) (j : Nat) : Nat := j * dEsize x.desc / x.slotLen

/-- Slot of fill `f`. -/
def Stream.slotOf (x : Stream) (f : Nat) : Nat := dSlot x.desc + f % dNslot x.desc

/-- First element after fill `f`. -/
def Stream.fillEnd (x : Stream) (f : Nat) : Nat := min ((f + 1) * x.slotLen / dEsize x.desc) (dElems x.desc)

/-- Most elements that the transfer from element `j` can hold (R100, R98). -/
def Stream.most (x : Stream) (j : Nat) : Nat :=
  let stop := if dNearSlot x.desc then x.fillEnd (x.fillOf j) else dElems x.desc
  min (512 / dEsize x.desc) (stop - j)

/-- Elements of the transfer from element `j`: it also closes before an element that reaches outside the first element's
4 KiB far block. None where element `j` itself straddles. -/
def Stream.take (x : Stream) (j : Nat) : Nat :=
  if dTranspose x.desc then x.most j
  else ((List.range (x.most j)).takeWhile fun i => dFarOf x.desc (j + i) / 4096 = dFarOf x.desc j / 4096 &&
      (dFarOf x.desc (j + i) + dEsize x.desc - 1) / 4096 = dFarOf x.desc j / 4096).length

/-- Far addresses of a transfer. -/
def Stream.fars (x : Stream) (j count : Nat) : List Int := (List.range count).map fun i => dFarOf x.desc (j + i)

/-- Units in which the far addresses of a transfer are checked and read: whole elements, which lie in one 4 KiB block
(R100); the single bytes under TRANSPOSE, whose elements the rule of R100 does not bind (R98). -/
def farUnit (d : List W64) : Nat := if dTranspose d then 1 else dEsize d

/-- Far addresses of a transfer's units. -/
def unitFars (d : List W64) (fars : List Int) : List Int :=
  if dTranspose d then fars.flatMap fun a => (List.range (dEsize d)).map fun (i : Nat) => a + (i : Int) else fars

/-! ### Spool windows (R79) -/

def windowCore (a : Nat) : Nat := (a - windowBase) / 0x100000
def windowOff (a : Nat) : Nat := a % 0x100000

/-- The physical core whose window an address names, if a program on core `p` may use it. -/
def State.windowOf (s : State) (p a : Nat) : Option Nat :=
  match s.cmdOf p with
  | some c => match s.part (s.ctx c.ctx).part with
    | some q => if windowBase ≤ a ∧ q.first ≤ windowCore a ∧ windowCore a < q.first + q.count then s.physOf (windowCore a)
      else none
    | none => none
  | none => none

/-- A byte of the accumulators as the window shows it: the entry after its last completed accumulation, +0.0 before the
first (02 R52, R53). -/
def Core.accByte (c : Core) (off : Nat) : Byte :=
  let x := if off < 0xA0000 then c.eng0 else c.eng1
  let o := (off - 0x80000) % 0x20000
  (x.entry (o / 512) (o % 512 / 4)).extractLsb' (8 * (o % 4)) 8

/-- Bytes of a window: spool, then accumulators. -/
def Core.windowByte (c : Core) (off : Nat) : Byte := if off < 0x80000 then c.spool.byte off else c.accByte off

/-! ### Checks of far addresses (R79, R99, R100, R105) -/

/-- What the far side of a transfer is. -/
inductive FarSide where
  | vault
  | window (q : Nat)
  | halt (page : Nat)
  | fault (code : Nat)
  deriving DecidableEq, Repr

/-- One element of `n` bytes at far address `a` for core `p` of context `k`. -/
def State.farCheck (s : State) (p k : Nat) (write : Bool) (n : Nat) (a : Int) : FarSide :=
  if a < 0 then .fault fStrAddr
  else
    let a := a.toNat
    if a / 4096 ≠ (a + n - 1) / 4096 then .fault fStrAddr
    else if a < windowBase then
      match s.translate k a with
      | .at _ => if write && !s.writable k a then .fault fStrAddr else .vault
      | .host g => if write then .fault fStrAddr else .halt g
      | .unmapped => .fault fStrAddr
    else
      match s.windowOf p a with
      | none => .fault fStrAddr
      | some q =>
        let off := windowOff a
        if 0xC0000 ≤ off + n - 1 || (write && 0x80000 ≤ off + n - 1) then .fault fStrAddr
        else if off < 0x80000 && (s.core q).touchesOff off n then .fault fSplOff
        else .window q

/-- The far side of a transfer: the first fault of its elements, else the first page that is not resident. -/
def State.farSide (s : State) (p k : Nat) (write : Bool) (n : Nat) (as : List Int) : FarSide :=
  let rs := as.map (s.farCheck p k write n)
  match rs.find? fun r => match r with | .fault _ => true | _ => false with
  | some r => r
  | none =>
    match rs.find? fun r => match r with | .halt _ => true | _ => false with
    | some r => r
    | none => rs.headD (.fault fStrAddr)

/-! ### Allowed writes (04 R159, R160, R170) -/

/-- Whether a write of `n` bytes at program address `a` lies in a range of the region table that allows it. -/
def RunCmd.within (c : RunCmd) (e : RegionEnt) (acc : Bool) (a n : Nat) : Bool :=
  if e.append then !acc && e.base + SMap.get c.cl 0 e.index ≤ a && a + n ≤ e.base + e.length
  else (!acc || e.zero) && e.base ≤ a && a + n ≤ e.base + e.length

/-- A write of elements is allowed when all of its bytes lie within one range. -/
def RunCmd.allows (c : RunCmd) (acc : Bool) (es : List (Nat × Nat)) : Bool :=
  c.regions.any fun e => es.all fun x => c.within e acc (unalias x.1) x.2

/-- What the classification of a vault write by core `p` gives: the state, with the command side-effecting where it
becomes so, or CMD_REGION. -/
def State.classify (s : State) (p : Nat) (allowed : RunCmd → Bool) : Option State :=
  match s.cmdOf p with
  | some c =>
    if (s.core p).vm1 || allowed c then some s
    else if c.strict = some true then none
    else some (s.setCmd (s.core p).cmd { c with side := true })
  | none => some s

/-- Whether an accumulation of `n` bytes at program address `a` by the command lies in a reduction region, in exact mode
(09 R345). -/
def State.reduces (s : State) (c : RunCmd) (a n : Nat) : Bool :=
  (s.ctx c.ctx).exact && c.regions.any fun e => !e.append && e.zero && c.within e true (unalias a) n

/-! ### Members and near sides (R114, R115) -/

/-- Physical cores that a stream delivers to. -/
def State.members (s : State) (p : Nat) (d : List W64) : List Nat :=
  if dMcast d = 0 then [p]
  else
    match heddle s p (dBase d) with
    | some (k, wg, sg) => k.lat.filterMap fun n => match k.latPlace n with
      | some g => if (if dMcast d = 1 then g.1 = wg else g.2 = sg) then s.physOf n else none
      | none => none
    | none => [p]

/-- User of a slot that stream `n` of core `p` fills on core `q`. -/
def streamUser (p n q : Nat) : SlotUser := if q = p then .stream n else .mcast p n

/-- Spool address of element `j` on core `q`. -/
def State.nearOf (s : State) (q : Nat) (x : Stream) (j : Nat) : Nat :=
  if dNearSlot x.desc then
    ((s.core q).slot (x.slotOf (x.fillOf j))).base + j * dEsize x.desc % x.slotLen
  else dNearBase x.desc + j * dEsize x.desc

/-- Where the slot of a fill stands for the next transfer: within a fill it is the stream's; the first transfer of a fill
takes it. -/
inductive SlotReady where
  | ready
  | start
  | wait
  | mismatch
  deriving DecidableEq, Repr

def State.slotReady (s : State) (p n : Nat) (x : Stream) (ms : List Nat) : SlotReady :=
  if !dNearSlot x.desc then .ready
  else
    let m := x.slotOf (x.fillOf x.nextElem)
    let mine := fun (q : Nat) => let y := (s.core q).slot m
      (y.st = .filling || y.st = .draining) && y.user = streamUser p n q
    if x.nextElem * dEsize x.desc % x.slotLen ≠ 0 then (if ms.all mine then .ready else .wait)
    else if dMcast x.desc ≠ 0 && ms.any (fun q => let y := (s.core q).slot m; !y.bound || y.len ≠ x.slotLen) then .mismatch
    else
      let want : SlotSt := if dDir x.desc = 0 then .empty else .full
      if ms.all fun q => let y := (s.core q).slot m; y.bound && y.len = x.slotLen && y.st = want then .start else .wait

/-- Whether a stream has a further transfer to form. -/
def Stream.forming (x : Stream) : Bool := x.st = .running && x.haltAt.isNone && !x.stuck && x.nextElem < dElems x.desc

/-- Whether new far bytes overlap those of an outstanding transfer (R102). -/
def Stream.overlaps (x : Stream) (fars : List Int) : Bool :=
  let n : Int := dEsize x.desc
  -- Both sides in the interleaved addresses (05 R175).
  let bs : List Int := fars.map fun b => (unalias b.toNat : Int)
  x.out.any fun o => o.far.any fun a => bs.any fun b => (a : Int) < b + n && b < (a : Int) + n

/-- Whether a bank that a transfer needs is still settling (R86). -/
def State.settlingNear (s : State) (x : Stream) (ms : List Nat) (count : Nat) : Bool :=
  ms.any fun q => ((s.core q).settlingBank (s.nearOf q x x.nextElem) (count * dEsize x.desc)).isSome

/-- Whether a bank in a spool window that far elements of `n` bytes touch is still settling (R86). -/
def State.settlingFar (s : State) (p n : Nat) (fars : List Int) : Bool :=
  fars.any fun a => match s.windowOf p a.toNat with
    | some q => windowOff a.toNat < 0x80000 && ((s.core q).settlingBank (windowOff a.toNat) n).isSome
    | none => false

/-- Whether stream `n` of core `p` can issue its next transfer now (R101, R102). -/
def State.eligible (s : State) (p n : Nat) : Bool :=
  let x := (s.core p).stream n
  if !x.forming || (s.core p).saving then false
  else
    let k := x.take x.nextElem
    let ms := s.members p x.desc
    let r := s.slotReady p n x ms
    x.out.length < dTagCap x.desc && 0 < (s.core p).tagsFree && r ≠ .wait &&
      !x.overlaps (x.fars x.nextElem k) && !s.settlingNear x ms k && !s.settlingFar p (dEsize x.desc) (x.fars x.nextElem k)

/-- A stream that waits on a slot shows SLOT_WAIT; one that no longer waits does not. -/
def State.noteWaits (s : State) (p : Nat) : State :=
  s.modCore p fun c => (List.range 32).foldl (fun c' n =>
    let x := c.stream n
    if !x.forming then c'
    else if s.slotReady p n x (s.members p x.desc) = .wait then
      (if x.slotWait.isSome then c' else c'.setStream n { x with slotWait := some s.beat, slotTmo := s.fld (Fld.coreSlotTmo_timeout p) })
    else if x.slotWait.isSome then c'.setStream n { x with slotWait := none } else c') c

/-! ### What a halted stream holds up (R92, R106, R108) -/

/-- The stream that produces what slot `n` of core `p` is awaited for, with its core: the one that fills it, or, while it is
empty, a halted one in whose rotation it is. -/
def State.producerOf (s : State) (p n : Nat) : Option (Nat × Nat) :=
  let y := (s.core p).slot n
  match y.st, y.user with
  | .filling, .stream k => some (p, k)
  | .filling, .mcast q k => some (q, k)
  | .empty, _ => s.cores.findSome? fun e => ((List.range 32).find? fun k =>
      let x := e.2.stream k
      x.st = .halted && dNearSlot x.desc && dDir x.desc = 0 && dSlot x.desc ≤ n && n < dSlot x.desc + dNslot x.desc &&
        (s.members e.1 x.desc).contains p).map fun k => (e.1, k)
  | _, _ => none

/-- The lowest stream of a core that is not IDLE, or has a pending descriptor. -/
def Core.firstBusy (c : Core) : Option Nat := (List.range 32).find? fun n => !(c.stream n).quiet

/-- Whether a wait on core `q` is one that stream `n` of core `p` holds up while it is halted. -/
def State.heldUp (s : State) (p n q : Nat) (w : Wait) : Bool :=
  let by_ := fun (m : Nat) => s.producerOf q m = some (p, n)
  match w with
  | .slotFull m => by_ m
  | .slotEmpty m => by_ m
  | .slotBoth m l => by_ m || by_ l
  | .streamIdle m => q = p && m = n
  | .commit => q = p && (s.core q).firstBusy = some n
  | _ => false

/-- Whether a teller instruction that waits for a page fills slot `n` of core `p` (log 28). -/
def State.tellerParked (s : State) (p n : Nat) : Bool :=
  let y := (s.core p).slot n
  match y.st, y.user with
  | .filling, .tel j => s.parked.any fun e => e.2 = .tel p j
  | .filling, .attn j => s.parked.any fun e => e.2 = .attn p j
  | _, _ => false

/-- Waits of a thread start again with their full timeout. -/
def Thread.rewait (beat tmo : Nat) (th : Thread) : Thread := match th.st with
  | .waiting _ => { th with waitBeat := beat, waitTmo := tmo }
  | _ => th

/-- The waits of cores that `held` names start again with their full timeout (R92). -/
def State.rewaitIf (s : State) (held : Nat → Wait → Bool) : State :=
  { s with cores := (s.cores.map fun (e : Nat × Core) =>
      let tmo := s.fld (Fld.coreSlotTmo_timeout e.1)
      let th := e.2.threads.mapVals fun (x : Thread) => match x.st with
        | .waiting w => if held e.1 w then x.rewait s.beat tmo else x
        | _ => x
      let st := e.2.streams.mapVals fun (x : Stream) =>
        if x.slotWait.isSome && held e.1 (.slotFull (x.slotOf (x.fillOf x.nextElem))) then
          { x with slotWait := some s.beat, slotTmo := tmo } else x
      (e.1, { e.2 with threads := th, streams := st })) }

/-- The waits that stream `n` of core `p` has held up start again with their full timeout (R92). -/
def State.rewait (s : State) (p n : Nat) : State := s.rewaitIf (s.heldUp p n)

/-! ### Faults and halts -/

/-- A fault of a running command's stream or teller instruction; an earlier command's work faults nothing. -/
def State.ownFault (s : State) (p t code : Nat) : State :=
  match (s.core p).phase with
  | .none => s
  | .dispatched => s
  | .beginning => s
  | _ => s.faultFor p t code

/-- STR_FAULT (R107): the stream is FAULTED, its slots are abandoned, its owning thread faults. A pending descriptor stays
with it, on which the spec is silent (DESIGN CHOICE, log 126). -/
def State.streamFault (s : State) (p n code : Nat) : State :=
  let x := (s.core p).stream n
  let s := s.modCore p fun c => (c.abandonSlots (.stream n)).setStream n
    { x with st := .faulted, fault := code, slotWait := none, haltAt := none }
  let s := if dMcast x.desc ≠ 0 then s.abandonMcast p n else s
  -- A thread in STR.WAIT on the stream faults with it (R108).
  let ws := ((s.core p).threads.filter fun e => e.2.st = .waiting (.streamIdle n)).map (·.1)
  let s := ws.foldl (fun s t => s.ownFault p t code) s
  s.ownFault p x.owner code

/-- The weft page that a program page of a context belongs to. -/
def State.weftPage (s : State) (k page : Nat) : Option (Nat × Nat) :=
  let c := s.ctx k
  s.warp.wefts.findSome? fun e => match e.2 with
    | some w =>
      let first := w.progAddr / pageBytes
      if w.client = c.client && first ≤ page && page < first + w.pages.length then
        some (e.1, page - first) else none
    | none => none

/-- PAGE_NEEDED (07 R298, 10 R396) for a page of a context. -/
def State.pageNeeded (s : State) (k page : Nat) : State :=
  match s.weftPage k page with
  | some (w, i) => s.raise 0x0011 w (BitVec.ofNat 64 i) []
  | none => s

/-- The first of some program addresses that lies in a host-backed page. -/
def State.hostIn (s : State) (k : Nat) (as : List Nat) : Option Nat :=
  as.find? fun a => match s.translate k a with
    | .host _ => true
    | _ => false

/-- A request of stack `st` that reads a host-backed page waits until it is resident, and the page is asked for (log 28). -/
def State.awaitPage (s : State) (k a st : Nat) (w : VaultWork) : State :=
  { s with parked := s.parked ++ [(st, w)] }.pageNeeded k (unalias a / pageBytes)

/-- A stream that met a non-resident page and has no transfer outstanding is HALTED (R105), and the page is asked for. -/
def State.haltNow (s : State) (p n : Nat) : State :=
  let x := (s.core p).stream n
  match x.haltAt, s.cmdOf p with
  | some j, some c =>
    if x.out.isEmpty && x.st = .running then
      let s := s.modCore p (·.setStream n { x with st := .halted })
      match (x.fars j (x.take j)).find? fun a => match s.translate c.ctx a.toNat with
          | .host _ => true
          | _ => false with
      | some a => s.pageNeeded c.ctx (unalias a.toNat / pageBytes)
      | none => s
    else s
  | _, _ => s

/-! ### Issue (R101) -/

/-- The first write or read of a fill takes the slot on every member. -/
def State.takeSlot (s : State) (p n : Nat) (x : Stream) (ms : List Nat) : State :=
  let m := x.slotOf (x.fillOf x.nextElem)
  ms.foldl (fun s q => s.modCore q fun c => c.modSlot m fun y =>
    if dDir x.desc = 0 then y.startFill (streamUser p n q) else y.startUse (streamUser p n q)) s

/-- Elements of an accumulation: operand words of the bytes that a transfer carries. -/
def accWords (type : Nat) (bytes : Bytes) : List W32 :=
  let k := accSize type
  (List.range (bytes.length / k)).map fun i => accOperand type ((bytes.drop (k * i)).take k)

/-- An accumulation into another core's spool: elements at window offsets. -/
def Core.accSpool (c : Core) (type : Nat) (es : List (Nat × W32)) : Core × Bool :=
  let k := accSize type
  es.foldl (fun (r : Core × Bool) e =>
    let x := accElem type (r.1.load e.1 k) e.2
    (r.1.store e.1 x.1, r.2 || x.2)) (c, false)

/-- Addresses of the accumulation elements inside stream elements of `esize` bytes. A stream element smaller than one of
ACC_TYPE holds none, and accumulates nothing: the spec does not say what it does (DESIGN CHOICE, log 126). -/
def accAddrs (type esize : Nat) (as : List Nat) : List Nat :=
  let k := accSize type
  as.flatMap fun a => (List.range (esize / k)).map fun i => a + k * i

/-- The service of a transfer whose far side is a spool window: at its grant. -/
def State.serveWindow (s : State) (p q : Nat) (x : Stream) (o : Xfer) : State × Xfer :=
  let n := dEsize x.desc
  let offs := o.far.map windowOff
  match dDir x.desc with
  | 0 =>
    let bytes := offs.flatMap fun a => (List.range n).map fun i => (s.core q).windowByte (a + i)
    (s, { o with served := some s.beat, reply := some (.data bytes) })
  | 1 =>
    let es := offs.zip (pieces n offs.length o.bytes)
    (s.modCore q fun c => es.foldl (fun c e => c.store e.1 e.2) c, { o with served := some s.beat, reply := some .done })
  | _ =>
    let type := dAccType x.desc
    let r := (s.core q).accSpool type ((accAddrs type n offs).zip (accWords type o.bytes))
    let s := s.setCore q r.1
    let s := if r.2 then s.modThread p x.owner fun th => { th with sat := true } else s
    (s, { o with served := some s.beat, reply := some .done })

/-- The formed transfer of stream `n` of core `p` from its next element. -/
def State.formXfer (s : State) (p : Nat) (x : Stream) (ms : List Nat) (fars : List Int) : Xfer where
  start := x.nextElem
  count := fars.length
  dst := ms.map fun q => (q, s.nearOf q x x.nextElem)
  far := fars.map fun a => unalias a.toNat
  bytes := if dDir x.desc = 0 then [] else (s.core p).load (s.nearOf p x x.nextElem) (fars.length * dEsize x.desc)

/-- The issue of a formed transfer (R101): its tag, its place in its stack's queue or its grant in a spool; the last
read of a consumption ends it (R91). -/
def State.issueXfer (s : State) (p n : Nat) (side : FarSide) (ms : List Nat) (fars : List Int) : State :=
  let x := (s.core p).stream n
  let o := s.formXfer p x ms fars
  let k := match s.cmdOf p with
    | some c => c.ctx
    | none => (s.core p).ctx
  let s := if s.slotReady p n x ms = .start then s.takeSlot p n x ms else s
  let r := match side with
    | .window q => s.serveWindow p q x o
    | _ =>
      let o := { o with pas := (unitFars x.desc fars).map fun (a : Int) => s.pa k (unalias a.toNat) }
      let copy : Option (Nat × Nat × List Nat) := match s.cmdOf p with
        | some c =>
          let red := (o.far.zip o.pas).filter fun (e : Nat × Nat) => dDir x.desc = 2 && s.reduces c e.1 (dEsize x.desc)
          if red.isEmpty then none else some ((s.core p).cmd, s.rank p, red.map Prod.snd)
        | none => none
      (s.queueWork (stackOf (o.pas.headD 0)) (.xfer p n o.start), { o with copy := copy })
  let s := r.1
  let next := x.nextElem + fars.length
  let y := { (s.core p).stream n with nextElem := next, out := x.out ++ [r.2], slotWait := none }
  let s := s.modCore p fun c => { (c.setStream n y).notePeak with lastStream := n }
  let ends : Bool := dNearSlot x.desc && dDir x.desc ≠ 0 && next = x.fillEnd (x.fillOf x.nextElem)
  if ends then s.modCore p fun c => c.modSlot (x.slotOf (x.fillOf x.nextElem)) (·.endUse) else s

/-- Forms and issues the next transfer of stream `n` of core `p`: its faults, its halt, or its issue. -/
def State.formNext (s : State) (p n : Nat) : State :=
  let x := (s.core p).stream n
  let d := x.desc
  let fars := x.fars x.nextElem (x.take x.nextElem)
  let ms := s.members p d
  let k := match s.cmdOf p with
    | some c => c.ctx
    | none => (s.core p).ctx
  let bytes := fars.length * dEsize d
  if s.slotReady p n x ms = .mismatch then s.streamFault p n fStrDesc
  else if fars.isEmpty || (dTranspose d && (unitFars d fars).any fun a => decide ((windowBase : Int) ≤ a)) then
    s.streamFault p n fStrAddr
  else if ms.any fun q => (s.core q).touchesOff (s.nearOf q x x.nextElem) bytes then s.streamFault p n fSplOff
  else
    match s.farSide p k (dDir d ≠ 0) (farUnit d) (unitFars d fars) with
    | .fault code => s.streamFault p n code
    | .halt _ => (s.modCore p (·.setStream n { x with haltAt := some x.nextElem })).haltNow p n
    | .window q => s.issueXfer p n (.window q) ms fars
    | .vault =>
      if dDir d = 0 then s.issueXfer p n .vault ms fars
      else
        match s.classify p fun c => c.allows (dDir d = 2) (fars.map fun a => (a.toNat, dEsize d)) with
        | none => s.streamFault p n fCmdRegion
        | some s => s.issueXfer p n .vault ms fars

/-- The stream that issues next: round-robin upwards from the stream after the last (R101). -/
def State.nextStream (s : State) (p : Nat) : Option Nat :=
  ((List.range 32).map fun i => ((s.core p).lastStream + 1 + i) % 32).find? fun n => s.eligible p n

/-- STR_TRANSFER_ISSUE. -/
def strTransferIssue (p : Nat) (s : State) : State :=
  let s := s.noteWaits p
  match s.nextStream p with
  | some n => s.formNext p n
  | none => s

/-- STR_TRANSFER_ISSUE (R101). -/
def execStrTransferIssue (p : Nat) (s : State) : Out := onUnit (p < nCores) (whenDo s.sys.tclk s (strTransferIssue p))

/-! ### Service at a stack (05 R183, R188) -/

/-- The transfer of a stream that starts at element `start`. -/
def Stream.xfer (x : Stream) (start : Nat) : Option Xfer := x.out.find? fun o => o.start = start

/-- Sets the reply of a transfer. -/
def State.setReply (s : State) (p n start : Nat) (r : XferReply) : State :=
  let x := (s.core p).stream n
  let out := x.out.map fun o => if o.start = start then { o with served := some s.beat, reply := some r } else o
  s.modCore p (·.setStream n { x with out := out })

/-- A core's own copy takes an accumulation (09 R345). -/
def RedCopy.add (c : RedCopy) (type : Nat) (es : List (Nat × W32)) : RedCopy × Bool :=
  let k := accSize type
  es.foldl (fun (r : RedCopy × Bool) e =>
    let x := accElem type (r.1.mem.bytes e.1 k) e.2
    let u := e.1 / 256 * 256
    let ts := SMap.get r.1.units [] u
    ({ mem := r.1.mem.store e.1 x.1, units := SMap.put r.1.units u (if ts.contains type then ts else type :: ts) },
      r.2 || x.2)) (c, false)

/-- The own copy of a command's rank takes an accumulation, in the stack of the region's own unit (09 R348), while the command is on
its cores. -/
def State.addCopy (s : State) (copy : Option (Nat × Nat × List Nat)) (type : Nat) (es : List (Nat × W32)) : State × Bool :=
  if es.isEmpty then (s, false) else
  match copy with
  | some (key, rank, _) =>
    match s.cmdAt key with
    | some c =>
      let r := (SMap.get c.copies {} rank).add type es
      let pas := es.flatMap fun e => (List.range (accSize type)).map (e.1 + ·)
      (((s.countBytes pas false).countBytes pas true).setCmd key { c with copies := SMap.put c.copies rank r.1 }, r.2)
    | none => (s, false)
  | none => (s, false)

/-- Serves a stream transfer at its stack: a read, a write, an accumulation into the vault or into a core's own copy. -/
def State.serveXfer (s : State) (p n start : Nat) (errs : List LineErr) : State :=
  let x := (s.core p).stream n
  match x.xfer start with
  | none => s
  | some o =>
    let size := farUnit x.desc
    let bytesOf := o.pas.flatMap fun a => (List.range size).map (a + ·)
    match dDir x.desc with
    | 0 =>
      let r := s.readBytes bytesOf errs (.core p)
      let s := r.1.chargeVault p bytesOf.length
      s.setReply p n start (match r.2 with
        | some bs => .data bs
        | none => .err fStrData)
    | 1 =>
      let r := s.writeBytes (bytesOf.zip o.bytes) errs (.core p)
      let s := r.1.chargeVault p bytesOf.length
      s.setReply p n start (if r.2 then .done else .err fStrData)
    | _ =>
      let type := dAccType x.desc
      let es := (accAddrs type size o.pas).zip (accWords type o.bytes)
      let s := s.chargeVault p bytesOf.length
      let mine : List Nat := match o.copy with
        | some (_, _, red) => red.flatMap fun a => (List.range size).map (a + ·)
        | none => []
      let r1 := s.addCopy o.copy type (es.filter fun (e : Nat × W32) => mine.contains e.1)
      let r2 := r1.1.accBytes type (es.filter fun (e : Nat × W32) => !mine.contains e.1) errs (.core p)
      let sat : Bool := r1.2 || r2.2.2
      let s := if sat then r2.1.modThread p x.owner fun th => { th with sat := true } else r2.1
      s.setReply p n start (if r2.2.1 then .done else .err fStrData)

/-! ### Replies (R103 to R112) -/

/-- Delivers the bytes of a read to every member. -/
def State.deliver (s : State) (o : Xfer) (bs : Bytes) : State :=
  o.dst.foldl (fun s e => s.modCore e.1 (·.store e.2 bs)) s

/-- The fill in which a transfer lies is complete: nothing of it is left to form or to arrive (R90). -/
def State.endFillAt (s : State) (p n : Nat) (o : Xfer) : State :=
  let x := (s.core p).stream n
  if !dNearSlot x.desc || dDir x.desc ≠ 0 || x.st = .cancelling || x.st = .faulted then s
  else
    let f := x.fillOf o.start
    let stop := x.fillEnd f
    let left : Bool := x.nextElem < stop || x.out.any fun y => x.fillOf y.start = f
    if left then s
    else
      let first := f * x.slotLen / dEsize x.desc
      let len := (stop - first) * dEsize x.desc
      o.dst.foldl (fun s e => s.modCore e.1 fun c => c.modSlot (x.slotOf f) fun y =>
        if y.st = .filling && y.user = streamUser p n e.1 then y.endFill len else y) s

/-- The lowest element not yet delivered (STR_POS). -/
def Stream.pos (x : Stream) : Nat := x.out.foldl (fun a o => min a o.start) (x.haltAt.getD x.nextElem)


/-- A stream whose last reply has arrived ends its descriptor, and starts the pending one (R104, R110, R112). -/
def State.endStream (s : State) (p n : Nat) : State :=
  let c := s.core p
  let x := c.stream n
  if !x.out.isEmpty then s
  else
    match x.st with
    | .running =>
      if x.nextElem < dElems x.desc || x.haltAt.isSome then s.haltNow p n
      else
        let done := { x with doneCount := (x.doneCount + 1) % 65536 }
        let y := match x.pend with
          | some (d, t) => done.start d t (c.slot (dSlot d)).len
          | none => done.ended
        s.modCore p (·.setStream n y)
    | .cancelling => s.modCore p (·.setStream n x.ended)
    | .faulted => if x.cancelAsked then s.modCore p (·.setStream n x.ended) else s
    | _ => s

/-- TRANSFER_REPLY: the reply of a transfer arrives at its core and frees its tag. -/
def transferReply (p n start : Nat) (s : State) : State :=
  let x := (s.core p).stream n
  match x.xfer start with
  | some o =>
    match o.reply with
    | none => s
    | some r =>
      let out := x.out.filter fun y => y.start ≠ start
      let y := { x with out := out }
      let beyond := (if y.pos < start then start :: x.doneBeyond else x.doneBeyond).filter fun j => y.pos < j
      let s := s.modCore p (·.setStream n { y with doneBeyond := beyond })
      match r with
      | .data bs => ((s.deliver o bs).endFillAt p n o).endStream p n
      | .done => s.endStream p n
      | .err code => if x.st = .running then s.streamFault p n code else s.endStream p n
  | none => s

/-- TRANSFER_REPLY (R103). -/
def execTransferReply (p n start : Nat) (s : State) : Out :=
  onUnit (p < nCores && n < 32) (whenDo s.sys.tclk s (transferReply p n start))

/-- TRANSFER_HANG (R113, 13 R460): more than 3,500 beats after its service began a transfer still has no reply, and the
core fails as by an engine fault. -/
def transferHang (p n start : Nat) (s : State) : State :=
  match ((s.core p).stream n).xfer start with
  | some o =>
    match o.served with
    | some b => if b + 3500 < s.beat then s.coreFails p 3 else s
    | none => s
  | none => s

/-- TRANSFER_HANG. -/
def execTransferHang (p n start : Nat) (s : State) : Out :=
  onUnit (p < nCores && n < 32) (whenDo s.sys.tclk s (transferHang p n start))

end Sys2Proof.Machine
end

