-- ==== Sys2Proof/Machine/VecMath.lean ====
section
/-!
DEFINITION. The functions of the vector unit: the table functions over the ROM (04 R144), the composite functions
(R145), the lane trees (R146), Philox (R147), conversion to MXFP4 (02 R51), and the merge of attention partials
(04 R150).
-/
namespace Sys2Proof.Machine

/-- The 32-bit word at byte offset `off` of the clerk ROM. -/
def romWord32 (off : Nat) : W32 := BitVec.ofNat 32 ((Config.romWord (off / 8)).toNat / 2 ^ (8 * (off % 8)))

/-- Entry `i` of a function table: T, a, b. -/
def romTriple (base i : Nat) : W32 × W32 × W32 :=
  (romWord32 (base + 12 * i), romWord32 (base + 12 * i + 4), romWord32 (base + 12 * i + 8))

/-- One rounding into FP32. -/
def rnd (x : FV) : FV := readFp32 (toFp32 x)

/-- Steps 3 and 4 of R144: core = T + T × c with c = r × (a + r × b), each operation rounded. -/
def tableCore (e : W32 × W32 × W32) (r : FV) : FV :=
  let t := readFp32 e.1
  let inner := rnd ((readFp32 e.2.1).add (rnd (r.mul (readFp32 e.2.2))))
  let c := rnd (r.mul inner)
  rnd (t.add (rnd (t.mul c)))

def tabExp : Nat := 0x3F0000
def tabLog : Nat := 0x3F0600
def tabRcp : Nat := 0x3F0C00
def tabRsqrt : Nat := 0x3F1200

def posInf32 : W32 := 0x7F800000#32
def negInf32 : W32 := 0xFF800000#32

/-- A finite non-zero magnitude as 2^e × m with m in [1, 2): the exponent e, the top seven fraction bits of m, and the
exact remainder m − (1 + i ÷ 128). -/
def splitMag (m : Nat) (e : Int) : Int × Nat × FV :=
  let l := Nat.log2 m
  let m' := m * 128
  let i := m' / 2 ^ l - 128
  (e + (l : Nat), i, .fin false (m' - (128 + i) * 2 ^ l) (-(l : Nat) - 7))

/-- EXP (R144). -/
def fexp (x : W32) : W32 :=
  match readFp32 x with
  | .nan => nan32
  | .inf neg => if neg then 0 else posInf32
  | _ =>
    match readFp32 (fmul x 0x3FB8AA3B#32) with
    | .nan => nan32
    | .inf neg => if neg then 0 else posInf32
    | .fin neg m e =>
      let q := min e (-7)
      let d : Int := (2 ^ (-q).toNat : Nat)
      let t := scaleTo q neg m e
      let k := t.fdiv d
      let f := (t - k * d).toNat
      let i := f * 128 / d.toNat
      let r := FV.fin false (f - i * (d.toNat / 128)) q
      toFp32 ((tableCore (romTriple tabExp i) r).scale k)

/-- LOG (R144). -/
def flog (x : W32) : W32 :=
  match readFp32 x with
  | .nan => nan32
  | .inf neg => if neg then nan32 else posInf32
  | .fin neg m e =>
    if m = 0 then negInf32 else if neg then nan32
    else
      let p := splitMag m e
      let ex := FV.fin (decide (p.1 < 0)) p.1.natAbs 0
      toFp32 ((rnd (ex.mul (readFp32 0x3F317218#32))).add (tableCore (romTriple tabLog p.2.1) p.2.2))

/-- RCP (R144). -/
def frcp (x : W32) : W32 :=
  match readFp32 x with
  | .nan => nan32
  | .inf neg => signed32 neg 0
  | .fin neg m e =>
    if m = 0 then signed32 neg 0x7F800000
    else
      let p := splitMag m e
      let c := (tableCore (romTriple tabRcp p.2.1) p.2.2).scale (-p.1)
      toFp32 (if neg then c.neg else c)

/-- RSQRT (R144). -/
def frsqrt (x : W32) : W32 :=
  match readFp32 x with
  | .nan => nan32
  | .inf neg => if neg then nan32 else 0
  | .fin neg m e =>
    if m = 0 then signed32 neg 0x7F800000 else if neg then nan32
    else
      let p := splitMag m e
      let i := 128 * (p.1 % 2).toNat + p.2.1
      toFp32 ((tableCore (romTriple tabRsqrt i) p.2.2).scale (-(p.1 / 2)))

def one32 : W32 := 0x3F800000#32
def two32 : W32 := 0x40000000#32

/-- |x|. -/
def fabs (x : W32) : W32 := x &&& 0x7FFFFFFF#32

/-- TANH (R145): ±1 from magnitude 9.0 on, ±0 for ±0. -/
def ftanh (x : W32) : W32 :=
  let neg := x.getLsbD 31
  if (readFp32 x).isNan then nan32
  else if fabs x = 0 then x
  else if !((readFp32 (fabs x)).lt (readFp32 0x41100000#32)) then signed32 neg 0x3F800000
  else
    let y := fsub one32 (fmul two32 (frcp (fadd (fexp (fmul two32 (fabs x))) one32)))
    if neg then fneg y else y

/-- SIG (R145). -/
def fsig (x : W32) : W32 := frcp (fadd one32 (fexp (fneg x)))

/-- INT32 to FP32 (R143). -/
def i2f (x : W32) : W32 := toFp32 (readInt32 x)

/-- UNIF (R143): ⌊u ÷ 2^8⌋ × 2^−24. -/
def unif (x : W32) : W32 := toFp32 (.fin false (x.toNat / 256) (-24))

/-- One level of a neighbour tree: result 2j with 2j + 1; a last one passes unchanged. -/
def pairUp {α : Type} (f : α → α → α) : List α → List α
  | a :: b :: xs => f a b :: pairUp f xs
  | xs => xs

/-- `n` levels of the tree. -/
def treeLevels {α : Type} (f : α → α → α) : Nat → List α → List α
  | 0, xs => xs
  | n + 1, xs => treeLevels f n (pairUp f xs)

/-- The lane reduction of R146. -/
def laneTree (f : W32 → W32 → W32) (xs : List W32) : W32 := (treeLevels f 7 xs).headD 0

/-! ### Philox4x32-10 (R147) -/

def philoxRound (c k : List W32) : List W32 :=
  let at' := fun (l : List W32) i => l.getD i 0
  let p0 := 0xD2511F53 * (at' c 0).toNat
  let p1 := 0xCD9E8D57 * (at' c 2).toNat
  [BitVec.ofNat 32 (p1 / 2 ^ 32) ^^^ at' c 1 ^^^ at' k 0, BitVec.ofNat 32 p1,
   BitVec.ofNat 32 (p0 / 2 ^ 32) ^^^ at' c 3 ^^^ at' k 1, BitVec.ofNat 32 p0]

def philoxRounds : Nat → List W32 → List W32 → List W32
  | 0, c, _ => c
  | n + 1, c, k => philoxRounds n (philoxRound c k) [k.getD 0 0 + 0x9E3779B9#32, k.getD 1 0 + 0xBB67AE85#32]

/-- Philox4x32-10 of a counter and a key. -/
def philox (c k : List W32) : List W32 := philoxRounds 10 c k

/-! ### MXFP4 (02 R51) -/

/-- A block of 32 FP32 values as its E8M0 scale code and its elements. -/
def mxBlockOf (xs : List W32) : Nat × List Nat :=
  let vs := xs.map readFp32
  let special := vs.any fun v => match v with
    | .fin .. => false
    | _ => true
  let mag := vs.foldl (fun (a : FV) v => match v with
    | .fin _ m e => if a.lt (.fin false m e) then .fin false m e else a
    | _ => a) (.fin false 0 0)
  if special then (0xFF, xs.map fun _ => 0)
  else
    match mag with
    | .fin _ m e =>
      if m = 0 then (0, xs.map fun _ => 0)
      else
        let x : Int := max (-127) (min 127 (e + (Nat.log2 m : Nat) - 2))
        ((x + 127).toNat, vs.map fun v => toE2m1 (v.scale (-x)))
    | _ => (0xFF, xs.map fun _ => 0)

/-- Two nibbles to a byte, the even element low. -/
def packNibbles : List Nat → Bytes
  | a :: b :: xs => BitVec.ofNat 8 (a + 16 * b) :: packNibbles xs
  | [a] => [BitVec.ofNat 8 a]
  | [] => []

/-- The 68-byte MXFP4 row of 128 lanes (04 R137, R143). -/
def mxRow (xs : List W32) : Bytes :=
  let bs := (List.range 4).map fun b => mxBlockOf ((xs.drop (32 * b)).take 32)
  (bs.map fun b => packNibbles b.2).flatten ++ bs.map fun b => BitVec.ofNat 8 b.1

/-! ### Attention partials (05 R201, R202; 04 R150) -/

/-- A partial of one head: m, l (the s of R150), and the lanes of o. -/
structure Partial where
  m : W32
  l : W32
  o : List W32
  deriving DecidableEq, Repr

/-- R150: two partials into one. -/
def Partial.join (x y : Partial) : Partial :=
  let m := fmax x.m y.m
  let cx := fexp (fsub x.m m)
  let cy := fexp (fsub y.m m)
  ⟨m, fadd (fmul x.l cx) (fmul y.l cy), (x.o.zip y.o).map fun e => fadd (fmul e.1 cx) (fmul e.2 cy)⟩

/-- An empty partial of `d` lanes (R201). -/
def Partial.empty (d : Nat) : Partial := ⟨0xFF7FFFFF#32, 0, List.replicate d 0⟩

/-- One token of R201: score `x`, values `v`. -/
def Partial.token (a : Partial) (x : W32) (v : List W32) : Partial :=
  let m := fmax a.m x
  let c := fexp (fsub a.m m)
  let p := fexp (fsub x m)
  ⟨m, fadd (fmul a.l c) p, (a.o.zip v).map fun e => fadd (fmul e.1 c) (fmul p e.2)⟩

end Sys2Proof.Machine
end

