-- ==== Sys2Proof/Machine/Vector.lean ====
section
/-!
DEFINITION. Vector instructions (04 R132, R143 to R148).
-/
namespace Sys2Proof.Machine

/-- The vector unit is free of a merge (R150). -/
def vecUnitWait (s : State) (p t : Nat) : Option Wait := waitFor s p t .vecUnit

/-! ### Loads and stores -/

/-- Element size of a load or store format code (R143). -/
def vecEsize (f : Nat) : Nat := if f = 0 ∨ f = 5 then 4 else if f = 1 then 2 else 1

/-- One element widened to FP32, or raw (R143). -/
def vecRead (f : Nat) (bs : Bytes) : W32 :=
  match f with
  | 1 => toFp32 (readBf16 (leNat bs))
  | 2 => toFp32 (readE4m3 (leNat bs))
  | 3 => toFp32 (readE5m2 (leNat bs))
  | 4 => toFp32 (readInt8 (leNat bs))
  | _ => BitVec.ofNat 32 (leNat bs)

/-- One lane converted for a store (02 R50), or raw. -/
def vecWrite (f : Nat) (x : W32) : Bytes :=
  match f with
  | 1 => leBytes (toBf16 (readFp32 x)) 2
  | 2 => leBytes (toE4m3 (readFp32 x)) 1
  | 3 => leBytes (toE5m2 (readFp32 x)) 1
  | 4 => leBytes (toInt8 (readFp32 x)) 1
  | _ => leBytes x.toNat 4

/-- Whether a slot is held by a vector fill or consumption of another thread (R132). -/
def otherVector (x : Slot) (t : Nat) : Bool :=
  (x.st = .filling || x.st = .draining) && (match x.user with
    | .thread u => u ≠ t
    | _ => false)

/-- Whether thread `t` holds a slot, from its first load or store to its SLT.REL or SLT.FILL (R132). -/
def heldBy (x : Slot) (t : Nat) : Bool := (x.st = .filling || x.st = .draining) && x.user = .thread t

/-- Codes of VEC.LD and VEC.ST (R124, R127, R132, R148, R492): an unbound slot has no length and no bytes to check. -/
def vecMemCodes (s : State) (p t : Nat) (w : IWord) : List Nat :=
  let f := modBits w 2 0
  let n := 128 * vecEsize f
  let x := (s.core p).slot (vecSlot s p t w)
  unused w true true false 0b111111 0xFFFFFFFF ++ vecReg w.a ++ codeIf (6 ≤ f) fIllegal ++
  (if vecSlotForm w then
    codeIf (immBits w 30 19 ≠ 0) fIllegal ++ codeIf (!x.bound || otherVector x t) fSltBusy ++
    codeIf (x.bound && (vecSlotOff w % n ≠ 0 || x.len < vecSlotOff w + n)) fSplAddr ++
    codeIf (x.bound && (s.core p).touchesOff (vecAddr s p t w) n) fSplOff
  else splCodes s p (vecAddr s p t w) n n)

/-- VEC.LD (R143, R132): the first load of a consumption takes the slot. -/
def execVecLd (p t : Nat) (w : IWord) (s : State) : Out :=
  let f := modBits w 2 0
  let k := vecEsize f
  let n := vecSlot s p t w
  let x := (s.core p).slot n
  let a := vecAddr s p t w
  let mine := heldBy x t
  issue p t (vecMemCodes s p t w)
    (firstWait [vecUnitWait s p t, if vecSlotForm w && !mine then needFull s p t n else none, bankWait s p a (128 * k)])
    (fun s' =>
      let s' := if vecSlotForm w && !mine then s'.modCore p (·.setSlot n (x.startUse (.thread t))) else s'
      s'.wv p t w.a (vecMask s p t w) fun l => vecRead f ((s.core p).load (a + k * l) k)) s

/-- VEC.ST (R143, R132): the first store of a fill takes the slot; masked-off lanes are not written. -/
def execVecSt (p t : Nat) (w : IWord) (s : State) : Out :=
  let f := modBits w 2 0
  let k := vecEsize f
  let n := vecSlot s p t w
  let x := (s.core p).slot n
  let a := vecAddr s p t w
  let mine := heldBy x t
  issue p t (vecMemCodes s p t w)
    (firstWait [vecUnitWait s p t, if vecSlotForm w && !mine then needEmpty s p t n else none,
      bankWait s p a (128 * k)])
    (fun s' =>
      let s' := if vecSlotForm w && !mine then s'.modCore p (·.setSlot n (x.startFill (.thread t))) else s'
      s'.modCore p fun c => (lanes.filter fun l => (vecMask s p t w).getLsbD l).foldl
        (fun c l => c.store (a + k * l) (vecWrite f (s.rv p t w.a l))) c) s

/-! ### Lane operations -/

/-- A lane-wise operation of vB and vC into vA (R143). -/
def vecBin (f : W32 → W32 → W32) (p t : Nat) (w : IWord) (s : State) : Out :=
  issue p t (unused w true true true 0b111000 0 ++ vecReg w.a ++ vecReg w.b ++ vecReg w.c) (vecUnitWait s p t)
    (fun s' => s'.wv p t w.a (vecMask s p t w) fun l => f (s.rv p t w.b l) (s.rv p t w.c l)) s

/-- A lane-wise operation of vB into vA. -/
def vecUn (f : W32 → W32) (p t : Nat) (w : IWord) (s : State) : Out :=
  issue p t (unused w true true false 0b111000 0 ++ vecReg w.a ++ vecReg w.b) (vecUnitWait s p t)
    (fun s' => s'.wv p t w.a (vecMask s p t w) fun l => f (s.rv p t w.b l)) s

/-- VEC.ADD (R143). -/
def execVecAdd (p t : Nat) (w : IWord) (s : State) : Out := vecBin fadd p t w s

/-- VEC.SUB (R143). -/
def execVecSub (p t : Nat) (w : IWord) (s : State) : Out := vecBin fsub p t w s

/-- VEC.MUL (R143). -/
def execVecMul (p t : Nat) (w : IWord) (s : State) : Out := vecBin fmul p t w s

/-- VEC.FMA (R143): vA becomes vB × vC + vA with one rounding. -/
def execVecFma (p t : Nat) (w : IWord) (s : State) : Out :=
  issue p t (unused w true true true 0b111000 0 ++ vecReg w.a ++ vecReg w.b ++ vecReg w.c) (vecUnitWait s p t)
    (fun s' => s'.wv p t w.a (vecMask s p t w) fun l => ffma (s.rv p t w.b l) (s.rv p t w.c l) (s.rv p t w.a l)) s

/-- VEC.MAX (R143). -/
def execVecMax (p t : Nat) (w : IWord) (s : State) : Out := vecBin fmax p t w s

/-- VEC.MIN (R143). -/
def execVecMin (p t : Nat) (w : IWord) (s : State) : Out := vecBin fmin p t w s

/-- The predicate with the masked bits replaced by `f`. -/
def maskedBits (old mask : BitVec 128) (f : Nat → Bool) : BitVec 128 :=
  lanes.foldl (fun a l => if mask.getLsbD l then
    (if f l then a ||| BitVec.twoPow 128 l else a &&& ~~~BitVec.twoPow 128 l) else a) old

/-- VEC.CMP (R143): bit l of pA becomes the comparison of lanes l, where the mask selects it. -/
def execVecCmp (p t : Nat) (w : IWord) (s : State) : Out :=
  let cond := modBits w 2 0
  issue p t (unused w true true true 0b111111 0 ++ predReg w.a ++ vecReg w.b ++ vecReg w.c ++
      codeIf (6 ≤ cond) fIllegal) (vecUnitWait s p t)
    (fun s' => s'.modThread p t (·.wp w.a.toNat (maskedBits ((s.thread p t).rp w.a.toNat) (vecMask s p t w)
      fun l => fcmp cond (s.rv p t w.b l) (s.rv p t w.c l)))) s

/-- VEC.SEL (R143): every lane is written, vB where the mask bit is 1, else vC. -/
def execVecSel (p t : Nat) (w : IWord) (s : State) : Out :=
  issue p t (unused w true true true 0b111000 0 ++ vecReg w.a ++ vecReg w.b ++ vecReg w.c) (vecUnitWait s p t)
    (fun s' => s'.wv p t w.a (BitVec.allOnes 128) fun l =>
      if (vecMask s p t w).getLsbD l then s.rv p t w.b l else s.rv p t w.c l) s

/-- VEC.EXP (R144). -/
def execVecExp (p t : Nat) (w : IWord) (s : State) : Out := vecUn fexp p t w s

/-- VEC.LOG (R144). -/
def execVecLog (p t : Nat) (w : IWord) (s : State) : Out := vecUn flog p t w s

/-- VEC.RCP (R144). -/
def execVecRcp (p t : Nat) (w : IWord) (s : State) : Out := vecUn frcp p t w s

/-- VEC.RSQRT (R144). -/
def execVecRsqrt (p t : Nat) (w : IWord) (s : State) : Out := vecUn frsqrt p t w s

/-- VEC.TANH (R145). -/
def execVecTanh (p t : Nat) (w : IWord) (s : State) : Out := vecUn ftanh p t w s

/-- VEC.SIG (R145). -/
def execVecSig (p t : Nat) (w : IWord) (s : State) : Out := vecUn fsig p t w s

/-- A lane reduction of vB into gA (R146); masked-off lanes contribute `z`. -/
def vecReduce (f : W32 → W32 → W32) (z : W32) (p t : Nat) (w : IWord) (s : State) : Out :=
  issue p t (unused w true true false 0b111000 0 ++ vecReg w.b) (vecUnitWait s p t)
    (fun s' => s'.wg p t w.a ((laneTree f (lanes.map fun l =>
      if (vecMask s p t w).getLsbD l then s.rv p t w.b l else z)).setWidth 64)) s

/-- VEC.RSUM (R146). -/
def execVecRsum (p t : Nat) (w : IWord) (s : State) : Out := vecReduce fadd 0 p t w s

/-- VEC.RMAX (R146). -/
def execVecRmax (p t : Nat) (w : IWord) (s : State) : Out := vecReduce fmax negInf32 p t w s

/-- VEC.BCAST (R143). -/
def execVecBcast (p t : Nat) (w : IWord) (s : State) : Out :=
  issue p t (unused w true true false 0b111000 0 ++ vecReg w.a) (vecUnitWait s p t)
    (fun s' => s'.wv p t w.a (vecMask s p t w) fun _ => (s.rg p t w.b).setWidth 32) s

/-- VEC.CVTMX (R143, R148; 02 R51): stores the 68-byte MXFP4 row of vA. -/
def execVecCvtmx (p t : Nat) (w : IWord) (s : State) : Out :=
  let a := splAddr s p t w
  issue p t (unused w true true false 0 0xFFFFFFFF ++ vecReg w.a ++
      codeIf (a / 0x10000 ≠ (a + 67) / 0x10000) fSplAddr ++ splCodes s p a 68 4)
    (firstWait [vecUnitWait s p t, bankWait s p a 68])
    (fun s' => s'.modCore p (·.store a (mxRow (lanes.map (s.rv p t w.a))))) s

/-- VEC.PHILOX (R147). -/
def execVecPhilox (p t : Nat) (w : IWord) (s : State) : Out :=
  let lo := fun (x : W64) => x.setWidth 32
  let hi := fun (x : W64) => (x >>> 32).setWidth 32
  let k := s.rg p t w.b
  let c0 := s.rg p t w.c
  let c1 := (s.thread p t).rg (w.c.toNat + 1)
  issue p t (unused w true true true 0b111000 0 ++ vecReg w.a ++ codeIf (w.c = 31) fIllegal) (vecUnitWait s p t)
    (fun s' => s'.wv p t w.a (vecMask s p t w) fun l =>
      (philox [lo c0 + BitVec.ofNat 32 (l / 4), hi c0, lo c1, hi c1] [lo k, hi k]).getD (l % 4) 0) s

/-- VEC.I2F (R143). -/
def execVecI2f (p t : Nat) (w : IWord) (s : State) : Out := vecUn i2f p t w s

/-- VEC.UNIF (R143). -/
def execVecUnif (p t : Nat) (w : IWord) (s : State) : Out := vecUn unif p t w s

end Sys2Proof.Machine
end

