-- ==== Sys2Proof/Machine/Teller.lean ====
section
/-!
DEFINITION. Teller instructions (04 R149, R150; 05 R190 to R204) and the rows of a stack (05 R182 to R189).
-/
namespace Sys2Proof.Machine

/-! ### Records -/

/-- Eight words of a record in the spool. -/
def recWords (c : Core) (off : Nat) : List W64 := (List.range 8).map fun i => BitVec.ofNat 64 (leNat (c.load (off + 8 * i) 8))

def rBits (ws : List W64) (w hi lo : Nat) : Nat := bitsOf (ws.getD w 0).toNat hi lo

/-- A record of 64 bytes: aligned to 64, within the spool (R78), on banks that are on. -/
def recCodes (c : Core) (off : Nat) : List Nat := codeIf (off % 64 ≠ 0) fTelCmd ++ c.spoolFaults off 64

/-- Whether a program range is mapped to the context. -/
def rangeOk (s : State) (k a n : Nat) : Bool := s.mapped k a n

/-! ### TEL.CMD (R190 to R196) -/

def tOp (ws : List W64) : Nat := rBits ws 0 63 56
def tFlags (ws : List W64) : Nat := rBits ws 0 55 48
def tFmtA (ws : List W64) : Nat := rBits ws 0 47 44
def tFmtB (ws : List W64) : Nat := rBits ws 0 43 40
def tCount (ws : List W64) : Nat := rBits ws 0 31 0
def tAddrA (ws : List W64) : Nat := rBits ws 1 43 0
def tWord2 (ws : List W64) : W64 := ws.getD 2 0
def tAux (ws : List W64) : W64 := ws.getD 3 0
/-- Element size of GATHER and SCATTER. -/
def tElem (ws : List W64) : Nat := 2 ^ (tFlags ws % 8 + 2)
def tAcc (ws : List W64) : Bool := (tFlags ws).testBit 3
def tAccType (ws : List W64) : Nat := bitsOf (tFlags ws) 6 4
/-- Group of DEQUANT. -/
def tGroup (ws : List W64) : Nat := 32 * 2 ^ (tFlags ws % 4)
/-- Output format of DEQUANT as a VEC format code. -/
def tOut (ws : List W64) : Nat := bitsOf (tFlags ws) 6 4
def tOutSize (ws : List W64) : Nat := if tOut ws = 0 then 4 else if tOut ws = 1 then 2 else 1
/-- Bytes of `n` elements of DEQUANT's source format. -/
def tSrcBytes (ws : List W64) (n : Nat) : Nat := if tFmtA ws = 3 then n else ceilDiv n 2
/-- Bytes of a scale: BF16 or E8M0. -/
def tScaleSize (ws : List W64) : Nat := if tFmtB ws = 4 then 2 else 1
/-- Bytes that the whole output takes at the destination. -/
def tResult (ws : List W64) : Nat :=
  if tOp ws = 3 then tCount ws * tElem ws else if tOp ws = 6 then tCount ws * tOutSize ws else 1024

/-- A record that breaks R190 to R194. -/
def telBad (s : State) (k : Nat) (ws : List W64) : Bool :=
  let op := tOp ws
  let n := tCount ws
  let f := tFlags ws
  let a := tAddrA ws
  let aux := (tAux ws).toNat
  let fmts0 : Bool := tFmtA ws = 0 && tFmtB ws = 0
  rBits ws 0 39 32 ≠ 0 || rBits ws 1 63 44 ≠ 0 || (List.range 4).any (fun i => ws.getD (4 + i) 0 ≠ 0) ||
  (if op = 3 then
    n = 0 || 512 < n || 8 ≤ f || !fmts0 || tWord2 ws ≠ 0 || 2 ^ 19 ≤ aux || spoolSize < aux + 4 * n ||
      a % tElem ws ≠ 0 || !rangeOk s k a 1
  else if op = 4 then
    n = 0 || 512 < n || 128 ≤ f || !fmts0 || tWord2 ws ≠ 0 || bitsOf aux 31 19 ≠ 0 || bitsOf aux 63 51 ≠ 0 ||
      (!tAcc ws && tAccType ws ≠ 0) || 3 ≤ tAccType ws || spoolSize < bitsOf aux 18 0 + 4 * n ||
      spoolSize < bitsOf aux 50 32 + n * tElem ws || a % tElem ws ≠ 0 ||
      !rangeOk s k a 1
  else if op = 6 then
    n < 32 || 16384 < n || f % 4 = 3 || bitsOf f 3 2 ≠ 0 || 4 ≤ tOut ws || 128 ≤ f || n % tGroup ws ≠ 0 || aux ≠ 0 ||
      !(tFmtA ws = 3 || tFmtA ws = 7 || tFmtA ws = 2) || !(tFmtB ws = 4 || tFmtB ws = 8) ||
      (tFmtA ws = 2 && (tGroup ws ≠ 32 || tFmtB ws ≠ 8)) || 2 ^ 44 ≤ (tWord2 ws).toNat ||
      !rangeOk s k a (tSrcBytes ws n) || !rangeOk s k (tWord2 ws).toNat (n / tGroup ws * tScaleSize ws)
  else if op = 7 then
    n = 0 || 65536 < n || f ≠ 0 || !fmts0 || aux ≠ 0 || a % 256 ≠ 0 || !s.mappedRw k a (256 * n)
  else if op = 8 then
    n % 8 ≠ 0 || 2 ^ 24 < n || 2 ≤ f || !fmts0 || aux ≠ 0 || !rangeOk s k a n ||
      (f = 0 && (2 ^ 44 ≤ (tWord2 ws).toNat || (tWord2 ws).toNat % 65536 ≠ a % 65536 || !rangeOk s k (tWord2 ws).toNat n))
  else if op = 9 then
    n = 0 || 65536 < n || f ≠ 0 || !fmts0 || tWord2 ws ≠ 0 || aux ≠ 0 || a % 256 ≠ 0 || !rangeOk s k a (256 * n)
  else true)

/-- Index list of GATHER or SCATTER. -/
def telIndices (c : Core) (ws : List W64) : List Nat :=
  if tOp ws = 3 ∨ tOp ws = 4 then (List.range (tCount ws)).map fun i => leNat (c.load ((tAux ws).toNat % 2 ^ 19 + 4 * i) 4)
  else []

/-- Data that a SCATTER carries. -/
def telData (c : Core) (ws : List W64) : Bytes :=
  if tOp ws = 4 then c.load (bitsOf (tAux ws).toNat 50 32) (tCount ws * tElem ws) else []

/-- Stack of a program address: bits [15:12] of its interleaved form (R174, R176). -/
def progStack (a : Nat) : Nat := stackOf (unalias a)

/-- Stacks of a program range, lowest first. -/
def rangeStacks (a n : Nat) : List Nat :=
  (List.range nStacks).filter fun st =>
    (List.range (n / 4096 + 2)).any fun i =>
      let b := a / 4096 * 4096 + 4096 * i
      max a b < a + n && progStack (max a b) = st

/-- Stacks that a record addresses. -/
def telStacks (ws : List W64) (ix : List Nat) : List Nat :=
  let op := tOp ws
  if op = 3 ∨ op = 4 then (List.range nStacks).filter fun st => ix.any fun i => progStack (tAddrA ws + i * tElem ws) = st
  else if op = 6 then
    let scales := rangeStacks (tWord2 ws).toNat (tCount ws / tGroup ws * tScaleSize ws)
    let elems := rangeStacks (tAddrA ws) (tSrcBytes ws (tCount ws))
    (List.range nStacks).filter fun st => elems.contains st || scales.contains st
  else if op = 8 then rangeStacks (tAddrA ws) (tCount ws)
  else rangeStacks (tAddrA ws) (256 * tCount ws)

/-- The vault writes of a record: program addresses with their lengths. An entry that is not mapped for writing writes nothing. -/
def telWrites (s : State) (k : Nat) (ws : List W64) (ix : List Nat) : List (Nat × Nat) :=
  if tOp ws = 4 then
    (ix.map fun i => (tAddrA ws + i * tElem ws, tElem ws)).filter fun e => s.mappedRw k e.1 e.2
  else if tOp ws = 7 then [(tAddrA ws, 256 * tCount ws)] else []

/-- Spool bytes that a record reads beside itself. -/
def telReads (ws : List W64) : List (Nat × Nat) :=
  if tOp ws = 3 then [((tAux ws).toNat % 2 ^ 19, 4 * tCount ws)]
  else if tOp ws = 4 then [((tAux ws).toNat % 2 ^ 19, 4 * tCount ws), (bitsOf (tAux ws).toNat 50 32, tCount ws * tElem ws)]
  else []

/-- Codes of TEL.CMD (R149, R159, R160, R169, R190 to R196). -/
def telCmdCodes (s : State) (p t : Nat) (w : IWord) : List Nat :=
  let c := s.core p
  let off := (s.rg p t w.a).toNat
  let dst := s.rg p t w.b
  let isSlot := w.mod.getLsbD 0
  let ws := recWords c off
  let base := unused w true true false 0b000001 0 ++ noVm1 s p ++ recCodes c off ++
    (if isSlot then slotBound s p (refSlot dst) else [])
  if !(recCodes c off).isEmpty || (bankWait s p off 64).isSome then base
  else
    base ++ codeIf (telBad s c.ctx ws) fTelCmd ++
    codeIf ((telReads ws).any fun e => c.touchesOff e.1 e.2) fSplOff ++
    (if isSlot then codeIf ((c.slot (refSlot dst)).len < tResult ws) fTelCmd
     else codeIf (spoolSize < dst.toNat + tResult ws) fTelCmd) ++
    codeIf (!(isSlot && !(c.slot (refSlot dst)).bound) && c.touchesOff (slotAddr s p isSlot dst) (tResult ws)) fSplOff ++
    codeIf (!(telWrites s c.ctx ws (telIndices c ws)).isEmpty &&
      (s.classify p fun k => k.allows (tOp ws = 4 && tAcc ws) (telWrites s c.ctx ws (telIndices c ws))).isNone) fCmdRegion

/-- The lowest number not used as a key. -/
def freeKey {α : Type} (m : SMap α) : Nat := (firstFrom (fun i => !SMap.has m i) 0 (m.length + 1)).getD 0

/-- Puts a teller job into the queue of every stack that it addresses. -/
def State.queueTel (s : State) (p job : Nat) (sts : List Nat) : State :=
  sts.foldl (fun s st => s.queueWork st (.tel p job)) s

/-- The wait for banks that settle under the index list and the data of a record (03 R86). -/
def telReadWait (s : State) (p : Nat) (ws : List W64) : List (Option Wait) :=
  (telReads ws).map fun e => bankWait s p e.1 e.2

/-- TEL.CMD (R149, R190 to R196). A COMPARE of no bytes addresses no stack, and its fill of a slot is complete at once. -/
def execTelCmd (p t : Nat) (w : IWord) (s : State) : Out :=
  let c := s.core p
  let dst := s.rg p t w.b
  let isSlot := w.mod.getLsbD 0
  let ws := recWords c (s.rg p t w.a).toNat
  let ix := telIndices c ws
  let sts := telStacks ws ix
  let a := slotAddr s p isSlot dst
  issue p t (telCmdCodes s p t w)
    (firstWait ([if isSlot then needEmpty s p t (refSlot dst) else none, bankWait s p (s.rg p t w.a).toNat 64] ++
      telReadWait s p ws ++ [bankWait s p a (tResult ws), waitFor s p t (.tags sts.length)]))
    (fun s' =>
      let s' := if (telWrites s c.ctx ws ix).isEmpty then s'
        else (s'.classify p fun k => k.allows (tOp ws = 4 && tAcc ws) (telWrites s c.ctx ws ix)).getD s'
      let job := freeKey c.tel
      let j : TelJob := { thread := t, ctx := c.ctx, words := ws, indices := ix, data := telData c ws, dst := a,
                          slot := if isSlot then some (refSlot dst) else none, left := sts }
      if sts.isEmpty then
        if isSlot then s'.modCore p fun c => c.modSlot (refSlot dst) (·.endFill (tResult ws)) else s'
      else
        let s' := s'.modCore p fun c => (({ c with tel := SMap.put c.tel job j } : Core)).notePeak
        let s' := if isSlot then s'.modCore p fun c => c.modSlot (refSlot dst) (·.startFill (.tel job)) else s'
        s'.queueTel p job sts) s

/-! ### The work of one stack of a TEL.CMD (R192 to R196) -/

/-- CRC-64 under ECMA-182, most significant bit first, from a given state. -/
def crcByte (crc : W64) (b : Byte) : W64 :=
  (List.range 8).foldl (fun c _ => if c.getLsbD 63 then (c <<< 1) ^^^ 0x42F0E1EBA9EA3693#64 else c <<< 1)
    (crc ^^^ (b.setWidth 64 <<< 56))

def crcRun (crc : W64) (bs : Bytes) : W64 := bs.foldl crcByte crc

/-- Where the elements of a program range that lie in stack `st` are: offsets of its pieces of `n` bytes. -/
def offsetsIn (a n total st : Nat) : List Nat :=
  ((List.range (total / n)).map (n * ·)).filter fun o => progStack (a + o) = st

/-- Exact value of a DEQUANT element: its integer or E2M1 value, times its scale (R193). -/
def dequantElem (ws : List W64) (src : Byte) (hi : Bool) (scale : Bytes) : W32 :=
  let nib := if hi then src.toNat / 16 else src.toNat % 16
  let v := if tFmtA ws = 3 then readInt8 src.toNat
    else if tFmtA ws = 7 then readInt8 (if nib < 8 then nib else 240 + nib)
    else readE2m1 nib
  let sc : FV := if tFmtB ws = 4 then readBf16 (leNat scale)
    else match e8m0 (leNat scale) with
      | some e => .fin false 1 e
      | none => .nan
  toFp32 (v.mul sc)

/-- Whether a program address is resident. -/
def State.isAt (s : State) (k a : Nat) : Bool :=
  match s.translate k a with
  | .at _ => true
  | _ => false

/-- Bytes at program addresses, of which `bs` gives the resident ones; a host-backed one, which only a command that has ended still
reads, gives a free byte (log 28). -/
def State.fillFree (s : State) (k : Nat) : List Nat → Bytes → State × Bytes
  | [], _ => (s, [])
  | a :: as, bs =>
    if s.isAt k a then
      let r := s.fillFree k as (bs.drop 1)
      (r.1, bs.headD 0 :: r.2)
    else
      let f := s.freeByte
      let r := f.2.fillFree k as bs
      (r.1, f.1 :: r.2)

/-- The bytes at program addresses, or the sign of an uncorrectable line. -/
def State.readProg (s : State) (k : Nat) (as : List Nat) (errs : List LineErr) (p : Nat) : State × Option Bytes :=
  let r := s.readBytes ((as.filter (s.isAt k)).map fun a => s.pa k a) errs (.core p)
  match r.2 with
  | some bs => let f := r.1.fillFree k as bs; (f.1, some f.2)
  | none => (r.1, none)

/-- Address of element `i` of a DEQUANT, and the addresses of its scale. -/
def dequantAt (ws : List W64) (i : Nat) : Nat := tAddrA ws + (if tFmtA ws = 3 then i else i / 2)
def scaleAt (ws : List W64) (i : Nat) : List Nat :=
  (List.range (tScaleSize ws)).map fun b => (tWord2 ws).toNat + i / tGroup ws * tScaleSize ws + b

/-- Elements of a DEQUANT whose source lies in stack `st`. -/
def dequantIn (ws : List W64) (st : Nat) : List Nat := (List.range (tCount ws)).filter fun i => progStack (dequantAt ws i) = st

/-- DEQUANT at one stack: its output elements by index. -/
def telDequant (s : State) (p : Nat) (j : TelJob) (st : Nat) (errs : List LineErr) : State × TelReply :=
  let ws := j.words
  let mine := dequantIn ws st
  let as := (mine.flatMap fun i => dequantAt ws i :: scaleAt ws i).dedup
  let r := s.readProg j.ctx as errs p
  match r.2 with
  | none => (r.1, { fault := some fTelData })
  | some bs =>
    let at_ := fun (a : Nat) => bs.getD (as.findIdx (· = a)) 0
    (r.1, { elems := mine.map fun i =>
      (i, vecWrite (tOut ws) (dequantElem ws (at_ (dequantAt ws i)) (i % 2 = 1) ((scaleAt ws i).map at_))) })

/-- Elements of GATHER or SCATTER at one stack: entry and address. -/
def TelJob.entries (j : TelJob) (st : Nat) : List (Nat × Nat) :=
  ((List.range j.indices.length).map fun i => (i, tAddrA j.words + j.indices.getD i 0 * tElem j.words)).filter
    fun e => progStack e.2 = st

/-- Addresses of `n` bytes from `a`. -/
def runOf (a n : Nat) : List Nat := (List.range n).map (a + ·)

/-- GATHER at one stack. -/
def telGather (s : State) (p : Nat) (j : TelJob) (st : Nat) (errs : List LineErr) : State × TelReply :=
  let n := tElem j.words
  let es := j.entries st
  if es.any fun e => !s.mapped j.ctx e.2 n then (s, { fault := some fTelCmd })
  else
    let r := s.readProg j.ctx (es.flatMap fun e => (List.range n).map (e.2 + ·)) errs p
    match r.2 with
    | none => (r.1, { fault := some fTelData })
    | some bs => (r.1, { elems := (es.map (·.1)).zip (pieces n es.length bs) })

/-- SCATTER at one stack: entries outside the partition, or on a page that may not be written (log 132), are left out, with
STATUS 2; an uncorrectable line gives STATUS 1. Outside exact mode, and outside reduction regions, an accumulation goes to the vault
itself. -/
def telScatter (s : State) (p : Nat) (j : TelJob) (st : Nat) (errs : List LineErr) : State × TelReply :=
  let n := tElem j.words
  let es := j.entries st
  let good := es.filter fun e => s.mappedRw j.ctx e.2 n
  let out : Bool := good.length ≠ es.length
  let dataOf := fun (i : Nat) => (j.data.drop (n * i)).take n
  let done := fun (ok : Bool) => ({ status := if out then 2 else if ok then 0 else 1 } : TelReply)
  if tAcc j.words then
    let type := tAccType j.words
    let words := good.flatMap fun e => (accAddrs type n [s.pa j.ctx e.2]).zip (accWords type (dataOf e.1))
    let inCopy := fun (a : Nat) => match s.cmdOf p with
      | some c => s.reduces c a n
      | none => false
    let mine := (good.filter fun e => inCopy e.2).flatMap fun e => runOf (s.pa j.ctx e.2) n
    let r1 := s.addCopy (some ((s.core p).cmd, s.rank p, [])) type (words.filter fun e => mine.contains e.1)
    let r2 := r1.1.accBytes type (words.filter fun e => !mine.contains e.1) errs (.core p)
    let sat : Bool := r1.2 || r2.2.2
    let s := if sat then r2.1.modThread p j.thread fun th => { th with sat := true } else r2.1
    (s, done r2.2.1)
  else
    let bytes := good.flatMap fun e => ((List.range n).map (s.pa j.ctx e.2 + ·)).zip (dataOf e.1)
    let r := s.writeBytes bytes errs (.core p)
    (r.1, done r.2)

/-- FILL at one stack: whole lines, which are never read. -/
def telFill (s : State) (p : Nat) (j : TelJob) (st : Nat) (errs : List LineErr) : State × TelReply :=
  let ws := j.words
  let pattern := leBytes (tWord2 ws).toNat 8
  let offs := offsetsIn (tAddrA ws) 64 (256 * tCount ws) st
  let bytes := offs.flatMap fun o => ((List.range 64).map fun i => (s.pa j.ctx (tAddrA ws + o + i), pattern.getD (i % 8) 0))
  let r := s.writeBytes bytes errs (.core p)
  (r.1, { status := if r.2 then 0 else 1 })

/-- COMPARE at one stack: differing words and the lowest differing offset. -/
def telCompare (s : State) (p : Nat) (j : TelJob) (st : Nat) (errs : List LineErr) : State × TelReply :=
  let ws := j.words
  let offs := offsetsIn (tAddrA ws) 8 (tCount ws) st
  let two : Bool := tFlags ws = 0
  let run := fun (a : Nat) => offs.flatMap fun o => (List.range 8).map (a + o + ·)
  let ra := s.readProg j.ctx (run (tAddrA ws)) errs p
  let rb : State × Option Bytes :=
    if two then ra.1.readProg j.ctx (run (tWord2 ws).toNat) errs p
    else (ra.1, some (offs.flatMap fun _ => leBytes (tWord2 ws).toNat 8))
  match ra.2, rb.2 with
  | some x, some y =>
    let diff := (offs.zip ((pieces 8 offs.length x).zip (pieces 8 offs.length y))).filter fun e => e.2.1 ≠ e.2.2
    (rb.1, { word1 := BitVec.ofNat 64 diff.length, word2 := match diff with
      | [] => BitVec.allOnes 64
      | e :: _ => BitVec.ofNat 64 e.1 })
  | _, _ => (rb.1, { status := 1, word2 := BitVec.allOnes 64 })

/-- CHECKSUM at one stack: the sum over its 256-byte units (R194). -/
def telChecksum (s : State) (p : Nat) (j : TelJob) (st : Nat) (errs : List LineErr) : State × TelReply :=
  let ws := j.words
  let offs := offsetsIn (tAddrA ws) 256 (256 * tCount ws) st
  let r := s.readProg j.ctx (offs.flatMap fun o => (List.range 256).map (tAddrA ws + o + ·)) errs p
  match r.2 with
  | some bs =>
    let sum := (offs.zip (pieces 256 offs.length bs)).foldl (fun a e => a + crcRun 0 (e.2 ++ leBytes e.1 8)) 0
    (r.1, { word1 := sum })
  | none => (r.1, { status := 1 })

/-- Ends of a run of bytes, which lies within 2 MiB. -/
def runEnds (a n : Nat) : List Nat := [a, a + n - 1]

/-- Program addresses that cover the pages that a TEL.CMD reads at one stack. -/
def TelJob.reads (j : TelJob) (st : Nat) : List Nat :=
  let ws := j.words
  match tOp ws with
  | 3 => (j.entries st).flatMap fun e => runEnds e.2 (tElem ws)
  | 6 => (dequantIn ws st).flatMap fun i => dequantAt ws i :: scaleAt ws i
  | 8 => (offsetsIn (tAddrA ws) 8 (tCount ws) st).flatMap fun o =>
      runEnds (tAddrA ws + o) 8 ++ (if tFlags ws = 0 then runEnds ((tWord2 ws).toNat + o) 8 else [])
  | 9 => (offsetsIn (tAddrA ws) 256 (256 * tCount ws) st).map (tAddrA ws + ·)
  | _ => []

/-- Whether core `p` still runs the command that has issued a teller instruction. -/
def State.runsOn (s : State) (p : Nat) : Bool := (s.core p).phase ≠ .none

/-- A host-backed page that the part of a TEL.CMD at one stack reads, as an address in it: a running command waits for it. -/
def State.telHost (s : State) (p job st : Nat) : Option (Nat × Nat) :=
  match SMap.get ((s.core p).tel.map fun e => (e.1, some e.2)) none job with
  | some j => if s.runsOn p then (s.hostIn j.ctx (j.reads st)).map fun a => (j.ctx, a) else none
  | none => none

/-- Bytes read and written at all stacks. -/
def State.movedBytes (s : State) : Nat :=
  ((List.range nStacks).map fun st => s.fld (Fld.vltRdBytes_bytes st) + s.fld (Fld.vltWrBytes_bytes st)).sum

/-- The service of a TEL.CMD at one stack. -/
def State.serveTel (s : State) (p job st : Nat) (errs : List LineErr) : State :=
  match SMap.get ((s.core p).tel.map fun e => (e.1, some e.2)) none job with
  | none => s
  | some j =>
    let before := s.movedBytes
    let r := match tOp j.words with
      | 3 => telGather s p j st errs
      | 4 => telScatter s p j st errs
      | 6 => telDequant s p j st errs
      | 7 => telFill s p j st errs
      | 8 => telCompare s p j st errs
      | _ => telChecksum s p j st errs
    let s := r.1
    let s := s.chargeVault p ((s.movedBytes + 2 ^ 64 - before % 2 ^ 64) % 2 ^ 64)
    s.modCore p fun c => { c with tel := SMap.put c.tel job { j with replies := SMap.put j.replies st r.2 } }

/-! ### STACK_REQUEST and the state of a stack -/

/-- STACK_HANG (R189): with a request queued, no request has completed for more than 3,500 beats. -/
def stackHang (st : Nat) (s : State) : State :=
  let x := s.stack st
  if !x.queue.isEmpty && x.idleFrom + 3500 < s.beat && s.fld (Fld.vltStatus_state st) ≠ stkFailed then
    (s.failStack st 2 0).settleStacks else s

/-- STACK_HANG. -/
def execStackHang (st : Nat) (s : State) : Out := onUnit (st < nStacks) (whenDo s.sys.tclk s (stackHang st))

/-- REFRESH (R184): every row is refreshed once more. It changes no value. -/
def execRefresh (st : Nat) (s : State) : Out :=
  onUnit (st < nStacks) (whenDo s.sys.tclk s fun s =>
    s.setStack st { s.stack st with refreshes := (s.stack st).refreshes + 1 })

/-- STACK_TEMP_CHANGE (R184). -/
def execStackTempChange (st temp : Nat) (s : State) : Out :=
  onUnit (st < nStacks && temp < 256) (whenDo s.sys.tclk s fun s => s.takeReading (.stack st) temp)

/-- Physical line number of a stack's line address. -/
def lineNo (st la : Nat) : Nat := lineToPa st la / 64

/-- OUTER_SYM of every die counts from 0 again (R182). -/
def State.clearOuter (s : State) (st : Nat) : State :=
  (List.range 18).foldl (fun s d => s.setFld (Fld.vltInner_outerSym st d) 0) s

/-- SCRUB_LINE (R185): the stack reads the next line; a corrected line is written back, an uncorrectable one is logged
and left. After the last line a pass is complete, and OUTER_SYM counts from 0 again (R182). -/
def scrubLine (st : Nat) (errs : List LineErr) (s : State) : State :=
  let s := { s with lineErrs := errs }
  if s.fld (Fld.vltCtrl_scrubHours st) = 0 then s
  else
    let la := s.fld (Fld.vltScrubPos_line st)
    let r := s.readLine (lineNo st la) errs .scrub
    let s := match r.2 with
      | some bs => if (errOf errs (lineNo st la)).syms.isEmpty then r.1
        else ((r.1.vstore (lineToPa st la) bs).countWrite st 64).charge sharedAcct lVault 64
      | none => r.1
    let s := s.countRead st 64
    let s := s.charge sharedAcct lVault 64
    let s := s.setFld (Fld.vltScrubPos_line st) ((la + 1) % 2 ^ 30)
    let done := (s.count (Fld.vltScrubDone_passes st)).clearOuter st
    (if la + 1 = 2 ^ 30 then done else s).settleStacks

/-- SCRUB_LINE. -/
def execScrubLine (st : Nat) (err : List LineErr) (s : State) : Out :=
  onUnit (st < nStacks) (whenDo s.sys.tclk s (scrubLine st err))

/-! ### TEL_STACK_REPLY (R195, R196) -/

/-- The result block of a stack. -/
def TelReply.block (r : TelReply) : Bytes :=
  leBytes r.status 8 ++ leBytes r.word1.toNat 8 ++ leBytes r.word2.toNat 8 ++ List.replicate 40 0

/-- What a stack's reply writes at the destination. -/
def State.telWrite (s : State) (p : Nat) (j : TelJob) (st : Nat) (r : TelReply) : State :=
  let op := tOp j.words
  if op = 3 ∨ op = 6 then
    let n := if op = 3 then tElem j.words else tOutSize j.words
    s.modCore p fun c => r.elems.foldl (fun c e => c.store (j.dst + n * e.1) e.2) c
  else s.modCore p (·.store (j.dst + 64 * st) r.block)

/-- A slot that `u` fills is full; any other is as it was. -/
def Slot.filledBy (u : SlotUser) (n : Nat) (x : Slot) : Slot := if x.st = .filling ∧ x.user = u then x.endFill n else x

/-- The contents of the destination of a GATHER or DEQUANT whose reply faults are unspecified (R196; log 33). -/
def State.telSpoil (s : State) (p : Nat) (j : TelJob) : State :=
  if tOp j.words = 3 ∨ tOp j.words = 6 then
    let f := s.freeBytes (tResult j.words)
    f.2.modCore p (·.store j.dst f.1)
  else s

/-- The reply of stack `st` to a TEL.CMD: it is written, its tag is free, and the last one completes a slot's fill. After
a reply that faults, nothing more is written, and a slot keeps its state (R90). -/
def telStackReply (p job st : Nat) (s : State) : State :=
  match SMap.get ((s.core p).tel.map fun e => (e.1, some e.2)) none job with
  | none => s
  | some j =>
    match SMap.get (j.replies.map fun e => (e.1, some e.2)) none st with
    | none => s
    | some r =>
      let left := j.left.filter (· ≠ st)
      let rest := { j with left := left, replies := SMap.del j.replies st, failed := j.failed || r.fault.isSome }
      let tel := if left.isEmpty then SMap.del (s.core p).tel job else SMap.put (s.core p).tel job rest
      let s := s.modCore p fun c => { c with tel := tel }
      if j.failed then s else
      match r.fault with
      | some code => (s.telSpoil p j).ownFault p j.thread code
      | none =>
        let s := s.telWrite p j st r
        match j.slot with
        | some n => if left.isEmpty then s.modCore p (·.modSlot n (Slot.filledBy (.tel job) (tResult j.words))) else s
        | none => s

/-- TEL_STACK_REPLY. -/
def execTelStackReply (p job st : Nat) (s : State) : Out :=
  onUnit (p < nCores && st < nStacks) (whenDo s.sys.tclk s (telStackReply p job st))

end Sys2Proof.Machine
end

