-- ==== Sys2Proof/Machine/Attention.lean ====
section
/-!
DEFINITION. Decode attention (05 R197 to R203) and the merge of its partials (04 R150, 05 R204).
-/
namespace Sys2Proof.Machine

/-! ### The record (R199) -/

def aKvFmt (ws : List W64) : Nat := rBits ws 0 55 52
def aQFmt (ws : List W64) : Nat := rBits ws 0 51 48
def aDsel (ws : List W64) : Nat := rBits ws 0 47 46
/-- Head dimension D. -/
def aDim (ws : List W64) : Nat := 32 * 2 ^ aDsel ws
/-- H_p, KV heads of the head group. -/
def aHp (ws : List W64) : Nat := rBits ws 0 45 41 + 1
def aKvh (ws : List W64) : Nat := rBits ws 0 40 37
/-- Query heads of the record. -/
def aHeads (ws : List W64) : Nat := rBits ws 0 36 33 + 1
def aList (ws : List W64) : Nat := rBits ws 1 43 0
def aLen (ws : List W64) : Nat := rBits ws 2 23 0
def aScale (ws : List W64) : W32 := (ws.getD 3 0).setWidth 32
def aQoff (ws : List W64) : Nat := rBits ws 4 18 0
/-- Element size e of keys and values. -/
def aElem (ws : List W64) : Nat := if aKvFmt ws = 4 then 2 else 1
def aQElem (ws : List W64) : Nat := if aQFmt ws = 5 then 4 else 2
/-- Token slots Q of a stack's part of a page (R197). -/
def aSlots (ws : List W64) : Nat := 4096 / (2 * aHp ws * aDim ws * aElem ws)
/-- Tokens P of a page. -/
def aPage (ws : List W64) : Nat := 16 * aSlots ws
/-- Bytes of the queries. -/
def aQBytes (ws : List W64) : Nat := aHeads ws * aDim ws * aQElem ws

/-- Bytes before o in a partial (R202). -/
def partHead (heads : Nat) : Nat := 64 + 64 * ceilDiv (heads * 8) 64
/-- Size B of a partial. -/
def partSize (heads d : Nat) : Nat := partHead heads + 2 * d * heads

/-- A record that breaks R199. -/
def attnBad (ws : List W64) : Bool :=
  rBits ws 0 63 56 ≠ 1 || !(aKvFmt ws = 0 || aKvFmt ws = 1 || aKvFmt ws = 4) || !(aQFmt ws = 4 || aQFmt ws = 5) ||
  aDsel ws = 3 || !([1, 2, 4, 8, 16].contains (aHp ws)) || 4096 % (2 * aHp ws * aDim ws * aElem ws) ≠ 0 ||
  aHp ws ≤ aKvh ws || rBits ws 0 32 0 ≠ 0 || rBits ws 1 63 44 ≠ 0 || aList ws % 64 ≠ 0 || rBits ws 2 63 24 ≠ 0 ||
  rBits ws 3 63 32 ≠ 0 || rBits ws 4 63 19 ≠ 0 || (List.range 3).any (fun i => ws.getD (5 + i) 0 ≠ 0)

/-- Codes of TEL.ATTN (R149, R169, R203, R492). -/
def attnCodes (s : State) (p t : Nat) (w : IWord) : List Nat :=
  let c := s.core p
  let off := (s.rg p t w.a).toNat
  let n := immBits w 4 0
  let ws := recWords c off
  let f := (s.ctx c.ctx).split
  let all := 16 * f * partSize (aHeads ws) (aDim ws)
  let base := unused w true false false 0 0x1F ++ noVm1 s p ++ slotBound s p n ++ recCodes c off
  if !(recCodes c off).isEmpty || (bankWait s p off 64).isSome then base
  else if attnBad ws then base ++ [fTelCmd]
  else
    base ++ codeIf (aLen ws = 0 || (c.slot n).len < all || spoolSize < aQoff ws + aQBytes ws ||
      !s.mapped c.ctx (aList ws) (4 * ceilDiv (aLen ws) (aPage ws))) fTelCmd ++
    codeIf (c.touchesOff (aQoff ws) (aQBytes ws)) fSplOff ++
    codeIf ((c.slot n).bound && c.touchesOff (c.slot n).base all) fSplOff

/-- TEL.ATTN (R149, R199 to R203): 16 tags, and one fill of the slot by every partial. The queries are read at issue
(log 17), and every stack is asked for its pieces. -/
def execTelAttn (p t : Nat) (w : IWord) (s : State) : Out :=
  let c := s.core p
  let off := (s.rg p t w.a).toNat
  let n := immBits w 4 0
  let ws := recWords c off
  let f := (s.ctx c.ctx).split
  issue p t (attnCodes s p t w)
    (firstWait [needEmpty s p t n, bankWait s p off 64, bankWait s p (aQoff ws) (aQBytes ws),
      bankWait s p (c.slot n).base (16 * f * partSize (aHeads ws) (aDim ws)), waitFor s p t (.tags 16)])
    (fun s' =>
      let job := freeKey c.attn
      let j : AttnJob := { thread := t, ctx := c.ctx, words := ws, queries := c.load (aQoff ws) (aQBytes ws),
                           slot := n, split := f, left := List.range (16 * f) }
      let s' := s'.modCore p fun c =>
        let c := { c with attn := SMap.put c.attn job j }
        c.notePeak.modSlot n (·.startFill (.attn job))
      (List.range nStacks).foldl (fun s st => s.queueWork st (.attn p job)) s') s

/-! ### One partial (R200 to R202) -/

/-- Tokens of stack `st`. -/
def tokensIn (l st : Nat) : Nat := if st < l then ceilDiv (l - st) 16 else 0

/-- Tokens of piece `k` of stack `st` under split factor `f`, in increasing order. -/
def pieceTokens (l f st k : Nat) : List Nat :=
  let n := tokensIn l st
  (List.range ((k + 1) * n / f - k * n / f)).map fun i => 16 * (k * n / f + i) + st

/-- Program addresses of the K and the V vector of token `t`, given its page (R197). -/
def kvAddrs (ws : List W64) (page t : Nat) : Nat × Nat :=
  let j := t % aPage ws
  let v := aDim ws * aElem ws
  let k := page + 4096 * (j % 16) + (j / 16 * aHp ws + aKvh ws) * v
  (k, k + aSlots ws * aHp ws * v)

/-- Element `i` of a key or value run. -/
def aRead (f : Nat) (bs : Bytes) (i : Nat) : FV :=
  match f with
  | 0 => readE4m3 (byteAt bs i)
  | 1 => readE5m2 (byteAt bs i)
  | 4 => readBf16 (byteAt bs (2 * i) + 256 * byteAt bs (2 * i + 1))
  | _ => readFp32 (BitVec.ofNat 32 (leNat ((bs.drop (4 * i)).take 4)))

/-- One head of a piece over its tokens, each with its key and value bytes (R201). -/
def attnHead (ws : List W64) (q : Bytes) (toks : List (Bytes × Bytes)) : Partial :=
  let d := aDim ws
  toks.foldl (fun a e =>
    let dot := exactSum ((List.range d).map fun i => (aRead (aQFmt ws) q i).mul (aRead (aKvFmt ws) e.1 i))
    a.token (fmul (toFp32 dot) (aScale ws)) ((List.range d).map fun i => toFp32 (aRead (aKvFmt ws) e.2 i)))
    (Partial.empty d)

/-- The bytes of a partial (R202). -/
def partBytes (ws : List W64) (count arrival : Nat) (hs : List Partial) : Bytes :=
  let ml := hs.flatMap fun h => leBytes h.m.toNat 4 ++ leBytes h.l.toNat 4
  leBytes count 4 ++ leBytes (aHeads ws) 1 ++ leBytes (aDsel ws) 1 ++ leBytes arrival 2 ++ List.replicate 56 0 ++
    ml ++ List.replicate (partHead (aHeads ws) - 64 - ml.length) 0 ++
    hs.flatMap fun h => h.o.flatMap fun x => leBytes (toBf16 (readFp32 x)) 2

/-- Page numbers of the list that a set of tokens needs, with the page addresses that the list gives. -/
def State.readPages (s : State) (p : Nat) (j : AttnJob) (toks : List Nat) (errs : List LineErr) :
    State × Option (List (Nat × Nat)) :=
  let need := (toks.map (· / aPage j.words)).dedup
  let r := s.readProg j.ctx (need.flatMap fun n => runOf (aList j.words + 4 * n) 4) errs p
  (r.1, r.2.map fun bs => need.zip ((pieces 4 need.length bs).map fun b => leNat b * vpageBytes))

/-- The keys and values of a set of tokens: their bytes, or the code that the reply carries. -/
def State.readKv (s : State) (p : Nat) (j : AttnJob) (toks : List Nat) (errs : List LineErr) :
    State × List (Bytes × Bytes) × Option Nat :=
  let v := aDim j.words * aElem j.words
  let pg := s.readPages p j toks errs
  match pg.2 with
  | none => (pg.1, [], some fTelData)
  | some pages =>
    let at_ := toks.map fun t => kvAddrs j.words (SMap.get pages 0 (t / aPage j.words)) t
    if at_.any fun e => !s.mapped j.ctx e.1 v || !s.mapped j.ctx e.2 v then (pg.1, [], some fTelCmd)
    else
      let r := pg.1.readProg j.ctx (at_.flatMap fun e => runOf e.1 v ++ runOf e.2 v) errs p
      match r.2 with
      | none => (r.1, [], some fTelData)
      | some bs => (r.1, (pieces (2 * v) toks.length bs).map fun b => (b.take v, b.drop v), none)

/-- The attention fill `job` of a core. -/
def Core.attnJob (c : Core) (job : Nat) : Option AttnJob := SMap.get (c.attn.map fun e => (e.1, some e.2)) none job

/-- Piece `k` of stack `st` reads its tokens and computes its partial (R200 to R202). -/
def State.attnPiece (s : State) (p : Nat) (j : AttnJob) (st k : Nat) (errs : List LineErr) : State × AttnReply :=
  let ws := j.words
  let toks := pieceTokens (aLen ws) j.split st k
  let before := s.movedBytes
  let r := s.readKv p j toks errs
  let s := r.1.chargeVault p ((r.1.movedBytes + 2 ^ 64 - before % 2 ^ 64) % 2 ^ 64)
  match r.2.2 with
  | some code => (s, .err code)
  | none =>
    let q := aDim ws * aQElem ws
    let hs := (List.range (aHeads ws)).map fun h => attnHead ws ((j.queries.drop (q * h)).take q) r.2.1
    (s, .part (partBytes ws toks.length 0 hs))

/-- A host-backed page that the part of a TEL.ATTN at one stack reads, as an address in it: a running command waits for it. -/
def State.attnHost (s : State) (p job st : Nat) : Option (Nat × Nat) :=
  match (s.core p).attnJob job with
  | none => none
  | some j =>
    let ws := j.words
    let toks := (List.range j.split).flatMap (pieceTokens (aLen ws) j.split st)
    let entry := fun (t : Nat) => aList ws + 4 * (t / aPage ws)
    let lists := s.hostIn j.ctx (toks.flatMap fun t => runEnds (entry t) 4)
    let rows := s.hostIn j.ctx (toks.flatMap fun t =>
      let e := kvAddrs ws (leNat (s.pload j.ctx (entry t) 4) * vpageBytes) t
      runEnds e.1 (aDim ws * aElem ws) ++ runEnds e.2 (aDim ws * aElem ws))
    if !s.runsOn p then none
    else (match lists with
      | some a => some a
      | none => rows).map fun a => (j.ctx, a)

/-- The service of a TEL.ATTN at one stack: its pieces in order. -/
def State.serveAttn (s : State) (p job st : Nat) (errs : List LineErr) : State :=
  match (s.core p).attnJob job with
  | none => s
  | some j =>
    let r := (List.range j.split).foldl (fun (r : State × SMap AttnReply) k =>
      let x := r.1.attnPiece p j st k errs
      (x.1, SMap.put r.2 (st * j.split + k) x.2)) (s, j.parts)
    r.1.modCore p fun c => { c with attn := SMap.put c.attn job { j with parts := r.2 } }

/-- A partial with its ARRIVAL. -/
def withArrival (bs : Bytes) (arrival : Nat) : Bytes := bs.take 6 ++ leBytes arrival 2 ++ bs.drop 8

/-- ATTN_PARTIAL (R200 to R202): partial `i` arrives: its bytes in their place, or its fault. -/
def State.landPartial (s : State) (p job : Nat) (j : AttnJob) (i : Nat) (r : AttnReply) : State :=
  let left := j.left.filter (· ≠ i)
  let ok : Bool := match r with
    | .part _ => true
    | .err _ => false
  let rest := { j with left := left, parts := SMap.del j.parts i, arrived := j.arrived + (if ok then 1 else 0),
                       failed := j.failed || !ok }
  let attn := if left.isEmpty then SMap.del (s.core p).attn job else SMap.put (s.core p).attn job rest
  let s := s.modCore p fun c => { c with attn := attn }
  match r with
  | .err code => s.ownFault p j.thread code
  | .part bs =>
    let b := partSize (aHeads j.words) (aDim j.words)
    let s := s.modCore p fun c => c.store ((c.slot j.slot).base + i * b) (withArrival bs j.arrived)
    if left.isEmpty && !j.failed then s.modCore p (·.modSlot j.slot (Slot.filledBy (.attn job) (16 * j.split * b))) else s

/-- ATTN_PARTIAL: piece `k` of stack `st`, once the stack has served it. The row brings the errors that the dies deliver from
then on (log 128). -/
def attnPartial (p job st k : Nat) (errs : List LineErr) (s : State) : State :=
  let s := { s with lineErrs := errs }
  match (s.core p).attnJob job with
  | none => s
  | some j =>
    match SMap.get (j.parts.map fun e => (e.1, some e.2)) none (st * j.split + k) with
    | some r => if k < j.split && j.left.contains (st * j.split + k) then s.landPartial p job j (st * j.split + k) r else s
    | none => s

/-- ATTN_PARTIAL. -/
def execAttnPartial (p job st piece : Nat) (errs : List LineErr) (s : State) : Out :=
  onUnit (p < nCores && st < nStacks && piece < 16) (whenDo s.sys.tclk s (attnPartial p job st piece errs))

/-! ### TEL.MERGE (R150, R204) -/

/-- HEADS, DSEL and ARRIVAL of a stored partial. -/
def storedHeads (bs : Bytes) : Nat := field bs 4 1
def storedDsel (bs : Bytes) : Nat := field bs 5 1
def storedArrival (bs : Bytes) : Nat := field bs 6 2

/-- Head `h` of a stored partial, its o widened exactly. -/
def storedHead (heads d : Nat) (bs : Bytes) (h : Nat) : Partial :=
  ⟨BitVec.ofNat 32 (field bs (64 + 8 * h) 4), BitVec.ofNat 32 (field bs (68 + 8 * h) 4),
    (List.range d).map fun i => toFp32 (readBf16 (field bs (partHead heads + 2 * (d * h + i)) 2))⟩

/-- Stable insertion by ARRIVAL. -/
def byArrival (x : Bytes) : List Bytes → List Bytes
  | [] => [x]
  | y :: ys => if storedArrival x ≤ storedArrival y then x :: y :: ys else y :: byArrival x ys

/-- The merged and normalised output of one head. -/
def mergeHead (exact : Bool) (heads d : Nat) (parts : List Bytes) (h : Nat) : List W32 :=
  let order := if exact then parts else parts.foldr byArrival []
  let xs := order.map fun b => storedHead heads d b h
  let e := Partial.empty d
  let r := if exact then (treeLevels Partial.join 8 xs).headD e
    else match xs with
      | [] => e
      | x :: rest => rest.foldl Partial.join x
  r.o.map fun o => fmul o (frcp r.l)

/-- Whether the context of core `p` runs in exact mode. -/
def State.exactOn (s : State) (p : Nat) : Bool := (s.ctx (s.core p).ctx).exact

/-- Bytes that TEL.MERGE reads and writes: a partial's size, and the output. -/
def mergeIn (c : Core) (a : Nat) : Nat := partSize (storedHeads (c.load a 64)) (32 * 2 ^ storedDsel (c.load a 64))
def mergeOut (c : Core) (a : Nat) : Nat := 4 * storedHeads (c.load a 64) * (32 * 2 ^ storedDsel (c.load a 64))

/-- Partials at `a`. -/
def mergeParts (c : Core) (a count : Nat) : List Bytes :=
  (List.range count).map fun i => c.load (a + i * mergeIn c a) (mergeIn c a)

/-- What TEL.MERGE waits for before it reads partial 0. -/
def mergeWait (s : State) (p t : Nat) (w : IWord) : Option Wait :=
  let isSlot := w.mod.getLsbD 0
  let src := s.rg p t w.b
  firstWait [vecUnitWait s p t, if isSlot then needFull s p t (refSlot src) else none,
    bankWait s p (slotAddr s p isSlot src) 64]

/-- Codes of TEL.MERGE (R78, R149, R150, R169, R204, R492): those of the partials are found once it can read them. -/
def mergeCodes (s : State) (p t : Nat) (w : IWord) : List Nat :=
  let c := s.core p
  let isSlot := w.mod.getLsbD 0
  let src := s.rg p t w.b
  let out := (s.rg p t w.a).toNat
  let n := immBits w 8 0
  let a := slotAddr s p isSlot src
  let base := unused w true true false 0b000001 0x1FF ++ noVm1 s p ++
    codeIf (!([16, 32, 64, 128, 256].contains n) || (s.exactOn p && n ≠ 16 * (s.ctx c.ctx).split)) fTelCmd ++
    (if isSlot then slotBound s p (refSlot src) else [])
  let heads := storedHeads (c.load a 64)
  if isSlot && !(c.slot (refSlot src)).bound then base
  else if !(c.spoolFaults a 64).isEmpty then base ++ c.spoolFaults a 64
  else if (mergeWait s p t w).isSome then base
  else if heads = 0 || 16 < heads || 3 ≤ storedDsel (c.load a 64) then base ++ [fTelCmd]
  else
    base ++ c.spoolFaults a (n * mergeIn c a) ++ c.spoolFaults out (mergeOut c a) ++
    codeIf (isSlot && (c.slot (refSlot src)).len < n * mergeIn c a) fTelCmd ++
    codeIf ((mergeParts c a n).any fun b => storedHeads b ≠ heads || storedDsel b ≠ storedDsel (c.load a 64)) fTelCmd

/-- TEL.MERGE (R150, R204): the vector unit is held until MERGE_DONE. The partials are read at issue (log 17), and the output
stands complete from then on, since every later instruction reads it complete. -/
def execTelMerge (p t : Nat) (w : IWord) (s : State) : Out :=
  let c := s.core p
  let isSlot := w.mod.getLsbD 0
  let src := s.rg p t w.b
  let n := immBits w 8 0
  let a := slotAddr s p isSlot src
  let heads := storedHeads (c.load a 64)
  let d := 32 * 2 ^ storedDsel (c.load a 64)
  issue p t (mergeCodes s p t w)
    (firstWait [mergeWait s p t w, bankWait s p a (n * mergeIn c a), bankWait s p (s.rg p t w.a).toNat (mergeOut c a)])
    (fun s' =>
      let hs := (List.range heads).flatMap (mergeHead (s.exactOn p) heads d (mergeParts c a n))
      let m : Merge := { thread := t, dst := (s.rg p t w.a).toNat, output := hs.flatMap fun x => leBytes x.toNat 4,
                         slot := if isSlot then some (refSlot src) else none }
      let s' := s'.modCore p fun c => { c.store m.dst m.output with merge := some m }
      let s' := if isSlot then s'.modCore p (·.modSlot (refSlot src) (·.startUse .merge)) else s'
      s'.startWait p t .vecUnit) s

/-- A slot that the merge still reads is released. -/
def Slot.mergeRead (x : Slot) : Slot := if x.st = .draining ∧ x.user = .merge then x.endUse else x

/-- MERGE_DONE (R150): the merge is over, and the vector unit is free. -/
def mergeDone (p : Nat) (s : State) : State :=
  match (s.core p).merge with
  | none => s
  | some m =>
    let s := s.modCore p fun c => { c with merge := none }
    match m.slot with
    | some n => s.modCore p (·.modSlot n Slot.mergeRead)
    | none => s

/-- MERGE_DONE. -/
def execMergeDone (p : Nat) (s : State) : Out := onUnit (p < nCores) (whenDo s.sys.tclk s (mergeDone p))

end Sys2Proof.Machine
end

