-- ==== Sys2Proof/Machine/Barriers.lean ====
section
/-!
DEFINITION. The loom's barrier tree (06 R247 to R250), LOOM_FAULT (06 R239), and what the completion of a step barrier
does to its base (01 R21, 07 R301 to R303).
-/
namespace Sys2Proof.Machine

/-! ### LOOM_FAULT -/

/-- Raises LOOM_FAULT (06 R239): the error log entry, the event, FAULTED, the flood on every port still up. `cause` is coded
as in 13 R454; `loc` is the detecting device, if known. -/
def State.loomFault (s : State) (port : Option Nat) (cause : Nat) (loc : Option (Nat × Nat)) : State :=
  if s.devState = stThreaded then
    let w := (loc.map fun e => e.1 * 128 + e.2).getD 0
    let s := s.logError eLoomFault (port.getD 0x7FF) (BitVec.ofNat 64 cause) (BitVec.ofNat 64 w)
    let s := s.raise 0x0002 0 (BitVec.ofNat 64 s.beat) (leBytes (whereWord loc) 2)
    let s := s.enterFaulted .loomFault
    s.floodFault loc
  else s

/-- LOOM_FAULT detected here. -/
def State.loomFaultHere (s : State) (port : Option Nat) (cause : Nat) : State :=
  s.loomFault port cause (some (s.loom.row, s.loom.col))

/-! ### The tree (R247): N is port 0, E 1, S 2, W 3 -/

/-- Whether this device is the root of its tree. A device that is not threaded is a tree of its own. -/
def State.isRoot (s : State) : Bool := s.devState ≠ stThreaded || (s.loom.row = 0 && s.loom.col = 0)

/-! ### One barrier -/

def State.bar (s : State) : BarKey → LoomBar
  | .step b => SMap.get s.loom.stepBars {} b
  | .job j n => SMap.get s.loom.jobBars {} (16 * j + n)

def State.setBar (s : State) (key : BarKey) (x : LoomBar) : State :=
  match key with
  | .step b => { s with loom := { s.loom with stepBars := SMap.put s.loom.stepBars b x } }
  | .job j n => { s with loom := { s.loom with jobBars := SMap.put s.loom.jobBars (16 * j + n) x } }

/-- The generation that a barrier awaits: a step barrier's is the base's step number (R248). -/
def State.barGen (s : State) : BarKey → W64
  | .step b => (s.base b).step
  | .job j n => (s.bar (.job j n)).gen

/-! ### The completion of a step barrier -/

/-- The staged shards of a base become its shards, and the old ones are freed (07 R301, R302). -/
def State.freeOld (s : State) (b : Nat) (step : W64) : State :=
  let x := s.base b
  let s := s.freeHeld (.shard b)
  let s := { s with vpages := s.vpages.mapVals fun v =>
    if v.now = Holder.staged b then { v with now := Holder.shard b, last := Holder.shard b } else v }
  let s := s.setBase b { x with st := .loaded, model := x.staged, staged := none, repl := none }
  s.raise 0x0012 b step []

/-- Last step of a replacement: s0 + L − 1, or s0 under WHOLE. -/
def Base.lastMixed (x : Base) : Option W64 :=
  x.repl.map fun r => if r.2 = 0 then r.1 + BitVec.ofNat 64 ((x.model.map (·.layers)).getD 1 - 1) else r.1

/-- The barrier of the current step of base `b` completes here (01 R21, R24; 07 R270). -/
def State.stepOver (s : State) (b : Nat) : State :=
  let x := s.base b
  let now := x.step
  let s := s.setBase b { x with step := now + 1, begun := false, passed := false, finished := false, skip := none, late := false,
                                passesLeft := 0 }
  let s := if s.isOrigin then { s with warp := { s.warp with barBeat := SMap.put s.warp.barBeat b s.beat } } else s
  if x.lastMixed = some now then s.freeOld b now else s

/-- ID of a barrier in the trace (12 R450): scope × 256 + id. -/
def barTraceId : BarKey → Nat
  | .step b => 256 + b
  | .job _ n => 512 + n

/-- A trace record of a barrier. -/
def State.traceBar (s : State) (code : Nat) (key : BarKey) : State :=
  s.traceRec 3 code 0xFFFF (barTraceId key) (leBytes (s.barGen key).toNat 8)

/-- A barrier completes on this device. -/
def State.barDone (s : State) (key : BarKey) : State :=
  let s := s.traceBar 2 key
  let x := s.bar key
  let s := s.setBar key { gen := s.barGen key + 1, arrived := x.arrived }
  match key with
  | .step b => s.stepOver b
  | .job _ _ => s

/-- RELEASE goes to every child, and the barrier completes here (R248). -/
def State.barRelease (s : State) (key : BarKey) (flags : BitVec 8) : State :=
  let gen := s.barGen key
  let s := s.childPorts.foldl (fun s p => s.loomSend (.release p key flags gen)) s
  s.barDone key

/-- Logical cores of a job on this device: those of the partitions of its dedicated contexts. -/
def State.jobCores (s : State) (job : Nat) : List Nat :=
  ((s.sched.ctxs.filter fun e => e.2.job = job && !e.2.serving && (e.2.st = .launched || e.2.st = .preempted)).flatMap
    fun e => match s.part e.2.part with
      | some q => (List.range q.count).map (q.first + ·)
      | none => []).dedup

/-- Whether the local arrival is complete (R248): for a JOB barrier every core of the job on the device has arrived, so that
one without any has arrived from the start. -/
def State.arrivedHere (s : State) (key : BarKey) : Bool :=
  (s.bar key).localDone || match key with
    | .step _ => false
    | .job j _ => s.devState = stThreaded && (s.jobCores j).isEmpty && !(s.isRoot && s.childPorts.isEmpty)

/-- Sends ARRIVE to the parent, or releases the tree at its root, once the local arrival is complete and every child has
arrived (R248). -/
def State.barAdvance (s : State) (key : BarKey) : State :=
  let x := s.bar key
  if s.arrivedHere key && !x.sentUp && s.childPorts.all x.children.contains then
    if s.isRoot then s.barRelease key x.flags
    else ((s.setBar key { x with sentUp := true }).traceBar 1 key).loomSend (.arrive s.parentPort key x.flags (s.barGen key))
  else s

/-- The beat of the first arrival. -/
def LoomBar.seen (x : LoomBar) (beat : Nat) : LoomBar := { x with firstBeat := some (x.firstBeat.getD beat) }

/-- The device has committed or skipped the current step of base `b` (R24). -/
def State.stepArrive (s : State) (b : Nat) (flags : BitVec 8) : State :=
  let x := (s.bar (.step b)).seen s.beat
  (s.setBar (.step b) { x with localDone := true, flags := x.flags ||| flags }).barAdvance (.step b)

/-! ### JOB barriers -/

/-- Logical core `n` arrives at a JOB barrier. -/
def State.jobArrive (s : State) (job bar n : Nat) : State :=
  let key := BarKey.job job bar
  let x := (s.bar key).seen s.beat
  let cores := n :: x.cores
  let all : Bool := (s.jobCores job).all cores.contains
  let arrived := SMap.put x.arrived n (some x.gen)
  (s.setBar key { x with cores := cores, arrived := arrived, localDone := all }).barAdvance key

/-- The JOB barriers of a job start (R248): a device without cores of it has arrived at each of them. -/
def State.startBars (s : State) (job : Nat) : State :=
  (List.range 16).foldl (fun s n => s.barAdvance (.job job n)) s

/-! ### Rows -/

/-- BARRIER_ARRIVE_RX (R248, R249): an ARRIVE from a child, or one in error. -/
def barrierArriveRx (port : Nat) (key : BarKey) (flags : BitVec 8) (gen : W64) (s : State) : State :=
  let x := s.bar key
  if gen ≠ s.barGen key ∨ !s.childPorts.contains port ∨ x.children.contains port then s.loomFaultHere (some port) 3
  else
    let y := x.seen s.beat
    (s.setBar key { y with children := port :: y.children, flags := y.flags ||| flags }).barAdvance key

/-- BARRIER_ARRIVE_RX. -/
def execBarrierArriveRx (port : Nat) (key : BarKey) (flags : BitVec 8) (gen : W64) (s : State) : Out :=
  onUnit (port < nPorts) (whenDo (s.sys.tclk && s.devState = stThreaded) s (barrierArriveRx port key flags gen))

/-- BARRIER_RELEASE_RX (R248): the RELEASE of the parent completes the generation that this device has arrived for. A device
without cores of the job has then arrived for the next one too. -/
def barrierReleaseRx (port : Nat) (key : BarKey) (flags : BitVec 8) (gen : W64) (s : State) : State :=
  if gen = s.barGen key ∧ (s.bar key).sentUp ∧ port = s.parentPort then (s.barRelease key flags).barAdvance key else s

/-- BARRIER_RELEASE_RX. -/
def execBarrierReleaseRx (port : Nat) (key : BarKey) (flags : BitVec 8) (gen : W64) (s : State) : Out :=
  onUnit (port < nPorts) (whenDo (s.sys.tclk && s.devState = stThreaded) s (barrierReleaseRx port key flags gen))

/-- BARRIER_TIMEOUT (R250). -/
def barrierTimeout (key : BarKey) (s : State) : State :=
  let x := s.bar key
  let limit := s.fld Fld.beatBarTmo_timeout
  match x.firstBeat with
  | some b => if s.isOrigin ∧ limit ≠ 0 ∧ b + limit < s.beat then s.loomFaultHere none 4 else s
  | none => s

/-- BARRIER_TIMEOUT. -/
def execBarrierTimeout (key : BarKey) (s : State) : Out :=
  .next (whenDo (s.sys.tclk && s.devState = stThreaded) s (barrierTimeout key))

end Sys2Proof.Machine
end

