-- ==== Sys2Proof/Machine/Remote.lean ====
section
/-!
DEFINITION. Board-remote operations (04 R151 to R153; 06 R240 to R244): their checks and service at a target, their issue
and their replies.
-/
namespace Sys2Proof.Machine

/-! ### Service at a target (06 R243, R244) -/

/-- What a local device address names for a context: a vault byte, a byte of a host-backed page or a spool byte, or the refusal
code. -/
inductive RmtSpot where
  | vault (pa : Nat)
  | host (k a : Nat)
  | spool (p off : Nat)
  | refused (code : Nat)
  deriving DecidableEq, Repr

/-- One byte of a local address for context `k`, to be read or written. A page that may not be written is refused as one outside the
partition is (log 132). -/
def State.rmtSpot (s : State) (k : Nat) (write : Bool) (a : Nat) : RmtSpot :=
  if a < windowBase then
    if write && !s.writable k a then .refused 3
    else
      match s.translate k a with
      | .at x => .vault x
      | .host _ => .host k a
      | .unmapped => .refused 3
  else
    let n := windowCore a
    match s.part (s.ctx k).part with
    | none => .refused 3
    | some q =>
      if nCores ≤ n || 0x80000 ≤ windowOff a then .refused 6
      else if q.first ≤ n && n < q.first + q.count then
        match s.physOf n with
        | some p => .spool p (windowOff a)
        | none => .refused 3
      else .refused 3

/-- The first refusal among a run of bytes. -/
def refusalOf (xs : List RmtSpot) : Option Nat :=
  xs.findSome? fun x => match x with
    | .refused c => some c
    | _ => none

/-- Contexts of a job and client on this device. -/
def State.rmtCtxs (s : State) (job client : Nat) : List Nat :=
  s.sched.ctxs.filterMap fun e => if e.2.st ≠ .free && e.2.job = job && e.2.client = client then some e.1 else none

/-- The spots of a request's bytes, or its refusal (R243). -/
def State.rmtSpots (s : State) (job client : Nat) (write : Bool) (a n : Nat) : Except Nat (List RmtSpot) :=
  if !s.serving then .error 1
  else
    match s.rmtCtxs job client with
    | [] => .error 2
    | k :: ks =>
      let spots := fun (k : Nat) => (List.range n).map fun i => s.rmtSpot k write (a + i)
      match (k :: ks).find? fun k => (refusalOf (spots k)).isNone with
      | some k => .ok (spots k)
      | none => .error ((refusalOf (spots k)).getD 3)

/-- A host-backed byte among spots: its context and address. -/
def hostSpot (xs : List RmtSpot) : Option (Nat × Nat) :=
  xs.findSome? fun x => match x with
    | .host k a => some (k, a)
    | _ => none

/-- Physical addresses among spots. -/
def vaultSpots (xs : List RmtSpot) : List Nat :=
  xs.filterMap fun x => match x with
    | .vault a => some a
    | _ => none

/-- Reads spots: their bytes, or none at an uncorrectable line. -/
def State.readSpots (s : State) (xs : List RmtSpot) (errs : List LineErr) : State × Option Bytes :=
  let r := s.readBytes (vaultSpots xs) errs .other
  match r.2 with
  | none => (r.1, none)
  | some bs =>
    let tab := (vaultSpots xs).zip bs
    (r.1, some (xs.map fun x => match x with
      | .vault a => SMap.get tab 0 a
      | .spool p off => (s.core p).spool.byte off
      | _ => 0))

/-- Writes spots: whether every vault line was written. -/
def State.writeSpots (s : State) (es : List (RmtSpot × Byte)) (errs : List LineErr) : State × Bool :=
  let vs := es.filterMap fun e => match e.1 with
    | .vault a => some (a, e.2)
    | _ => none
  let r := s.writeBytes vs errs .other
  (es.foldl (fun s e => match e.1 with
    | .spool p off => s.modCore p (·.store off [e.2])
    | _ => s) r.1, r.2)

/-- Accumulates elements of a type at the spots of their first bytes (03 R82). -/
def State.accSpots (s : State) (type : Nat) (es : List (RmtSpot × W32)) (errs : List LineErr) : State × Bool × Bool :=
  let vs := es.filterMap fun e => match e.1 with
    | .vault a => some (a, e.2)
    | _ => none
  let r := s.accBytes type vs errs .other
  es.foldl (fun (r : State × Bool × Bool) e => match e.1 with
    | .spool p off =>
      let x := (r.1.core p).accSpool type [(off, e.2)]
      (r.1.setCore p x.1, r.2.1, r.2.2 || x.2)
    | _ => r) r

/-- Spots of the first byte of each element. -/
def elemSpots (type : Nat) (xs : List RmtSpot) : List RmtSpot :=
  (List.range (xs.length / accSize type)).filterMap fun i => xs[accSize type * i]?

/-! ### Issue (R151, R152) -/

def rmtPos (b : W64) : Nat := bitsOf b.toNat 47 44
def rmtAddr (b : W64) : Nat := bitsOf b.toNat 43 0
def rmtLen (w : IWord) : Nat := w.imm.toNat

/-- Codes of a remote operation (R152, R169, R160). -/
def rmtCodes (s : State) (p t : Nat) (w : IWord) (modMask : BitVec 6) (writes : Bool) : List Nat :=
  let a := s.rg p t w.b
  let off := (s.rg p t w.a).toNat
  let n := rmtLen w
  unused w true true false modMask 0xFFFFFFFF ++ noVm1 s p ++ (s.core p).spoolFaults off n ++
  codeIf (n % 4 ≠ 0 || n < 4 || 4096 < n || a.toNat / 2 ^ 48 ≠ 0 || a.toNat % 4 ≠ 0) fRmtAddr ++
  codeIf (writes && (s.classify p fun _ => false).isNone) fCmdRegion

/-- Coordinates of the device at a board position, if the loom has it (R240, R241). -/
def State.boardDevice (s : State) (pos : Nat) : Option (Nat × Nat) :=
  if s.devState = stThreaded then
    let r := 4 * (s.loom.row / 4) + pos / 4
    let c := 4 * (s.loom.col / 4) + pos % 4
    if r < s.loom.nr ∧ c < s.loom.nc then some (r, c) else none
  else none

/-- Position of this device on its board. -/
def State.ownPos (s : State) : Nat :=
  if s.devState = stThreaded then 4 * (s.loom.row % 4) + s.loom.col % 4 else s.sys.boardPos.toNat

/-- A remote operation takes a tag (R151): the state, with what the tag holds and the header of its request. -/
def State.rmtHold (s : State) (p t kind type a off n : Nat) : State × RmtOp × RmtHdr :=
  let c := s.core p
  let k := s.ctx c.ctx
  let tag := freeKey (s.rmt.filter fun e => e.2.isSome)
  let o : RmtOp := { core := p, thread := t, epoch := c.epoch, kind := kind, addr := a, localOff := off, len := n, beat := s.beat }
  let h : RmtHdr := { addr := BitVec.ofNat 64 a, row := s.loom.row, col := s.loom.col, tag := tag, epoch := c.epoch,
                      op := kind, accType := type, count := 0, total := n, refusal := 0, phase := 0, job := k.job, client := k.client }
  ({ s with rmt := SMap.put s.rmt tag (some o) }, o, h)

/-- A remote tag is free. -/
def State.freeTag (s : State) (tag : Nat) : State := { s with rmt := SMap.del s.rmt tag }

/-- A fault of a remote operation, unless its command has ended. -/
def State.rmtFault (s : State) (o : RmtOp) (code : Nat) : State :=
  if o.orphan || (s.core o.core).epoch ≠ o.epoch then s else s.ownFault o.core o.thread code

/-- Whether tag `h.tag` is still held by the operation `o`. -/
def State.rmtHeld (s : State) (o : RmtOp) (h : RmtHdr) : Bool := match SMap.get s.rmt none h.tag with
  | some x => !x.orphan && x.core = o.core && x.beat = o.beat && (s.core o.core).epoch = o.epoch
  | none => false

/-- The outcome of an operation of the device to itself: its tag is free, and data, a saturation or a refusal reaches the
issuer where its command still runs. -/
def State.ownReply (s : State) (o : RmtOp) (h : RmtHdr) (ok : Bool) (data : Bytes) (sat : Bool) : State :=
  let held := s.rmtHeld o h
  let mine : Bool := match SMap.get s.rmt none h.tag with
    | some x => x.core = o.core && x.beat = o.beat
    | none => false
  let s := if mine then s.freeTag h.tag else s
  if !held then s
  else if !ok then s.rmtFault o fRmtDenied
  else
    let s := if data.isEmpty then s else s.modCore o.core (·.store o.localOff data)
    if sat then s.modThread o.core o.thread fun th => { th with sat := true } else s

/-- A remote operation of the device to itself is served, under the checks of R243 (06 R241). One that reads a host-backed page waits for
it (log 28). -/
def State.ownServe (s : State) (o : RmtOp) (h : RmtHdr) (data : Bytes) : State :=
  match s.rmtSpots h.job h.client (o.kind ≠ 0) o.addr o.len with
  | .error _ => s.ownReply o h false [] false
  | .ok xs =>
    match hostSpot xs with
    | some (k, a) => if s.rmtHeld o h then s.awaitPage k a (stackOf (unalias a)) (.own o h data) else s.ownReply o h false [] false
    | none =>
    let s := s.charge h.client lVault (vaultSpots xs).length
    match o.kind with
    | 0 =>
      let r := s.readSpots xs s.lineErrs
      r.1.ownReply o h r.2.isSome (r.2.getD []) false
    | 1 =>
      let r := s.writeSpots (xs.zip data) s.lineErrs
      r.1.ownReply o h r.2 [] false
    | _ =>
      let r := s.accSpots h.accType ((elemSpots h.accType xs).zip (accWords h.accType data)) s.lineErrs
      r.1.ownReply o h r.2.1 [] r.2.2

/-- The stack of the first vault byte among spots, where requests wait there already (05 R188). -/
def State.busyStack (s : State) (xs : List RmtSpot) : Option Nat :=
  match vaultSpots xs with
  | a :: _ => if (s.stack (stackOf a)).queue.isEmpty then none else some (stackOf a)
  | [] => none

/-- A remote operation to this device itself: it is served at once, or behind the requests that wait at its stack. -/
def State.rmtLocal (s : State) (p t kind type a off n : Nat) : State :=
  let r := s.rmtHold p t kind type a off n
  let data := if kind = 0 then [] else (s.core p).load off n
  let at_ := match s.rmtSpots r.2.2.job r.2.2.client (kind ≠ 0) a n with
    | .ok xs => s.busyStack xs
    | .error _ => none
  match at_ with
  | some st => r.1.queueWork st (.own r.2.1 r.2.2 data)
  | none => (r.1.ownServe r.2.1 r.2.2 data).settleStacks

/-- The flits of a request to the device at (row, col). -/
def rmtFlits (row col : Nat) (h : RmtHdr) (n : Nat) (bytes : Bytes) : List LoomMsg :=
  if bytes.isEmpty then [.rmtReq row col h []]
  else (List.range (ceilDiv n rmtChunk)).map fun i =>
    let d := (bytes.drop (rmtChunk * i)).take rmtChunk
    LoomMsg.rmtReq row col { h with addr := h.addr + BitVec.ofNat 64 (rmtChunk * i), count := d.length } d

/-- A remote operation to another device: a tag is held, and its request flits are sent. -/
def State.rmtSend (s : State) (to_ : Nat × Nat) (p t kind type a off n : Nat) : State :=
  let r := s.rmtHold p t kind type a off n
  let bytes := if kind = 0 then [] else (s.core p).load off n
  let fs := rmtFlits to_.1 to_.2 r.2.2 n bytes
  (fs.foldl State.loomSend r.1).charge r.2.2.client lLink (flitPayload * fs.length)

/-- The issue of a remote operation of kind 0 GET, 1 PUT, 2 ACC. -/
def rmtIssue (kind : Nat) (p t : Nat) (w : IWord) (s : State) : Out :=
  let b := s.rg p t w.b
  let off := (s.rg p t w.a).toNat
  let type := if kind = 2 then modBits w 1 0 else 0
  let codes := rmtCodes s p t w (if kind = 2 then 0b000011 else 0) (kind ≠ 0) ++ codeIf (kind = 2 && type = 3) fIllegal
  issue p t codes (firstWait [bankWait s p off (rmtLen w), waitFor s p t .remoteTag])
    (fun s' =>
      let s' := if kind = 0 then s' else (s'.classify p fun _ => false).getD s'
      if rmtPos b = s'.ownPos then s'.rmtLocal p t kind type (rmtAddr b) off (rmtLen w)
      else
        match s'.boardDevice (rmtPos b) with
        | some d => s'.rmtSend d p t kind type (rmtAddr b) off (rmtLen w)
        | none => s'.faultThread p t fRmtDenied) s

/-- RMT.GET (R151). -/
def execRmtGet (p t : Nat) (w : IWord) (s : State) : Out := rmtIssue 0 p t w s

/-- RMT.PUT (R151). -/
def execRmtPut (p t : Nat) (w : IWord) (s : State) : Out := rmtIssue 1 p t w s

/-- RMT.ACC (R151). -/
def execRmtAcc (p t : Nat) (w : IWord) (s : State) : Out := rmtIssue 2 p t w s

/-- RMT.WAIT (R151). -/
def execRmtWait (p t : Nat) (w : IWord) (s : State) : Out :=
  issue p t (unused w false false false 0 0 ++ noVm1 s p) (waitFor s p t .remoteAll) id s

/-! ### Requests of other devices -/

/-- A reply flit, charged to the client it serves. -/
def State.rmtReply (s : State) (h : RmtHdr) (op refusal : Nat) (data : Bytes) : State :=
  let phase := if refusal = 1 then s.fld Fld.devState_phase else 0
  let r := { h with op := op, refusal := refusal, phase := phase, count := data.length }
  (s.loomSend (.rmtRsp r data)).charge h.client lLink flitPayload

/-- Key of a request that arrives in several flits. -/
def rmtKey (h : RmtHdr) : Nat := ((h.row * 128 + h.col) * 4096 + h.tag) * 256 + h.epoch.toNat

/-- The flits of a GET's data. -/
def State.rmtData (s : State) (h : RmtHdr) (bs : Bytes) : State :=
  (List.range (ceilDiv bs.length rmtChunk)).foldl (fun s i =>
    s.rmtReply { h with addr := h.addr + BitVec.ofNat 64 (rmtChunk * i) } 8 0 ((bs.drop (rmtChunk * i)).take rmtChunk)) s

/-- A flit of a PUT or ACC has been applied; the done reply follows the last byte. -/
def State.rmtCounted (s : State) (h : RmtHdr) (n : Nat) : State :=
  let got := SMap.get s.rmtIn 0 (rmtKey h) + n
  if h.total ≤ got then ({ s with rmtIn := SMap.del s.rmtIn (rmtKey h) }).rmtReply h 9 0 []
  else { s with rmtIn := SMap.put s.rmtIn (rmtKey h) got }

/-- A flit of a request is applied, or refused (06 R243, R244). One that reads a host-backed page waits for it (log 28). -/
def State.rmtServe (s : State) (h : RmtHdr) (data : Bytes) : State :=
  let n := if h.op = 0 then h.total else data.length
  match s.rmtSpots h.job h.client (h.op ≠ 0) h.addr.toNat n with
  | .error code => s.rmtReply h 10 code []
  | .ok xs =>
    match hostSpot xs with
    | some (k, a) => s.awaitPage k a (stackOf (unalias a)) (.rmt h data)
    | none =>
    let s := s.charge h.client lVault (vaultSpots xs).length
    match h.op with
    | 0 =>
      let r := s.readSpots xs s.lineErrs
      match r.2 with
      | some bs => r.1.rmtData h bs
      | none => r.1.rmtReply h 10 4 []
    | 1 =>
      let r := s.writeSpots (xs.zip data) s.lineErrs
      if r.2 then r.1.rmtCounted h n else r.1.rmtReply h 10 4 []
    | 2 =>
      let r := s.accSpots h.accType ((elemSpots h.accType xs).zip (accWords h.accType data)) s.lineErrs
      if r.2.1 then r.1.rmtCounted h n else r.1.rmtReply h 10 4 []
    | _ => s

/-- RMT_REQUEST_RX (06 R242 to R244): the payload of an RMT_REQ flit, header and data, is served at once, or behind the requests that
wait at its stack (05 R188). -/
def rmtRequestRx (payload : Bytes) (errs : List LineErr) (s : State) : State :=
  let s := { s with lineErrs := errs }
  let h := rmtHead payload
  let data := if h.op = 0 then [] else rmtBody payload
  let at_ := match s.rmtSpots h.job h.client (h.op ≠ 0) h.addr.toNat (if h.op = 0 then h.total else data.length) with
    | .ok xs => s.busyStack xs
    | .error _ => none
  match at_ with
  | some st => s.queueWork st (.rmt h data)
  | none => (s.rmtServe h data).settleStacks

/-- RMT_REQUEST_RX. -/
def execRmtRequestRx (head body : Bytes) (errs : List LineErr) (s : State) : Out :=
  .next (whenDo s.sys.tclk s (rmtRequestRx (head ++ body) errs))

/-! ### Replies (R153, R244) -/

/-- Whether a save of the issuing command that is not side-effecting no longer waits for replies: b_s + 8,750 has passed (08 R331). -/
def State.replyLate (s : State) (o : RmtOp) : Bool :=
  match s.cmdOf o.core with
  | some c => !c.side && (s.ctx c.ctx).saving.any fun v => v.cmd = (s.core o.core).cmd && v.bs + 8750 < s.beat
  | none => false

/-- A reply of a stale epoch is dropped and its tag freed; one that comes too late for a save is an orphan's (08 R331); a reply in
time is delivered. -/
def State.rmtTake (s : State) (h : RmtHdr) (data : Bytes) : State :=
  match SMap.get s.rmt none h.tag with
  | none => s
  | some o =>
    if o.orphan || h.epoch ≠ (s.core o.core).epoch then s.freeTag h.tag
    else if s.replyLate o then { s with rmt := SMap.put s.rmt h.tag (some { o with late := true }) }
    else if o.beat + 350000 < s.beat then (s.freeTag h.tag).rmtFault o fRmtTimeout
    else
      match h.op with
      | 8 =>
        let got := o.got + data.length
        let s := s.modCore o.core (·.store (o.localOff + (h.addr.toNat - o.addr)) data)
        if o.len ≤ got then s.freeTag h.tag else { s with rmt := SMap.put s.rmt h.tag (some { o with got := got }) }
      | 9 => s.freeTag h.tag
      | 10 => (s.freeTag h.tag).rmtFault o fRmtDenied
      | _ => s

/-- RMT_RESPONSE_RX: the payload of an RMT_RSP flit (06 R242). -/
def rmtResponseRx (payload : Bytes) (s : State) : State := s.rmtTake (rmtHead payload) (rmtBody payload)

/-- RMT_RESPONSE_RX. -/
def execRmtResponseRx (head body : Bytes) (s : State) : Out := .next (whenDo s.sys.tclk s (rmtResponseRx (head ++ body)))

/-- RMT_TIMEOUT (R153): at issue + 350,001 the tag is freed and the thread faults. -/
def rmtTimeout (tag : Nat) (s : State) : State :=
  match SMap.get s.rmt none tag with
  | some o => if o.beat + 350001 ≤ s.beat then (s.freeTag tag).rmtFault o fRmtTimeout else s
  | none => s

/-- RMT_TIMEOUT. -/
def execRmtTimeout (tag : Nat) (s : State) : Out := .next (whenDo s.sys.tclk s (rmtTimeout tag))

end Sys2Proof.Machine
end

