-- ==== Sys2Proof/Machine/Commands.lean ====
section
/-!
DEFINITION. Barrier, thread and command instructions (04 R154 to R164), and the events of a core that end their waits,
time them out, complete a command or retire the core.
-/
namespace Sys2Proof.Machine

/-! ### BAR (R154, R155) -/

def barNo (w : IWord) : Nat := immBits w 3 0
def barScope (w : IWord) : Nat := modBits w 1 0

/-- Codes of every BAR form: reserved scopes, JOB in VM1 program mode, JOB in a serving command. -/
def barCodes (s : State) (p : Nat) (w : IWord) : List Nat :=
  let serving : Bool := match s.cmdOf p with
    | some c => (s.ctx c.ctx).serving
    | none => false
  unused w false false false 0b000011 0xF ++ codeIf (barScope w = 0 || barScope w = 3) fIllegal ++
  (if barScope w = 2 then noVm1 s p ++ codeIf serving fBarScope else [])

/-- The SET barrier of the command on core `p`. -/
def State.setBarOf (s : State) (p n : Nat) : SetBar :=
  match s.cmdOf p with
  | some c => SMap.get c.bars {} n
  | none => {}

/-- Whether core `p` has arrived in the generation that has not completed. -/
def State.hasArrived (s : State) (p : Nat) (w : IWord) : Bool :=
  if barScope w = 1 then (s.setBarOf p (barNo w)).cores.contains (s.rank p)
  else (s.jobBar (s.jobOf p) (barNo w)).cores.contains ((s.logicalOf p).getD p)

/-- The generation in which core `p` last arrived. -/
def State.lastArrival (s : State) (p : Nat) (w : IWord) : Option Nat :=
  if barScope w = 1 then SMap.get (s.setBarOf p (barNo w)).arrived none (s.rank p)
  else (SMap.get (s.jobBar (s.jobOf p) (barNo w)).arrived none ((s.logicalOf p).getD p)).map (·.toNat)

/-- The arrival of rank `r` at a SET barrier of `count` members. -/
def SetBar.arrive (x : SetBar) (r count : Nat) : SetBar :=
  let cores := r :: x.cores
  let arrived := SMap.put x.arrived r (some x.gen)
  if count ≤ cores.length then { gen := x.gen + 1, cores := [], arrived := arrived }
  else { gen := x.gen, cores := cores, arrived := arrived }

/-- Core `p` arrives (R154). -/
def State.barArrive (s : State) (p : Nat) (w : IWord) : State :=
  if barScope w = 1 then
    s.modCmdOf p fun c => { c with bars := SMap.put c.bars (barNo w) ((SMap.get c.bars {} (barNo w)).arrive (s.rank p) c.count) }
  else s.jobArrive (s.jobOf p) (barNo w) ((s.logicalOf p).getD p)

/-- The wait for the completion of the generation in which core `p` last arrived. -/
def State.barWaitOf (s : State) (p : Nat) (w : IWord) : Wait :=
  let gen := (s.lastArrival p w).getD 0
  if barScope w = 1 then .setBar (barNo w) gen else .jobBar (barNo w) gen

/-- BAR.ARRIVE (R154, R155). -/
def execBarArrive (p t : Nat) (w : IWord) (s : State) : Out :=
  issue p t (barCodes s p w ++ codeIf (s.hasArrived p w) fBarScope) none (fun s' => s'.barArrive p w) s

/-- BAR.WAIT (R154, R155). -/
def execBarWait (p t : Nat) (w : IWord) (s : State) : Out :=
  issue p t (barCodes s p w ++ codeIf (s.lastArrival p w).isNone fBarScope) (waitFor s p t (s.barWaitOf p w)) id s

/-- BAR.SYNC (R154): it arrives, then waits for the generation. -/
def execBarSync (p t : Nat) (w : IWord) (s : State) : Out :=
  issue p t (barCodes s p w ++ codeIf (s.hasArrived p w) fBarScope) none (fun s' =>
    let s' := s'.barArrive p w
    if s'.waitHolds p t (s'.barWaitOf p w) then s' else s'.startWait p t (s'.barWaitOf p w)) s

/-! ### THR (R156, R125) -/

/-- THR.START (R156). -/
def execThrStart (p t : Nat) (w : IWord) (s : State) : Out :=
  let u := immBits w 2 0
  let pc := s.rg p t w.a
  issue p t (unused w true false false 0 0x7 ++ codeIf (pc.toNat % 8 ≠ 0 || s.codeSize p < pc.toNat + 8) fPcAddr ++
      codeIf (u = 0 || (s.thread p u).st ≠ .idle) fThrState) none
    (fun s' => s'.modThread p u fun th => th.started pc ((List.range 8).map fun i => (s.thread p t).rg (i + 1))) s

/-- THR.END (R156). -/
def execThrEnd (p t : Nat) (w : IWord) (s : State) : Out :=
  issue p t (unused w false false false 0 0 ++ codeIf (t = 0) fCmdOrder) none
    (fun s' => s'.modThread p t fun th => { th with st := .idle }) s

/-- THR.JOIN (R156). -/
def execThrJoin (p t : Nat) (w : IWord) (s : State) : Out :=
  issue p t (unused w false false false 0 0xFF) (waitFor s p t (.threads (w.imm.setWidth 8))) id s

/-- DEV_MODE with its computed bits (00 table DEV_MODE). -/
def State.devModeWord (s : State) : W64 :=
  let live := s.sched.ctxs.filter fun e => e.2.st = .launched
  let w := Fld.devMode_vm1Active.insert (s.raw Reg.devMode) (if live.any fun e => e.2.resident && e.2.vm1 then 1 else 0)
  Fld.devMode_pinned.insert w (if live.any fun e => e.2.pinned then 1 else 0)

/-- Committed length of an APPEND entry (R158). -/
def RunCmd.appLen (c : RunCmd) (i : Nat) : Nat :=
  if c.regions.any fun e => e.index = i && e.append then SMap.get c.cl 0 i else 0

/-- The special value of a selector for thread `t`, with `b` the value of gB (R125). -/
def State.special (s : State) (p t sel : Nat) (b : W64) : W64 :=
  let c := s.core p
  let k := s.ctx c.ctx
  match sel with
  | 0x00 => BitVec.ofNat 64 t
  | 0x01 => BitVec.ofNat 64 ((s.logicalOf p).getD 0)
  | 0x02 => BitVec.ofNat 64 ((s.cmdOf p).map (·.count) |>.getD 0)
  | 0x03 => BitVec.ofNat 64 (s.rank p)
  | 0x04 => if (s.thread p t).sat then 1 else 0
  | 0x05 => BitVec.ofNat 64 s.beat
  | 0x06 => (s.cmdOf p).map (·.seq) |>.getD 0
  | 0x07 => BitVec.ofNat 64 k.client
  | 0x08 => match heddle s p b.toNat with
    | some (k, wg, sg) => BitVec.ofNat 64 (k.latW * 2 ^ 48 + k.latS * 2 ^ 32 + wg * 2 ^ 16 + sg)
    | none => 0
  | 0x09 => BitVec.ofNat 64 k.split
  | 0x0A => (s.base b.toNat).step
  | 0x0B => s.devModeWord
  | _ => match s.cmdOf p with
    | some c => BitVec.ofNat 64 (c.appLen b.toNat)
    | none => 0

/-- THR.RDS (R125, R169). -/
def execThrRds (p t : Nat) (w : IWord) (s : State) : Out :=
  let sel := immBits w 7 0
  issue p t (unused w true true false 0b000001 0xFF ++ codeIf (0x0C < sel) fIllegal ++
      (if sel = 8 ∨ sel = 9 ∨ sel = 0x0C then noVm1 s p else []) ++ codeIf (sel = 5 && s.exactOn p) fExactDeny) none
    (fun s' =>
      let s' := if sel = 4 && w.mod.getLsbD 0 then s'.modThread p t fun th => { th with sat := false } else s'
      s'.wg p t w.a (s.special p t sel (s.rg p t w.b))) s

/-! ### CMD.BEGIN (R158) -/

/-- Banks that the power plan powers down on logical core `n` (12 R433). -/
def State.planBanks (s : State) (n : Nat) : BitVec 8 :=
  (List.range 64).foldl (fun a i =>
    let first := s.fld (Fld.pwrEntry_firstCore i)
    let hit : Bool := s.flag (Fld.pwrEntry_valid i) && first ≤ n && n < first + s.fld (Fld.pwrEntry_coreCount i)
    if hit then a ||| BitVec.ofNat 8 (s.fld (Fld.pwrEntry_bankOff i)) else a) 0

/-- A bank change takes effect (03 R85, R86): a bank that goes down loses its contents, and one that comes up settles
for 350 beats. -/
def Core.setBanks (c : Core) (off : BitVec 8) (beat : Nat) : Core :=
  let c' := (List.range 8).foldl (fun (a : Core) b =>
    let now : Bool := off.getLsbD b
    let was : Bool := c.banksOff.getLsbD b
    if now && !was then { a with spool := a.spool.zero (b * 0x10000) ((b + 1) * 0x10000), settling := SMap.del a.settling b }
    else if was && !now then { a with settling := SMap.put a.settling b (beat + 350) }
    else a) c
  { c' with banksOff := off }

/-- Every accumulator row is clear and the queue empty (02 R55). -/
def Engine.cleared (x : Engine) (beat : Nat) : Engine :=
  let rows := x.rows.mapVals fun r => { r with st := .clear, fresh := true, poisoned := false }
  { x with rows := rows, queue := [], marks := [] }.keep beat x.hasRows

/-- An unbound slot. -/
def Slot.unbound (x : Slot) : Slot := { x with bound := false, st := .empty, user := .none }

/-- Steps 1 and 2 of CMD.BEGIN (R158; 02 R55, 03 R84, R113). -/
def Core.beginCmd (c : Core) (beat : Nat) (strict : Bool) : Core :=
  let c := c.cancelAll
  { c with
    streams := c.streams.mapVals (fun x => { x with doneCount := 0 }), slots := c.slots.mapVals Slot.unbound,
    planes := c.planes.mapVals (fun x => { x with valid := false }), eng0 := c.eng0.cleared beat,
    eng1 := c.eng1.cleared beat, epoch := c.epoch + 1, strict := strict, phase := .beginning, lastStream := 31 }

/-- Bytes of a program range by the stack that holds them. -/
def bytesIn (a n st : Nat) : Nat :=
  let f := fun (x : Nat) => x / 65536 * 4096 + min 4096 (x % 65536 - st * 4096)
  f (a + n) - f a

/-- Zeroes a program range, 2 MiB page by page, where it is resident. -/
def State.pzero (s : State) (k a n : Nat) : State :=
  let v := unalias a
  (List.range (ceilDiv (v % pageBytes + n) pageBytes)).foldl (fun s i =>
    let lo := max v ((v / pageBytes + i) * pageBytes)
    let hi := min (v + n) ((v / pageBytes + i + 1) * pageBytes)
    match if s.writable k lo then s.translate k lo else .unmapped with
    | .at x =>
      let s := s.vzero x (hi - lo)
      (List.range nStacks).foldl (fun s st => s.countWrite st (bytesIn lo (hi - lo) st)) s
    | _ => s) s

/-- Step 3 of CMD.BEGIN on the lead core: the committed lengths, or the fault of the first publish word that gives one: one
on a line that the vault cannot correct, or one above LENGTH. -/
def State.readCls (s : State) (p k : Nat) : List RegionEnt → State × SMap Nat × Option Nat
  | [] => (s, [], none)
  | e :: es =>
    if e.append then
      let r := s.readProg k (runOf e.pub 8) s.lineErrs p
      match r.2 with
      | none => (r.1, [], some fTelData)
      | some bs =>
        if e.length < leNat bs then (r.1, [], some fCmdRegion)
        else
          let rest := r.1.readCls p k es
          (rest.1, SMap.put rest.2.1 e.index (leNat bs), rest.2.2)
    else s.readCls p k es

/-- Step 4 of CMD.BEGIN on the lead core: every OUTPUT entry with ZERO set is zeroed. -/
def State.zeroRegions (s : State) (p k : Nat) (es : List RegionEnt) : State :=
  (es.filter fun e => !e.append && e.zero).foldl (fun s e => (s.pzero k e.base e.length).chargeVault p e.length) s

/-- The bytes of each entry that its publish word is to cover are unspecified from now on to every other reader: all of an
OUTPUT entry, and an APPEND entry beyond its committed length (R165). An earlier attempt's claim on them ends. -/
def State.openRegions (s : State) (c : RunCmd) : State :=
  let one := fun (e : RegionEnt) =>
    let cl := if e.append then SMap.get c.cl 0 e.index else 0
    (⟨c.ctx, c.seq, e.pub, e.base + cl, e.length - cl⟩ : Unpublished)
  let s := c.regions.foldl (fun s e => s.covered c.ctx e.pub) s
  { s with sched := { s.sched with unpub := s.sched.unpub ++ c.regions.map one } }

/-- What the lead core does at CMD.BEGIN beside the steps of every core: it fixes STRICT, reads the committed lengths and
zeroes. -/
def State.leadBegin (s : State) (p : Nat) (c : RunCmd) (strict : Bool) : State :=
  let s := s.setCmd (s.core p).cmd { c with strict := some strict }
  let odd := (s.setCores c).filter fun q => (s.core q).phase ≠ .dispatched && (s.core q).strict ≠ strict
  let s := odd.foldl (fun s q => s.faultThread q 0 fCmdOrder) s
  let r := s.readCls p c.ctx c.regions
  match r.2.2 with
  | some code => r.1.faultThread p 0 code
  | none =>
    let s := r.1.modCmdOf p fun c => { c with cl := r.2.1 }
    ((s.openRegions { c with cl := r.2.1 }).zeroRegions p c.ctx c.regions).settleStacks

/-- Codes of CMD.BEGIN (R127, R158, R169). -/
def beginCodes (s : State) (p t : Nat) (w : IWord) : List Nat :=
  let strict := w.mod.getLsbD 0
  let other : Bool := match s.cmdOf p with
    | some c => c.strict = some (!strict)
    | none => false
  unused w false false false 0b000001 0 ++ (if strict then noVm1 s p else []) ++
  codeIf (t ≠ 0 || (s.core p).phase ≠ .dispatched || other) fCmdOrder

/-- CMD.BEGIN (R158). -/
def execCmdBegin (p t : Nat) (w : IWord) (s : State) : Out :=
  let strict := w.mod.getLsbD 0
  onUnit (p < nCores && t < 8) (issueTo p t 8 true (beginCodes s p t w) none (fun s' =>
    let off := s'.planBanks ((s'.logicalOf p).getD 0)
    let s' := s'.modCore p fun c => (c.beginCmd s'.beat strict).setBanks off s'.beat
    let s' := s'.startWait p t .cmdBegin
    let s' := if (s'.core p).vm1 then s'.modCmdOf p fun c => { c with side := true } else s'
    match s'.cmdOf p with
    | some c => if s'.rank p = 0 then s'.leadBegin p c strict else s'
    | none => s') s)

/-! ### CMD.PUB, CMD.COMMIT, CMD.ABORT (R161, R162, R164) -/

/-- CMD.PUB (R161, R169). -/
def execCmdPub (p t : Nat) (w : IWord) (s : State) : Out :=
  let i := immBits w 3 0
  let used : Bool := match s.cmdOf p with
    | some c => c.regions.any fun e => e.index = i
    | none => false
  issue p t (unused w true false false 0 0xF ++ noVm1 s p ++ codeIf (!used) fCmdRegion) none
    (fun s' => s'.modCmdOf p fun c =>
      let r := s.rank p
      { c with pubs := (c.pubs.filter fun x => !(x.1 = r && x.2.1 = i)) ++ [(r, i, s.rg p t w.a)] }) s

/-- Whether an APPEND value of rank `r` lies outside CL to LENGTH (R161). -/
def RunCmd.badPub (c : RunCmd) (r : Nat) : Bool :=
  c.pubs.any fun x => x.1 = r && c.regions.any fun e =>
    e.index = x.2.1 && e.append && (x.2.2.toNat < SMap.get c.cl 0 e.index || e.length < x.2.2.toNat)

/-- CMD.COMMIT (R162). -/
def execCmdCommit (p t : Nat) (w : IWord) (s : State) : Out :=
  let others : Bool := (List.range 8).any fun u => u ≠ t && (s.thread p u).st ≠ .idle
  let bad : Bool := match s.cmdOf p with
    | some c => c.badPub (s.rank p)
    | none => false
  issue p t (unused w false false false 0 0 ++ codeIf (t ≠ 0 || others) fCmdOrder ++ codeIf bad fCmdRegion) none
    (fun s' => (s'.modCore p fun c => { c with phase := .committing }).startWait p t .commit) s

/-- CMD.ABORT (R164): the command is to end with ABORTED. -/
def execCmdAbort (p t : Nat) (w : IWord) (s : State) : Out :=
  issue p t (unused w false false false 0 0) none (fun s' =>
    let s' := s'.modCore p fun c => { c with stopped := true }
    s'.modCmdOf p fun c => if c.phase = .running ∧ c.faulted.isNone then { c with ending := some .aborted } else c) s

/-! ### Events of threads and commands -/

/-- THREAD_READY (R120): a waiting thread whose condition holds is ready again. -/
def threadReady (p t : Nat) (s : State) : State :=
  match (s.thread p t).st with
  | .waiting w => if s.waitHolds p t w then s.modThread p t fun th => { th with st := .ready } else s
  | _ => s

/-- THREAD_READY. -/
def execThreadReady (p t : Nat) (s : State) : Out :=
  onUnit (p < nCores && t < 8) (whenDo s.sys.tclk s (threadReady p t))

/-- Whether the lead core of the command on `p` has issued its CMD.BEGIN. -/
def State.leadBegun (s : State) (p : Nat) : Bool := (s.core (s.leadOf p)).phase ≠ .dispatched

/-- CMD_BEGIN_COMPLETE (R158): all 64 tags are free, and the lead core has read every CL and zeroed. -/
def cmdBeginComplete (p : Nat) (s : State) : State :=
  if (s.core p).phase = .beginning ∧ (s.core p).tagsFree = 64 ∧ s.leadBegun p ∧ !(s.core p).stopped then
    s.modCore p fun c => { c.modThread 0 (fun th => { th with st := .ready }) with phase := .running }
  else s

/-- CMD_BEGIN_COMPLETE. -/
def execCmdBeginComplete (p : Nat) (s : State) : Out := onUnit (p < nCores) (whenDo s.sys.tclk s (cmdBeginComplete p))

/-- The three waits of CMD.COMMIT are over (R162). -/
def State.commitMet (s : State) (p : Nat) : Bool :=
  let c := s.core p
  c.streams.all (fun e => e.2.quiet) && c.eng0.queue.isEmpty && c.eng1.queue.isEmpty &&
    !(s.rmt.any fun e => match e.2 with
      | some o => o.core = p && !o.orphan
      | none => false)

/-- Whether every core of a command is in a phase. -/
def State.allIn (s : State) (c : RunCmd) (ph : CorePhase) : Bool :=
  (s.setCores c).all fun q => (s.core q).phase = ph

/-- CORE_REPORT (R162, R163; 09 R347): the core reports; in exact mode it has met its waits, and the fold begins once
every core has. -/
def coreReport (p : Nat) (s : State) : State :=
  match s.cmdOf p with
  | none => s
  | some c =>
    let ok : Bool := (s.core p).phase = .committing && !(s.core p).stopped && s.commitMet p && c.faulted.isNone && c.ending.isNone
    if ok then
      let exact := s.exactOn p
      let ph : CorePhase := if exact then .met else .reported
      let s := s.modCore p fun x => { x with phase := ph }
      if s.allIn c ph then s.setCmd (s.core p).cmd { c with phase := if exact then .folding else .committing } else s
    else s

/-- CORE_REPORT. -/
def execCoreReport (p : Nat) (s : State) : Out := onUnit (p < nCores) (whenDo s.sys.tclk s (coreReport p))

/-- COMMIT_DONE (R163). -/
def commitDone (p : Nat) (s : State) : State :=
  match s.cmdOf p with
  | some c => if c.phase = .committing then (s.commitCmd (s.core p).cmd c).settleStacks else s
  | none => s

/-- COMMIT_DONE. -/
def execCommitDone (p : Nat) (s : State) : Out := onUnit (p < nCores) (whenDo s.sys.tclk s (commitDone p))

/-- FOLD_DONE (09 R347): the fold is done, and the cores of the set report together. -/
def foldDone (p : Nat) (s : State) : State :=
  match s.cmdOf p with
  | some c =>
    if c.phase = .folding then
      let s := s.foldCmd c
      let s := (s.setCores c).foldl (fun s q => s.modCore q fun x => { x with phase := .reported }) s
      s.setCmd (s.core p).cmd { c with phase := .committing }
    else s
  | none => s

/-- FOLD_DONE. -/
def execFoldDone (p : Nat) (s : State) : Out := onUnit (p < nCores) (whenDo s.sys.tclk s (foldDone p))

/-- COMMAND_ABORT (R164, R167). -/
def execCommandAbort (p : Nat) (s : State) : Out :=
  onUnit (p < nCores) (whenDo s.sys.tclk s fun s =>
    match s.cmdOf p with
    | some c => s.abortPending (s.core p).cmd c
    | none => s)

/-! ### SLOT_TIMEOUT (03 R92, R108; 04 R155, R162) -/

/-- The halted stream that produces the slot of a wait (R92, R106), with its number. -/
def State.haltedProducer (s : State) (p n : Nat) : Option Nat :=
  (s.producerOf p n).bind fun e => if ((s.core e.1).stream e.2).st = .halted then some e.2 else none

/-- Whether what produces the slot of a wait waits for a page. -/
def State.producerHalted (s : State) (p n : Nat) : Bool := (s.haltedProducer p n).isSome || s.tellerParked p n

/-- Whether a wait is timed. -/
def State.timed (s : State) (p : Nat) (w : Wait) : Bool :=
  let c := s.core p
  match w with
  | .slotFull n => !s.producerHalted p n
  | .slotEmpty n => !s.producerHalted p n
  | .slotBoth n m => !s.producerHalted p n && !s.producerHalted p m
  | .streamIdle n => (c.stream n).st = .running || (c.stream n).st = .cancelling
  | .setBar _ _ => true
  | .commit => match c.firstBusy with
    | some n => (c.stream n).st ≠ .halted
    | none => false
  | _ => false

/-- SLOT_TIMEOUT: beyond b + T the waiting thread, or the stream's owning thread, faults; the transfer that waited never
starts (03 R93). -/
def slotTimeout (p : Nat) (who : Waiter) (s : State) : State :=
  match who with
  | .thread t =>
    let th := s.thread p t
    match th.st with
    | .waiting w =>
      let late : Bool := s.timed p w && !s.waitHolds p t w && th.waitBeat + th.waitTmo < s.beat
      if late then s.faultThread p t fSlotTimeout else s
    | _ => s
  | .stream n =>
    let x := (s.core p).stream n
    match x.slotWait with
    | some b =>
      let late : Bool := x.forming && b + x.slotTmo < s.beat && s.slotReady p n x (s.members p x.desc) = .wait &&
        !s.producerHalted p (x.slotOf (x.fillOf x.nextElem))
      if late then (s.modCore p fun c => c.setStream n { x with stuck := true }).ownFault p x.owner fSlotTimeout else s
    | none => s

/-- SLOT_TIMEOUT. -/
def execSlotTimeout (p : Nat) (who : Waiter) (s : State) : Out :=
  let ok : Bool := match who with
    | .thread t => t < 8
    | .stream n => n < 32
  onUnit (p < nCores && ok) (whenDo s.sys.tclk s (slotTimeout p who))

/-! ### Hardware faults of a core (02 R75, R76; 13 R460, R461) -/

/-- Rows that an instruction in an engine queue writes, in both engines. -/
def EngOp.rows : EngOp → Option (List (Eng × Nat))
  | .run _ all => some all
  | .fold _ _ all => some all
  | .front _ _ => none
  | .drain _ => none

/-- A narrow row is poisoned. -/
def Engine.poisonRow (x : Engine) (n : Nat) : Engine :=
  { x with rows := SMap.put x.rows n { SMap.get x.rows {} n with poisoned := true } }

/-- Every row that the failing run of an engine writes is poisoned, in both engines (02 R76): the run is the first in its
queue. -/
def Core.poison (c : Core) (e : Eng) : Core :=
  match (c.eng e).queue.findSome? EngOp.rows with
  | some all => all.foldl (fun c r => c.setEng r.1 ((c.eng r.1).poisonRow r.2)) c
  | none => c

/-- ENG_HW_FAULT. -/
def engHwFault (p : Nat) (e : Eng) (cause : HwCause) (s : State) : State :=
  let s := s.modCore p fun c => c.poison e
  s.coreFails p (match cause with
    | .parity => 1
    | .residue => 2)

/-- ENG_HW_FAULT (02 R75, R76). A core that is retired or fenced runs nothing. -/
def execEngHwFault (p : Nat) (e : Eng) (cause : HwCause) (s : State) : Out :=
  onUnit (p < nCores) (whenDo (s.sys.tclk && !s.cmap.retired.contains p && !s.cmap.fenced.contains p) s
    (engHwFault p e cause))

/-- SPARE_SUBSTITUTION (13 R461): the spare takes the logical number of retired core `p`. -/
def spareSubstitution (p : Nat) (s : State) : State :=
  match s.cmap.waiting.find? fun e => e.1 = p with
  | some (_, q) =>
    let s := { s with cmap := { s.cmap with logical := s.cmap.logical.map fun x => if x = p then q else x,
                                            waiting := s.cmap.waiting.filter fun e => e.1 ≠ p } }
    let s := s.setFld Fld.devGrade_spares (s.fld Fld.devGrade_spares - 1)
    let s := s.count Fld.devGrade_retired
    s.raise 0x0041 p (s.raw Reg.devGrade) []
  | none => s

/-- SPARE_SUBSTITUTION. -/
def execSpareSubstitution (p : Nat) (s : State) : Out :=
  onUnit (p < nCores) (whenDo s.sys.tclk s (spareSubstitution p))

/-- BANK_SETTLED (03 R86): 350 beats after power-up bank `b` is ready, and reads as zero. -/
def bankSettled (p b : Nat) (s : State) : State :=
  let c := s.core p
  if SMap.has c.settling b && SMap.get c.settling 0 b ≤ s.beat then
    s.setCore p { c with settling := SMap.del c.settling b, spool := c.spool.zero (b * 0x10000) ((b + 1) * 0x10000) }
  else s

/-- BANK_SETTLED. -/
def execBankSettled (p b : Nat) (s : State) : Out := onUnit (p < nCores && b < 8) (whenDo s.sys.tclk s (bankSettled p b))

end Sys2Proof.Machine
end

