-- ==== Sys2Proof/Machine/Views.lean ====
section
/-!
DEFINITION. What a register reads as: the stored word, with the fields that are views of other state (00 table DEV,
03 R117, 07 R305, 08 R340, 10 R364, 11 R424), and the clerk ROM and SRAM (10 R386).
-/
namespace Sys2Proof.Machine

/-! ### Cores (03 R117) -/

/-- WAIT and WAIT_ON of a wait on slot `n`. -/
def State.slotView (s : State) (p n : Nat) : Nat × Nat :=
  match s.haltedProducer p n with
  | some k => (5, k)
  | none => (1, n)

/-- WAIT and WAIT_ON of a wait (table CORE_THREAD_t). -/
def State.waitView (s : State) (p : Nat) (w : Wait) : Nat × Nat :=
  let c := s.core p
  match w with
  | .slotFull n => s.slotView p n
  | .slotEmpty n => s.slotView p n
  | .slotBoth n m =>
    let lo := min n m
    s.slotView p (if (c.slot lo).st = .full then max n m else lo)
  | .streamIdle n => if (c.stream n).st = .halted then (5, n) else (2, n)
  | .tags _ => (Config.tagWaitKind.toNat, 0)
  | .warpTile => (3, 0)
  | .engQueue _ => (4, 0)
  | .engBoth => (4, 0)
  | .rowsFree _ _ => (4, 0)
  | .fence _ => (4, 0)
  | .fenceBoth => (4, 0)
  | .vecUnit => (4, 0)
  | .remoteTag => (6, 0)
  | .remoteAll => (6, 0)
  | .setBar _ _ => (7, 0)
  | .jobBar _ _ => (7, 0)
  | .threads _ => (7, 0)
  | .bank _ => (8, 0)
  | .cmdBegin => (9, 0)
  | .commit =>
    match c.firstBusy with
    | some n => (2, n)
    | none =>
      if !c.eng0.queue.isEmpty || !c.eng1.queue.isEmpty then (4, 0)
      else if !s.commitMet p then (6, 0) else (Config.reportedWaitKind.toNat, 0)

/-- CORE_THREAD_t. -/
def State.threadWord (s : State) (p t : Nat) : W64 :=
  let th := s.thread p t
  match th.st with
  | .idle => 0
  | .ready => 1
  | .faulted => BitVec.ofNat 64 (th.fault * 2 ^ 8 + 3)
  | .waiting w =>
    let v := s.waitView p w
    BitVec.ofNat 64 ((th.waitBeat % 2 ^ 32).toNat * 2 ^ 32 + v.2 % 32 * 2 ^ 16 + v.1 % 16 * 16 + 2)

/-- The context on a core: that of the command that runs there, else the lowest-numbered resident context of its
partition (log 123). -/
def State.ctxOn (s : State) (p : Nat) : Option Nat :=
  match s.cmdOf p with
  | some c => some c.ctx
  | none =>
    match s.logicalOf p with
    | some n => (s.sched.ctxs.find? fun e => e.2.st ≠ .free && e.2.resident && match s.part e.2.part with
        | some q => q.first ≤ n && n < q.first + q.count
        | none => false).map (·.1)
    | none => none

/-- CONTEXT, CLIENT and VM1 of CORE_MAP. -/
def State.ctxOnWord (s : State) (p : Nat) : Nat :=
  match s.ctxOn p with
  | some k => (if (s.ctx k).vm1 then 2 ^ 40 else 0) + k * 2 ^ 32 + (s.ctx k).client * 2 ^ 16
  | none => 0

/-- CORE_MAP. -/
def State.coreMapWord (s : State) (p : Nat) : W64 :=
  let mapped : Nat × Nat := match s.logicalOf p with
    | some n => (0, n)
    | none => if s.cmap.retired.contains p then (2, 0) else (1, 0)
  let role := if s.fld Fld.devState_phase ≤ 3 then 0 else mapped.1
  BitVec.ofNat 64 (s.ctxOnWord p + role * 2 ^ 12 + mapped.2)

/-- CORE_SPL. -/
def Core.splWord (c : Core) : W64 :=
  let on := ~~~c.banksOff
  let ready := (List.range 8).foldl (fun (a : BitVec 8) b => if SMap.has c.settling b then a &&& ~~~BitVec.twoPow 8 b else a) on
  BitVec.ofNat 64 (ready.toNat * 256 + on.toNat)

/-- CORE_TAGS. -/
def Core.tagsWord (c : Core) : W64 := BitVec.ofNat 64 (c.tagPeak * 2 ^ 16 + c.tagsFree)

/-- The word at offset `o` of the control block of core `p`. -/
def State.coreWord (s : State) (p o : Nat) : W64 :=
  let c := s.core p
  if o = 0 then s.coreMapWord p
  else if o = 0x10 then c.splWord
  else if o = 0x18 then c.tagsWord
  else if 0x40 ≤ o ∧ o < 0x80 then s.threadWord p ((o - 0x40) / 8)
  else if 0x100 ≤ o ∧ o < 0x200 then (c.slot ((o - 0x100) / 8)).word
  else if 0x200 ≤ o ∧ o < 0x400 then
    let x := c.stream ((o - 0x200) / 16)
    if o % 16 = 0 then x.word else BitVec.ofNat 64 x.pos
  else if 0x400 ≤ o ∧ o < 0xC00 then
    let x := c.stream ((o - 0x400) / 64)
    if x.st = .idle then 0 else x.desc.getD (o % 64 / 8) 0
  else s.raw (0x100000 + p * 0x1000 + o)

/-! ### Contexts and ledger (08 R340) -/

/-- The wait class of one wait kind: host 1, remote 2, barrier 3, stream 4, warp tile 5 (08 R327). -/
def waitClass (kind : Nat) : Nat :=
  if kind = 5 then 1 else if kind = 6 then 2 else if kind = 7 then 3 else if kind = 1 ∨ kind = 2 then 4
  else if kind = 3 then 5 else 0

/-- Wait kinds of the waiting threads of a command. -/
def State.kindsOf (s : State) (c : RunCmd) : List Nat :=
  (s.setCores c).flatMap fun p => (List.range 8).filterMap fun t => match (s.thread p t).st with
    | .waiting w => some (s.waitView p w).1
    | _ => none

/-- The wait class of a context: the first that a thread of its running commands shows (08 R327). -/
def State.ctxWait (s : State) (k : Nat) : Nat :=
  let ks := (s.cmdsOf k).flatMap fun e => (s.kindsOf e.2).map waitClass
  ([1, 2, 3, 4, 5].find? ks.contains).getD 0

def CtxSt.code : CtxSt → Nat
  | .free => 0
  | .created => 1
  | .launched => 2
  | .preempted => 3
  | .faulted => 4

/-- SCHED_CTX_c. -/
def State.ctxWord (s : State) (k : Nat) : W64 :=
  let c := s.ctx k
  let run := s.cmdsOf k
  let word := c.client * 2 ^ 48 + s.fld (Fld.schedCtx_prefillRows k) * 2 ^ 32 + (if c.serving then c.base * 2 ^ 26 else 0) + c.part * 2 ^ 20 +
    c.program * 2 ^ 12 + (if c.vm1 then 2 ^ 11 else 0) + (if run.any fun e => e.2.side then 2 ^ 10 else 0) +
    (if c.resident then 2 ^ 9 else 0) + (if run.isEmpty then 0 else 2 ^ 8) + s.ctxWait k * 16 + c.st.code
  if c.st = .free then BitVec.ofNat 64 (s.fld (Fld.schedCtx_prefillRows k) * 2 ^ 32) else BitVec.ofNat 64 word

/-- Contexts that exist. -/
def State.liveCtxs (s : State) : List (Nat × Context) := s.sched.ctxs.filter fun e => e.2.st ≠ .free

/-- SCHED_PART_n. -/
def State.partWord (s : State) (n : Nat) : W64 :=
  let slice := s.fld (Fld.schedPart_slice n) * 2 ^ 48
  match s.part n with
  | some q =>
    let res := (s.liveCtxs.filter fun e => e.2.part = n && e.2.resident).length
    BitVec.ofNat 64 (slice + q.count * 2 ^ 32 + q.first * 2 ^ 16 + res * 2 ^ 8 + (if q.serving then 2 else 0) + 1)
  | none => BitVec.ofNat 64 slice

def listed {α : Type} (m : SMap (Option α)) : Nat := (m.filter fun e => e.2.isSome).length

/-- SCHED_STATUS. -/
def State.schedStatusWord (s : State) : W64 :=
  BitVec.ofNat 64 (s.liveCtxs.length * 2 ^ 32 + listed s.sched.parts * 2 ^ 16 + listed s.sched.programs * 2 ^ 7)

/-- LEDG_STATUS. -/
def State.ledgStatusWord (s : State) : W64 :=
  let n := (s.ledger.accounts.filter fun e => e.1 ≠ sharedAcct && e.2.isSome).length
  BitVec.ofNat 64 (s.fld Fld.ledgStatus_dropped * 2 ^ 32 + n * 2 ^ 17 + s.ledger.held.length)

/-! ### Warp (07 R305) -/

def BaseSt.code : BaseSt → Nat
  | .absent => 0
  | .loading => 1
  | .loaded => 2
  | .staged => 3
  | .replacing => 4

def PassSt.code : PassSt → Nat
  | .scheduled => 0
  | .open_ => 1
  | .closing => 2
  | .closed => 3
  | .failed => 4

/-- Passes open on this device: not yet ended. -/
def State.openPasses (s : State) : List Pass := s.warp.passes.filter fun x => x.st = .open_ || x.st = .closing

/-- WARP_STATUS: PASS_COUNT, OPEN, HOLD, LATE_START, DRAFT_STATE. -/
def State.warpStatusWord (s : State) : W64 :=
  let count := (s.warp.draft.map fun d => d.entries.length).getD 0
  let state := match s.warp.draft, s.warp.waiting with
    | _, some _ => 2
    | some d, none => if d.entries.isEmpty then 3 else 1
    | none, none => 0
  let hold : Bool := (List.range nPorts).any s.holdsWarp
  let opened := (s.warp.passes.filter fun x => x.st = .open_).length
  let w := BitVec.ofNat 64 (count % 2 ^ 16 * 2 ^ 16 + opened % 16 * 2 ^ 8 + (if hold then 32 else 0) + state)
  Fld.warpStatus_lateStart.insert w (s.fld Fld.warpStatus_lateStart)

/-- WARP_BASE_n. -/
def State.baseWord (s : State) (b : Nat) : W64 :=
  let x := s.base b
  BitVec.ofNat 64 (x.use * 2 ^ 32 + (x.model.map (·.layers)).getD 0 * 2 ^ 16 + (if s.inDraft b then 16 else 0) + x.st.code)

/-- WARP_WEFTS. -/
def State.weftsWord (s : State) : W64 :=
  let all := s.warp.wefts.filterMap fun e => e.2
  let res := (all.filter (·.resident)).length
  BitVec.ofNat 64 ((all.length - res) * 2 ^ 32 + res * 2 ^ 16 + all.length)

/-! ### Strongbox (11 R424) -/

def AnchorSt.code : AnchorSt → Nat
  | .empty => 0
  | .enrolled => 1
  | .revoked => 2

def State.anchor (s : State) (n : Nat) : AnchorSlot := SMap.get s.sec.slots {} n

/-- The 64 bytes of a digest, first byte first. -/
def digestBytes (d : BitVec 512) : Bytes := (List.range 64).map fun i => d.extractLsb' (8 * (63 - i)) 8

/-- The anchor of a public key: the first 32 bytes of its SHA-512 (07 R288, 11 R410). -/
def anchorOf (key : Bytes) : Bytes := (digestBytes (Config.sha512 key)).take 32

/-- Publisher slots in a state. -/
def State.slotsIn (s : State) (st : AnchorSt) : Nat := ((List.range 64).filter fun i => (s.anchor i).st = st).length

/-- SEC_STATUS. -/
def State.secStatusWord (s : State) : W64 :=
  let w := BitVec.ofNat 64 (s.slotsIn .enrolled * 2 ^ 40 + s.slotsIn .revoked * 2 ^ 32 + s.sec.keysInUse.length * 2 ^ 16 +
    (if (s.anchor 0).st = .enrolled then 4 else 0) + (if s.sec.minted then 1 else 0))
  let w := Fld.secStatus_wipePending.insert w (s.fld Fld.secStatus_wipePending)
  Fld.secStatus_romOk.insert w (s.fld Fld.secStatus_romOk)

/-! ### Power (12 R435, R438) -/

/-- Spool banks that are powered down. -/
def State.banksOff (s : State) : Nat :=
  (s.cores.map fun e => ((List.range 8).filter fun b => e.2.banksOff.getLsbD b).length).sum

/-- PWR_STATUS and PWR_CORES. -/
def State.pwrStatusWord (s : State) : W64 := Fld.pwrStatus_hottest.insert (s.raw Reg.pwrStatus) s.hottest
def State.pwrCoresWord (s : State) : W64 := Fld.pwrCores_banksOff.insert (s.raw Reg.pwrCores) s.banksOff

/-! ### Reading a word -/

/-- DEV_ID and DEV_GRADE with their fused fields. -/
def State.devIdWord (s : State) : W64 :=
  Fld.devId_stepMinor.insert (Fld.devId_stepMajor.insert (s.raw Reg.devId) Config.stepMajor.toNat) Config.stepMinor.toNat
def State.devGradeWord (s : State) : W64 := Fld.devGrade_ordered.insert (s.raw Reg.devGrade) Config.orderedGrade.val

def romBase : Nat := 0x1000000
def sramBase : Nat := 0x1400000
def readEnd : Nat := 0x1C00000

/-- The word at an offset from 0x300_0000_0000; a reserved offset reads as 0 (R6, 10 R386). -/
def State.readReg (s : State) (off : Nat) : W64 :=
  if sramBase ≤ off then BitVec.ofNat 64 (leNat (s.clerkSram.bytes (off - sramBase) 8))
  else if romBase ≤ off then Config.romWord ((off - romBase) / 8)
  else if (regSpec off).isNone then 0
  else if 0x100000 ≤ off then s.coreWord ((off - 0x100000) / 0x1000) (off % 0x1000)
  else if off = Reg.devId then s.devIdWord
  else if off = Reg.devSerial then Config.serial
  else if off = Reg.devGrade then s.devGradeWord
  else if off = Reg.devMode then s.devModeWord
  else if off = Reg.pwrStatus then s.pwrStatusWord
  else if off = Reg.pwrCores then s.pwrCoresWord
  else if off = Reg.ethMac then (macOf Config.serial).setWidth 64
  else if off = Reg.schedStatus then s.schedStatusWord
  else if off = Reg.ledgStatus then s.ledgStatusWord
  else if off = Reg.warpStatus then s.warpStatusWord
  else if off = Reg.warpWefts then s.weftsWord
  else if off = Reg.secStatus then s.secStatusWord
  else if off = Reg.secEnrolCount then BitVec.ofNat 64 s.sec.enrolCount
  else if Reg.warpBase 0 ≤ off ∧ off < Reg.warpBase 64 then
    (if off % 16 = 0 then s.baseWord ((off - Reg.warpBase 0) / 16) else (s.base ((off - Reg.warpBase 0) / 16)).step)
  else if Reg.schedPart 0 ≤ off ∧ off < Reg.schedPart 64 then s.partWord ((off - Reg.schedPart 0) / 8)
  else if Reg.schedCtx 0 ≤ off ∧ off < Reg.schedCtx 256 then
    (if off % 16 = 0 then s.ctxWord ((off - Reg.schedCtx 0) / 16) else (s.ctx ((off - Reg.schedCtx 0) / 16)).lastSeq)
  else if Reg.secSlot 0 ≤ off ∧ off < Reg.secSlot 64 then
    let a := s.anchor ((off - Reg.secSlot 0) / 8)
    BitVec.ofNat 64 (a.count * 2 ^ 32 + a.st.code)
  else if Reg.secAnchor 0 0 ≤ off ∧ off < Reg.secAnchor 64 0 then
    let a := s.anchor ((off - Reg.secAnchor 0 0) / 32)
    if a.st = .empty then 0 else BitVec.ofNat 64 (field (anchorOf a.key) ((off - Reg.secAnchor 0 0) % 32) 8)
  else s.raw off

end Sys2Proof.Machine
end

