-- ==== Sys2Proof/Machine/Links.lean ====
section
/-!
DEFINITION. Link ports (06 R212 to R232): sending and receiving flits, replay and retraining, lane sparing and lost
bundles, training and HELLO.
-/
namespace Sys2Proof.Machine

/-! ### Lost bundles and failed ports (R225, R239) -/

/-- A port that was UP at the commit is lost on a threaded loom. -/
def State.portLost (s : State) (p : Nat) : State :=
  if s.loom.upAtCommit.contains p then s.loomFaultHere (some p) 1 else s

/-- A port with no bundle left enters FAILED (R225). -/
def State.portFails (s : State) (p : Nat) : State :=
  let role := s.fld (Fld.lnkPortStatus_role p)
  let s := s.setPortState p pFailed
  (s.logError ePortFailed p (BitVec.ofNat 64 pFailed) (BitVec.ofNat 64 role)).portLost p

/-- Bundle `b` goes out of service (R225): a port that carries flits is DEGRADED then, one that trains when it comes up. -/
def State.loseBundle (s : State) (p b : Nat) : State :=
  if s.bundleUp p b then
    let s := s.setFld (Fld.lnkPortStatus_bundleUp p) (s.fld (Fld.lnkPortStatus_bundleUp p) - 2 ^ b)
    let s := s.setFld (Fld.lnkPortStatus_bundleLost p) (s.fld (Fld.lnkPortStatus_bundleLost p) ||| 2 ^ b)
    let none_ : Bool := s.fld (Fld.lnkPortStatus_bundleUp p) = 0
    let s := if none_ || !s.portUp p then s else s.setPortState p pDegraded
    let s := s.setBundle p b {}
    let s := s.logError eBundleLost p (BitVec.ofNat 64 b) (s.raw (Reg.lnkPortStatus p))
    let express : Bool := s.fld (Fld.xptHolder_holder p b) = 1
    let s := if none_ then s.portFails p else s
    if b = 0 || express then s.loomFaultHere (some p) 2 else s
  else s

/-! ### Replay and retraining (R221 to R223) -/

/-- Bundle `b` begins to retrain. -/
def State.retrain (s : State) (p b : Nat) : State :=
  let s := s.setBundle p b { s.bundle p b with retrainFrom := some s.beat }
  (s.count (Fld.lnkRetrain_count p)).setPortState p pRetrain

/-- A replay of every unacknowledged flit begins; after 16 replays of the oldest without progress the bundle retrains. -/
def State.replay (s : State) (p b : Nat) : State :=
  let x := s.bundle p b
  match x.unacked with
  | [] => s
  | f :: _ =>
    if 16 ≤ f.replays then s.retrain p b
    else
      let again := x.unacked.map fun f => { f with replays := f.replays + 1 }
      (s.setBundle p b { x with unacked := again, resend := again.length }).count (Fld.lnkReplay_count p)

/-- Takes the ACK of a received flit: every flit up to it is acknowledged, and the others have made progress. -/
def Bundle.acked (x : Bundle) (ack : Nat) : Bundle :=
  match x.unacked with
  | [] => x
  | f :: _ =>
    let n := (ack + 1025 - f.seq) % 1024
    if n = 0 ∨ x.unacked.length < n then x
    else
      let left := (x.unacked.drop n).map fun (g : SentFlit) => { g with replays := 0 }
      { x with unacked := left, resend := min x.resend left.length }

/-- Terminating bundles of a port. -/
def State.termBundles (s : State) (p : Nat) : List Nat :=
  (List.range nBundles).filter fun b => s.bundleUp p b && s.fld (Fld.xptPort_mode p b) = 1

/-- Replay buffer shares of a port (R223): none for a bundle that does not terminate here. -/
def State.setShares (s : State) (p : Nat) : State :=
  let bs := s.termBundles p
  let sum := (bs.map fun b => s.fld (Fld.lnkBundle_rtt p b)).sum
  (List.range nBundles).foldl (fun s b =>
    let n := if bs.contains b && sum ≠ 0 then 512 * s.fld (Fld.lnkBundle_rtt p b) / sum else 0
    s.setFld (Fld.lnkBundle_share p b) n) s

/-- Whether bundle `b` has room in the replay buffer of its port (R223): in its share, or, before shares are set, among the 512
flits of the port. -/
def State.roomIn (s : State) (p b : Nat) : Bool :=
  let shares := ((List.range nBundles).map fun b => s.fld (Fld.lnkBundle_share p b)).sum
  if shares = 0 then ((List.range nBundles).map fun b => (s.bundle p b).unacked.length).sum < 512
  else (s.bundle p b).unacked.length < s.fld (Fld.lnkBundle_share p b)

/-- State of a port that has bundles in service and none retraining. -/
def State.settlePort (s : State) (p : Nat) : State :=
  let busy := (List.range nBundles).any fun b => s.bundleUp p b && (s.bundle p b).retrainFrom.isSome
  if s.portState p = pRetrain && !busy then
    s.setPortState p (if s.fld (Fld.lnkPortStatus_bundleLost p) = 0 then pUp else pDegraded) else s

/-- REPLAY_TIMEOUT (R221). -/
def replayTimeout (p b : Nat) (s : State) : State :=
  match (s.bundle p b).unacked with
  | f :: _ => if f.beat + s.fld (Fld.lnkCtrl_replayTmo p) < s.beat ∧ (s.bundle p b).retrainFrom.isNone then s.replay p b else s
  | [] => s

/-- REPLAY_TIMEOUT. -/
def execReplayTimeout (p b : Nat) (s : State) : Out :=
  onUnit (p < nPorts && b < nBundles) (whenDo s.sys.tclk s (replayTimeout p b))

/-- RETRAIN_DONE (R222): within 17,500 beats the bundle resumes with a replay from the oldest unacknowledged flit. -/
def retrainDone (p b rtt : Nat) (s : State) : State :=
  let x := s.bundle p b
  match x.retrainFrom with
  | some t =>
    if t + 17500 < s.beat then (s.loseBundle p b).settlePort p
    else
      let again := x.unacked.map fun (f : SentFlit) => { f with replays := 0 }
      let s := s.setBundle p b { x with retrainFrom := none, unacked := again, resend := again.length }
      let s := (s.setFld (Fld.lnkBundle_rtt p b) rtt).setShares p
      let s := if x.unacked.isEmpty then s else s.count (Fld.lnkReplay_count p)
      s.settlePort p
  | none => s

/-- RETRAIN_DONE. -/
def execRetrainDone (p b rtt : Nat) (s : State) : Out :=
  onUnit (p < nPorts && b < nBundles) (whenDo s.sys.tclk s (retrainDone p b rtt))

/-- RETRAIN_FAIL (R222): the bundle is lost. -/
def retrainFail (p b : Nat) (s : State) : State :=
  match (s.bundle p b).retrainFrom with
  | some t => if t + 17500 < s.beat then (s.loseBundle p b).settlePort p else s
  | none => s

/-- RETRAIN_FAIL. -/
def execRetrainFail (p b : Nat) (s : State) : Out :=
  onUnit (p < nPorts && b < nBundles) (whenDo s.sys.tclk s (retrainFail p b))

/-! ### Sending (R216 to R219, R229, R230) -/

/-- Whether flit `f` belongs on bundle `b`: on its express path's bundles, or on one that carries no express path (R246). -/
def State.fitsBundle (s : State) (p b : Nat) (f : OutFlit) : Bool :=
  if f.mask = 0 then s.fld (Fld.xptHolder_holder p b) ≠ 1 else f.mask.getLsbD b

/-- Whether a bundle may send flit `f`: a LINK flit always, any other only between accepted neighbours (R232) and with a credit
of its channel; and room in the replay buffer. -/
def State.maySend (s : State) (p b : Nat) (f : OutFlit) : Bool :=
  s.fitsBundle p b f && (f.type = 2 || (s.portUp p && 0 < SMap.get (s.bundle p b).credits 0 f.vc)) && s.roomIn p b

/-- The first flit of channel `vc` in a port's queue that a bundle may send. -/
def State.readyFlit (s : State) (p b vc : Nat) : Option OutFlit :=
  (s.port p).txq.find? fun f => f.vc = vc && s.maySend p b f

/-- Slots that channel `vc` has waited on bundle `b`. -/
def Port.waitedOn (x : Port) (b vc : Nat) : Nat := SMap.get x.waited 0 (8 * b + vc)

/-- The next flit of a bundle (R229, R230). On a ring port VC 1, then a packet flit that has waited 127 slots on the bundle,
then warp, then the packet channels; on a cross port a channel that has waited 64 slots, then VC 1, 2, 4, 3, 5. Between packet
channels of a ring port the order of R230 stands (log 29). -/
def State.nextFlit (s : State) (p b : Nat) : Option OutFlit :=
  let packets := [2, 4, 3, 5]
  let ready := fun (vs : List Nat) => vs.findSome? fun v => s.readyFlit p b v
  if s.ringPort p then
    let late := packets.findSome? fun v => (s.port p).txq.find? fun f =>
      f.vc = v && 127 ≤ SMap.get f.waits 0 b && s.maySend p b f
    (ready [1]).or (late.or (ready (0 :: packets)))
  else (ready (packets.filter fun v => 64 ≤ (s.port p).waitedOn b v)).or (ready (1 :: packets))

/-- Counts one more slot waited on bundle `b` for every flit of VC 1 to 5, and for every channel, that was ready and was not
taken. -/
def State.noteSlots (s : State) (p b : Nat) (taken : OutFlit) : State :=
  let x := s.port p
  let w := [1, 2, 3, 4, 5].foldl (fun w v =>
    if v = taken.vc then SMap.set w 0 (8 * b + v) 0
    else if (s.readyFlit p b v).isSome then SMap.put w (8 * b + v) (x.waitedOn b v + 1) else w) x.waited
  let q := (x.txq.erase taken).map fun (f : OutFlit) =>
    if f.vc ≠ 0 && s.maySend p b f then { f with waits := SMap.put f.waits b (SMap.get f.waits 0 b + 1) } else f
  s.setPort p { x with waited := w, txq := q }

/-- Whether credits may be returned: none before READY, none to a neighbour that is not accepted, none of VC 0 while the device
holds the port (R219, R232, 07 R276). -/
def State.mayReturn (s : State) (p vc : Nat) : Bool :=
  (s.serving || s.devState = stFaulted) && s.portUp p && !(vc = 0 && s.holdsWarp p)

/-- The channel whose credits the next flit returns. -/
def State.creditVc (s : State) (p b : Nat) : Option Nat :=
  ((s.bundle p b).owed.find? fun e => s.mayReturn p e.1 && e.2 ≠ 0).map (·.1)

/-- Whether the header of a flit would carry something. -/
def State.owes (s : State) (p b : Nat) : Bool := (s.bundle p b).nak || (s.creditVc p b).isSome

/-- The link CRC (R217). -/
def linkCrc (bs : Bytes) : W64 := ~~~(crcRun (BitVec.allOnes 64) bs)

/-- The header word of a flit (R216). -/
def headerWord (type vc seq ack : Nat) (nak : Bool) (credVc cred route : Nat) : Nat :=
  type % 16 * 2 ^ 60 + vc % 8 * 2 ^ 57 + seq % 1024 * 2 ^ 47 + ack % 1024 * 2 ^ 37 + (if nak then 2 ^ 36 else 0) +
    credVc % 8 * 2 ^ 33 + cred % 64 * 2 ^ 27 + route % 2 ^ 27

/-- ROUTE as it is sent: the spec gives none for IDLE, BARRIER and FAULT flits, where it is free. -/
def sentRoute (type : Nat) (route : BitVec 27) (free : W64) : Nat :=
  if type = 0 ∨ type = 4 ∨ type = 5 then free.toNat else route.toNat

/-- A flit leaves on a bundle: its header takes the ACK, a NAK and up to 63 credits of one channel; a payload that the spec does
not lay out to its end is free there, as is CRED_VC with no credits (R216, R217, R219). -/
def State.putOnWire (s : State) (p b type vc seq : Nat) (route : BitVec 27) (payload : Bytes) : State :=
  let x := s.bundle p b
  let f := s.freeWord
  let g := f.2.freeBytes (flitPayload - payload.length)
  let cv := s.creditVc p b
  let have_ := match cv with
    | some v => min (SMap.get x.owed 0 v) 63
    | none => 0
  let w := headerWord type vc seq (x.expected + 1023) x.nak (cv.getD (f.1.toNat / 2 ^ 32)) have_ (sentRoute type route f.1)
  let body := leBytes w 8 ++ payload.take flitPayload ++ g.1
  let owed := match cv with
    | some v => SMap.put x.owed v (SMap.get x.owed 0 v - have_)
    | none => x.owed
  g.2.setBundle p b { x with nak := false, owed := owed, wire := body ++ leBytes (linkCrc body).toNat 8 }

/-- One more flit has gone out on port `p` since the last idle flit. -/
def State.sentOne (s : State) (p : Nat) : State := s.setPort p { s.port p with sinceIdle := (s.port p).sinceIdle + 1 }

/-- An IDLE flit: its VC and SEQ mean nothing, and are free. -/
def State.sendIdle (s : State) (p b : Nat) : State :=
  let f := s.freeWord
  let s := f.2.putOnWire p b 0 (f.1.toNat % 8) (f.1.toNat / 8) 0 []
  s.setPort p { s.port p with sinceIdle := 0 }

/-- Sends one flit of the port's queue on bundle `b`. -/
def State.sendFlit (s : State) (p b : Nat) (f : OutFlit) : State :=
  let s := s.noteSlots p b f
  let x := s.bundle p b
  let credits := if f.type = 2 then x.credits else SMap.put x.credits f.vc (SMap.get x.credits 0 f.vc - 1)
  let free := s.freeBytes (flitPayload - f.payload.length)
  let f := { f with payload := f.payload.take flitPayload ++ free.1, waits := [] }
  let sent : SentFlit := { seq := x.nextSeq, flit := f, beat := s.beat }
  let s := free.2.setBundle p b { x with credits := credits, nextSeq := (x.nextSeq + 1) % 1024, unacked := x.unacked ++ [sent] }
  let s := s.putOnWire p b f.type f.vc sent.seq f.route f.payload
  (s.sentOne p).countWrap (Fld.lnkTxFlits_count p)

/-- Sends the next flit of a replay again (R221). -/
def State.sendAgain (s : State) (p b : Nat) : State :=
  let x := s.bundle p b
  let i := x.unacked.length - x.resend
  match x.unacked[i]? with
  | some f =>
    let s := s.setBundle p b { x with resend := x.resend - 1, unacked := x.unacked.set i { f with beat := s.beat } }
    (s.putOnWire p b f.flit.type f.flit.vc f.seq f.flit.route f.flit.payload).sentOne p
  | none => s.setBundle p b { x with resend := 0 }

/-- Whether a bundle can send: in service, not retraining, its port not idle, terminating here. -/
def State.sending (s : State) (p b : Nat) : Bool :=
  s.bundleUp p b && (s.bundle p b).retrainFrom.isNone && s.portState p ≠ pIdle && s.fld (Fld.xptPort_mode p b) = 1

/-- FLIT_TX: the next flit of a replay, or of the port's queue, or an IDLE flit where the bundle owes the facing end something
and has no flit. -/
def flitTx (p b : Nat) (s : State) : State :=
  if s.sending p b then
    if 0 < (s.bundle p b).resend then s.sendAgain p b
    else
      match s.nextFlit p b with
      | some f => s.sendFlit p b f
      | none => if s.owes p b then s.sendIdle p b else s
  else s

/-- FLIT_TX (R219). -/
def execFlitTx (p b : Nat) (s : State) : Out := onUnit (p < nPorts && b < nBundles) (whenDo s.sys.tclk s (flitTx p b))

/-- IDLE_FLIT_INSERT (R215): a port that has sent 65,536 flits without an idle flit sends one, on the first of its bundles that
can send. -/
def idleFlitInsert (p : Nat) (s : State) : State :=
  if 65536 ≤ (s.port p).sinceIdle then
    match (List.range nBundles).find? fun b => s.sending p b with
    | some b => s.sendIdle p b
    | none => s
  else s

/-- IDLE_FLIT_INSERT. -/
def execIdleFlitInsert (p : Nat) (s : State) : Out := onUnit (p < nPorts) (whenDo s.sys.tclk s (idleFlitInsert p))

/-! ### Receiving (R216 to R221) -/

/-- Header fields of a received flit. -/
def hType (w : Nat) : Nat := bitsOf w 63 60
def hVc (w : Nat) : Nat := bitsOf w 59 57
def hSeq (w : Nat) : Nat := bitsOf w 56 47
def hAck (w : Nat) : Nat := bitsOf w 46 37
def hNak (w : Nat) : Bool := bitsOf w 36 36 = 1
def hCredVc (w : Nat) : Nat := bitsOf w 35 33
def hCred (w : Nat) : Nat := bitsOf w 32 27

/-- ACK, NAK and credits of a flit that the FEC and the CRC let pass. A retraining bundle replays when it has retrained (R222). -/
def State.takeBack (s : State) (p b w : Nat) : State :=
  let x := (s.bundle p b).acked (hAck w)
  let credits := SMap.put x.credits (hCredVc w) (SMap.get x.credits 0 (hCredVc w) + hCred w)
  let s := s.setBundle p b { x with credits := credits }
  if hNak w && x.retrainFrom.isNone then s.replay p b else s

/-- A discarded flit: the next one that the bundle sends carries NAK, and later flits are discarded until the expected
one arrives (R220). -/
def State.discardFlit (s : State) (p b : Nat) : State :=
  let x := s.bundle p b
  if x.discarding then s else s.setBundle p b { x with nak := true, discarding := true }

/-- Symbol errors that the FEC can locate in one codeword (R215). -/
def fecLimit : Nat := 8

/-- Codewords with symbol errors at these positions arrive on a bundle (R215, R224): each with at most 8 is corrected, and its
symbols are noted by their lanes. -/
def State.decodeWords (s : State) (p b : Nat) (words : List (List Nat)) : State :=
  let x := s.bundle p b
  let fixed := ((List.range words.length).zip words).filter fun e => (e.2.dedup).length ≤ fecLimit
  let now := fixed.flatMap fun e => e.2.dedup.map fun i => (x.words + e.1, 8 * b + i % 8)
  let n := x.words + words.length
  let s := s.setBundle p b { x with words := n, fixes := (x.fixes ++ now).filter fun e => n < e.1 + 2 ^ 20 + 1 }
  let s := s.count (Fld.lnkFecCorr_count p) (fixed.filter fun e => !e.2.isEmpty).length
  s.count (Fld.lnkFecUncorr_count p) (words.length - fixed.length)

/-- The port opposite to a port, to which its pass bundles are joined (R226). -/
def opposite (p : Nat) : Nat := (p + 2) % 4

/-- A flit that reaches a terminating bundle. -/
def State.takeFlit (s : State) (p b : Nat) (fecOk : Bool) (bytes : Bytes) : State :=
  if !fecOk then s.discardFlit p b
  else if field bytes 248 8 ≠ (linkCrc (bytes.take 248)).toNat then (s.count (Fld.lnkCrcErr_count p)).discardFlit p b
  else
    let w := field bytes 0 8
    let x := s.bundle p b
    if hType w = 0 then s.takeBack p b w
    else if hSeq w ≠ x.expected then s.discardFlit p b
    else
      let s := s.setBundle p b { x with expected := (x.expected + 1) % 1024, discarding := false }
      let s := s.takeBack p b w
      if typeVc (hType w) ≠ some (hVc w) then s.count (Fld.lnkProtoErr_count p)
      else
        let s := s.countWrap (Fld.lnkRxFlits_count p)
        let y := s.bundle p b
        if hType w = 2 then s else s.setBundle p b { y with owed := SMap.put y.owed (hVc w) (SMap.get y.owed 0 (hVc w) + 1) }

/-- FLIT_RX: the codewords that end with a flit, each given by its symbol errors, whether a codeword that came with the flit before
and holds bytes of this one too could not be corrected, and the flit's 256 bytes. A pass bundle corrects the codewords and forwards
the bytes; one that terminates takes the flit, and what an accepted flit carries above the link arrives as a command of its own
(log 22); a bundle in another mode carries no flit into the device (R226). -/
def flitRx (p b : Nat) (words : List (List Nat)) (spoilt : Bool) (bytes : Bytes) (s : State) : State :=
  if !s.bundleUp p b || s.portState p = pIdle || s.fld (Fld.xptPort_mode p b) = 0 then s
  else
    let s := s.decodeWords p b words
    if s.fld (Fld.xptPort_mode p b) = 2 then
      s.setBundle (opposite p) b { s.bundle (opposite p) b with wire := bytes }
    else if s.fld (Fld.xptPort_mode p b) = 1 then
      s.takeFlit p b (!spoilt && words.all fun w => (w.dedup).length ≤ fecLimit) bytes
    else s

/-- FLIT_RX. -/
def execFlitRx (p b : Nat) (words : List (List Nat)) (spoilt : Bool) (bytes : Bytes) (s : State) : Out :=
  onUnit (p < nPorts && b < nBundles) (whenDo s.sys.tclk s (flitRx p b words spoilt bytes))

/-! ### Lane sparing (R224, R225) -/

/-- Spares lane `l` with the first spare that is free and has not failed, and agrees it with the facing end in a LINK flit; with
none left its bundle is lost. -/
def State.spareLane (s : State) (p l : Nat) : State :=
  let bad := (s.port p).failedLanes
  if !s.flag (Fld.lnkSpare_s64Valid p) && !bad.contains 64 then
    let s := (s.setFld (Fld.lnkSpare_s64Lane p) l).setFld (Fld.lnkSpare_s64Valid p) 1
    (s.logError eLaneSpared p (BitVec.ofNat 64 l) 64).loomSend (.spare p l)
  else if !s.flag (Fld.lnkSpare_s65Valid p) && !bad.contains 65 then
    let s := (s.setFld (Fld.lnkSpare_s65Lane p) l).setFld (Fld.lnkSpare_s65Valid p) 1
    (s.logError eLaneSpared p (BitVec.ofNat 64 l) 65).loomSend (.spare p l)
  else s.loseBundle p (l / 8)

/-- Symbols corrected on an active lane within the last 2^20 codewords of its bundle (R224). -/
def State.laneFixes (s : State) (p l : Nat) : Nat := ((s.bundle p (l / 8)).fixes.filter fun e => e.2 = l).length

/-- Whether a cause spares a lane: one of rate only past SPARE_THRESH, and not where that is 0. -/
def State.spares_ (s : State) (p l : Nat) (cause : LaneCause) : Bool :=
  match cause with
  | .rate => s.fld (Fld.lnkCtrl_spareThresh p) ≠ 0 && s.fld (Fld.lnkCtrl_spareThresh p) < s.laneFixes p l
  | _ => true

/-- The facing end holds the link electrically idle (R239): the port enters IDLE. -/
def State.portIdles (s : State) (p : Nat) : State :=
  if s.portUp p then (s.setPortState p pIdle).portLost p else s

/-- LANE_FAILURE. A spare that fails in use leaves the lane that it replaced to be spared again. -/
def laneFailure (p l : Nat) (cause : LaneCause) (s : State) : State :=
  let x := s.port p
  if cause = .idle then s.portIdles p
  else if x.failedLanes.contains l || !s.spares_ p l cause then s
  else
    let s := s.setPort p { x with failedLanes := l :: x.failedLanes }
    if l < 64 then s.spareLane p l
    else if l = 64 then
      (if s.flag (Fld.lnkSpare_s64Valid p) then
        (s.setFld (Fld.lnkSpare_s64Valid p) 0).spareLane p (s.fld (Fld.lnkSpare_s64Lane p)) else s)
    else if s.flag (Fld.lnkSpare_s65Valid p) then
      (s.setFld (Fld.lnkSpare_s65Valid p) 0).spareLane p (s.fld (Fld.lnkSpare_s65Lane p)) else s

/-- LANE_FAILURE (R224). -/
def execLaneFailure (p : Nat) (l : LaneFault) (s : State) : Out :=
  onUnit (p < nPorts && l.lane < 66) (whenDo s.sys.tclk s (laneFailure p l.lane l.cause))

/-! ### Training and HELLO (R231, R232, 12 R428) -/

/-- A bundle as training leaves it: it terminates unless an express plan or a claim holds it (R226, R228; log 130), and it owes
the facing end the credits of its buffers, whose size the spec does not state (log 11). -/
def State.trainBundle (s : State) (p b : Nat) : State :=
  let held : Bool := s.fld (Fld.xptHolder_holder p b) ≠ 0
  let s := if held then s else s.setFld (Fld.xptPort_mode p b) 1
  let r := (List.range 6).foldl (fun (r : State × SMap Nat) vc =>
    let f := r.1.freeWord
    (f.2, SMap.put r.2 vc (f.1.toNat % 65536))) (s, [])
  r.1.setBundle p b { owed := r.2 }

/-- The HELLO that this device sends on a port (R231). -/
def State.helloOf (s : State) (p : Nat) : Hello :=
  ⟨Config.serial, p, s.sys.boardPos.toNat, s.sys.loomOrigin, 0x0002, Config.stepMajor.toNat, Config.stepMinor.toNat⟩

/-- A trained port that has heard a neighbour which it accepts comes up (R231, R232), DEGRADED where it has lost a bundle. -/
def State.portComesUp (s : State) (p : Nat) : State :=
  let ok : Bool := s.portState p = pTraining && s.fld (Fld.lnkPortStatus_bundleUp p) ≠ 0 &&
    (s.port p).heard && s.fld (Fld.lnkPeer_peerPart p) = 2
  if ok then s.setPortState p (if s.fld (Fld.lnkPortStatus_bundleLost p) = 0 then pUp else pDegraded) else s

/-- LINK_TRAINED (R231): the trained bundles terminate, and the port sends HELLO. -/
def linkTrained (p : Nat) (bundles : BitVec 8) (s : State) : State :=
  let live : Bool := s.portUp p || s.portState p = pIdle || s.portState p = pFailed
  if live || bundles = 0 then s
  else
    let s := (s.setFld (Fld.lnkPortStatus_bundleUp p) bundles.toNat).setPortState p pTraining
    let s := (List.range nBundles).foldl (fun s b => if bundles.getLsbD b then s.trainBundle p b else s) s
    (s.loomSend (.hello p (s.helloOf p))).portComesUp p

/-- LINK_TRAINED. -/
def execLinkTrained (p : Nat) (bundles : BitVec 8) (s : State) : Out :=
  onUnit (p < nPorts) (whenDo s.sys.tclk s (linkTrained p bundles))

/-- HELLO (R231, R232): the neighbour is recorded; one of another PART keeps the port DOWN. -/
def helloRx (p : Nat) (h : Hello) (s : State) : State :=
  let s := s.setFld (Fld.lnkPeer_peerStepMajor p) h.major
  let s := s.setFld (Fld.lnkPeer_peerStepMinor p) h.minor
  let s := s.setFld (Fld.lnkPeer_peerPart p) h.part
  let s := s.setFld (Fld.lnkPeer_peerPort p) h.port
  let s := s.setFld (Fld.lnkPeer_peerBoardPos p) h.boardPos
  let s := s.setFld (Fld.lnkPeer_peerOrigin p) (if h.origin then 1 else 0)
  let s := s.setFld (Fld.lnkPeer_valid p) 1
  let s := s.setRaw (Reg.lnkPeerSerial p) h.serial
  let s := s.setPort p { s.port p with heard := true }
  if h.part = 2 then s.portComesUp p
  else if s.portState p = pTraining then s.setPortState p pDown else s

/-- HELLO. -/
def execHello (p : Nat) (h : Hello) (s : State) : Out := onUnit (p < nPorts) (whenDo s.sys.tclk s (helloRx p h))

/-- PORT_TRAIN_RETRY (12 R428): a port that is not up trains again, every 175,000,000 beats from the end of P5; it hears its
neighbour anew. -/
def portTrainRetry (p : Nat) (s : State) : State :=
  match s.sys.retryBeat with
  | some b =>
    let due : Bool := b + 175000000 * ((s.port p).tries + 1) ≤ s.beat && (s.portState p = pDown || s.portState p = pFailed)
    let n := ((s.beat - b) / 175000000).toNat
    if due then (s.setPort p { s.port p with tries := n, heard := false }).setPortState p pTraining else s
  | none => s

/-- PORT_TRAIN_RETRY. -/
def execPortTrainRetry (p : Nat) (s : State) : Out := onUnit (p < nPorts) (whenDo s.sys.tclk s (portTrainRetry p))

end Sys2Proof.Machine
end

