-- ==== Sys2Proof/Machine/Loom.lean ====
section
/-!
DEFINITION. The loom (06 R231 to R256): discovery, the ring, express plans, THREAD_LOOM prepare and commit on this
device, the alignment of the beat, routing, and the loom messages that fault a device or stop a job.
-/
namespace Sys2Proof.Machine

/-! ### Discovery (R233 to R235) -/

def State.disc (s : State) : Disc := s.loom.disc
def State.setDisc (s : State) (d : Disc) : State := { s with loom := { s.loom with disc := d } }

/-- Whether the device takes part in loom traffic. -/
def State.onMesh (s : State) : Bool := s.sys.tclk && (s.serving || s.devState = stFaulted)

/-- Ports that are up. -/
def State.upPorts (s : State) : List Nat := (List.range nPorts).filter s.portUp

/-- Discovery coordinates appear in LNK_COORD, but for a device that is threaded, which keeps those of its threading. -/
def State.showCoords (s : State) (r c : Int) : State :=
  if s.devState = stThreaded then s
  else (s.setFld Fld.lnkCoord_row (r % 64).toNat).setFld Fld.lnkCoord_col (c % 128).toNat

/-- The neighbour's coordinates in LNK_PEER. -/
def State.notePeer (s : State) (p : Nat) (rc : Int × Int) : State :=
  (s.setFld (Fld.lnkPeer_peerRow p) (rc.1 % 64).toNat).setFld (Fld.lnkPeer_peerCol p) (rc.2 % 128).toNat

/-- Sends the flood of the discovery in force on some ports. -/
def State.sendFlood (s : State) (serial : W64) (r c : Int) (ps : List Nat) : State :=
  ps.foldl (fun s p => s.loomSend (.flood p ⟨serial, r, c, p⟩)) s

/-- Whether a context of this device is LAUNCHED. -/
def State.anyLaunched (s : State) : Bool := s.sched.ctxs.any fun e => e.2.st = .launched

/-- What this device reports of itself (R234). -/
def State.ownReport (s : State) : DiscReport :=
  ⟨Config.serial, s.disc.row, s.disc.col, s.sys.boardPos.toNat, s.sys.loomOrigin, Config.stepMajor.toNat,
   Config.stepMinor.toNat, s.anyLaunched,
   (List.range nPorts).map fun p => if s.portUp p then some (s.fld (Fld.lnkPeer_peerPort p)) else none,
   s.disc.twoPlaces, s.disc.timedOut⟩

/-- The first of some places in row order. -/
def firstPlace (xs : List (Int × Int)) : Option (Int × Int) :=
  match xs with
  | [] => none
  | x :: xs => some (xs.foldl (fun a b => if b.1 < a.1 ∨ (b.1 = a.1 ∧ b.2 < a.2) then b else a) x)

/-- The reports, and each condition of the discovery results table with the places that meet it. -/
structure Survey where
  nr : Int
  nc : Int
  places : List (Int × Int)
  deriving DecidableEq, Repr

def survey (rs : List DiscReport) : Survey :=
  { nr := rs.foldl (fun a r => max a (r.row + 1)) 0, nc := rs.foldl (fun a r => max a (r.col + 1)) 0,
    places := rs.map fun r => (r.row, r.col) }

def placesOf (rs : List DiscReport) (p : DiscReport → Bool) : List (Int × Int) := (rs.filter p).map fun r => (r.row, r.col)

/-- A link of a device joins the wrong ports. -/
def miswired (r : DiscReport) : Bool :=
  (List.range nPorts).any fun p => match r.faces.getD p none with
    | some q => q ≠ opposite p
    | none => false

/-- Whether a place lies in the rectangle from (0, 0). -/
def Survey.inside (v : Survey) (x : Int × Int) : Bool := 0 ≤ x.1 && 0 ≤ x.2 && x.1 < v.nr && x.2 < v.nc

/-- Places of the rectangle where no device is; none is sought in a loom past the size limits. -/
def Survey.holes (v : Survey) : List (Int × Int) :=
  if 64 < v.nr ∨ 128 < v.nc then []
  else (List.range v.nr.toNat).flatMap fun r => (List.range v.nc.toNat).filterMap fun c =>
    if v.places.contains ((r : Int), (c : Int)) then none else some ((r : Int), (c : Int))

/-- The conditions of the discovery results table with their offending places, in the order in which the model tests
them (log 24). -/
def findings (rs : List DiscReport) : List (Nat × List (Int × Int)) :=
  let v := survey rs
  let size := (v.places.filter fun x => 64 ≤ x.1 ∨ 128 ≤ x.2) ++ (if v.nr < 2 ∨ v.nc < 2 then [(0, 0)] else [])
  [(9, placesOf rs (·.timedOut)), (2, placesOf rs miswired),
   (3, placesOf rs (fun r => r.twoPlaces || 1 < v.places.count (r.row, r.col))),
   (8, placesOf rs fun r => r.row = 0 && r.col = 0 && (r.faces.getD 0 none ≠ none || r.faces.getD 3 none ≠ none)),
   (6, size), (4, v.places.filter (fun x => !v.inside x) ++ v.holes),
   (5, if v.nr % 2 = 1 then [(v.nr - 1, 0)] else []),
   (7, placesOf rs fun r => (r.boardPos : Int) ≠ 4 * (r.row % 4) + r.col % 4),
   (10, placesOf rs (·.launched)), (11, placesOf rs fun r => r.major ≠ Config.stepMajor.toNat)]

/-- The result of the reports, with the first offending place (R235). -/
def discVerdict (rs : List DiscReport) : Nat × Option (Int × Int) :=
  match (findings rs).find? fun f => !f.2.isEmpty with
  | some f => (f.1, firstPlace f.2)
  | none => (0, none)

/-- Status of DISCOVER for a result (R235). -/
def discStatus (r : Nat) : Status := if r = 0 then .ok else if r = 1 then .conflict else if r = 10 then .busy else .fault

/-- A discovery that this device originated ends with a result. -/
def State.endDiscovery (s : State) (result devices : Nat) (place : Option (Int × Int)) (value : W64) : State :=
  let w := place.getD (0, 0)
  let s := s.setFld Fld.lnkDisc_result result
  let s := s.setFld Fld.lnkDisc_devices devices
  let s := s.setFld Fld.lnkDisc_whereRow (w.1 % 64).toNat
  let s := s.setFld Fld.lnkDisc_whereCol (w.2 % 128).toNat
  let s := s.setFld Fld.lnkCoord_discState (if result = 0 then 2 else 3)
  let seq := s.disc.seq
  let s := s.setDisc { s.disc with live := false, seq := none, result := some result }
  match seq with
  | some q => s.complete q { status := discStatus result, value := value, data := leBytes (s.raw Reg.lnkDisc).toNat 8 }
  | none => s

/-- Reports to the parent, or settles the discovery at its origin, once every neighbour has answered and every child has
reported (R234, R235). -/
def State.discAdvance (s : State) : State :=
  let d := s.disc
  if d.live && d.waiting.isEmpty && d.children.all d.reported.contains then
    let rs := s.ownReport :: d.reports
    if d.isOrigin then
      let v := discVerdict rs
      s.endDiscovery v.1 rs.length v.2 Config.serial
    else
      let s := s.setDisc { d with live := false }
      let s := s.setFld Fld.lnkCoord_discState 2
      match d.parent with
      | some p => s.loomSend (.report p (d.origin.getD 0) rs)
      | none => s
  else s

/-- This device starts a discovery as its origin (R233). -/
def State.startDiscovery (s : State) (seq : Option W64) : State :=
  let ps := s.upPorts
  let s := s.setDisc { origin := some Config.serial, isOrigin := true, waiting := ps, seq := seq, beat := s.beat, live := true }
  let s := s.setRaw Reg.lnkOriginSerial Config.serial
  let s := s.setFld Fld.beatStatus_origin 1
  let s := s.setFld Fld.lnkCoord_discState 1
  let s := (s.showCoords 0 0).sendFlood Config.serial 0 0 ps
  s.discAdvance

/-- Whether the discovery that this device last took part in is over for it (log 131): one of its own has its result; of another
origin, all its devices have had time to answer. -/
def State.discOver (s : State) (f : Flood) : Bool :=
  let d := s.disc
  !d.live && (if d.isOrigin then d.origin ≠ some f.serial else d.origin = some f.serial || d.beat + 8750000 < s.beat)

/-- A flood reaches the device: the first of a discovery, or one of a lower serial, is taken up; every other is declined. -/
def discFlood (port : Nat) (f : Flood) (s : State) : State :=
  let d := s.disc
  let rc := stepTo f.row f.col f.port
  let s := s.notePeer port (f.row, f.col)
  let better : Bool := match d.origin with
    | none => true
    | some o => f.serial.ult o || s.discOver f
  if better then
    let s := if d.isOrigin && d.live then s.endDiscovery 1 0 none f.serial else s
    let ps := s.upPorts.filter (· ≠ port)
    let s := s.setDisc { origin := some f.serial, row := rc.1, col := rc.2, parent := some port, waiting := ps, beat := s.beat,
                         live := true, result := s.disc.result }
    let s := s.setRaw Reg.lnkOriginSerial f.serial
    let s := s.setFld Fld.beatStatus_origin 0
    let s := s.setFld Fld.lnkCoord_discState 1
    let s := (s.showCoords rc.1 rc.2).loomSend (.answer port f.serial true)
    (s.sendFlood f.serial rc.1 rc.2 ps).discAdvance
  else
    let clash : Bool := d.origin = some f.serial && (d.row, d.col) ≠ rc
    (s.setDisc { d with twoPlaces := d.twoPlaces || clash }).loomSend (.answer port f.serial false)

/-- DISC_FLOOD (R234). -/
def execDiscFlood (port : Nat) (f : Flood) (s : State) : Out := onUnit (port < nPorts) (whenDo s.onMesh s (discFlood port f))

/-- DISC_ANSWER: a neighbour accepts or declines. -/
def discAnswer (port : Nat) (serial : W64) (accept : Bool) (s : State) : State :=
  let d := s.disc
  if d.live && d.origin = some serial && d.waiting.contains port then
    let s := s.setDisc { d with waiting := d.waiting.filter (· ≠ port), children := if accept then port :: d.children else d.children }
    let s := if accept then s.notePeer port (stepTo d.row d.col port) else s
    s.discAdvance
  else s

/-- DISC_ANSWER (R234). -/
def execDiscAnswer (port : Nat) (serial : W64) (accept : Bool) (s : State) : Out :=
  onUnit (port < nPorts) (whenDo s.onMesh s (discAnswer port serial accept))

/-- DISC_REPORT: the reports of a child's subtree. -/
def discReport (port : Nat) (serial : W64) (reports : List DiscReport) (s : State) : State :=
  let d := s.disc
  if d.live && d.origin = some serial && d.children.contains port && !d.reported.contains port then
    (s.setDisc { d with reported := port :: d.reported, reports := d.reports ++ reports }).discAdvance
  else s

/-- DISC_REPORT (R234, R235). -/
def execDiscReport (port : Nat) (serial : W64) (reports : List DiscReport) (s : State) : Out :=
  onUnit (port < nPorts) (whenDo s.onMesh s (discReport port serial reports))

/-- DISC_TIMEOUT (R234): after 175,000 beats a silent neighbour counts as one that gave no answer. -/
def discTimeout (port : Nat) (s : State) : State :=
  let d := s.disc
  if d.live && d.waiting.contains port && d.beat + 175000 < s.beat then
    (s.setDisc { d with waiting := d.waiting.filter (· ≠ port), timedOut := true }).discAdvance
  else s

/-- DISC_TIMEOUT. -/
def execDiscTimeout (port : Nat) (s : State) : Out := onUnit (port < nPorts) (whenDo s.onMesh s (discTimeout port))

/-! ### Two-phase operations at the origin (log 23) -/

/-- Sends the prepare message of an operation to every device. -/
def State.sendPrepare (s : State) (o : LoomOp) : State := s.loomSend (.prepare o.kind o.arg o.arg2 o.data)

/-- Enters a two-phase operation; it starts when those before it have ended. -/
def State.startOp (s : State) (o : LoomOp) : State :=
  let s' := { s with loom := { s.loom with ops := s.loom.ops ++ [o] } }
  if s.loom.ops.isEmpty then s'.sendPrepare o else s'

/-- The running operation of a kind. -/
def State.opOf (s : State) (k : LoomOpKind) : Option LoomOp :=
  match s.loom.ops with
  | o :: _ => if o.kind = k then some o else none
  | [] => none

/-- The running operation has ended; the next one starts. -/
def State.nextOp (s : State) : State :=
  let s := { s with loom := { s.loom with ops := s.loom.ops.drop 1 } }
  match s.loom.ops with
  | o :: _ => s.sendPrepare o
  | [] => s

/-- Devices that an operation waits for. -/
def State.opDevices (s : State) (o : LoomOp) : Nat :=
  match o.kind with
  | .thread => o.arg * o.arg2
  | _ => s.loom.nr * s.loom.nc

/-- Records the reply of the device at (row, col), with the holder that it names. -/
def State.noteReply (s : State) (k : LoomOpKind) (row col : Nat) (st : Status) (holder : Nat := 0) : State :=
  match s.loom.ops with
  | o :: rest =>
    if o.kind = k ∧ !(o.replies.any fun r => r.1 = row && r.2.1 = col) then
      let o := { o with replies := o.replies ++ [(row, col, st)],
                        holders := if holder = 0 then o.holders else o.holders ++ [((row, col), holder)] }
      { s with loom := { s.loom with ops := o :: rest } }
    else s
  | [] => s

/-- HOLDER of the reply of the device at (row, col), 0 where it names none. -/
def LoomOp.holderOf (o : LoomOp) (row col : Nat) : Nat := ((o.holders.find? fun e => e.1 = (row, col)).map (·.2)).getD 0

/-- The first failing reply in row order. -/
def LoomOp.failure (o : LoomOp) (bad : Status → Bool) : Option (Nat × Nat × Status) :=
  (o.replies.filter fun r => bad r.2.2).foldl (fun (a : Option (Nat × Nat × Status)) r =>
    match a with
    | none => some r
    | some x => if r.1 < x.1 ∨ (r.1 = x.1 ∧ r.2.1 < x.2.1) then some r else some x) none

/-! ### Express plans (R227, R228) -/

/-- Whether a device lies on a path, not at an end of it. -/
def pathPasses (x : ExpressPath) (r c : Nat) : Bool :=
  1 < ((pathSpots x).filter fun e => e.1 = r && e.2.1 = c).length

/-- A path that its own fields break. -/
def pathBad (x : ExpressPath) (nr nc : Nat) : Bool :=
  let n := if x.aRow = x.bRow then max x.aCol x.bCol - min x.aCol x.bCol else max x.aRow x.bRow - min x.aRow x.bRow
  (x.aRow ≠ x.bRow && x.aCol ≠ x.bCol) || n < 2 || 9 < n || x.mask.getLsbD 0 ||
    nr ≤ x.aRow || nr ≤ x.bRow || nc ≤ x.aCol || nc ≤ x.bCol

/-- A path that passes a device by one of its ring ports. -/
def pathOnRing (x : ExpressPath) (nr nc : Nat) : Bool :=
  (pathSpots x).any fun e => pathPasses x e.1 e.2.1 &&
    (e.2.2 = aOutPort nr nc e.1 e.2.1 || e.2.2 = bOutPort nr nc e.1 e.2.1)

/-- Whether two paths claim one bundle. -/
def pathMeets (x y : ExpressPath) : Bool := (x.mask &&& y.mask) ≠ 0 && (pathSpots x).any (pathSpots y).contains

/-- Whether some pair of a list of paths claims one bundle. -/
def anyMeet : List ExpressPath → Bool
  | [] => false
  | x :: xs => xs.any (pathMeets x) || anyMeet xs

/-- An express plan that R227 refuses. -/
def planBad (nr nc : Nat) (ps : List ExpressPath) : Bool :=
  (ps.any fun x => pathBad x nr nc) || (ps.any fun x => pathOnRing x nr nc) || anyMeet ps

/-- Bundles of port `p` that the plan holds on device (r, c), and whether it passes there. -/
def planAt (ps : List ExpressPath) (r c p : Nat) : List (BitVec 8 × Bool) :=
  (ps.filter fun x => (pathSpots x).contains (r, c, p)).map fun x => (x.mask, pathPasses x r c)

/-- The bundle under a loopback claim that a plan or the threading needs (R228). -/
def State.heldBundle (s : State) (t : ThreadPrep) : Option Nat :=
  (List.range (nPorts * nBundles)).find? fun i =>
    let p := i / nBundles
    let b := i % nBundles
    s.fld (Fld.xptHolder_holder p b) = 2 &&
      (b = 0 || p = aOutPort t.nr t.nc t.row t.col || p = bOutPort t.nr t.nc t.row t.col ||
        (planAt t.paths t.row t.col p).any fun e => e.1.getLsbD b)

/-! ### THREAD_LOOM on this device (R238, 13 R466) -/

/-- The registers that a prepare changes. -/
def threadRegs : List Nat :=
  (List.range nPorts).map Reg.xptPort ++ [Reg.xptHolder] ++
    (List.range nPorts).flatMap fun p => (List.range nBundles).map (Reg.lnkBundle p)

/-- The mode and holder of bundle `b` of port `p` under a plan. -/
def State.setCross (s : State) (t : ThreadPrep) (p b : Nat) : State :=
  if s.fld (Fld.xptHolder_holder p b) = 2 then s
  else
    let mine := (planAt t.paths t.row t.col p).filter fun e => e.1.getLsbD b
    let trained := if s.bundleUp p b then 1 else 0
    let mode := if mine.any (·.2) then 2 else trained
    (s.setFld (Fld.xptPort_mode p b) mode).setFld (Fld.xptHolder_holder p b) (if mine.isEmpty then 0 else 1)

/-- The status of THREAD_LOOM prepare on this device. -/
def State.threadCheck (s : State) (t : ThreadPrep) : Status :=
  if s.devState = stFaulted ∧ s.fld Fld.devState_faultCause ≠ stCode .loomFault then .fault
  else if s.devState = stThreaded ∨ s.anyLaunched then .busy
  else if planBad t.nr t.nc t.paths then .badArgument
  else if (s.heldBundle t).isSome then .conflict
  else .ok

/-- THREAD_LOOM prepare: the crosspoint, the measured round trips and the replay shares. -/
def State.threadPrepare (s : State) (t : ThreadPrep) (rtts : List (Nat × Nat)) : State :=
  let undo := threadRegs.map fun off => (off, s.raw off)
  let s := { s with loom := { s.loom with undo := some undo, prep := some t, exchanges := 0, delay := none } }
  let s := (List.range (nPorts * nBundles)).foldl (fun s i => s.setCross t (i / nBundles) (i % nBundles)) s
  let s := rtts.foldl (fun s (e : Nat × Nat) =>
    if e.1 < nPorts * nBundles then s.setFld (Fld.lnkBundle_rtt (e.1 / nBundles) (e.1 % nBundles)) e.2 else s) s
  (List.range nPorts).foldl (fun s p => s.setShares p) s

/-- ROLE of port `p` (R237). -/
def State.roleOf (s : State) (t : ThreadPrep) (p : Nat) : Nat :=
  if p = aOutPort t.nr t.nc t.row t.col then 1 else if p = bOutPort t.nr t.nc t.row t.col then 2
  else if s.portUp p then 3 else 0

/-- The device's place after a commit. -/
def State.takePlace (s : State) (t : ThreadPrep) : State :=
  let pos := ringPos t.nr t.nc t.row t.col
  let l := s.loom
  let s := { s with loom := { l with
    nr := t.nr, nc := t.nc, row := t.row, col := t.col, pos := pos, aOut := aOutPort t.nr t.nc t.row t.col,
    bOut := bOutPort t.nr t.nc t.row t.col, isOrigin := l.disc.isOrigin, lastN := t.nr * t.nc, lastPos := pos,
    undo := none, prep := none, upAtCommit := s.upPorts, express := t.paths, stepBars := [], jobBars := [], barJobs := [],
    starts := [] } }
  let s := (List.range nPorts).foldl (fun s p => s.setFld (Fld.lnkPortStatus_role p) (s.roleOf t p)) s
  let s := s.setFld Fld.lnkCoord_ringPos pos
  let s := s.setFld Fld.lnkCoord_rowsM1 (t.nr - 1)
  let s := s.setFld Fld.lnkCoord_colsM1 (t.nc - 1)
  let s := s.setFld Fld.lnkCoord_row t.row
  let s := s.setFld Fld.lnkCoord_col t.col
  s.setFld Fld.beatStatus_treeDepth (t.row + t.col)

/-- Bases with a staged replacement. -/
def State.allStaged (s : State) : List Nat := s.warp.bases.filterMap fun e => if e.2.staged.isSome then some e.1 else none

/-- A staged replacement at a commit of THREAD_LOOM (13 R467): it completes where a device of the threading had committed
it, and is discarded otherwise. -/
def State.settleStaged (s : State) (replaced : List Nat) (b : Nat) : State :=
  if replaced.contains b then s.freeOld b (s.base b).step else s.dropStaging b

/-- A base at a commit of THREAD_LOOM: no step has begun, and its number is the highest that any device held. -/
def Base.rethread (x : Base) (step : W64) : Base :=
  { x with step := step, begun := false, passed := false, finished := false, skip := none, late := false, passesLeft := 0,
           planned := none }

/-- Step numbers at a commit (13 R466). -/
def State.setSteps (s : State) (steps : List (Nat × W64)) : State :=
  let s := s.warp.bases.foldl (fun s e => s.setBase e.1 (e.2.rethread e.2.step)) s
  steps.foldl (fun s (e : Nat × W64) => s.setBase e.1 ((s.base e.1).rethread e.2)) s

/-- Discards the shards of every base. -/
def State.discardShards (s : State) : State := s.warp.bases.foldl (fun s e => s.discardBase e.1) s

/-- THREAD_LOOM commit on this device. -/
def State.threadCommit (s : State) (t : ThreadPrep) (n : Nat) (steps : List (Nat × W64)) (replaced : List Nat) : State :=
  let same : Bool := s.loom.lastN = n && s.loom.lastPos = ringPos t.nr t.nc t.row t.col
  let s := s.allStaged.foldl (fun s b => s.settleStaged replaced b) s
  let s := if same then s else s.discardShards
  let s := s.setSteps steps
  let s := { s with warp := { s.warp with draft := none, waiting := none, prepared := none, nextEntry := 0, nextSeq := 0,
                                          lastStart := 0, lastFlits := 0, barBeat := [], passes := [] } }
  let s := s.setRaw Reg.warpDraftId 0
  let s := { s with cores := s.cores.mapVals fun (c : Core) => { c with deliver := [], experts := none } }
  let s := { s with sessions := s.sessions.mapVals fun x => x.map fun (y : Session) => { y with inStep := false } }
  (s.takePlace t).changeState stThreaded 15 0

/-- THREAD_COMMIT. The origin commits once every device has prepared, and THREAD_LOOM then completes (R238). -/
def threadCommitRx (n : Nat) (steps : List (Nat × W64)) (replaced : List Nat) (s : State) : State :=
  match s.loom.prep with
  | none => s
  | some t =>
    match s.opOf .thread with
    | none => s.threadCommit t n steps replaced
    | some o =>
      let ready : Bool := s.opDevices o ≤ o.replies.length && (o.failure (· ≠ .ok)).isNone
      if ready then ((s.threadCommit t n steps replaced).complete o.seq { value := BitVec.ofNat 64 n }).nextOp else s

/-- THREAD_COMMIT (R238, 13 R466, R467). -/
def execThreadCommit (n : Nat) (steps : List (Nat × W64)) (replaced : List Nat) (s : State) : Out :=
  .next (whenDo s.onMesh s (threadCommitRx n steps replaced))

/-! ### The beat (R251 to R256) -/

/-- Units of a beat value: 1/64 of an FCLK cycle, with 8 FCLK cycles to a beat (R252, 12 R430). -/
def beatUnits : Nat := 512

def moved (d b : Int) : Int := b + d

def Thread.shift (d : Int) (th : Thread) : Thread := { th with waitBeat := moved d th.waitBeat }
def Xfer.shift (d : Int) (x : Xfer) : Xfer := { x with served := x.served.map (moved d) }
def Stream.shift (d : Int) (x : Stream) : Stream := { x with slotWait := x.slotWait.map (moved d), out := x.out.map (Xfer.shift d) }
def Engine.shift (d : Int) (x : Engine) : Engine := { x with gapFrom := x.gapFrom.map (moved d) }

/-- The armed deadlines of a core. -/
def Core.shift (d : Int) (c : Core) : Core :=
  { c with threads := c.threads.mapVals (Thread.shift d), streams := c.streams.mapVals (Stream.shift d),
           settling := c.settling.mapVals (moved d), eng0 := c.eng0.shift d, eng1 := c.eng1.shift d }

def SentFlit.shift (d : Int) (f : SentFlit) : SentFlit := { f with beat := moved d f.beat }
def Bundle.shift (d : Int) (x : Bundle) : Bundle :=
  { x with unacked := x.unacked.map (SentFlit.shift d), retrainFrom := x.retrainFrom.map (moved d) }
def LoomBar.shift (d : Int) (x : LoomBar) : LoomBar := { x with firstBeat := x.firstBeat.map (moved d) }
def RmtOp.shift (d : Int) (o : RmtOp) : RmtOp := { o with beat := moved d o.beat }
def Recall.shift (d : Int) (r : Recall) : Recall := { r with until_ := moved d r.until_ }
def Pass.shift (d : Int) (x : Pass) : Pass := { x with lastBeat := moved d x.lastBeat, recalls := x.recalls.map (Recall.shift d) }
def VaultWork.shift (d : Int) : VaultWork → VaultWork
  | .own o h data => .own (o.shift d) h data
  | w => w
def Stack.shift (d : Int) (x : Stack) : Stack :=
  { x with idleFrom := moved d x.idleFrom, queue := x.queue.map (VaultWork.shift d) }
def Partition.shift (d : Int) (q : Partition) : Partition := { q with turn := q.turn.map fun t => (t.1, moved d t.2) }
def Qp.shift (d : Int) (q : Qp) : Qp :=
  { q with lastCnp := q.lastCnp.map (moved d), lastCut := q.lastCut.map (moved d), lastRaise := q.lastRaise.map (moved d),
           cnpSent := q.cnpSent.map (moved d), sentAt := q.sentAt.map (moved d) }

/-- Every armed deadline moves by the adjustment of an alignment (R251). -/
def State.shiftDeadlines (s : State) (d : Int) : State :=
  let loom := { s.loom with stepBars := s.loom.stepBars.mapVals (LoomBar.shift d), jobBars := s.loom.jobBars.mapVals (LoomBar.shift d),
                            disc := { s.loom.disc with beat := moved d s.loom.disc.beat } }
  let sys := { s.sys with underFrom := s.sys.underFrom.map (moved d), rampEnd := s.sys.rampEnd.map (moved d),
                          vidRamp := s.sys.vidRamp.map fun r => { r with start := moved d r.start },
                          retryBeat := s.sys.retryBeat.map (moved d) }
  let eth := { s.eth with qps := s.eth.qps.mapVals (Qp.shift d), errWindow := s.eth.errWindow.mapVals (moved d),
                          consBeat := s.eth.consBeat.mapVals (moved d), anegFrom := s.eth.anegFrom.map (moved d) }
  { s with
    cores := s.cores.mapVals (Core.shift d), bundles := s.bundles.mapVals (Bundle.shift d), loom := loom, sys := sys, eth := eth,
    rmt := s.rmt.mapVals (fun o => o.map (RmtOp.shift d)), vstacks := s.vstacks.mapVals (Stack.shift d),
    warp := { s.warp with passes := s.warp.passes.map (Pass.shift d), halvedAt := moved d s.warp.halvedAt,
                          barBeat := s.warp.barBeat.mapVals (moved d) },
    sched := { s.sched with parts := s.sched.parts.mapVals fun q => q.map (Partition.shift d) },
    ledger := { s.ledger with intervalFrom := moved d s.ledger.intervalFrom },
    clerks := s.clerks.mapVals fun c => { c with restarts := c.restarts.map (moved d) } }

/-- An alignment sets BEAT_COUNT (R251). -/
def State.alignTo (s : State) (n : Nat) : State :=
  let d : Int := (n : Int) - s.beat
  let s := s.shiftDeadlines d
  let s := s.setRaw Reg.beatAdjust (BitVec.ofInt 64 d)
  let s := s.setRaw Reg.beatCount (BitVec.ofNat 64 n)
  s.setFld Fld.beatStatus_aligned 1

/-- Child ports of the tree of the threading in force, or of the one being prepared. -/
def State.alignChildren (s : State) : List Nat :=
  match s.loom.prep with
  | some t => treeChildren t.nr t.nc t.row t.col
  | none => s.childPorts

/-- Sends a beat value down the tree. -/
def State.sendBeat (s : State) (value : Nat) : State :=
  s.alignChildren.foldl (fun s p => s.loomSend (.beat p value)) s

/-- Timing exchanges on a link (R252). -/
def timingExchanges : Nat := 16

/-- BEAT_TIMING_EXCHANGE: the smallest round trip of 16 exchanges is kept. -/
def beatTimingExchange (t0 t1 t2 t3 : Nat) (s : State) : State :=
  let rt := (t3 - t0) - (t2 - t1)
  let fresh : Bool := timingExchanges ≤ s.loom.exchanges
  let best := if fresh then rt else match s.loom.delay with
    | some d => min d rt
    | none => rt
  { s with loom := { s.loom with delay := some best, exchanges := if fresh then 1 else s.loom.exchanges + 1 } }

/-- BEAT_TIMING_EXCHANGE (R252). -/
def execBeatTimingExchange (t0 t1 t2 t3 : Nat) (s : State) : Out :=
  .next (whenDo s.onMesh s (beatTimingExchange t0 t1 t2 t3))

/-- The value that comes down the tree, with the link delay: it goes on down, and sets the count at the next TCLK edge. -/
def State.takeBeat (s : State) (value : Nat) : State :=
  let v := value + s.loom.delay.getD 0 / 2
  let s := s.sendBeat v
  let s := { s with loom := { s.loom with frac := v % beatUnits, exchanges := 0, delay := none } }
  s.alignTo (ceilDiv v beatUnits)

/-- The origin sends its count down the tree, which stands unchanged (R252). -/
def State.originBeat (s : State) : State :=
  (((s.sendBeat (s.beat * beatUnits)).setRaw Reg.beatAdjust 0).setFld Fld.beatStatus_aligned 1)

/-- A context whose start is among those due starts. -/
def Context.startDue (due : List (Nat × Nat)) (c : Context) : Context :=
  let hit : Bool := due.any fun e => e.1 = c.job && c.startBeat = some e.2
  if hit then { c with startBeat := none } else c

/-- START_BEAT_REACHED (R255): the starts whose beat has come. -/
def startBeatReached (s : State) : State :=
  let due := s.loom.starts.filter fun e => e.2 ≤ s.beat
  let s := { s with loom := { s.loom with starts := s.loom.starts.filter fun e => s.beat < e.2 } }
  { s with sched := { s.sched with ctxs := s.sched.ctxs.mapVals (Context.startDue due) } }

/-- START_BEAT_REACHED. -/
def execStartBeatReached (s : State) : Out := .next (whenDo s.sys.tclk s startBeatReached)

/-- BEAT_MARK (R256): the pulse at a beat whose low MARK_SHIFT bits are 0. -/
def beatMark (s : State) : State :=
  let k := s.fld Fld.beatCtrl_markShift
  if k ≠ 0 ∧ s.beat % 2 ^ k = 0 then s.drive 0 true else s

/-- BEAT_MARK. -/
def execBeatMark (s : State) : Out := .next (whenDo s.sys.tclk s beatMark)

/-! ### Routing (R246) -/

/-- ROUTED_FLIT: a flit for another device goes one hop on; the content of one for this device arrives by its own row. -/
def routedFlit (type : Nat) (route : BitVec 27) (payload : Bytes) (s : State) : State :=
  let dr := bitsOf route.toNat 26 21
  let dc := bitsOf route.toNat 20 14
  match s.hopTo dr dc with
  | none => s
  | some p =>
    let f : OutFlit := { type := type, vc := (typeVc type).getD 0, route := route, payload := payload, mask := s.expressMask p dr dc }
    (s.queueFlits [(p, f)]).charge sharedAcct lLink 240

/-- ROUTED_FLIT (R246). -/
def execRoutedFlit (port type : Nat) (route : BitVec 27) (payload : Bytes) (s : State) : Out :=
  onUnit (port < nPorts) (whenDo (s.sys.tclk && s.devState = stThreaded) s (routedFlit type route payload))

/-! ### Messages that stop work -/

/-- FAULT_FLIT (R239). -/
def execFaultFlit (port : Nat) (loc : Option (Nat × Nat)) (s : State) : Out :=
  onUnit (port < nPorts) (whenDo (s.sys.tclk && s.devState = stThreaded) s fun s => s.loomFault (some port) 5 loc)

/-- JOB_STOP (13 R462, R465). -/
def execJobStop (job : Nat) (status : Status) (s : State) : Out :=
  .next (whenDo (s.sys.tclk && s.devState = stThreaded) s fun s => s.stopJob job status)

end Sys2Proof.Machine
end

