-- ==== Sys2Proof/Machine/Sessions.lean ====
section
/-!
DEFINITION. Sessions (01 R12 to R14, R25, R31 to R34; 10 R390 to R393, R401): their memory in the serving window (05 R197,
R198; 08 R320, R321), which of them take part in a step, opening, feeding, closing and migration.
-/
namespace Sys2Proof.Machine

/-! ### The step plan's header (08 table Step plan header) -/

def planPre (c : Context) : Nat := byteAt c.plan 6
def planLayer (c : Context) : Nat := byteAt c.plan 7
def planPost (c : Context) : Nat := byteAt c.plan 8
def planKvFmt (c : Context) : Nat := byteAt c.plan 9
def planHeads (c : Context) : Nat := byteAt c.plan 10
def planHp (c : Context) : Nat := byteAt c.plan 11
def planDim (c : Context) : Nat := field c.plan 12 2

/-- Bytes of one KV element: 2 for BF16, else 1 (05 R197). -/
def kvSize (c : Context) : Nat := if planKvFmt c = 4 then 2 else 1
def kvRow (c : Context) : Nat := 2 * planHeads c * planDim c * kvSize c
def kvGroups (c : Context) : Nat := planHeads c / planHp c
/-- Token slots of one stack's part of a page: Q (R197). -/
def kvSlots (c : Context) : Nat := 4096 / (2 * planHp c * planDim c * kvSize c)
/-- Tokens of a page: P. -/
def kvTokens (c : Context) : Nat := 16 * kvSlots c

/-! ### The serving window (08 R320) -/

def stepTableAddr : Nat := 0x8000000000
def tokenArrayAddr : Nat := 0x8000800000
def windowLo : Nat := 0x8001000000
def stagingAddr : Nat := 0xC000000000

/-- KV staging of row `r` of layer `l`. -/
def stagingOf (c : Context) (l r : Nat) : Nat := stagingAddr + (l * 131072 + r) * kvRow c

/-- The lowest run of `n` unmapped translation pages where the clerks place sessions and wefts. -/
def freeWindow (pages : SMap PageSt) (n : Nat) : Option Nat :=
  let lo := windowLo / pageBytes
  let hi := stagingAddr / pageBytes
  let keys := (pages.filter fun e => e.2 ≠ .unmapped).map (·.1)
  let starts := lo :: ((keys.map (· + 1)).filter fun k => lo ≤ k)
  let fits := starts.filter fun a => a + n ≤ hi && !keys.any fun k => a ≤ k && k < a + n
  lowest fits

/-- The pages with frames mapped from page `first` on. -/
def mapFrames (pages : SMap PageSt) (first : Nat) (frames : List Nat) : SMap PageSt :=
  (frames.zip (List.range frames.length)).foldl (fun m e => SMap.put m (first + e.2) (.resident e.1)) pages

/-- The pages without `n` of them from page `first` on. -/
def unmapPages (pages : SMap PageSt) (first n : Nat) : SMap PageSt := SMap.keep pages fun k => k < first || first + n ≤ k

/-! ### The windows of a client's wefts -/

/-- Pages of every context of a client, and the places of its wefts and of their replacements. -/
def State.clientPages (s : State) (client : Nat) : SMap PageSt :=
  let ctxs := (s.sched.ctxs.filter fun e => e.2.st ≠ .free && e.2.client = client).flatMap fun e => e.2.pages
  let span := fun (a n : Nat) => (List.range n).map fun i => (a / pageBytes + i, PageSt.hostBacked)
  let wefts := s.warp.wefts.flatMap fun e => match e.2 with
    | some x => if x.client = client then
        span x.progAddr x.pages.length ++ (match x.staged with
          | some g => span g.progAddr g.frames.length
          | none => []) else []
    | none => []
  ctxs ++ wefts

/-- Unmaps the pages of a weft from every context of its client. -/
def State.unmapWeft (s : State) (x : Weft) : State :=
  { s with sched := { s.sched with ctxs := s.sched.ctxs.mapVals fun c =>
      if c.st ≠ .free ∧ c.client = x.client then
        { c with pages := unmapPages c.pages (x.progAddr / pageBytes) x.pages.length } else c } }

/-- A staged replacement of a weft comes into use: the old contents wait for the commit of the step. -/
def State.useStage (s : State) (w : Nat) (x : Weft) (g : WeftStage) : State :=
  let s := s.unmapWeft x
  let y := { x with pages := g.frames.map some, version := g.version, anchor := g.anchor, total := g.total, staged := none,
                    old := some (x.pages.filterMap id, g.seq), progAddr := g.progAddr }
  (s.setWeft w y).mapWeft y

/-! ### Sessions of a base -/

def State.session (s : State) (n : Nat) : Option Session := SMap.get s.sessions none n
def State.setSession (s : State) (n : Nat) (x : Session) : State := { s with sessions := SMap.put s.sessions n (some x) }
def State.modSession (s : State) (n : Nat) (f : Session → Session) : State :=
  match s.session n with
  | some x => s.setSession n (f x)
  | none => s

/-- Sessions with their ids, in increasing id. -/
def State.openSessions (s : State) : List (Nat × Session) :=
  s.sessions.filterMap fun e => e.2.map fun x => (e.1, x)

def State.sessionsOn (s : State) (b : Nat) : List (Nat × Session) := s.openSessions.filter fun e => e.2.base = b

/-- Whether the SERVING context of a session runs: LAUNCHED, started and resident (08 R333). -/
def State.served (s : State) (x : Session) : Bool :=
  match s.servingCtx x.client x.base with
  | some k => (s.ctx k).st = .launched && (s.ctx k).resident && (s.ctx k).startBeat.isNone
  | none => false

/-- Whether a ring stops its sessions (10 R401). -/
def State.ringStops (s : State) (ring : Nat) : Bool := s.eth.fullRings.contains ring

/-- Whether a session has a row to run: queued tokens, or a decode row (10 R392). -/
def Session.hasRow (x : Session) : Bool := !x.prompt.isEmpty || !x.promptOpen

/-- Whether a session may take part in step `step` (R32, R34, R333, R401). -/
def State.mayTakePart (s : State) (x : Session) (step : W64) : Bool :=
  !x.ended && x.left_.isNone && x.joinStep.ule step && s.served x && !s.ringStops x.ring

/-- Sessions of a base that receive no token because they are not served (08 R333, 10 R401). -/
def State.unservedOn (s : State) (b : Nat) : List (Nat × Session) :=
  (s.sessionsOn b).filter fun e => !e.2.ended && !e.2.inStep && e.2.hasRow && (!s.served e.2 || s.ringStops e.2.ring)

/-! ### Session groups (01 R31) -/

/-- Sessions of a client and base by group. The lattice belongs to a SERVING context, so the sessions that fill its groups are
those of its client on that base: where several clients serve one base, each context counts its own (DEDUCED, log 124). -/
def State.groupSize (s : State) (client b g : Nat) : Nat :=
  (s.openSessions.filter fun e => e.2.client = client && e.2.base = b && e.2.group = g).length

/-- The group with the fewest sessions, the lowest on a tie. -/
def State.pickGroup (s : State) (client b n : Nat) : Nat :=
  (List.range n).foldl (fun a g => if s.groupSize client b g < s.groupSize client b a then g else a) 0

/-! ### The memory of a session (05 R197, R198; 08 R321) -/

/-- Where the parts of a session lie in its run of frames. -/
structure SessLayout where
  lists : Nat
  perList : Nat
  listLen : Nat
  paramsOff : Nat
  kvOff : Nat
  kvPages : Nat
  frames : Nat
  deriving DecidableEq, Repr

/-- The layout for a maximum context of `m` tokens. -/
def sessLayout (c : Context) (layers m paramsLen : Nat) : SessLayout :=
  let lists := layers * kvGroups c
  let per := ceilDiv m (kvTokens c)
  let listLen := roundUp (4 * per) 64
  let paramsOff := roundUp (8 * lists) 64 + lists * listLen
  let kvOff := roundUp (paramsOff + paramsLen) 65536
  { lists := lists, perList := per, listLen := listLen, paramsOff := paramsOff, kvOff := kvOff, kvPages := lists * per,
    frames := ceilDiv (kvOff + lists * per * 65536) pageBytes }

/-- Physical address of offset `off` of a run of frames. -/
def inFrames (frames : List Nat) (off : Nat) : Nat := frames.getD (off / pageBytes) 0 * pageBytes + off % pageBytes

/-- The page directory, the page lists and the parameter block of a session at program address `start`. -/
def SessLayout.image (l : SessLayout) (start : Nat) (params : Bytes) : Bytes :=
  let listAt := fun (i : Nat) => roundUp (8 * l.lists) 64 + i * l.listLen
  let pad := fun (bs : Bytes) (n : Nat) => bs ++ List.replicate (n - bs.length) 0
  let dir := (List.range l.lists).flatMap fun i => leBytes (start + listAt i) 8
  let lists := (List.range l.lists).flatMap fun i =>
    pad ((List.range l.perList).flatMap fun j => leBytes ((start + l.kvOff) / 65536 + i * l.perList + j) 4) l.listLen
  pad dir (roundUp (8 * l.lists) 64) ++ lists ++ params

/-- Stores bytes across a run of frames. -/
def State.storeFrames (s : State) (frames : List Nat) (off : Nat) (bs : Bytes) : State :=
  s.clerkWrite ((bs.zip (List.range bs.length)).map fun e => (inFrames frames (off + e.2), e.1))

/-- The lowest free session id (R391): none whose last session still has a token to be posted. -/
def State.freeSessionId (s : State) : Option Nat :=
  firstFrom (fun n => (s.session n).isNone && !s.eth.tokens.any fun e => e.2.any fun t => t.session = n) 0 65536

/-- Gives a session its memory in the context `k`; none where the reservation cannot be met. -/
def State.placeSession (s : State) (k n : Nat) (x : Session) : Option State :=
  let c := s.ctx k
  let layers := ((s.base x.base).model.map (·.layers)).getD 0
  let l := sessLayout c layers x.maxCtx x.params.length
  match freeWindow (s.clientPages c.client) l.frames, s.reserve framePages l.frames (.session n) (some x.client) with
  | some first, some (runs, s) =>
    let frames := runs.map (· / framePages)
    let start := first * pageBytes
    let kv := (List.range l.kvPages).map fun i => inFrames frames (l.kvOff + 65536 * i)
    let s := s.storeFrames frames 0 (l.image start x.params)
    let s := s.modCtx k fun c => { c with pages := mapFrames c.pages first frames }
    some (s.setSession n { x with pages := kv, dir := start, paramsAddr := start + l.paramsOff, frames := frames })
  | _, _ => none

/-- A session leaves the device: its pages are free, its id is free. -/
def State.freeSession (s : State) (n : Nat) : State :=
  match s.session n with
  | none => s
  | some x =>
    let s := s.freeHeld (.session n)
    let s := match s.servingCtx x.client x.base with
      | some k => s.modCtx k fun c => { c with pages := unmapPages c.pages (x.dir / pageBytes) x.frames.length }
      | none => s
    { s with sessions := SMap.del s.sessions n }

/-! ### OPEN_SESSION -/

/-- Staging rows for the open sessions and `prefill` prefill rows (08 R322): translation pages that are still unmapped. -/
def State.stagingPages (s : State) (k prefill : Nat) : List Nat :=
  let c := s.ctx k
  let layers := ((s.base c.base).model.map (·.layers)).getD 0
  let rows := (s.openSessions.filter fun e => e.2.client = c.client && e.2.base = c.base).length + prefill
  let need := (List.range layers).flatMap fun l =>
    let a := stagingOf c l 0
    let n := rows * kvRow c
    if n = 0 then [] else (List.range ((a + n - 1) / pageBytes - a / pageBytes + 1)).map (a / pageBytes + ·)
  need.dedup.filter fun p => SMap.get c.pages .unmapped p = .unmapped

/-- Maps translation pages of a context to frames of its client; none where they cannot be found. -/
def State.mapFresh (s : State) (k : Nat) (ps : List Nat) : Option State :=
  match s.reserve framePages ps.length (.client (s.ctx k).client) (some (s.ctx k).client) with
  | some (runs, s) =>
    some (s.modCtx k fun c => { c with pages := (ps.zip runs).foldl (fun m e => SMap.put m e.1 (.resident (e.2 / framePages))) c.pages })
  | none => none

/-- Staging for one more session of a context, reserved together with the session's KV pages (08 R322). -/
def State.growStaging (s : State) (k : Nat) : Option State := s.mapFresh k (s.stagingPages k (s.ctx k).prefillMax)

/-- The refusal of OPEN_SESSION. Where several apply the spec does not say which is answered: the model tries a field out of its
range, NOT_FOUND, DENIED, a weft of another base, and last NO_RESOURCE (DESIGN CHOICE, log 65). -/
def State.openRefusal (s : State) (client base : Nat) (weft : Option Nat) (ring maxCtx : Nat) (params : Bytes) : Option Status :=
  let w := weft.bind s.weft
  if 64 ≤ base ∨ 255 ≤ ring ∨ maxCtx = 0 ∨ 16777215 < maxCtx ∨ 4096 < params.length ∨ !s.flag (Fld.ethRingCfg_enable ring) then
    some .badArgument
  else if !s.inDraft base ∨ (s.servingCtx client base).isNone then some .notFound
  else
    match weft, w with
    | none, _ => none
    | some _, none => some .notFound
    | some _, some x =>
      if x.client ≠ client then some .denied
      else if !x.resident then some .notFound
      else if x.base ≠ base then some .badArgument else none

/-- OPEN_SESSION runs (R13, R14, R18, R31, R33). -/
def State.openSession (s : State) (seq : W64) (client base : Nat) (weft : Option Nat) (ring maxCtx : Nat) (seed : W64)
    (params : Bytes) : State :=
  match s.openRefusal client base weft ring maxCtx params with
  | some st => s.complete seq (.fail st)
  | none =>
    match s.freeSessionId, s.servingCtx client base with
    | some n, some k =>
      let x : Session := { client := client, base := base, weft := weft, ring := ring, maxCtx := maxCtx, seed := seed,
                           params := params, paramsAddr := 0, group := s.pickGroup client base (s.ctx k).latS, pages := [], dir := 0 }
      match (s.placeSession k n x).bind fun s => s.growStaging k with
      | some s => s.complete seq { value := BitVec.ofNat 64 n }
      | none => s.complete seq (.fail .noResource)
    | _, _ => s.complete seq (.fail .noResource)

def thrOnly : States := { threaded := true }
def rdyThr : States := { ready := true, threaded := true }
def anyState : States := { ready := true, threaded := true, faulted := true }

/-- Names the client of a session that a command names. -/
def State.forSession (s : State) (seq : W64) (n : Nat) : State :=
  match s.session n with
  | some x => s.forClient seq x.client
  | none => s

/-- OPEN_SESSION (10 R390). -/
def execOpenSession (seq : W64) (client : W16) (base : Byte) (weft : Option W16) (ring : Byte) (maxCtx : W32) (seed : W64)
    (params : Bytes) (s : State) : Out :=
  genotOn ([(2, base.toNat)] ++ (weft.map fun w => (3, w.toNat)).toList) 0x60 seq thrOnly (fun s =>
    (s.forClient seq client.toNat).openSession seq client.toNat base.toNat (weft.map (·.toNat)) ring.toNat maxCtx.toNat seed params) s

/-! ### FEED_PROMPT -/

/-- Queues `toks` for a session at its acceptance; those still to be read from the host are marked. -/
def Session.feed (x : Session) (toks : List W32) (last here : Bool) (beat order : Nat) : Session :=
  let n := toks.length
  let new := (toks.zip (List.range n)).map fun e =>
    ({ tok := e.1, last := last && e.2 + 1 = n, beat := beat, order := order, here := here } : PromptTok)
  { x with prompt := x.prompt ++ new, promptOpen := !last, firstAfter := x.firstAfter }

/-- The tokens of a prompt that was read from the host. -/
def fillPrompt (order : Nat) : List PromptTok → List W32 → List PromptTok
  | [], _ => []
  | p :: ps, ts =>
    if p.order = order ∧ !p.here then
      match ts with
      | t :: ts => { p with tok := t, here := true } :: fillPrompt order ps ts
      | [] => p :: fillPrompt order ps []
    else p :: fillPrompt order ps ts

/-- Tokens of a run of bytes. -/
def tokensOf (n : Nat) (bs : Bytes) : List W32 := (pieces 4 n bs).map fun b => BitVec.ofNat 32 (leNat b)

/-- Beat at which a running command was accepted. -/
def State.acceptedAt (s : State) (seq : W64) : Nat := ((s.running? seq).map (·.acceptBeat)).getD s.beat

/-- FEED_PROMPT runs: position of its first token is the committed length with the queued tokens (log 26). -/
def State.feedPrompt (s : State) (seq : W64) (n count : Nat) (last : Bool) (toks : List W32) (region : Option Region) : State :=
  match s.session n with
  | none => s.complete seq (.fail .notFound)
  | some x =>
    let pos := x.committed + x.prompt.length
    let bad : Bool := count = 0 || (region.isNone && (4092 < count || toks.length ≠ count)) || 16777215 < count ||
      x.maxCtx < pos + count
    if x.left_.isSome then s.complete seq (.fail .notFound)
    else if bad then s.complete seq (.fail .badArgument)
    else
      let order := s.eth.order
      let beat := s.acceptedAt seq
      let s := { s with eth := { s.eth with order := order + 1 } }
      match region with
      | none => (s.setSession n (x.feed toks last true beat order)).complete seq { value := BitVec.ofNat 64 pos }
      | some r =>
        if s.regionBad r then s.complete seq badRegion
        else if r.length.toNat < 4 * count then s.complete seq (.fail .badArgument)
        else
          let s := s.setSession n (x.feed (List.replicate count 0) last false beat order)
          s.startRead seq [n, order, pos, count, if x.promptOpen then 1 else 0] r

/-- FEED_PROMPT (10 R390, R392). -/
def execFeedPrompt (seq : W64) (session : W32) (count : W32) (last : Bool) (tokens : List W32) (region : Option Region)
    (s : State) : Out :=
  genotOn [(1, session.toNat)] 0x61 seq thrOnly (fun s => (s.forSession seq session.toNat).feedPrompt seq session.toNat count.toNat last tokens region) s

/-- The host's answer to the read of a FEED_PROMPT; without its tokens the prompt is withdrawn, and the command completes with `a`. -/
def State.feedRead (s : State) (r : Running) (data : Option Bytes) (a : Answer) : State :=
  let n := r.args.getD 0 0
  let order := r.args.getD 1 0
  let pos := r.args.getD 2 0
  match data with
  | some bs =>
    let s := s.modSession n fun x => { x with prompt := fillPrompt order x.prompt (tokensOf (r.args.getD 3 0) bs) }
    (s.charge (s.ethAcct r.seq) lEth bs.length).complete r.seq { value := BitVec.ofNat 64 pos }
  | none =>
    let s := s.modSession n fun x => 
      { x with prompt := x.prompt.filter fun p => p.order ≠ order, promptOpen := r.args.getD 4 1 = 1 }
    s.complete r.seq a

/-! ### CLOSE_SESSION and MIGRATE_SESSION -/

/-- Whether no commit is to come for a session (R393). -/
def State.noCommits (s : State) (x : Session) : Bool :=
  !s.inDraft x.base || s.devState = stFaulted ||
    (match s.servingCtx x.client x.base with
      | some k => (s.ctx k).st ≠ .launched
      | none => true)

/-- CLOSE_SESSION takes effect (R26): VALUE is the committed length. -/
def State.closeNow (s : State) (n : Nat) (seq : W64) : State :=
  match s.session n with
  | some x => (s.freeSession n).complete seq { value := BitVec.ofNat 64 x.committed }
  | none => s.complete seq (.fail .notFound)

/-- CLOSE_SESSION runs. -/
def State.closeSession (s : State) (seq : W64) (n : Nat) : State :=
  match s.session n with
  | none => s.complete seq (.fail .notFound)
  | some x =>
    if x.closing.isSome ∨ x.left_.isSome then s.complete seq (.fail .notFound)
    else if s.noCommits x then s.closeNow n seq
    else s.setSession n { x with closing := some (s.acceptedAt seq, seq) }

/-- CLOSE_SESSION (10 R390, R393). -/
def execCloseSession (seq : W64) (session : W32) (s : State) : Out :=
  genotOn [(1, session.toNat)] 0x62 seq { threaded := true, faulted := true } (fun s => (s.forSession seq session.toNat).closeSession seq session.toNat) s

/-- What MIGRATE flits carry of a session (R32), its KV pages with their bytes. -/
def Session.migState (x : Session) (kv : List Bytes) : MigSession :=
  { client := x.client, base := x.base, weft := x.weft, ring := x.ring, maxCtx := x.maxCtx, seed := x.seed, params := x.params,
    committed := x.committed, history := x.history, lastTok := x.lastTok, prompt := x.prompt.map fun p => (p.tok, p.last), promptOpen := x.promptOpen,
    kv := kv }

/-- Bytes that the MIGRATE flits of a session carry: its KV, its token history and its prompt (log 27). -/
def MigSessionBytes (m : MigSession) : Nat :=
  64 + m.params.length + 4 * m.history.length + 4 * m.prompt.length + 65536 * m.kv.length

/-- The migration is taken (R32): the session takes part in no later step here, and its state goes to the target. -/
def State.takeMigration (s : State) (n : Nat) (step : W64) : State :=
  match s.session n with
  | none => s
  | some x =>
    match x.migrating with
    | none => s
    | some (seq, row, col) =>
      let kv := x.pages.foldl (fun (r : State × List Bytes) a =>
        let y := r.1.clerkLoad a 65536
        (y.1, r.2 ++ [y.2])) (s, [])
      let m := x.migState kv.2
      let s := kv.1.charge x.client lLink (240 * ceilDiv (MigSessionBytes m) 240)
      let s := s.setSession n { x with left_ := some step, inStep := false }
      s.loomSend (.migrate row col (.state s.loom.row s.loom.col seq m))

/-- MIGRATE_SESSION runs. -/
def State.migrateSession (s : State) (seq : W64) (n row col : Nat) : State :=
  match s.session n with
  | none => s.complete seq (.fail .notFound)
  | some x =>
    if x.closing.isSome ∨ x.migrating.isSome then s.complete seq (.fail .notFound)
    else if s.loom.nr ≤ row ∨ s.loom.nc ≤ col ∨ (row = s.loom.row ∧ col = s.loom.col) then s.complete seq (.fail .badArgument)
    else
      let s := s.setSession n { x with migrating := some (seq, row, col), migBeat := s.acceptedAt seq }
      if s.noCommits x then s.takeMigration n (s.base x.base).step else s

/-- MIGRATE_SESSION (10 R390, R393). -/
def execMigrateSession (seq : W64) (session : W32) (row col : Byte) (s : State) : Out :=
  genotOn [(1, session.toNat)] 0x63 seq thrOnly (fun s => (s.forSession seq session.toNat).migrateSession seq session.toNat row.toNat col.toNat) s

/-- The target refuses a migration (R393): no SERVING context, a weft that is absent or another client's, no room. -/
def State.migRefusal (s : State) (m : MigSession) : Option Status :=
  if (s.servingCtx m.client m.base).isNone then some .notFound
  else
    match m.weft with
    | none => none
    | some w =>
      match s.weft w with
      | none => some .notFound
      | some x => if !x.resident then some .notFound else if x.client ≠ m.client then some .denied else none

/-- The session as the target holds it: it joins from the first step that begins after its KV has arrived. -/
def State.arrived (s : State) (k : Nat) (m : MigSession) : Session :=
  let b := s.base m.base
  let toks := m.prompt.map fun p => ({ tok := p.1, last := p.2, beat := s.beat, order := s.eth.order } : PromptTok)
  { client := m.client, base := m.base, weft := m.weft, ring := m.ring, maxCtx := m.maxCtx, seed := m.seed, params := m.params,
    paramsAddr := 0, group := s.pickGroup m.client m.base (s.ctx k).latS, committed := m.committed, history := m.history,
    lastTok := m.lastTok,
    prompt := toks, promptOpen := m.promptOpen, pages := [], dir := 0, ended := decide (m.maxCtx ≤ m.committed),
    joinStep := if b.begun then b.step + 1 else b.step }

/-- The target takes the session, or answers why not. -/
def State.migIn (s : State) (row col : Nat) (seq : W64) (m : MigSession) : State :=
  let answer := fun (s : State) (st : Status) (id : Nat) => s.loomSend (.migrate row col (.reply seq st id))
  match s.migRefusal m with
  | some st => answer s st 0
  | none =>
    match s.freeSessionId, s.servingCtx m.client m.base with
    | some n, some k =>
      match (s.placeSession k n (s.arrived k m)).bind fun s => s.growStaging k with
      | some s =>
        let pages := ((s.session n).map (·.pages)).getD []
        let s := { s with eth := { s.eth with order := s.eth.order + 1 } }
        let s := (pages.zip m.kv).foldl (fun (s : State) e => s.clerkStore e.1 e.2) s
        answer s .ok n
      | none => answer s .noResource 0
    | _, _ => answer s .noResource 0

/-- The source takes the target's answer: the session has moved, or goes on here. -/
def State.migBack (s : State) (seq : W64) (st : Status) (id : Nat) : State :=
  match s.openSessions.find? fun e => (e.2.migrating.map (·.1)) = some seq with
  | none => s
  | some (n, x) =>
    let place := x.migrating.map (·.2)
    if st = .ok then
      (s.freeSession n).complete seq { value := BitVec.ofNat 64 id, data := leBytes ((x.left_.getD 0).toNat) 8 }
    else (s.setSession n { x with migrating := none, left_ := none }).complete seq { status := st, loc := place }

/-- MIGRATE_RX (R32, R393). -/
def execMigrateRx (m : MigMsg) (s : State) : Out :=
  .next (whenDo (s.sys.tclk && s.devState = stThreaded) s fun s => s.betweenCommands fun s => match m with
    | .state row col seq m => s.migIn row col seq m
    | .reply seq st id => s.migBack seq st id)

end Sys2Proof.Machine
end

