-- ==== Sys2Proof/Machine/Warp.lean ====
section
/-!
DEFINITION. The geometry of warp circulation (07 R259 to R267, R274 to R278; 01 R30; 05 R206): the images of a layer, its
flits and their homes, drafts, and the images that a core of the lattice receives.
-/
namespace Sys2Proof.Machine

/-! ### Images and flits of a layer (R259 to R262) -/

def fmtOf (m : Model) : EFmt := (efmt m.fmt).getD .e4m3
/-- Columns of a column block. -/
def blockCols (m : Model) : Nat := if fmtOf m = .mxfp4 then 256 else 128
def imgLen (m : Model) : Nat := imageSize (fmtOf m)

/-- A matrix as a pass of an orientation carries it: K and C exchanged in a transposed pass. -/
def orient (tr : Bool) (x : Matrix) : Matrix := if tr then { x with k := x.c, c := x.k } else x

def matBlocks (m : Model) (x : Matrix) : Nat := ceilDiv x.c (blockCols m)
def matSegs (x : Matrix) : Nat := ceilDiv x.k 128
def matImages (m : Model) (x : Matrix) : Nat := matBlocks m x * matSegs x

/-- Matrices in table order, in an orientation. -/
def passMats (m : Model) (tr : Bool) : List Matrix := m.matrices.map (orient tr)

/-- Images of one layer. -/
def layerImages (m : Model) (tr : Bool) : Nat := ((passMats m tr).map (matImages m)).sum

/-- First image of matrix `i` in the canonical order. -/
def matStart (m : Model) (tr : Bool) (i : Nat) : Nat := (((passMats m tr).take i).map (matImages m)).sum

def flitLen : Nat := 232

/-- Images homed at position `k` of an N-device loom in a transposed pass: the first and the count (R262). -/
def trImages (m : Model) (n k : Nat) : Nat × Nat :=
  let i := layerImages m true
  (k * i / n, (k + 1) * i / n - k * i / n)

/-- Flits of home `k` in a transposed layer. -/
def trFlits (m : Model) (n k : Nat) : Nat := ceilDiv ((trImages m n k).2 * imgLen m) flitLen

/-- First flit of home `k` in a transposed layer. -/
def trStart (m : Model) (n k : Nat) : Nat := ((List.range k).map (trFlits m n)).sum

/-- Flits of one layer: F. -/
def layerFlits (m : Model) (n : Nat) (tr : Bool) : Nat :=
  if tr then trStart m n n else ceilDiv (layerImages m false * imgLen m) flitLen

/-- The run of position `k` in a layer: first flit and count (R261, R262). -/
def runAt (m : Model) (n : Nat) (tr : Bool) (k : Nat) : Nat × Nat :=
  if tr then (trStart m n k, trFlits m n k)
  else
    let f := layerFlits m n false
    (k * f / n, (k + 1) * f / n - k * f / n)

/-- The home of flit `i` of a layer. -/
def homeOf (m : Model) (n : Nat) (tr : Bool) (i : Nat) : Nat :=
  (firstFrom (fun k => let r := runAt m n tr k; r.1 ≤ i && i < r.1 + r.2) 0 n).getD 0

/-! ### Passes -/

/-- Layers of a pass entry, in pass order. -/
def entLayers (e : DraftEntry) : List Nat :=
  let ls := (List.range e.count).map (e.first + ·)
  if e.transposed then ls.reverse else ls

/-- Layer and index within its stream of a pass index. -/
def Pass.place (x : Pass) (i : Nat) : Nat × Nat :=
  let f := x.total / x.ent.count
  ((entLayers x.ent).getD (i / f) 0, i % f)

/-- The version that a pass uses for a layer (R301, R303). -/
def Pass.version (x : Pass) (layer : Nat) : W64 := if layer < x.msg.split then x.msg.newVersion else x.msg.oldVersion

/-- The package contents of base `b` at a version. -/
def State.modelAt (s : State) (b : Nat) (v : W64) : Option Model :=
  match (s.base b).staged with
  | some m => if m.version = v then some m else (s.base b).model
  | none => (s.base b).model

/-- The geometry of base `b`. -/
def State.geo (s : State) (b : Nat) : Model := ((s.base b).model).getD ⟨[], 0, [], 0, 0, 0, [], []⟩

def State.nDev (s : State) : Nat := s.loom.nr * s.loom.nc

/-- Whether pass index `i` lies in this device's own run. -/
def State.ownIndex (s : State) (x : Pass) (i : Nat) : Bool :=
  let r := runAt (s.geo x.ent.base) s.nDev x.ent.transposed s.loom.pos
  let j := (x.place i).2
  r.1 ≤ j && j < r.1 + r.2

/-- Half of a pass index under the direction plan (R263): false A, true B. -/
def halfOf (plan i : Nat) : Bool := if plan = 1 then false else if plan = 2 then true else i % 2 = 1

/-! ### Tile images as numbers (02 R493, 05 R206) -/

/-- The weight of cell (k, c) of an image. -/
def imgWeight (f : EFmt) (img : Bytes) (k c : Nat) : Nat :=
  match f with
  | .mxfp4 => nibbleAt (img.drop (136 * k)) c
  | .bf16 => byteAt img (256 * k + 2 * c) + 256 * byteAt img (256 * k + 2 * c + 1)
  | _ => byteAt img (128 * k + c)

/-- The scale of block `b` for column `c` of an MXFP4 image. -/
def imgScale (img : Bytes) (b c : Nat) : Nat := byteAt img (136 * (32 * b + c / 8) + 128 + c % 8)

/-- Record `k` of the image of given weights and scales. -/
def makeRecord (f : EFmt) (w : Nat → Nat → Nat) (sc : Nat → Nat → Nat) (k : Nat) : Bytes :=
  match f with
  | .mxfp4 =>
    ((List.range 128).map fun j => BitVec.ofNat 8 (w k (2 * j) + 16 * w k (2 * j + 1))) ++
      (List.range 8).map fun i => BitVec.ofNat 8 (sc (k / 32) (8 * (k % 32) + i))
  | .bf16 => (List.range 128).flatMap fun c => leBytes (w k c) 2
  | _ => (List.range 128).map fun c => BitVec.ofNat 8 (w k c)

def makeImage (f : EFmt) (w : Nat → Nat → Nat) (sc : Nat → Nat → Nat) : Bytes := (List.range 128).flatMap (makeRecord f w sc)

/-- The image that holds columns `first` up to `first + n - 1` of an image at columns 0 upwards, every other cell zero with
scale 0x7F (R275). -/
def cutImage (f : EFmt) (img : Bytes) (first n : Nat) : Bytes :=
  makeImage f (fun k c => if c < n then imgWeight f img k (first + c) else 0)
    (fun b c => if c < n then imgScale img b (first + c) else 0x7F)

/-- Block and segment of image `j` of matrix `x`. -/
def imgPlace (x : Matrix) (j : Nat) : Nat × Nat := (j / matSegs x, j % matSegs x)

/-- The matrix of image `j` of a layer, with the image's number within it. -/
def imgMatrix : List Matrix → Model → Nat → Nat → Nat × Nat
  | [], _, i, j => (i, j)
  | x :: xs, m, i, j => if j < matImages m x then (i, j) else imgMatrix xs m (i + 1) (j - matImages m x)

/-- The stored images that cover transposed image `j` of a layer, as canonical image numbers of the stored layer
(05 R206). -/
def coverOf (m : Model) (j : Nat) : List Nat :=
  let p := imgMatrix (passMats m true) m 0 j
  let x := m.matrices.getD p.1 ⟨0, 0, none⟩
  let q := imgPlace (orient true x) p.2
  let bc := blockCols m
  let block := q.2 * 128 / bc
  let segs := (List.range (bc / 128)).map (q.1 * (bc / 128) + ·)
  (segs.filter (· < matSegs x)).map fun d => matStart m false p.1 + block * matSegs x + d

/-- Images of the transposition shard of position `k`: those that its transposed images need, each once, in order of first
use (log 30). -/
def shardImages (m : Model) (n k : Nat) : List Nat :=
  let r := trImages m n k
  ((List.range r.2).flatMap fun i => coverOf m (r.1 + i)).reverse.dedup.reverse

/-- Shard of a kind and layer in a package's contents. -/
def shardOf (m : Model) (kind layer : Nat) : Option Shard := m.shards.find? fun x => x.kind = kind && x.layer = layer

/-- Stored image `i` of a layer, from the transposition shard of this device. -/
def State.storedImage (s : State) (m : Model) (layer i : Nat) : Bytes :=
  match shardOf m 1 layer, (shardImages m s.nDev s.loom.pos).findIdx? (· = i) with
  | some sh, some at_ => s.vload (sh.addr + at_ * imgLen m) (imgLen m)
  | _, _ => []

/-- Transposed image `j` of a layer, formed from the stored images that cover it. -/
def State.transposedImage (s : State) (m : Model) (layer j : Nat) : Bytes :=
  let p := imgMatrix (passMats m true) m 0 j
  let x := m.matrices.getD p.1 ⟨0, 0, none⟩
  let q := imgPlace (orient true x) p.2
  let f := fmtOf m
  let bc := blockCols m
  let block := q.2 * 128 / bc
  let imgs := (List.range (bc / 128)).map fun i =>
    let d := q.1 * (bc / 128) + i
    if d < matSegs x then some (s.storedImage m layer (matStart m false p.1 + block * matSegs x + d)) else none
  let at_ := fun (n : Nat) => (imgs.getD (n / 128) none)
  makeImage f
    (fun k c => match at_ c with
      | some img => imgWeight f img (c % 128) (q.2 * 128 % bc + k)
      | none => 0)
    (fun b c => match at_ c with
      | some img => imgScale img (c % 128 / 32) (q.2 * 128 % bc + 32 * b)
      | none => 0x7F)

/-- Physical addresses that hold the bytes of own flit `i` of a layer (for the check of their lines). -/
def State.ownPas (s : State) (m : Model) (tr : Bool) (layer i : Nat) : List Nat :=
  match shardOf m (if tr then 1 else 0) layer with
  | none => []
  | some sh =>
    if tr then
      let off := flitLen * (i - trStart m s.nDev s.loom.pos)
      let r := trImages m s.nDev s.loom.pos
      let js := [off / imgLen m, (off + flitLen - 1) / imgLen m].dedup.filter (· < r.2)
      let need := (js.flatMap fun j => coverOf m (r.1 + j)).dedup
      let held := shardImages m s.nDev s.loom.pos
      need.flatMap fun n => match held.findIdx? (· = n) with
        | some at_ => (List.range (imgLen m)).map (sh.addr + at_ * imgLen m + ·)
        | none => []
    else (List.range flitLen).map (sh.addr + flitLen * (i - sh.first) + ·)

/-- The 232 stream bytes of own flit `i` of a layer. -/
def State.ownBytes (s : State) (m : Model) (tr : Bool) (layer i : Nat) : Bytes :=
  if tr then
    let off := flitLen * (i - trStart m s.nDev s.loom.pos)
    let r := trImages m s.nDev s.loom.pos
    let j := off / imgLen m
    let two := (s.transposedImage m layer (r.1 + j)) ++
      (if j + 1 < r.2 then s.transposedImage m layer (r.1 + j + 1) else [])
    let bs := (two.drop (off % imgLen m)).take flitLen
    bs ++ List.replicate (flitLen - bs.length) 0
  else s.vload ((((shardOf m 0 layer).map fun sh => sh.addr + flitLen * (i - sh.first))).getD 0) flitLen

/-- The end-to-end CRC of a flit (R265). -/
def warpCrc (stream : Bytes) (b : Nat) (tr : Bool) (layer i : Nat) (version : W64) : W64 :=
  linkCrc (stream ++ leBytes b 1 ++ leBytes (if tr then 1 else 0) 1 ++ leBytes layer 2 ++ leBytes i 4 ++ leBytes version.toNat 8)

/-- CRC that flit `i` of a pass must carry over its stream bytes. -/
def Pass.crc (x : Pass) (i : Nat) (stream : Bytes) : W64 :=
  let p := x.place i
  warpCrc stream x.ent.base x.ent.transposed p.1 p.2 (x.version p.1)

/-- Own flit `i` of a pass: its 240 payload bytes. -/
def State.ownFlit (s : State) (x : Pass) (i : Nat) : Bytes :=
  let p := x.place i
  match s.modelAt x.ent.base (x.version p.1) with
  | some m =>
    let bs := s.ownBytes m x.ent.transposed p.1 p.2
    bs ++ leBytes (x.crc i bs).toNat 8
  | none => []

/-- Stream bytes of flit `i` of a pass as this device holds them: its own, or a usable copy. -/
def State.flitBytes (s : State) (x : Pass) (i : Nat) : Option Bytes :=
  if s.ownIndex x i then some ((s.ownFlit x i).take flitLen) else SMap.get x.flits none i

/-! ### Bands (01 R30; 07 R274, R275) -/

/-- One image of a band: layer place in the pass, matrix, image of the layer, and the band's columns within it. -/
structure BandImage where
  lay : Nat
  mat : Nat
  img : Nat
  first : Nat
  count : Nat
  deriving DecidableEq, Repr

/-- Columns of weight group `g` of `w` in a matrix: first, and one past the last. -/
def band (c w g : Nat) : Nat × Nat :=
  let b := 128 * ceilDiv c (128 * w)
  (min (g * b) c, min ((g + 1) * b) c)

/-- Images of a band in one matrix. -/
def matBand (m : Model) (tr : Bool) (w g lay i : Nat) : List BandImage :=
  let x := (passMats m tr).getD i ⟨0, 0, none⟩
  let r := band x.c w g
  let bc := blockCols m
  if r.2 ≤ r.1 then []
  else
    (List.range ((r.2 - 1) / bc - r.1 / bc + 1)).flatMap fun k =>
      let q := r.1 / bc + k
      let lo := max r.1 (q * bc)
      let hi := min r.2 ((q + 1) * bc)
      (List.range (matSegs x)).map fun d =>
        ({ lay := lay, mat := i, img := matStart m tr i + q * matSegs x + d, first := lo - q * bc, count := hi - lo } : BandImage)

/-- The images of a pass for weight group `g` of `w`, in band order (R274). -/
def passBand (m : Model) (e : DraftEntry) (w g : Nat) : List BandImage :=
  (List.range e.count).flatMap fun lay => (List.range m.matrices.length).flatMap fun i => matBand m e.transposed w g lay i

/-- The bytes of image `j` of the layer at place `lay` of a pass, once all are present and usable. -/
def State.passImage (s : State) (x : Pass) (lay j : Nat) : Option Bytes :=
  let m := s.geo x.ent.base
  let f := x.total / x.ent.count
  let n := s.nDev
  let start : Nat × Nat :=
    if x.ent.transposed then
      let home := (firstFrom (fun k => let r := trImages m n k; r.1 ≤ j && j < r.1 + r.2) 0 n).getD 0
      (trStart m n home, (j - (trImages m n home).1) * imgLen m)
    else (0, j * imgLen m)
  let lo := start.1 + start.2 / flitLen
  let hi := start.1 + (start.2 + imgLen m - 1) / flitLen
  match (List.range (hi - lo + 1)).mapM fun i => s.flitBytes x (lay * f + lo + i) with
  | some bs => some ((bs.flatten.drop (start.2 % flitLen)).take (imgLen m))
  | none => none

/-- The image that a core receives. -/
def State.bandImage (s : State) (x : Pass) (b : BandImage) : Option Bytes :=
  let m := s.geo x.ent.base
  (s.passImage x b.lay b.img).map fun bs =>
    if b.first = 0 ∧ b.count = blockCols m then bs
    else if fmtOf m = .mxfp4 then cutImage .mxfp4 bs b.first b.count else bs

/-! ### Drafts (R266 to R268) -/

/-- A pass entry of a draft, none where a field breaks the table. -/
def draftEntry (bs : Bytes) : Option DraftEntry :=
  let flags := byteAt bs 1
  let ok : Bool := bs.length = 16 && byteAt bs 0 < 64 && flags < 8 && bitsOf flags 2 1 ≠ 3 && 1 ≤ field bs 4 2 &&
    field bs 6 2 = 0 && field bs 12 4 = 0
  if ok then some ⟨byteAt bs 0, flags % 2 = 1, bitsOf flags 2 1, field bs 2 2, field bs 4 2, field bs 8 4⟩ else none

/-- A draft, none where its header or an entry breaks the tables. -/
def parseDraft (bs : Bytes) : Option Draft :=
  let n := field bs 6 2
  let ok : Bool := 32 ≤ bs.length && field bs 0 4 = 0x44524654 && field bs 4 2 = 1 && n ≤ 4096 && field bs 16 16 = 0 &&
    32 + 16 * n ≤ bs.length
  if ok then ((pieces 16 n (bs.drop 32)).mapM draftEntry).map fun es => ⟨BitVec.ofNat 64 (field bs 8 8), es⟩ else none

/-- Whether the forward passes of a base, from layer `at_` on, divide into whole steps of `l` layers (01 R20). -/
def wholeSteps (l : Nat) : Nat → List DraftEntry → Bool
  | at_, [] => at_ = 0
  | at_, e :: es => e.first = at_ && at_ + e.count ≤ l && wholeSteps l (if at_ + e.count = l then 0 else at_ + e.count) es

/-- Flits of a pass entry. -/
def State.entFlits (s : State) (e : DraftEntry) : Nat := e.count * layerFlits (s.geo e.base) s.nDev e.transposed

/-- Whether base `b` is in a replacement. -/
def State.replacing (s : State) (b : Nat) : Bool := (s.base b).staged.isSome || (s.base b).repl.isSome

/-- The status of SET_DRAFT prepare on this device (R267), its cases in the order of the rule. -/
def State.draftCheck (s : State) (bs : Bytes) : Status × Option Draft :=
  match parseDraft bs with
  | none => (.badArgument, none)
  | some d =>
    let held := fun (e : DraftEntry) => (s.base e.base).model.isSome && (s.base e.base).st ≠ .absent && (s.base e.base).st ≠ .loading
    let bases := (d.entries.map (·.base)).dedup
    let fwd := fun (b : Nat) => d.entries.filter fun e => e.base = b && !e.transposed
    let flip := fun (e : DraftEntry) =>
      let m := s.geo e.base
      e.transposed && (m.flags % 2 = 0 || (fmtOf m = .mxfp4 && m.flags / 2 % 2 = 0))
    if d.entries.any fun e => !held e then (.notFound, none)
    else if d.entries.any fun e => (s.geo e.base).layers < e.first + e.count then (.badArgument, none)
    else if d.entries.any fun e => 4194304 < s.entFlits e then (.badArgument, none)
    else if bases.any fun b => !wholeSteps (s.geo b).layers 0 (fwd b) then (.badArgument, none)
    else if d.entries.any flip then (.badArgument, none)
    else if d.entries.any fun e => s.replacing e.base then (.busy, none)
    else (.ok, some d)

/-- A draft takes effect. -/
def State.runDraft (s : State) (d : Draft) : State :=
  let s := { s with warp := { s.warp with draft := some d, waiting := none, nextEntry := 0 } }
  s.setRaw Reg.warpDraftId d.id

/-- SET_DRAFT commit (R268): at once where no draft runs, else at the next round boundary. -/
def State.draftCommit (s : State) : State :=
  match s.warp.prepared with
  | none => s
  | some d =>
    let s := { s with warp := { s.warp with prepared := none } }
    let idle : Bool := match s.warp.draft with
      | none => true
      | some x => x.entries.isEmpty
    if idle then s.runDraft d else { s with warp := { s.warp with waiting := some d } }

end Sys2Proof.Machine
end

