-- ==== Sys2Proof/Machine/Passes.lean ====
section
/-!
DEFINITION. Passes (07 R269 to R286): scheduling, opening, injecting, forwarding, closing, recall, delivery to cores, and
the step that a failed pass skips; step records (08 R339).
-/
namespace Sys2Proof.Machine

/-! ### Step records (08 R339) -/

/-- Holds a step record for the ledger ring. -/
def State.holdStep (s : State) (r : StepRec) : State :=
  if s.flag Fld.ledgCtrl_stepRecords then
    let full : Bool := 65536 ≤ s.ledger.held.length
    let held := (if full then s.ledger.held.drop 1 else s.ledger.held) ++ [r]
    let s := { s with ledger := { s.ledger with held := held } }
    if full then s.count Fld.ledgStatus_dropped else s
  else s

/-- The client of a base's SERVING context, 0xFFFF without one. -/
def State.clientOf (s : State) (b : Nat) : Nat :=
  ((s.liveCtxs.find? fun e => e.2.serving && e.2.base = b).map fun e => e.2.client).getD 0xFFFF

/-- Whether a SERVING context of base `b` is not resident, as a PREEMPTED one never is: a step that ends then carries
NOT_SERVED (R333). -/
def State.notServed (s : State) (b : Nat) : Bool :=
  s.liveCtxs.any fun e => e.2.serving && e.2.base = b && !(e.2.st = .launched && e.2.resident)

/-- The step record of the current step of base `b`. -/
def State.stepRecord (s : State) (b sessions tokens passSeq : Nat) (skipped late : Bool) : StepRec :=
  let x := s.base b
  let layers := (x.model.map (·.layers)).getD 0
  let flags := (if skipped then 1 else 0) + (if late then 2 else 0) + (if s.notServed b then 4 else 0) +
    (if x.mix.2.2 < layers then 8 else 0)
  ⟨b, flags, sessions, x.step, s.beat, x.mix.1, x.mix.2.1, x.mix.2.2, s.clientOf b, tokens, s.raw Reg.warpDraftId, passSeq⟩

/-! ### Pass records -/

def State.passAt (s : State) (seq : Nat) : Option Pass := s.warp.passes.find? fun x => x.msg.seq = seq

/-- Shows the newest pass in WARP_PASS_INFO and WARP_FLITS. -/
def State.showPass (s : State) (x : Pass) : State :=
  if s.raw Reg.warpPass = BitVec.ofNat 64 x.msg.seq then
    let s := s.setFld Fld.warpPassInfo_entry x.msg.entry
    let s := s.setFld Fld.warpPassInfo_base x.ent.base
    let s := s.setFld Fld.warpPassInfo_orient (if x.ent.transposed then 1 else 0)
    let s := s.setFld Fld.warpPassInfo_tag (x.msg.seq % 8)
    let s := s.setFld Fld.warpPassInfo_state x.st.code
    let s := s.setFld Fld.warpFlits_expected x.expected
    s.setFld Fld.warpFlits_received x.counted
  else s

/-- Replaces the record of a pass. -/
def State.setPass (s : State) (x : Pass) : State :=
  let s := { s with warp := { s.warp with passes := s.warp.passes.map fun (y : Pass) => if y.msg.seq = x.msg.seq then x else y } }
  s.showPass x

/-- Trace record of a pass (12 R450). -/
def State.tracePass (s : State) (code : Nat) (x : Pass) : State :=
  s.traceRec 2 code 0xFFFF x.ent.base (leBytes x.msg.seq 8)

/-- SLACK of a pass in beats (R279). -/
def State.slackOf (s : State) (x : Pass) : Nat := if x.ent.slack = 0 then s.fld Fld.warpCtrl_passSlack else x.ent.slack

/-- Indices of a pass that this device needs and holds no usable copy of. -/
def State.missing (s : State) (x : Pass) : List Nat :=
  (List.range x.total).filter fun i => !s.ownIndex x i && (SMap.get x.flits none i).isNone

/-! ### Skipped steps (R284) -/

/-- A serving command of base `b`. -/
def RunCmd.servesBase (b : Nat) (c : RunCmd) : Bool := match c.serving with
  | some q => q.base = b
  | none => false

/-- Aborts the commands of the current step of base `b`; none of them runs again. -/
def State.abortStep (s : State) (b : Nat) : State :=
  let s := s.finishCommits (RunCmd.servesBase b)
  let live := s.sched.cmds.filterMap fun e => match e.2 with
    | some c => if c.servesBase b then some (e.1, c) else none
    | none => none
  let s := live.foldl (fun (s : State) (e : Nat × RunCmd) => (s.chargeAttempt e.2 (s.ctx e.2.ctx).client).abortCmd e.1 e.2) s
  let s := { s with sched := { s.sched with ctxs := s.sched.ctxs.mapVals fun c =>
    if c.serving ∧ c.base = b then { c with rerun := c.rerun.filter (fun r => !r.servesBase b) } else c } }
  let s := (s.sched.ctxs.map (·.1)).foldl (fun (s : State) k => s.dropSaved k (RunCmd.servesBase b)) s
  live.foldl (fun (s : State) (e : Nat × RunCmd) => s.preemptCheck e.2.ctx) s

/-- A SERVING context of base `b` has no running step. -/
def Context.endStep (b : Nat) (c : Context) : Context :=
  if c.serving ∧ c.base = b then
    { c with stage := 0, place := 0, stepReady := false, stepDone := false, noOutput := false, rows := [] }
  else c

/-- The running step of base `b` is over on this device. -/
def State.endStep (s : State) (b : Nat) : State :=
  let s := { s with sched := { s.sched with ctxs := s.sched.ctxs.mapVals (Context.endStep b) } }
  let s := s.setBase b { s.base b with finished := true }
  { s with sessions := s.sessions.mapVals fun x => x.map fun x => if x.base = b then { x with inStep := false } else x }

/-- Replacements of wefts that took effect at the step that ends: the old contents are freed (R304). -/
def State.settleWefts (s : State) (b : Nat) : State :=
  let step := (s.base b).step
  s.warp.wefts.foldl (fun (s : State) (e : Nat × Option Weft) =>
    match s.weft e.1 with
    | some w =>
      match w.old with
      | some (frames, seq) =>
        if w.base = b then
          let s := (s.freeFrames frames).setWeft e.1 { w with old := none }
          let s := s.raise 0x0012 (0x80000000 + e.1) step []
          s.complete seq { value := step }
        else s
      | none => s
    | none => s) s

/-- Replacements of wefts of base `b` that take effect at the step that begins (R304). -/
def State.switchWefts (s : State) (b : Nat) : State :=
  let step := (s.base b).step
  s.warp.wefts.foldl (fun (s : State) (e : Nat × Option Weft) =>
    match s.weft e.1 with
    | some w =>
      match w.staged with
      | some g => if w.base = b ∧ g.start.ule step then s.useStage e.1 w g else s
      | none => s
    | none => s) s

/-- The step of base `b` is skipped: the event, the record, and the arrival at the step barrier. -/
def State.skipStep (s : State) (b : Nat) : State :=
  let x := s.base b
  match x.skip with
  | none => s
  | some (seq, reason, refusal) =>
    let took := (s.sessionsOn b).filter fun e => e.2.inStep
    let left := s.unservedOn b
    let s := (took ++ left).foldl (fun (s : State) (e : Nat × Session) => s.charge e.2.client lUnserved 1) s
    let s := s.count Fld.warpSkips_skipped
    let s := s.raise 0x0010 b x.step (leBytes seq 8 ++ leBytes reason 1 ++ leBytes refusal 1)
    let s := s.holdStep (s.stepRecord b took.length 0 seq true false)
    ((s.settleWefts b).endStep b).stepArrive b 1

/-! ### The end of a pass (R283 to R286) -/

/-- Commands of dedicated contexts of base `b` with a thread that waits for an image. -/
def State.waitingImages (s : State) (b : Nat) : List (Nat × RunCmd) :=
  s.sched.cmds.filterMap fun e => match e.2 with
    | some c =>
      let k := s.ctx c.ctx
      let waits : Bool := (s.setCores c).any fun p => (List.range 8).any fun t => (s.thread p t).st = .waiting .warpTile
      if !k.serving ∧ k.base = b ∧ waits then some (e.1, c) else none
    | none => none

/-- A pass has ended on this device; `fail` holds the reason and REASON of a failure. -/
def State.passEnded (s : State) (x : Pass) (fail : Option (Nat × Nat)) : State :=
  let b := x.ent.base
  let s := if fail.isSome then s.count Fld.warpSkips_failed else s
  let s := s.tracePass (if fail.isSome then 3 else 2) x
  if x.ent.transposed then
    match fail with
    | some (reason, refusal) =>
      let s := (s.waitingImages b).foldl (fun (s : State) (e : Nat × RunCmd) => s.endCmd e.1 e.2 .aborted 0 0 false) s
      s.raise 0x0010 b (BitVec.allOnes 64) (leBytes x.msg.seq 8 ++ leBytes reason 1 ++ leBytes refusal 1)
    | none => s
  else
    let y := s.base b
    let mine : Bool := y.begun && x.msg.step = y.step
    if mine then
      let skip := match y.skip, fail with
        | none, some f => some (x.msg.seq, f.1, f.2)
        | k, _ => k
      let s := s.setBase b { y with skip := skip, late := y.late || x.recalled, passesLeft := y.passesLeft - 1 }
      let s := if fail.isSome then s.abortStep b else s
      if y.passesLeft ≤ 1 then s.skipStep b else s
    else s

/-- Ends a pass CLOSED once it is closing and every index has a usable copy. -/
def State.settlePass (s : State) (seq : Nat) : State :=
  match s.passAt seq with
  | some x =>
    if x.st = .closing ∧ (s.missing x).isEmpty then
      let x := { x with st := .closed, recalls := [] }
      (s.setPass x).passEnded x none
    else s
  | none => s

/-- Ends a pass FAILED. -/
def State.failPass (s : State) (x : Pass) (reason refusal : Nat) : State :=
  let x := { x with st := .failed, recalls := [] }
  (s.setPass x).passEnded x (some (reason, refusal))

/-! ### Recall (R280 to R282) -/

/-- Runs of at most 32 consecutive indices of one home. -/
def recallRuns (home : Nat → Nat) : List Nat → List (Nat × Nat) → List (Nat × Nat)
  | [], acc => acc.reverse
  | i :: is, (a, n) :: acc =>
    if i = a + n ∧ n < 32 ∧ home i = home a then recallRuns home is ((a, n + 1) :: acc) else recallRuns home is ((i, 1) :: (a, n) :: acc)
  | i :: is, [] => recallRuns home is [(i, 1)]

/-- The home of a pass index. -/
def State.homeFor (s : State) (x : Pass) (i : Nat) : Nat :=
  homeOf (s.geo x.ent.base) s.nDev x.ent.transposed (x.place i).2

/-- Recalls some indices of a pass. -/
def State.recall (s : State) (x : Pass) (is : List Nat) : State :=
  if is.isEmpty then s
  else
    let until_ := s.beat + s.fld Fld.warpCtrl_recallBudget
    let x' := { x with recalls := x.recalls ++ is.map (fun i => ⟨i, until_⟩), recalled := true }
    let s := s.setPass x'
    let s := s.count Fld.warpRecall_requested is.length
    (recallRuns (s.homeFor x) is []).foldl (fun s r =>
      s.loomSend (.recall ⟨x.msg.seq, r.1, r.2, s.loom.row, s.loom.col⟩ (s.homeFor x r.1))) s

/-- A pass closes (R279, R281). -/
def State.closePass (s : State) (seq : Nat) : State :=
  match s.passAt seq with
  | some x =>
    if x.st = .open_ then
      let s := s.setPass { x with st := .closing }
      match s.passAt seq with
      | some x =>
        let want := (s.missing x).filter fun i => !x.recalls.any fun r => r.index = i
        (s.recall x want).settlePass seq
      | none => s
    else s
  | none => s

/-! ### Delivery of images: where it stands (R274, R325) -/

/-- Where the delivery to a core stands in the passes of a base. -/
def Core.cursor (c : Core) (b : Nat) : Nat × Nat := SMap.get c.deliver (0, 0) b

/-- The cursor of a core moves to image `i` of pass `x`. -/
def Core.moveTo (c : Core) (x : Pass) (i : Nat) : Core := { c with deliver := SMap.put c.deliver x.ent.base (x.msg.seq, i) }

/-- The resident context through which core `p` receives images of base `b`: W, and the core's weight group. -/
def State.imageCtx (s : State) (p b : Nat) : Option (Nat × Nat) :=
  match s.logicalOf p with
  | none => none
  | some n => s.liveCtxs.findSome? fun e =>
      if e.2.st = .launched && e.2.resident && e.2.base = b then (e.2.latPlace n).map fun g => (e.2.latW, g.1) else none

/-- Whether a pass delivers images: it has opened, and the device does not skip its step. -/
def State.delivers (s : State) (x : Pass) : Bool :=
  let b := s.base x.ent.base
  (x.st = .open_ || x.st = .closing || x.st = .closed) && (x.ent.transposed || b.skip.isNone || x.msg.step ≠ b.step)

/-- The images of pass `x` that core `p` still has to receive: its band, and the number of the next one in it. -/
def State.toDeliver (s : State) (p : Nat) (x : Pass) : Option (List BandImage × Nat) :=
  let cur := (s.core p).cursor x.ent.base
  if x.msg.seq < cur.1 ∨ !s.delivers x then none
  else match s.imageCtx p x.ent.base with
    | some (w, g) =>
      let all := passBand (s.geo x.ent.base) x.ent w g
      let i := if x.msg.seq = cur.1 then cur.2 else 0
      if i < all.length then some (all, i) else none
    | none => none

/-- The next image for core `p`: the pass, its band, and the number of the image in it. -/
def State.nextImage (s : State) (p : Nat) : Option (Pass × List BandImage × Nat) :=
  s.warp.passes.findSome? fun x => (s.toDeliver p x).map fun e => (x, e)

/-- Whether a core still has to receive an image of a pass. -/
def State.awaited (s : State) (x : Pass) : Bool := (List.range nCores).any fun p => (s.toDeliver p x).isSome

/-- Where the images that a context joins in begin: at the first pass of the running step for a SERVING context, and past
the passes that have opened for a DEDICATED one. -/
def State.joinSeq (s : State) (c : Context) : Nat :=
  let b := s.base c.base
  if c.serving && b.passed then b.firstPass
  else s.warp.passes.foldl (fun n x => if x.ent.base = c.base ∧ x.st ≠ .scheduled then max n (x.msg.seq + 1) else n) 0

/-- The cores of a context's lattice pass over the images of its base from before it joined. -/
def State.joinImages (s : State) (c : Context) : State :=
  let from_ := s.joinSeq c
  c.lat.foldl (fun (s : State) n => match s.physOf n with
    | some p => if ((s.core p).cursor c.base).1 < from_ then
        s.modCore p fun x => { x with deliver := SMap.put x.deliver c.base (from_, 0) } else s
    | none => s) s

/-! ### Opening (R271, R272) -/

/-- Passes of the step that begins with entry `i`. -/
def stepPasses (layers b : Nat) : List DraftEntry → Nat
  | [] => 0
  | e :: es =>
    if e.base = b ∧ !e.transposed then (if e.first + e.count = layers then 1 else 1 + stepPasses layers b es)
    else stepPasses layers b es

/-- Rings that have room again rejoin (10 R401). -/
def State.rejoinRings (s : State) : State :=
  { s with eth := { s.eth with fullRings := s.eth.fullRings.filter fun r => 131072 ≤ (SMap.get s.eth.tokens [] r).length } }

/-- The current step of base `b` begins on this device: at its step table or at its first pass, whichever comes first
(log 25). -/
def State.stepBegins (s : State) (b : Nat) : State :=
  let x := s.base b
  if x.begun then s
  else
    let old := s.eth.running.foldl (fun n r => min n r.acceptBeat) s.beat
    let begins := (x.begins.filter fun e => old ≤ e.2) ++ [(x.step, s.beat)]
    ((s.setBase b { x with begun := true, beganAt := s.beat, begins := begins }).rejoinRings).switchWefts b

/-- The first pass of a step opens. -/
def State.beginStep (s : State) (x : Pass) : State :=
  let b := x.ent.base
  let s := s.stepBegins b
  let y := s.base b
  let es := ((s.warp.draft.map (·.entries)).getD []).drop x.msg.entry
  let n := stepPasses ((y.model.map (·.layers)).getD 0) b es
  s.setBase b { y with passed := true, firstPass := x.msg.seq, passesLeft := n,
                       mix := (x.msg.oldVersion, x.msg.newVersion, x.msg.split) }

/-- A scheduled pass opens. -/
def State.openPass (s : State) (x : Pass) : State :=
  let s := s.setRaw Reg.warpPass (BitVec.ofNat 64 x.msg.seq)
  let s := s.setRaw Reg.warpPassStart (BitVec.ofNat 64 x.msg.start)
  let first : Bool := !x.ent.transposed && x.ent.first = 0 && x.msg.step = (s.base x.ent.base).step
  let x := { x with st := .open_ }
  let s := (s.setPass x).tracePass 1 x
  let s := if first then s.beginStep x else s
  if x.expected = 0 then s.closePass x.msg.seq else s

/-- The draft that a PASS_START belongs to takes effect (R268). -/
def State.switchDraft (s : State) (m : PassMsg) : State :=
  match s.warp.waiting with
  | some d => if m.entry = 0 ∧ d.id = m.draftId ∧ !d.entries.isEmpty then s.runDraft d else s
  | none => s

/-- An empty draft takes effect after the last pass of the round (R268). -/
def State.stopDraft (s : State) (entry : Nat) : State :=
  match s.warp.waiting, s.warp.draft with
  | some d, some now => if d.entries.isEmpty ∧ entry + 1 = now.entries.length then s.runDraft d else s
  | _, _ => s

/-- The 16 passes that the device has most recently opened, and so begun to inject (R272, R282). -/
def State.recentPasses (s : State) : List Pass :=
  let opened := s.warp.passes.filter fun x => x.st ≠ .scheduled
  opened.drop (opened.length - 16)

/-- The pass records that the device keeps when another begins: the 16 most recently opened, every pass that has not ended,
every pass of a running step, and every pass of which a core still has to receive an image. -/
def State.keepPasses (s : State) : List Pass :=
  let live := fun (x : Pass) => (x.st ≠ .closed && x.st ≠ .failed) || s.awaited x ||
    (!x.ent.transposed && (s.base x.ent.base).begun && x.msg.step = (s.base x.ent.base).step)
  let recent := s.recentPasses
  s.warp.passes.filter fun x => live x || recent.any fun y => y.msg.seq = x.msg.seq

/-- PASS_START reaches the device. -/
def passStart (m : PassMsg) (s : State) : State :=
  let s := s.switchDraft m
  match ((s.warp.draft.map (·.entries)).getD [])[m.entry]? with
  | none => s
  | some e =>
    if (s.passAt m.seq).isSome then s
    else
      let s := if 8 ≤ m.seq then s.closePass (m.seq - 8) else s
      let total := s.entFlits e
      let own := e.count * (runAt (s.geo e.base) s.nDev e.transposed s.loom.pos).2
      let x : Pass := { msg := m, ent := e, total := total, expected := total - own }
      let s := { s with warp := { s.warp with passes := s.keepPasses ++ [x] } }
      let s := if m.start < s.beat then (s.setFld Fld.warpStatus_lateStart 1).openPass x else s
      s.stopDraft m.entry

/-- A device passes PASS_START on to its children in the barrier tree, and takes it (R269). -/
def State.takePass (s : State) (m : PassMsg) : State := passStart m (s.loomSend (.pass m))

/-- PASS_START (R269, R271). -/
def execPassStart (m : PassMsg) (s : State) : Out :=
  .next (whenDo (s.sys.tclk && s.devState = stThreaded && (s.passAt m.seq).isNone) s fun s => s.takePass m)

/-- PASS_OPEN (R272). -/
def execPassOpen (seq : Nat) (s : State) : Out :=
  .next (whenDo (s.sys.tclk && s.devState = stThreaded) s fun s =>
    match s.passAt seq with
    | some x => if x.st = .scheduled ∧ x.msg.start ≤ s.beat then s.openPass x else s
    | none => s)

/-! ### Scheduling at the origin (R269, R270, R301 to R303) -/

/-- OLD_VERSION, NEW_VERSION and SPLIT of step `step` of base `b`. -/
def State.mixFor (s : State) (b : Nat) (step : W64) : W64 × W64 × Nat :=
  let x := s.base b
  let v := (x.model.map (·.version)).getD 0
  let l := (x.model.map (·.layers)).getD 0
  match x.repl, x.staged with
  | some (s0, mode), some m =>
    if step.ult s0 then (v, v, l) else if mode = 1 then (v, m.version, l) else (v, m.version, min l ((step - s0).toNat + 1))
  | _, _ => (v, v, l)

/-- The step that a forward pass of an entry serves, none while it waits on a barrier. -/
def State.stepFor (s : State) (e : DraftEntry) : Option W64 :=
  let x := s.base e.base
  if e.first ≠ 0 then x.planned
  else
    match x.planned with
    | some q => if q.ult x.step then some x.step else none
    | none => some x.step

/-- The start beat of the next pass. -/
def State.nextStart (s : State) (e : DraftEntry) (step : W64) : Nat :=
  let lead := s.fld Fld.warpCtrl_startLead
  let a := s.warp.lastStart + ceilDiv s.warp.lastFlits 45
  let b := s.beat + lead
  let c : Int := if !e.transposed ∧ e.first = 0 ∧ step ≠ 0 then SMap.get s.warp.barBeat 0 e.base + lead else 0
  max a (max b c.toNat)

/-- OLD_VERSION, NEW_VERSION and SPLIT of a transposed pass: those of the base's most recently begun step (R303), and the loaded
version until one has begun (log 137). -/
def State.mixBegun (s : State) (b : Nat) : W64 × W64 × Nat :=
  let x := s.base b
  let v := (x.model.map (·.version)).getD 0
  if x.mix.2.1 = 0 then (v, v, (x.model.map (·.layers)).getD 0) else x.mix

/-- Sends PASS_START of an entry for a step; the origin takes it as every device does. -/
def State.sendPass (s : State) (d : Draft) (e : DraftEntry) (step : W64) : State :=
  let mix := if e.transposed then s.mixBegun e.base else s.mixFor e.base step
  let start := s.nextStart e step
  let m : PassMsg := { entry := s.warp.nextEntry, seq := s.warp.nextSeq, draftId := d.id, start := start,
                       step := if e.transposed then BitVec.allOnes 64 else step, split := mix.2.2, newVersion := mix.2.1,
                       oldVersion := mix.1 }
  let s := if e.transposed then s else s.setBase e.base { s.base e.base with planned := some step }
  let s := { s with warp := { s.warp with nextEntry := (s.warp.nextEntry + 1) % d.entries.length, nextSeq := s.warp.nextSeq + 1,
                                          lastStart := start, lastFlits := s.entFlits e } }
  s.takePass m

/-- PASS_SCHEDULE: the next pass of the draft, in draft order. -/
def passSchedule (s : State) : State :=
  let s := match s.warp.waiting with
    | some d => if s.warp.nextEntry = 0 then s.runDraft d else s
    | none => s
  match s.warp.draft with
  | none => s
  | some d =>
    match d.entries[s.warp.nextEntry]? with
    | none => s
    | some e =>
      if e.transposed then s.sendPass d e 0
      else match s.stepFor e with
        | some step => s.sendPass d e step
        | none => s

/-- PASS_SCHEDULE (R270). -/
def execPassSchedule (s : State) : Out :=
  .next (whenDo (s.sys.tclk && s.devState = stThreaded && s.isOrigin) s passSchedule)

/-! ### Injecting and forwarding (R272, R273, R280; 05 R205, R207) -/

/-- The half that leaves by a port: A by A-out, B by B-out. -/
def State.halfAt (s : State) (port : Nat) : Option Bool :=
  if port = s.loom.aOut then some false else if port = s.loom.bOut then some true else none

/-- Next own index of a pass in a half, from the position `i` in the order of own indices. -/
def State.ownNext (s : State) (x : Pass) (half : Bool) (i : Nat) : Option Nat :=
  let r := runAt (s.geo x.ent.base) s.nDev x.ent.transposed s.loom.pos
  let f := x.total / x.ent.count
  let all := (List.range x.ent.count).flatMap fun l => (List.range r.2).map fun j => l * f + r.1 + j
  (all.filter fun n => halfOf x.ent.plan n = half)[i]?

/-- Own indices of a half that the pass has injected. -/
def Pass.injected (x : Pass) (half : Bool) : Nat := if half then x.injB else x.injA
def Pass.inject (x : Pass) (half : Bool) : Pass := if half then { x with injB := x.injB + 1 } else { x with injA := x.injA + 1 }

/-- A warp flit (R264). -/
def warpFlit (x : Pass) (half taint : Bool) (i : Nat) (payload : Bytes) : OutFlit :=
  { type := 1, vc := 0, payload := payload,
    route := BitVec.ofNat 27 ((if half then 2 ^ 26 else 0) + (if taint then 2 ^ 25 else 0) + x.msg.seq % 8 * 2 ^ 22 + i) }

/-- Queues a flit on a port, charged to the shared account. -/
def State.queueFlit (s : State) (p : Nat) (f : OutFlit) : State :=
  (s.setPort p { s.port p with txq := (s.port p).txq ++ [f] }).charge sharedAcct lLink 240

/-- Physical addresses from which own flit `i` of a pass is formed. -/
def State.flitPas (s : State) (x : Pass) (i : Nat) : List Nat :=
  let p := x.place i
  s.ownPas ((s.modelAt x.ent.base (x.version p.1)).getD (s.geo x.ent.base)) x.ent.transposed p.1 p.2

/-- The flits that the tellers form from the bytes that the line decoder delivers at the addresses `pas` (05 R180, R205). -/
def State.formedFlits (s : State) (pas : List Nat) (bs : Bytes) (x : Pass) (is : List Nat) : List Bytes :=
  let t := { s with vault := (pas.zip bs).foldl (fun (m : Mem) (e : Nat × Byte) => SMap.set m 0 e.1 e.2) s.vault }
  is.map (t.ownFlit x)

/-- The next own flit to inject on a port: that of the oldest opened pass that has one left for it, while none waits there to be
forwarded. -/
def State.nextInject (s : State) (port : Nat) : Option (Bool × Pass × Nat) :=
  match s.halfAt port with
  | none => none
  | some half =>
    if (s.port port).txq.any fun f => f.type = 1 then none
    else s.warp.passes.findSome? fun x =>
      if x.st = .scheduled then none else (s.ownNext x half (x.injected half)).map fun i => (half, x, i)

/-- The next own flit of a port is injected; one with an uncorrectable line is not sent. -/
def State.injectNow (s : State) (port : Nat) : State :=
  match s.nextInject port with
  | none => s
  | some (half, x, i) =>
    let pas := s.flitPas x i
    let r := s.readBytes pas s.lineErrs .inject
    let s := (r.1.setPass (x.inject half)).charge sharedAcct lVault flitLen
    match r.2 with
    | some bs => (s.formedFlits pas bs x [i]).foldl (fun s f => s.queueFlit port (warpFlit x half false i f)) s
    | none => s

/-- The stack of the first of some addresses, where requests wait there already (05 R188). -/
def State.stackBefore (s : State) (pas : List Nat) : Option Nat :=
  match pas with
  | a :: _ => if (s.stack (stackOf a)).queue.isEmpty then none else some (stackOf a)
  | [] => none

/-- WARP_INJECT: the next own flit is read at once, or behind the requests that wait at its stack. -/
def warpInject (port : Nat) (errs : List LineErr) (s : State) : State :=
  let s := { s with lineErrs := errs }
  match s.nextInject port with
  | none => s
  | some (_, x, i) =>
    match s.stackBefore (s.flitPas x i) with
    | some st => s.queueWork st (.inject port)
    | none => (s.injectNow port).settleStacks

/-- WARP_INJECT. -/
def execWarpInject (port : Nat) (errs : List LineErr) (s : State) : Out :=
  onUnit (port < nPorts) (whenDo (s.sys.tclk && s.devState = stThreaded) s (warpInject port errs))

/-- Whether index `i` needs a recall now: no usable copy and none outstanding. -/
def Pass.wants (x : Pass) (i : Nat) : Bool := (SMap.get x.flits none i).isNone && !x.recalls.any fun r => r.index = i

/-- A pass with flit `i` accepted: counted once, a usable copy kept. -/
def Pass.take (x : Pass) (i beat : Nat) (copy : Option Bytes) : Pass :=
  let held := SMap.get x.flits none i
  let n := if SMap.has x.flits i then x.counted else x.counted + 1
  { x with flits := SMap.put x.flits i (if held.isSome then held else copy), counted := n, lastBeat := beat }

/-- The pass closes when its count is complete, and ends once nothing is missing. -/
def State.countPass (s : State) (seq : Nat) : State :=
  match s.passAt seq with
  | some x => if x.st = .open_ ∧ x.expected ≤ x.counted then s.closePass seq else s.settlePass seq
  | none => s

/-- A flit of an open pass is accepted, checked and forwarded. -/
def State.acceptWarp (s : State) (x : Pass) (port : Nat) (half taint : Bool) (i : Nat) (payload : Bytes) : State :=
  let stream := payload.take flitLen
  let good : Bool := field payload flitLen 8 = (x.crc i stream).toNat
  let found : Bool := !taint && !good
  let copy := if taint || !good then none else some stream
  let s := if taint then s.count Fld.warpTaint_received else s
  let s := if found then
      (s.count Fld.warpTaint_detected).logError eWarpMismatch port (BitVec.ofNat 64 x.msg.seq)
        (BitVec.ofNat 64 (x.ent.base * 2 ^ 32 + i))
    else s
  let out := if half then s.loom.bOut else s.loom.aOut
  let s := s.queueFlit out (warpFlit x half (taint || found) i payload)
  let x := x.take i s.beat copy
  let s := s.setPass x
  let s := if x.wants i then s.recall x [i] else s
  s.countPass x.msg.seq

/-- WARP_FLIT_RX: a flit from the ring. R271 counts in STRAY a tag that matches no open pass; the model discards and counts in the
same way a flit of an open pass that arrives on a port other than its half's, or whose INDEX the pass does not reach (DESIGN CHOICE,
log 125). -/
def warpFlitRx (port : Nat) (route : BitVec 27) (payload : Bytes) (s : State) : State :=
  let half := route.getLsbD 26
  let taint := route.getLsbD 25
  let tag := bitsOf route.toNat 24 22
  let i := bitsOf route.toNat 21 0
  let from_ := if half then s.loom.aOut else s.loom.bOut
  match s.openPasses.find? fun x => x.msg.seq % 8 = tag with
  | none => s.count Fld.warpTaint_stray
  | some x =>
    if port ≠ from_ ∨ x.total ≤ i then s.count Fld.warpTaint_stray
    else if s.ownIndex x i then s
    else s.acceptWarp x port half taint i payload

/-- WARP_FLIT_RX (R271, R273, R278, R280). -/
def execWarpFlitRx (port : Nat) (route : BitVec 27) (payload : Bytes) (s : State) : Out :=
  onUnit (port < nPorts) (whenDo (s.sys.tclk && s.devState = stThreaded) s (warpFlitRx port route payload))

/-- PASS_CLOSE_BOUND (R279): past both bounds the pass closes. -/
def passCloseBound (seq : Nat) (s : State) : State :=
  match s.passAt seq with
  | some x =>
    let slack := s.slackOf x
    if x.st = .open_ ∧ x.msg.start + ceilDiv x.total 45 + slack < s.beat ∧ x.lastBeat + slack < s.beat then s.closePass seq else s
  | none => s

/-- PASS_CLOSE_BOUND. -/
def execPassCloseBound (seq : Nat) (s : State) : Out :=
  .next (whenDo (s.sys.tclk && s.devState = stThreaded) s (passCloseBound seq))

/-! ### Recall rows -/

/-- Part `part` of a reply stream of 216-byte parts. -/
def replyPart (stream : Bytes) (part : Nat) : Bytes :=
  let bs := (stream.drop (216 * part)).take 216
  bs ++ List.replicate (216 - bs.length) 0

/-- The pass indices that a recall names. -/
def recallIndices (m : RecallMsg) : List Nat := (List.range m.count).map (m.index + ·)

/-- What a home makes of a recall: the pass, or the REASON of a refusal. -/
def State.recallOf (s : State) (m : RecallMsg) : Except Nat Pass :=
  match s.recentPasses.find? fun x => x.msg.seq = m.passSeq with
  | none => .error 2
  | some x => if (recallIndices m).any fun i => x.total ≤ i || !s.ownIndex x i then .error 3 else .ok x

/-- A home answers a recall (R282; 05 R207): data, or a refusal. -/
def State.recallNow (s : State) (m : RecallMsg) : State :=
  match s.recallOf m with
  | .error reason => s.loomSend (.recallRefused m reason)
  | .ok x =>
    let pas := (recallIndices m).flatMap (s.flitPas x)
    let r := s.readBytes pas s.lineErrs .inject
    let s := r.1.charge sharedAcct lVault (flitLen * m.count)
    match r.2 with
    | none => s.loomSend (.recallRefused m 1)
    | some bs =>
      let stream := (s.formedFlits pas bs x (recallIndices m)).flatten
      (List.range (ceilDiv (240 * m.count) 216)).foldl (fun s k => s.loomSend (.recallData m k (replyPart stream k))) s

/-- RECALL_REQUEST_RX: answered at once, or behind the requests that wait at the stack of its first line. -/
def recallRequestRx (m : RecallMsg) (errs : List LineErr) (s : State) : State :=
  let s := { s with lineErrs := errs }
  let pas := match s.recallOf m with
    | .ok x => (recallIndices m).flatMap (s.flitPas x)
    | .error _ => []
  match s.stackBefore pas with
  | some st => s.queueWork st (.recall m)
  | none => (s.recallNow m).settleStacks

/-- RECALL_REQUEST_RX. -/
def execRecallRequestRx (m : RecallMsg) (errs : List LineErr) (s : State) : Out :=
  .next (whenDo (s.sys.tclk && s.devState = stThreaded) s (recallRequestRx m errs))

/-- RECALL_DATA_RX: one recalled flit. A copy that fails the end-to-end check is recalled again in the same budget. -/
def recallDataRx (seq index : Nat) (payload : Bytes) (s : State) : State :=
  match s.passAt seq with
  | none => s
  | some x =>
    match x.recalls.find? fun r => r.index = index with
    | none => s
    | some r =>
      let live : Bool := (x.st = .open_ || x.st = .closing) && s.beat ≤ r.until_
      if !live then s
      else
        let stream := payload.take flitLen
        if field payload flitLen 8 = (x.crc index stream).toNat then
          let x := { x with flits := SMap.put x.flits index (some stream), recalls := x.recalls.filter fun r => r.index ≠ index }
          -- A recalled copy is accepted (R281): an index not yet counted is counted now (R278).
          let was := SMap.has ((s.passAt seq).map (·.flits) |>.getD []) index
          let s := s.setPass { x with counted := if was then x.counted else x.counted + 1 }
          (s.count Fld.warpRecall_recovered).countPass seq
        else
          let s := s.count Fld.warpRecall_requested
          s.loomSend (.recall ⟨seq, index, 1, s.loom.row, s.loom.col⟩ (s.homeFor x index))

/-- RECALL_DATA_RX (R281 to R283). -/
def execRecallDataRx (passSeq index : Nat) (payload : Bytes) (s : State) : Out :=
  .next (whenDo (s.sys.tclk && s.devState = stThreaded) s (recallDataRx passSeq index payload))

/-- A pass that has not ended and waits for index `index`. -/
def State.recalling (s : State) (seq index : Nat) : Option (Pass × Recall) :=
  match s.passAt seq with
  | some x => if x.st = .open_ ∨ x.st = .closing then (x.recalls.find? fun r => r.index = index).map fun r => (x, r) else none
  | none => none

/-- RECALL_REFUSED_RX (R283). -/
def execRecallRefusedRx (passSeq index reason : Nat) (s : State) : Out :=
  .next (whenDo (s.sys.tclk && s.devState = stThreaded) s fun s =>
    match s.recalling passSeq index with
    | some (x, _) => s.failPass x 2 reason
    | none => s)

/-- RECALL_BUDGET_EXPIRY (R281, R283). -/
def execRecallBudgetExpiry (passSeq index : Nat) (s : State) : Out :=
  .next (whenDo (s.sys.tclk && s.devState = stThreaded) s fun s =>
    match s.recalling passSeq index with
    | some (x, r) => if r.until_ < s.beat then s.failPass x 1 0 else s
    | none => s)

/-! ### Delivery to cores (R274 to R277) -/

/-- The expert mask record of core `p`, when it names a layer and step (R277). -/
def Core.expertMask (c : Core) (layer : Nat) (step : W64) : Option Nat :=
  if leNat (c.load 0x7FFE0 4) = layer ∧ leNat (c.load 0x7FFE4 4) = step.toNat % 2 ^ 32 then some (leNat (c.load 0x7FFC0 32)) else none

/-- The expert rule of one image: the core with the mask it goes by, and whether it takes the image; none while it waits. -/
def State.expertRule (s : State) (c : Core) (x : Pass) (b : BandImage) : Option (Core × Bool) :=
  match ((s.geo x.ent.base).matrices.getD b.mat ⟨0, 0, none⟩).expert with
  | none => some (c, true)
  | some e =>
    let layer := (entLayers x.ent).getD b.lay 0
    let held : Option Nat := match c.experts with
      | some (seq, l, m) => if seq = x.msg.seq ∧ l = layer then some m else none
      | none => none
    let mask := match held with
      | some m => some m
      | none => c.expertMask layer (s.base x.ent.base).step
    mask.map fun m => ({ c with experts := some (x.msg.seq, layer, m) }, m.testBit e)

/-- IMAGE_DELIVERY: the next image of core `p`'s band enters its warp FIFO, when it is complete and has room. -/
def imageDelivery (p : Nat) (s : State) : State :=
  match s.nextImage p with
  | none => s
  | some (x, all, i) =>
    match all[i]? with
    | none => s
    | some b =>
      match s.expertRule (s.core p) x b with
      | none => s
      | some (c, false) => s.setCore p (c.moveTo x (i + 1))
      | some (c, true) =>
        match s.bandImage x b with
        | none => s
        | some bs =>
          let used := (c.fifo.map fun t => t.image.length).sum
          if 65536 < used + bs.length then s
          else
            let t : WarpTile := { fmt := fmtOf (s.geo x.ent.base), passSeq := x.msg.seq, image := bs }
            s.setCore p ({ c with fifo := c.fifo ++ [t] }.moveTo x (i + 1))

/-- IMAGE_DELIVERY (R274, R277; 02 R58). -/
def execImageDelivery (p : Nat) (s : State) : Out :=
  onUnit (p < nCores) (whenDo (s.sys.tclk && s.devState = stThreaded) s (imageDelivery p))

end Sys2Proof.Machine
end

