-- ==== Sys2Proof/Machine/Packages.lean ====
section
/-!
DEFINITION. Weight packages (07 R288 to R304; 11 R410, R414 to R418): their parts, their verification, loading warp and
weft, eviction, the replacement of a weft and the supply of a page.
-/
namespace Sys2Proof.Machine

/-! ### The parts of a package (R288 to R291) -/

/-- Bytes `off` up to `off + n - 1` of a run. -/
def cut (bs : Bytes) (off n : Nat) : Bytes := (bs.drop off).take n

/-- Whether a range of a run is zero. -/
def zeroIn (bs : Bytes) (off n : Nat) : Bool := (cut bs off n).all fun b => b = 0

/-- The fields of a package header that the device uses. -/
structure PkgHeader where
  kind : Nat
  fmt : Nat
  modelId : Bytes
  version : W64
  baseModel : Bytes
  baseVersion : Nat
  devices : Nat
  layers : Nat
  mats : Nat
  flags : Nat
  anchor : Bytes
  matOff : Nat
  digOff : Nat
  shardOff : Nat
  shards : Nat
  wraps : Nat
  wrapOff : Nat
  contOff : Nat
  contSize : Nat
  deriving DecidableEq, Repr

def pkgHeader (bs : Bytes) : PkgHeader where
  kind := byteAt bs 6
  fmt := byteAt bs 7
  modelId := cut bs 8 16
  version := BitVec.ofNat 64 (field bs 0x18 8)
  baseModel := cut bs 0x20 16
  baseVersion := field bs 0x30 8
  devices := field bs 0x38 2
  layers := field bs 0x3A 2
  mats := field bs 0x3C 2
  flags := field bs 0x3E 2
  anchor := cut bs 0x40 32
  matOff := field bs 0x60 8
  digOff := field bs 0x68 8
  shardOff := field bs 0x70 8
  shards := field bs 0x78 4
  wraps := field bs 0x7C 4
  wrapOff := field bs 0x80 8
  contOff := field bs 0x88 8
  contSize := field bs 0x90 8

/-- Header fields within the ranges of the table, for a package of kind 0 warp or 1 weft. -/
def headerOk (bs : Bytes) (kind : Nat) : Bool :=
  let h := pkgHeader bs
  1024 ≤ bs.length && field bs 0 4 = 0x4B504D56 && field bs 4 2 = 1 && h.kind = kind && h.version ≠ 0 && 1 ≤ h.layers &&
    h.layers ≤ 4096 && h.flags < 4 && zeroIn bs 0x98 8 && zeroIn bs 0x120 224 && zeroIn bs 0x284 380 &&
    (if kind = 0 then h.fmt < 5 && 1 ≤ h.mats && h.mats ≤ 64 && zeroIn bs 0x20 24
     else h.fmt = 0xFF && h.mats = 0 && h.devices = 0)

/-- An entry of the shard table (R290). -/
structure ShardEnt where
  id : Nat
  home : Nat
  layer : Nat
  kind : Nat
  first : Nat
  len : Nat
  off : Nat
  sha : Bytes
  raw : Bytes
  deriving DecidableEq, Repr

def shardEnt (bs : Bytes) : ShardEnt :=
  ⟨field bs 0 4, field bs 4 2, field bs 6 2, byteAt bs 8, field bs 12 4, field bs 16 8, field bs 24 8, cut bs 32 64, bs⟩

/-- Entries `i` up to `i + n - 1` of the shard table. -/
def shardEnts (bs : Bytes) (h : PkgHeader) (i n : Nat) : List ShardEnt :=
  (pieces 96 n (bs.drop (h.shardOff + 96 * i))).map shardEnt

/-- An entry of the matrix table (R289), none where it breaks its ranges. -/
def matrixEnt (bs : Bytes) : Option Matrix :=
  let k := field bs 0 4
  let c := field bs 4 4
  let e := field bs 8 2
  let ok : Bool := 1 ≤ k && k ≤ 1048576 && 1 ≤ c && c ≤ 1048576 && (e < 256 || e = 0xFFFF) && field bs 10 6 = 0
  if ok then some ⟨k, c, if e = 0xFFFF then none else some e⟩ else none

def matrixTable (bs : Bytes) (h : PkgHeader) : Option (List Matrix) :=
  (pieces 16 h.mats (bs.drop h.matOff)).mapM matrixEnt

/-- Shard entries of one home in a warp package: E. -/
def homeEntries (h : PkgHeader) : Nat := if h.flags % 2 = 1 then 2 * h.layers else h.layers

/-- The model that a warp package describes, with no shard yet. -/
def pkgModel (h : PkgHeader) (ms : List Matrix) : Model := ⟨h.modelId, h.version, h.anchor, h.fmt, h.flags, h.layers, ms, []⟩

/-- Whether the entries of home `k` are those that R261, R262 and R290 fix. -/
def entriesOk (m : Model) (n k : Nat) (es : List ShardEnt) : Bool :=
  (es.zip (List.range es.length)).all fun e =>
    let x := e.1
    let tr : Bool := m.layers ≤ e.2
    let want := if tr then ((trImages m n k).1, (shardImages m n k).length * imgLen m)
      else ((runAt m n false k).1, flitLen * (runAt m n false k).2)
    x.home = k && x.kind = (if tr then 1 else 0) && x.layer = e.2 % m.layers && x.first = want.1 && x.len = want.2 &&
      zeroIn x.raw 9 3

/-! ### Verification (11 R410, R415, R416) -/

/-- The enrolled slot whose key an anchor names. -/
def State.enrolledSlot (s : State) (anchor : Bytes) : Option AnchorSlot :=
  ((List.range 64).map s.anchor).find? fun a => a.st = .enrolled && anchorOf a.key = anchor

/-- The key wrap record of this device. -/
def wrapOf (bs : Bytes) (h : PkgHeader) : Option Bytes :=
  (pieces 256 h.wraps (bs.drop h.wrapOff)).find? fun w => w.length = 256 && BitVec.ofNat 64 (field w 0 8) = Config.serial

def wrapInfo : Bytes :=
  [0x53, 0x55, 0x4E, 0x44, 0x59, 0x53, 0x2D, 0x56, 0x4D, 0x32, 0x2D, 0x57, 0x52, 0x41, 0x50]

/-- The content key of a package (R416). -/
def contentKey (bs w : Bytes) : Option Bytes :=
  let salt := digestBytes (Config.sha512 (bs.take 0x200))
  let eph := cut w 8 133
  if Config.isPoint eph then
    let kek := Config.hkdf (Config.ecdhX eph) salt (wrapInfo ++ leBytes Config.serial.toNat 8)
    Config.gcmOpen kek (cut w 144 12) (salt ++ w.take 144) (cut w 160 32) (cut w 192 16)
  else none

/-- The plaintext of one shard (R292), none where its tag or its digest fails. -/
def openShard (bs key : Bytes) (h : PkgHeader) (e : ShardEnt) : Option Bytes :=
  let at_ := h.contOff + e.off
  let nonce := (leBytes e.id 4).reverse ++ List.replicate 8 0
  match Config.gcmOpen key nonce e.raw (cut bs at_ e.len) (cut bs (at_ + e.len) 16) with
  | some p => if digestBytes (Config.sha512 p) = e.sha then some p else none
  | none => none

/-- Verifies a package from step 2 of R415 on: entry `ix` of the digest list covers the entries `digested`, and `es` are
the shards that the device needs. Their plaintexts, or the status of the first failure. -/
def State.verify (s : State) (bs : Bytes) (h : PkgHeader) (ix : Nat) (digested es : List ShardEnt) : Status × List Bytes :=
  match s.enrolledSlot h.anchor, wrapOf bs h with
  | some a, some w =>
    if !Config.ecdsaVerify a.key (Config.sha512 (bs.take 0x200)) (cut bs 0x200 66) (cut bs 0x242 66) then (.badSignature, [])
    else
      let digests := if h.kind = 0 then h.devices else 1
      let ok : Bool := digestBytes (Config.sha512 (cut bs h.matOff (16 * h.mats))) = cut bs 0xA0 64 &&
        digestBytes (Config.sha512 (cut bs h.digOff (64 * digests))) = cut bs 0xE0 64 &&
        digestBytes (Config.sha512 (digested.flatMap (·.raw))) = cut bs (h.digOff + 64 * ix) 64
      if !ok then (.integrity, [])
      else
        match contentKey bs w with
        | none => (.integrity, [])
        | some key =>
          match es.mapM (openShard bs key h) with
          | some ps => (.ok, ps)
          | none => (.integrity, [])
  | _, _ => (.denied, [])

/-- Counts a failed verification in SEC_FAIL (R415). -/
def State.countFail (s : State) : Status → State
  | .badSignature => s.count Fld.secFail_signature
  | .integrity => s.count Fld.secFail_integrity
  | .denied => s.count Fld.secFail_denied
  | _ => s

/-- Bytes that the device reads of a package: its header, tables, one key wrap record and the shards. -/
def pkgBytes (h : PkgHeader) (listed es : List ShardEnt) : Nat :=
  1024 + 16 * h.mats + 64 * (if h.kind = 0 then h.devices else 1) + 96 * listed.length + 256 + (es.map fun e => e.len + 16).sum

/-! ### Content keys (11 R417; log 31) -/

/-- A verification begins: it takes a content key, or waits for one. -/
def State.takeKey (s : State) (seq : W64) : State :=
  if s.sec.keysInUse.length < 16 then { s with sec := { s.sec with keysInUse := s.sec.keysInUse ++ [seq] } }
  else { s with sec := { s.sec with keyWait := s.sec.keyWait ++ [seq] } }

/-- A command that verifies has ended: its key is erased, and the first verification that waits takes one. -/
def State.dropKey (s : State) (seq : W64) : State :=
  let held := s.sec.keysInUse.filter (· ≠ seq)
  let wait := s.sec.keyWait.filter (· ≠ seq)
  let free : Bool := held.length < 16
  let sec := if free then { s.sec with keysInUse := held ++ wait.take 1, keyWait := wait.drop 1 }
    else { s.sec with keysInUse := held, keyWait := wait }
  { s with sec := sec }

/-- A verifying command ends. -/
def State.endLoad (s : State) (seq : W64) (a : Answer) : State := (s.complete seq a).dropKey seq

/-! ### Storing shards -/

/-- Stores a run of bytes for an account. -/
def State.storeFor (s : State) (pa : Nat) (bs : Bytes) (acct : Nat) : State := (s.clerkStore pa bs).charge acct lVault bs.length

/-- Places shards in 64 KiB pages from page `at_` on. -/
def placeShards (at_ : Nat) : List (ShardEnt × Bytes) → List (Shard × Bytes)
  | [] => []
  | (e, p) :: es =>
    (⟨e.kind, e.layer, e.first, at_ * vpageBytes, e.len⟩, p) :: placeShards (at_ + ceilDiv e.len vpageBytes) es

/-- Stores the shards of a warp package for a holder; none where the vault has no room (R297). -/
def State.storeShards (s : State) (h : Holder) (m : Model) (es : List (ShardEnt × Bytes)) : Option (State × Model) :=
  let pages := (es.map fun e => ceilDiv e.1.len vpageBytes).sum
  match s.reserve pages (if pages = 0 then 0 else 1) h none with
  | none => none
  | some (runs, s) =>
    let placed := placeShards (runs.headD 0) es
    let s := placed.foldl (fun (s : State) (e : Shard × Bytes) =>
      s.storeFor e.1.addr e.2 sharedAcct) s
    some (s, { m with shards := placed.map (·.1) })

/-! ### LOAD_WARP_SHARD (R293, R295) -/

/-- What a device makes of a warp package: BAD_ARGUMENT where its shape is wrong, else the header, the model and this
device's entries. -/
def State.warpShape (s : State) (bs : Bytes) : Option (PkgHeader × Model × List ShardEnt) :=
  let h := pkgHeader bs
  if headerOk bs 0 && h.devices = s.nDev then
    match matrixTable bs h with
    | none => none
    | some ms =>
      let m := pkgModel h ms
      let es := shardEnts bs h (s.loom.pos * homeEntries h) (homeEntries h)
      if h.shards = h.devices * homeEntries h && entriesOk m s.nDev s.loom.pos es then some (h, m, es) else none
  else none

/-- Whether the base holds a model of the same id and version. -/
def Base.holds (x : Base) (h : PkgHeader) : Bool := match x.model with
  | some m => m.modelId = h.modelId && m.version = h.version
  | none => false

/-- A load that fails leaves an absent base absent. -/
def State.unload (s : State) (b : Nat) : State :=
  let x := s.base b
  if x.st = .loading then s.setBase b { x with st := .absent } else s

/-- LOAD_WARP_SHARD starts: the base is loading while it holds nothing. -/
def State.loadWarp (s : State) (seq : W64) (b : Nat) (r : Region) : State :=
  if 64 ≤ b then s.complete seq (.fail .badArgument)
  else if s.regionBad r then s.complete seq badRegion
  else
    let x := s.base b
    let s := if x.st = .absent then s.setBase b { x with st := .loading } else s
    (s.startRead seq [b] r).takeKey seq

/-- LOAD_WARP_SHARD (10 R388). -/
def execLoadWarpShard (seq : W64) (base : Byte) (region : Region) (s : State) : Out :=
  genotOn [(2, base.toNat)] 0x40 seq thrOnly (fun s => s.loadWarp seq base.toNat region) s

/-- A base that is loaded: its steps go on where the same model was loaded before, and begin at 0 for another (01 R21). -/
def Base.load (x : Base) (m : Model) : Base :=
  if x.counts = some m.modelId then { x with st := .loaded, model := some m, use := 0, mix := (0, 0, 0) }
  else { st := .loaded, model := some m, counts := some m.modelId }

/-- The package of LOAD_WARP_SHARD has been read. -/
def State.warpRead (s : State) (seq : W64) (b : Nat) (bs : Bytes) : State :=
  let x := s.base b
  match s.warpShape bs with
  | none => (s.unload b).endLoad seq (.fail .badArgument)
  | some (h, m, es) =>
    if x.holds h then s.endLoad seq { value := h.version }
    else
      let s := s.charge sharedAcct lEth (pkgBytes h es es)
      let v := s.verify bs h s.loom.pos es es
      if v.1 ≠ .ok then ((s.unload b).countFail v.1).endLoad seq (.fail v.1)
      else if x.model.isSome then s.endLoad seq (.fail .busy)
      else
        match s.storeShards (.shard b) m (es.zip v.2) with
        | none => (s.unload b).endLoad seq (.fail .noResource)
        | some (s, m) => (s.setBase b ((s.base b).load m)).endLoad seq { value := h.version }

/-! ### REPLACE_WARP prepare on this device (R300) -/

/-- The status of REPLACE_WARP prepare, with the staging that it leaves. -/
def State.stageWarp (s : State) (b : Nat) (bs : Bytes) : State × Status :=
  let x := s.base b
  match x.model with
  | none => (s, .notFound)
  | some old =>
    match s.warpShape bs with
    | none => (s, .badArgument)
    | some (h, m, es) =>
      let same : Bool := m.modelId = old.modelId && m.layers = old.layers && m.fmt = old.fmt && m.flags = old.flags &&
        m.matrices = old.matrices
      if !same then (s, .badArgument)
      else if x.holds h then (s, if s.replacing b then .busy else .ok)
      else
        let s := s.charge sharedAcct lEth (pkgBytes h es es)
        let v := s.verify bs h s.loom.pos es es
        if v.1 ≠ .ok then (s.countFail v.1, v.1)
        else if s.replacing b then (s, .busy)
        else
          match (s.setBase b { x with st := .staged }).storeShards (.staged b) m (es.zip v.2) with
          | none => (s, .noResource)
          | some (s, m) => (s.setBase b { s.base b with staged := some m }, .ok)

/-! ### LOAD_WEFT (R294, R295) -/

/-- Loaded wefts. -/
def State.weftCount (s : State) : Nat := listed s.warp.wefts

/-- Entries of a weft package. -/
def weftEnts (bs : Bytes) (h : PkgHeader) : List ShardEnt := shardEnts bs h 0 h.shards

/-- Whether the entries of a weft package have the fields of R290. -/
def weftEntsOk (h : PkgHeader) (es : List ShardEnt) : Bool :=
  es.length = h.shards && es.all fun e => e.raw.length = 96 && e.home = 0xFFFF && e.kind = 2 && e.first = 0 && e.layer < h.layers &&
    zeroIn e.raw 9 3

/-- Whether base `b` is loaded with the model, and the version if one is named, that a weft package extends. -/
def State.extends (s : State) (b : Nat) (h : PkgHeader) : Bool :=
  match (s.base b).model with
  | some m => m.modelId = h.baseModel && (h.baseVersion = 0 || m.version.toNat = h.baseVersion)
  | none => false

/-- The plaintext of a weft cut into frames, for storing. -/
def State.storeWeft (s : State) (frames : List Nat) (bs : Bytes) (acct : Nat) : State :=
  (s.storeFrames frames 0 bs).charge acct lVault bs.length

/-- Frames for a weft of `n` bytes. -/
def State.weftFrames (s : State) (w client n : Nat) : Option (List Nat × State) :=
  (s.reserve framePages (ceilDiv n pageBytes) (.weft w) (some client)).map fun r => (r.1.map (· / framePages), r.2)

/-- LOAD_WEFT starts. -/
def State.loadWeft (s : State) (seq : W64) (w client b : Nat) (r : Region) : State :=
  let s := s.forClient seq client
  if (s.base b).model.isNone then s.complete seq (.fail .notFound)
  else if 64 ≤ b then s.complete seq (.fail .badArgument)
  else if s.regionBad r then s.complete seq badRegion
  else (s.startRead seq [w, client, b] r).takeKey seq

/-- LOAD_WEFT (10 R388). -/
def execLoadWeft (seq : W64) (weft client : W16) (base : Byte) (region : Region) (s : State) : Out :=
  genotOn [(3, weft.toNat), (2, base.toNat)] 0x41 seq thrOnly (fun s => s.loadWeft seq weft.toNat client.toNat base.toNat region) s

/-- Whether a weft came from the package that a header describes, for the same client and base. -/
def Weft.same (x : Weft) (client b : Nat) (h : PkgHeader) : Bool :=
  x.client = client && x.base = b && x.modelId = h.modelId && x.version = h.version && x.anchor = h.anchor

/-- A stream that halted on a page that is now resident runs again (03 R105), and what waited for it waits anew (R92). -/
def State.resumeStream (s : State) (p n : Nat) : State :=
  let x := (s.core p).stream n
  match x.st, x.haltAt, s.cmdOf p with
  | .halted, some j, some c =>
    let waits : Bool := (unitFars x.desc (x.fars j (x.take j))).any fun a => match s.translate c.ctx a.toNat with
      | .host _ => true
      | _ => false
    if waits then s else (s.rewait p n).modCore p (·.setStream n { x with st := .running, haltAt := none, slotWait := none })
  | _, _, _ => s

/-- Every halted stream whose page is resident runs again. -/
def State.resumeStreams (s : State) : State :=
  s.cores.foldl (fun (s : State) (e : Nat × Core) => (List.range 32).foldl (fun s n => s.resumeStream e.1 n) s) s

/-- Whether a wait is on a slot that a teller instruction fills, which waits for a page. -/
def State.parkedWait (s : State) (p : Nat) : Wait → Bool
  | .slotFull n => s.tellerParked p n
  | .slotBoth n m => s.tellerParked p n || s.tellerParked p m
  | _ => false

/-- A page that has come in: streams that halted on it run again, and requests that waited for it are queued again. -/
def State.pagesIn (s : State) : State :=
  let s := s.resumeStreams
  (s.rewaitIf s.parkedWait).unpark fun _ => true

/-- The frames of a weft's pages, with new ones where it has none. -/
def fillFrames : List (Option Nat) → List Nat → List Nat
  | [], _ => []
  | some f :: ps, new => f :: fillFrames ps new
  | none :: ps, f :: new => f :: fillFrames ps new
  | none :: ps, [] => fillFrames ps []

/-- A verified weft becomes resident in its pages; those that are resident keep their frames. -/
def State.putPages (s : State) (w : Nat) (x : Weft) (bs : Bytes) : Option State :=
  (s.weftFrames w x.client (pageBytes * (x.pages.filter Option.isNone).length)).map fun r =>
    let frames := fillFrames x.pages r.1
    let y := { x with pages := frames.map some }
    (((r.2.storeWeft frames bs x.client).setWeft w y).mapWeft y).pagesIn

/-- A weft that is not loaded yet, with a place in the window of its client and no page resident. -/
def State.newWeft (s : State) (client b : Nat) (h : PkgHeader) (n : Nat) : Option Weft :=
  let pages := ceilDiv n pageBytes
  (freeWindow (s.clientPages client) pages).map fun first =>
    { client := client, base := b, modelId := h.modelId, version := h.version, anchor := h.anchor, total := n,
      pages := List.replicate pages none, progAddr := first * pageBytes }

/-- A verified weft is stored in resident pages and mapped; NO_RESOURCE where it has no room, and then nothing changes. -/
def State.putWeft (s : State) (seq : W64) (w client b : Nat) (h : PkgHeader) (bs : Bytes) : State :=
  let x := match s.weft w with
    | some x => some x
    | none => s.newWeft client b h bs.length
  match x.bind fun x => s.putPages w x bs with
  | some s => s.endLoad seq { value := h.version }
  | none => s.endLoad seq (.fail .noResource)

/-- The package of LOAD_WEFT has been read. -/
def State.weftRead (s : State) (seq : W64) (w client b : Nat) (bs : Bytes) : State :=
  let h := pkgHeader bs
  let es := weftEnts bs h
  if !s.extends b h then s.endLoad seq (.fail .notFound)
  else if !(headerOk bs 1 && weftEntsOk h es) then s.endLoad seq (.fail .badArgument)
  else
    let whole : Bool := match s.weft w with
      | some x => x.resident && x.same client b h
      | none => false
    if whole then s.endLoad seq { value := h.version }
    else
      let s := s.charge client lEth (pkgBytes h es es)
      let v := s.verify bs h 0 es es
      let other : Bool := match s.weft w with
        | some x => !x.same client b h
        | none => false
      if v.1 ≠ .ok then (s.countFail v.1).endLoad seq (.fail v.1)
      else if other then s.endLoad seq (.fail .busy)
      else if (s.weft w).isNone && 4096 ≤ s.weftCount then s.endLoad seq (.fail .noResource)
      else s.putWeft seq w client b h v.2.flatten

/-! ### PAGE_SUPPLY (R298) -/

/-- PAGE_SUPPLY starts. -/
def State.pageSupply (s : State) (seq : W64) (w page : Nat) (r : Region) : State :=
  match s.weft w with
  | none => s.complete seq (.fail .notFound)
  | some x =>
    let s := s.forClient seq x.client
    if x.pages[page]? ≠ some none then s.complete seq (.fail .notFound)
    else if s.regionBad r then s.complete seq badRegion
    else (s.startRead seq [w, page] r).takeKey seq

/-- PAGE_SUPPLY (10 R388). -/
def execPageSupply (seq : W64) (weft : W16) (page : W32) (region : Region) (s : State) : Out :=
  genotOn [(3, weft.toNat)] 0x90 seq thrOnly (fun s => s.pageSupply seq weft.toNat page.toNat region) s

/-- Shards of a weft with the offset of each in its plaintext. -/
def withOffsets (at_ : Nat) : List ShardEnt → List (Nat × ShardEnt)
  | [] => []
  | e :: es => (at_, e) :: withOffsets (at_ + e.len) es

/-- The shards that cover a page of a weft, with their offsets. -/
def coverPage (es : List ShardEnt) (page : Nat) : List (Nat × ShardEnt) :=
  (withOffsets 0 es).filter fun e => e.1 < (page + 1) * pageBytes && page * pageBytes < e.1 + e.2.len

/-- A frame with the bytes of a page comes into a weft. -/
def State.putPage (s : State) (seq : W64) (w page : Nat) (x : Weft) (bs : Bytes) : State :=
  match s.weftFrames w x.client pageBytes with
  | none => s.endLoad seq (.fail .noResource)
  | some (frames, s) =>
    let s := s.storeWeft frames bs x.client
    let y := { x with pages := x.pages.set page frames.head? }
    (((s.setWeft w y).mapWeft y).pagesIn).endLoad seq {}

/-- The package of PAGE_SUPPLY has been read. -/
def State.pageRead (s : State) (seq : W64) (w page : Nat) (bs : Bytes) : State :=
  let h := pkgHeader bs
  let es := weftEnts bs h
  match s.weft w with
  | none => s.endLoad seq (.fail .notFound)
  | some x =>
    if x.pages[page]? ≠ some none then s.endLoad seq (.fail .notFound)
    else if !s.extends x.base h then s.endLoad seq (.fail .notFound)
    else if !(headerOk bs 1 && weftEntsOk h es) then s.endLoad seq (.fail .badArgument)
    else
      let need := coverPage es page
      let s := s.charge x.client lEth (pkgBytes h es (need.map (·.2)))
      let v := s.verify bs h 0 es (need.map (·.2))
      if v.1 ≠ .ok then (s.countFail v.1).endLoad seq (.fail v.1)
      else if !x.same x.client x.base h then s.endLoad seq (.fail .busy)
      else
        let lo := (need.map (·.1)).headD 0
        s.putPage seq w page x (cut v.2.flatten (page * pageBytes - lo) pageBytes)

/-! ### EVICT (R299) -/

/-- A weft leaves the device (mode 1). A replacement of it that waits ends with NOT_FOUND. -/
def State.removeWeft (s : State) (w : Nat) (x : Weft) : State :=
  let s := (s.freeHeld (.weft w)).unmapWeft x
  let s := match x.staged with
    | some g => s.complete g.seq (.fail .notFound)
    | none => s
  let s := match x.old with
    | some (_, seq) => s.complete seq (.fail .notFound)
    | none => s
  { s with warp := { s.warp with wefts := SMap.del s.warp.wefts w } }

/-- EVICT runs. -/
def State.evict (s : State) (seq : W64) (mode id : Nat) : State :=
  if mode = 2 then
    let x := s.base id
    if 64 ≤ id ∨ x.model.isNone then s.complete seq (.fail .notFound)
    else if s.inDraft id ∨ s.replacing id then s.complete seq (.fail .busy)
    else (s.discardBase id).complete seq {}
  else if 2 < mode then s.complete seq (.fail .badArgument)
  else
    match s.weft id with
    | none => s.complete seq (.fail .notFound)
    | some x =>
      let s := s.forClient seq x.client
      let busy : Bool := if mode = 0 then x.staged.isSome || x.old.isSome else s.weftSessions id
      if busy then s.complete seq (.fail .busy)
      else if mode = 0 then (s.pageOut id).complete seq {}
      else (s.removeWeft id x).complete seq {}

/-- EVICT (10 R388). -/
def execEvict (seq : W64) (mode : Byte) (id : W16) (s : State) : Out :=
  genotOn [(if mode = 2 then 2 else 3, id.toNat)] 0x42 seq rdyThr (fun s => s.evict seq mode.toNat id.toNat) s

/-! ### REPLACE_WEFT (R304; 11 R418) -/

/-- Whether step `at_` of a base began before beat `beat`, at which a running command was accepted: a step that is not among the
noted ones has not begun, or began before every running command was accepted. -/
def Base.beganBefore (x : Base) (at_ : W64) (beat : Nat) : Bool :=
  match x.begins.find? fun e => e.1 = at_ with
  | some e => e.2 < beat
  | none => at_.ult x.step || (at_ = x.step && x.begun)

/-- The new contents of a weft wait for their step; the command completes at that step's commit. -/
def State.stageWeft (s : State) (seq : W64) (w : Nat) (x : Weft) (at_ : W64) (version : W64) (anchor bs : Bytes) : State :=
  let n := ceilDiv bs.length pageBytes
  let place := if n ≤ x.pages.length then some (x.progAddr / pageBytes) else freeWindow (s.clientPages x.client) n
  match place, s.weftFrames w x.client bs.length with
  | some first, some (frames, s) =>
    let s := s.storeWeft frames bs x.client
    let b := s.base x.base
    let next := if b.begun then b.step + 1 else b.step
    let start := if at_.ult next then next else at_
    -- The reservation may have paged the weft itself out (R297).
    let x := (s.weft w).getD x
    let s := s.setWeft w { x with staged := some ⟨start, frames, first * pageBytes, version, anchor, bs.length, seq⟩ }
    (s.modRunning seq fun q => { q with region := none }).dropKey seq
  | _, _ => s.endLoad seq (.fail .noResource)

/-- REPLACE_WEFT runs. -/
def State.replaceWeft (s : State) (seq : W64) (w : Nat) (source : Option (Nat × Nat)) (at_ : W64) (r : Region) : State :=
  match s.weft w with
  | none => s.complete seq (.fail .notFound)
  | some x =>
    let s := s.forClient seq x.client
    let beat := ((s.running? seq).map (·.acceptBeat)).getD s.beat
    if at_ ≠ 0 ∧ (s.base x.base).beganBefore at_ beat then s.complete seq (.fail .stale)
    else
      match source with
      | some (k, addr) =>
        let c := s.ctx k
        let len := SMap.get c.outs 0 addr
        if c.st = .free then s.complete seq (.fail .notFound)
        else if c.client ≠ x.client ∨ !SMap.has c.outs addr ∨ len ≠ x.total then s.complete seq (.fail .badArgument)
        else if x.staged.isSome then s.complete seq (.fail .busy)
        else
          let r := s.clerkGet k addr len
          (r.1.charge x.client lVault len).stageWeft seq w x at_ x.version x.anchor r.2
      | none => if s.regionBad r then s.complete seq badRegion else (s.startRead seq [w, at_.toNat] r).takeKey seq

/-- REPLACE_WEFT (10 R388). -/
def execReplaceWeft (seq : W64) (weft : W16) (source : Option (Byte × W64)) (atStep : W64) (region : Region) (s : State) : Out :=
  genotOn [(3, weft.toNat)] 0x44 seq thrOnly
    (fun s => s.replaceWeft seq weft.toNat (source.map fun e => (e.1.toNat, e.2.toNat)) atStep region) s

/-- The package of REPLACE_WEFT has been read. -/
def State.replaceRead (s : State) (seq : W64) (w : Nat) (at_ : W64) (bs : Bytes) : State :=
  let h := pkgHeader bs
  let es := weftEnts bs h
  match s.weft w with
  | none => s.endLoad seq (.fail .notFound)
  | some x =>
    if !s.extends x.base h then s.endLoad seq (.fail .notFound)
    else if !(headerOk bs 1 && weftEntsOk h es && h.modelId = x.modelId) then s.endLoad seq (.fail .badArgument)
    else
      let s := s.charge x.client lEth (pkgBytes h es es)
      let v := s.verify bs h 0 es es
      if v.1 ≠ .ok then (s.countFail v.1).endLoad seq (.fail v.1)
      else if x.staged.isSome then s.endLoad seq (.fail .busy)
      else s.stageWeft seq w x at_ h.version h.anchor v.2.flatten

end Sys2Proof.Machine
end

