-- ==== Sys2Proof/Machine/TwoPhase.lean ====
section
/-!
DEFINITION. Operations that the origin runs in two phases (06 R238, 07 R267, R300, 08 R313): what each device prepares,
how the origin settles the replies, commit and abort; the lattice of a launch (09 R353 to R357), the regrade (00 R3,
13 R462); and the commands DISCOVER, THREAD_LOOM, BEAT_ALIGN, SET_DRAFT, REPLACE_WARP and LAUNCH.
-/
namespace Sys2Proof.Machine

/-! ### The grade (00 R1, R3, R4; 13 R462) -/

/-- Logical cores of a grade code. -/
def gradeCores (g : Nat) : Nat := if g = 0 then 1200 else if g = 1 then 1152 else if g = 2 then 1088 else 0

/-- The grade of `usable` physical cores, never above the ordered one. -/
def gradeOf (usable : Nat) : Nat :=
  let ordered := Config.orderedGrade.val
  ([0, 1, 2].find? fun g => ordered ≤ g && gradeCores g ≤ usable).getD 3

/-- Gives every fenced number the lowest spare. -/
def substituteFenced (fenced : List Nat) : List Nat → List Nat → List Nat
  | [], _ => []
  | p :: ps, spares =>
    if fenced.contains p then
      match spares with
      | q :: qs => q :: substituteFenced fenced ps qs
      | [] => p :: substituteFenced fenced ps []
    else p :: substituteFenced fenced ps spares

/-- Usable physical cores: neither retired nor fenced. -/
def State.usableCores (s : State) : Nat := nCores - s.cmap.retired.length - s.cmap.fenced.length

/-- Whether fewer cores are usable than the lowest grade needs (00 R4). -/
def State.tooFew (s : State) : Bool := gradeOf s.usableCores = 3

/-- Whether the grade is to change: a core is fenced, or the usable cores call for another grade. -/
def State.regradeDue (s : State) : Bool :=
  !s.cmap.fenced.isEmpty || s.fld Fld.devGrade_grade ≠ gradeOf s.usableCores

/-- The regrade of R3 and R462: the spares that are promised take their numbers, numbers past the new grade become
spares, and each fenced number below it gets one. -/
def State.regrade (s : State) : State :=
  let s := (s.cmap.waiting.map (·.1)).foldl (fun s p => spareSubstitution p s) s
  let out := s.cmap.retired ++ s.cmap.fenced
  let g := gradeOf (nCores - out.length)
  let n := gradeCores g
  let kept := s.cmap.logical.take n
  let spares := (List.range nCores).filter fun p => !kept.contains p && !out.contains p
  let logical := substituteFenced s.cmap.fenced kept spares
  let old := s.devGradeWord
  let s := { s with cmap := { s.cmap with logical := logical, retired := out, fenced := [] } }
  let s := s.setFld Fld.devGrade_retired out.length
  let s := s.setFld Fld.devGrade_grade g
  let s := s.setFld Fld.devGrade_logicalCores n
  let s := s.setFld Fld.devGrade_spares (nCores - n - out.length)
  let s := s.setFld Fld.errCores_fenced 0
  s.logError eRegrade 0 old s.devGradeWord

/-- The grade is settled at a LAUNCH, while no context is launched. -/
def State.gradeAtLaunch (s : State) : State := if s.regradeDue && !s.anyLaunched then s.regrade else s

/-! ### The lattice (09 R353 to R357) -/

/-- The largest power of two up to `n`, at most `2 ^ k`. -/
def powUpTo (n : Nat) : Nat → Nat
  | 0 => 1
  | k + 1 => if 2 ^ (k + 1) ≤ n then 2 ^ (k + 1) else powUpTo n k

/-- W and S of a lattice of `n` cores. -/
def derived (n : Nat) : Nat × Nat :=
  let sg := if n < 128 then 1 else powUpTo (n / 64) 4
  (n / sg, sg)

/-- Whether the power plan in force powers down logical core `n` (12 R435). -/
def State.planOff (s : State) (n : Nat) : Bool :=
  (List.range 64).any fun i => s.flag (Fld.pwrEntry_valid i) && s.flag (Fld.pwrEntry_coreOff i) &&
    s.fld (Fld.pwrEntry_firstCore i) ≤ n && n < s.fld (Fld.pwrEntry_firstCore i) + s.fld (Fld.pwrEntry_coreCount i)

/-- Logical cores of a partition that the plan leaves powered, in order. -/
def State.poweredCores (s : State) (q : Partition) : List Nat :=
  ((List.range q.count).map (q.first + ·)).filter fun n => !s.planOff n

/-- How many cores of a partition the plan leaves powered. -/
def State.powered (s : State) (q : Partition) : Nat := (s.poweredCores q).length

def State.program (s : State) (h : Nat) : Option Program := SMap.get s.sched.programs none h

/-- W and S of base `b` for a program in a partition. -/
def State.latticeOf (s : State) (g : Program) (q : Partition) (b : Nat) : Nat × Nat :=
  if g.refCores = 0 then derived (s.powered q)
  else
    match g.pins.find? fun e => e.1 = b with
    | some e => e.2
    | none => derived g.refCores

/-- F of a launch (R354, R356). -/
def State.splitOf (s : State) (g : Program) : Nat :=
  if g.split ≠ 0 then g.split else if s.fld Fld.clkPlan_point = 0 then 2 else 1

/-! ### LAUNCH on this device (08 R313) -/

/-- CREATED contexts of a job. -/
def State.createdOf (s : State) (job : Nat) : List Nat :=
  s.sched.ctxs.filterMap fun e => if e.2.st = .created && e.2.job = job then some e.1 else none

/-- The checks of one context (08 R307, R314, R320; 00 R4; 09 R357). -/
def State.launchCheck (s : State) (k : Nat) : Status :=
  let c := s.ctx k
  match s.part c.part, s.program c.program with
  | some q, some g =>
    let n := s.fld Fld.devGrade_logicalCores
    let layers := ((s.base c.base).model.map (·.layers)).getD 0
    let other : Bool := s.sched.ctxs.any fun e => e.1 ≠ k && e.2.part = c.part &&
      (e.2.st = .launched || e.2.st = .preempted || (e.2.st = .created && e.2.job = c.job))
    if s.tooFew ∨ n < q.first + q.count then .noResource
    else if !c.serving && other then .busy
    else if g.refCores ≠ 0 ∧ (s.powered q < g.refCores ∨ n < g.refCores) then .noResource
    else if c.serving ∧ 2 ^ 38 < layers * 131072 * kvRow c then .badArgument
    else .ok
  | _, _ => .notFound

/-- JOB barriers of a job that are set aside, and those of jobs that still run (06 R247). -/
def State.jobBarriers (s : State) (job : Nat) : List Nat :=
  s.loom.barJobs.filter fun j => j = job || s.activeJobs.contains j

/-- Sets aside the JOB barriers of a job; none for a 65th of the loom, whose other devices hold those of `jobs` (log 133). -/
def State.takeBarriers (s : State) (job : Nat) (jobs : List Nat) : Option State :=
  let held := s.jobBarriers job
  if held.contains job then some { s with loom := { s.loom with barJobs := held } }
  else if 64 ≤ (((held ++ jobs).filter (· ≠ job)).dedup).length then none
  else some { s with loom := { s.loom with barJobs := held ++ [job] } }

/-- Translation pages that a launch of a SERVING context maps: the step table, the token array and the KV staging. -/
def State.launchPages (s : State) (k : Nat) : List Nat :=
  let table := (List.range 8).map (stepTableAddr / pageBytes + ·)
  let c := s.ctx k
  (table.filter fun p => SMap.get c.pages .unmapped p = .unmapped) ++ s.stagingPages k (s.fld (Fld.schedCtx_prefillRows k))

/-- The reduction area of a launch in exact mode (09 R346). -/
def State.takeReduction (s : State) (k : Nat) : Option State :=
  let c := s.ctx k
  let n := match s.part c.part with
    | some q => ceilDiv (q.count * 262144) pageBytes
    | none => 0
  if !s.exact || !c.redFrames.isEmpty then some s
  else
    (s.reserve framePages n (.reduction k) (some c.client)).map fun r =>
      r.2.modCtx k fun c => { c with redFrames := r.1.map (· / framePages) }

/-- What one context sets aside in prepare; none where the vault has no room. -/
def State.launchReserve (s : State) (k : Nat) : Option State :=
  match s.takeReduction k with
  | none => none
  | some s => if (s.ctx k).serving then s.mapFresh k (s.launchPages k) else some s

/-- Prepares contexts one after the other: the state, and the status of the first that fails. -/
def State.launchEach (s : State) (job : Nat) (jobs : List Nat) : List Nat → State × Status
  | [] => (s, .ok)
  | k :: ks =>
    match s.launchCheck k with
    | .ok =>
      match (if (s.ctx k).serving then some s else s.takeBarriers job jobs).bind fun s => s.launchReserve k with
      | some s => State.launchEach { s with sched := { s.sched with prepared := s.sched.prepared ++ [k] } } job jobs ks
      | none => (s, .noResource)
    | st => (s, st)

/-- A prepared launch is given up: its reduction areas and its JOB barriers are free again. -/
def State.launchAbort (s : State) : State :=
  let s := s.sched.prepared.foldl (fun (s : State) k =>
    (s.freeHeld (.reduction k)).modCtx k fun c => { c with redFrames := [] }) s
  let s := { s with sched := { s.sched with prepared := [] } }
  { s with loom := { s.loom with barJobs := s.loom.barJobs.filter s.activeJobs.contains } }

/-- The JOB barriers of a job that does not run here begin at generation 0 (06 R248). -/
def State.freshBars (s : State) (job : Nat) : State :=
  if s.activeJobs.contains job then s
  else { s with loom := { s.loom with jobBars := SMap.keep s.loom.jobBars fun k => k / 16 ≠ job } }

/-- LAUNCH prepare of a job: NOT_FOUND says that the device holds no CREATED context of it and prepares with nothing to
do; such a device settles its grade at the start (log 23). -/
def State.launchPrepare (s : State) (job : Nat) (jobs : List Nat) : State × Status :=
  match s.createdOf job with
  | [] => (s.freshBars job, .notFound)
  | ks =>
    let s := s.gradeAtLaunch
    let r := { s with sched := { s.sched with prepared := [] } }.launchEach job jobs ks
    if r.2 = .ok then (r.1.freshBars job, r.2) else (r.1.launchAbort, r.2)

/-- A context as a LAUNCH leaves it: the lattice of its base lies on the first of its powered cores (01 R29). -/
def Context.launch (c : Context) (g : Program) (wh : Nat × Nat) (cores : List Nat) (f : Nat) (exact : Bool)
    (prefill start order : Nat) : Context :=
  let based : Bool := c.base < 64
  { c with st := .launched, latW := if based then wh.1 else 0, latS := if based then wh.2 else 0,
           lat := if based then cores.take (wh.1 * wh.2) else [], split := f,
           exact := exact, pinned := g.refCores ≠ 0, startBeat := some start, recIdx := 0, rep := 0, prevSeq := none,
           jobSeq := 0, final := none, stage := 0, place := 0, stepReady := false, stepDone := false, noOutput := false, rows := [],
           prefillMax := prefill, resident := false, waitOrder := order, rerun := [], saved := [], saving := [], swapping := false, degraded := false }

/-- Reassigns the open sessions of a client and base to groups, in increasing id (01 R31). -/
def State.regroup (s : State) (client b n : Nat) : State :=
  let mine := s.openSessions.filter fun e => e.2.client = client && e.2.base = b
  let counts : List (Nat × Nat) := []
  (mine.foldl (fun (r : State × List (Nat × Nat)) e =>
    let size := fun (g : Nat) => (r.2.filter fun x => x.2 = g).length
    let g := (List.range n).foldl (fun a g => if size g < size a then g else a) 0
    (r.1.setSession e.1 { e.2 with group := g }, (e.1, g) :: r.2)) (s, counts)).1

/-- One context starts. -/
def State.launchCtx (s : State) (start k : Nat) : State :=
  let c := s.ctx k
  match s.part c.part, s.program c.program with
  | some q, some g =>
    let wh := s.latticeOf g q c.base
    let s := s.setCtx k (c.launch g wh (s.poweredCores q) (s.splitOf g) s.exact (s.fld (Fld.schedCtx_prefillRows k)) start
      s.sched.waitNo)
    let s := { s with sched := { s.sched with waitNo := s.sched.waitNo + 1 } }
    if c.serving then s.regroup c.client c.base wh.2 else s
  | _, _ => s

/-- The start message (R313; 06 R255): the prepared contexts are LAUNCHED from the start beat on. A device that prepared
with nothing to do meets the start beat too, and settles its grade (00 R3). -/
def State.launchStart (s : State) (job start : Nat) : State :=
  let s := s.gradeAtLaunch
  let ks := s.sched.prepared
  let s := ks.foldl (fun s k => s.launchCtx start k) s
  let s := { s with sched := { s.sched with prepared := [] },
                    loom := { s.loom with starts := s.loom.starts ++ [(job, start)] } }
  let s := s.setRaw Reg.beatStart (BitVec.ofNat 64 start)
  let s := s.startBars job
  if start < s.beat then startBeatReached (s.setFld Fld.beatStatus_lateStart 1) else s

/-! ### Settling at the origin -/

/-- WHERE of a failing reply: only for another device. -/
def State.failLoc (s : State) (k : LoomOpKind) (row col : Nat) : Option (Nat × Nat) :=
  let own := match k, s.loom.prep with
    | .thread, some t => (t.row, t.col)
    | .thread, none => (0, 0)
    | _, _ => (s.loom.row, s.loom.col)
  if own = (row, col) then none else some (row, col)

/-- HOLDER of a CONFLICT on this device: the claim of a loopback bundle (10 R385). -/
def State.conflictHolder (s : State) (t : ThreadPrep) : Nat :=
  match s.heldBundle t with
  | some i => 0x02000000 + ((s.claimed 3 i).map (·.id)).getD 0
  | none => 0

/-- What a device puts back when an operation fails (R238, R300, R313). -/
def State.abortOp (s : State) (k : LoomOpKind) : State :=
  match k with
  | .thread => s.undoThread
  | .draft => { s with warp := { s.warp with prepared := none } }
  | .launch => s.launchAbort
  | .replace => s.stagedBases.foldl State.dropStaging s

/-- The running operation fails. -/
def State.failOp (s : State) (o : LoomOp) (st : Status) (loc : Option (Nat × Nat)) (holder : Nat) : State :=
  let s := (s.loomSend (.abort o.kind)).abortOp o.kind
  (s.complete o.seq { status := st, loc := loc, holder := holder }).nextOp

/-- REPLACE_WARP commit on a device (R300 to R302). -/
def State.replaceCommit (s : State) (b mode : Nat) (s0 : W64) : State :=
  let x := s.base b
  if x.staged.isNone then s
  else if s.inDraft b then s.setBase b { x with st := .replacing, repl := some (s0, mode) }
  else
    let s := s.freeOld b x.step
    s.setBase b { s.base b with mix := (0, 0, 0) }

/-- The running operation commits at its origin. -/
def State.commitOp (s : State) (o : LoomOp) : State :=
  match o.kind with
  | .thread => s.loomSend (.commit .thread (o.arg * o.arg2) 0)
  | .draft =>
    let id := (s.warp.prepared.map (·.id)).getD 0
    let s := (s.loomSend (.commit .draft 0 id)).draftCommit
    (s.complete o.seq { value := id }).nextOp
  | .launch =>
    let start := s.beat + s.fld Fld.beatCtrl_launchLead
    let s := (s.loomSend (.start o.arg start)).launchStart o.arg start
    (s.complete o.seq { value := BitVec.ofNat 64 start }).nextOp
  | .replace =>
    let x := s.base o.arg
    if x.staged.isNone then
      ((s.loomSend (.abort .replace)).complete o.seq { value := x.step }).nextOp
    else
      let s0 := match x.planned with
        | some q => q + 1
        | none => x.step
      let value := if s.inDraft o.arg then s0 else x.step
      let s := (s.loomSend (.commit .replace (o.arg + 256 * o.arg2) s0)).replaceCommit o.arg o.arg2 s0
      (s.complete o.seq { value := value }).nextOp

/-- A reply that fails an operation. -/
def badReply (k : LoomOpKind) (st : Status) : Bool := st ≠ .ok && !(k = .launch && st = .notFound)

/-- Settles the running operation once every device has answered. -/
def State.settleOp (s : State) : State :=
  match s.loom.ops with
  | [] => s
  | o :: _ =>
    if o.replies.length < s.opDevices o then s
    else
      match o.failure (badReply o.kind) with
      | some (row, col, st) =>
        s.failOp o st (s.failLoc o.kind row col) (o.holderOf row col)
      | none =>
        if o.kind = .launch ∧ o.replies.all (fun r => r.2.2 = .notFound) then s.failOp o .notFound none 0
        else s.commitOp o

/-- This device's answer to a prepare: to itself at the origin, else to the origin. -/
def State.answerPrepare (s : State) (k : LoomOpKind) (row col : Nat) (st : Status) (holder : Nat := 0) : State :=
  if (s.opOf k).isSome then (s.noteReply k row col st holder).settleOp else s.loomSend (.reply k row col st holder)

/-! ### Rows -/

/-- THREAD_PREPARE: the checks, the crosspoint, the replay shares. The origin's beat value goes down the tree, and it answers itself;
every other device has prepared once that value has aligned its beat (R238 step 5). -/
def threadPrepareRx (t : ThreadPrep) (rtts : List (Nat × Nat)) (s : State) : State :=
  if s.loom.prep.isSome then s
  else
    let st := s.threadCheck t
    let holder := if st = .conflict then s.conflictHolder t else 0
    if st = .ok then
      let s := s.threadPrepare t rtts
      if (s.opOf .thread).isSome then s.originBeat.answerPrepare .thread t.row t.col .ok else s
    else s.answerPrepare .thread t.row t.col st holder

/-- THREAD_PREPARE (R238). -/
def execThreadPrepare (nr nc row col : Nat) (paths : List ExpressPath) (rtts : List (Nat × Nat)) (s : State) : Out :=
  .next (whenDo (s.onMesh && row < nr && col < nc) s (threadPrepareRx ⟨nr, nc, row, col, paths⟩ rtts))

/-- BEAT_VALUE: the origin's count comes down the tree after the timing exchanges, in THREAD_LOOM prepare or BEAT_ALIGN. In prepare
it completes the device's part. -/
def beatValue (value : Nat) (s : State) : State :=
  if s.loom.exchanges < timingExchanges then s
  else
    match s.loom.prep with
    | some t =>
      let s := s.takeBeat value
      if (s.opOf .thread).isSome then s else s.answerPrepare .thread t.row t.col .ok
    | none => if s.devState = stThreaded then s.takeBeat value else s

/-- BEAT_VALUE (R238, R252). -/
def execBeatValue (value : Nat) (s : State) : Out := .next (whenDo s.onMesh s (beatValue value))

/-- PREPARE_REPLY (R238), with the HOLDER of a CONFLICT (R228). -/
def execPrepareReply (op : LoomOpKind) (row col : Nat) (a : PrepareAnswer) (s : State) : Out :=
  .next (whenDo s.onMesh s fun s => if (s.opOf op).isSome then (s.noteReply op row col a.status a.holder).settleOp else s)

/-- DRAFT_PREPARE: the checked draft waits for its commit. -/
def draftPrepare (draft : Bytes) (s : State) : State :=
  let r := s.draftCheck draft
  let s := { s with warp := { s.warp with prepared := r.2 } }
  s.answerPrepare .draft s.loom.row s.loom.col r.1

/-- DRAFT_PREPARE (R267). -/
def execDraftPrepare (draft : Bytes) (s : State) : Out :=
  .next (whenDo (s.sys.tclk && s.devState = stThreaded) s (draftPrepare draft))

/-- DRAFT_COMMIT (R268). -/
def execDraftCommit (s : State) : Out :=
  .next (whenDo (s.sys.tclk && s.devState = stThreaded && !s.isOrigin) s State.draftCommit)

/-- LAUNCH_PREPARE (R313). -/
def execLaunchPrepare (ask : LaunchAsk) (s : State) : Out :=
  .next (whenDo (s.sys.tclk && s.devState = stThreaded) s fun s => s.betweenCommands fun s =>
    let r := s.launchPrepare ask.job ask.jobs
    r.1.answerPrepare .launch r.1.loom.row r.1.loom.col r.2)

/-- LAUNCH_START (R313; 06 R255). -/
def execLaunchStart (job beat : Nat) (s : State) : Out :=
  .next (whenDo (s.sys.tclk && s.devState = stThreaded) s fun s => s.launchStart job beat)

/-- REPLACE_PREPARE (R300). -/
def execReplacePrepare (base mode : Nat) (pkg : Bytes) (s : State) : Out :=
  .next (whenDo (s.sys.tclk && s.devState = stThreaded) s fun s => s.betweenCommands fun s =>
    let r := if 64 ≤ base ∨ 1 < mode then (s, Status.badArgument) else s.stageWarp base pkg
    r.1.answerPrepare .replace r.1.loom.row r.1.loom.col r.2)

/-- REPLACE_COMMIT (R300 to R302). -/
def execReplaceCommit (base mode : Nat) (s0 : W64) (s : State) : Out :=
  .next (whenDo (s.sys.tclk && s.devState = stThreaded) s fun s => s.replaceCommit base mode s0)

/-- PREPARE_ABORT (R238, R300, R313). -/
def execPrepareAbort (op : LoomOpKind) (s : State) : Out :=
  .next (whenDo s.onMesh s fun s => s.abortOp op)

/-! ### Genot commands -/

/-- DISCOVER (10 R387; 06 R233, R235). -/
def execDiscover (seq : W64) (s : State) : Out :=
  genot 0x30 seq anyState (fun s =>
    if s.disc.seq.isSome then s.complete seq (.fail .busy) else s.startDiscovery (some seq)) s

/-- Devices and rows of the discovery that this device originated. -/
def State.found (s : State) : Survey := survey (s.ownReport :: s.disc.reports)

/-- The bytes of an express path as THREAD_LOOM carries them. -/
def pathBytes (x : ExpressPath) : Bytes :=
  leBytes x.aRow 1 ++ leBytes x.aCol 1 ++ leBytes x.bRow 1 ++ leBytes x.bCol 1 ++ [x.mask, 0, 0, 0]

/-- THREAD_LOOM at the origin (R238). -/
def State.threadLoom (s : State) (seq : W64) (paths : List ExpressPath) : State :=
  let ok : Bool := s.disc.isOrigin && s.disc.result = some 0 && paths.length ≤ 2000
  if !ok then s.complete seq (.fail .badArgument)
  else
    let v := s.found
    s.startOp { kind := .thread, seq := seq, arg := v.nr.toNat, arg2 := v.nc.toNat, data := paths.flatMap pathBytes }

/-- THREAD_LOOM (10 R387). -/
def execThreadLoom (seq : W64) (paths : List ExpressPath) (s : State) : Out :=
  genot 0x31 seq { ready := true, faulted := true, origin := true } (fun s => s.threadLoom seq paths) s

/-- BEAT_ALIGN at the origin (06 R252): its own count stands. `launched` says whether another device of the loom has a context
launched; the spec does not say how the origin learns it (log 133). -/
def State.beatAlign (s : State) (seq : W64) (launched : Bool) : State :=
  if s.anyLaunched || launched then s.complete seq (.fail .busy)
  else s.originBeat.complete seq { value := s.raw Reg.beatCount }

/-- BEAT_ALIGN (10 R387). -/
def execBeatAlign (ask : AlignAsk) (s : State) : Out :=
  genot 0x32 ask.seq { threaded := true, origin := true } (fun s => s.beatAlign ask.seq ask.launched) s

/-- SET_DRAFT (10 R388): the origin reads the draft. -/
def execSetDraft (seq : W64) (region : Region) (s : State) : Out :=
  genot 0x45 seq { threaded := true, origin := true } (fun s =>
    if s.regionBad region then s.complete seq badRegion else s.startRead seq [] region) s

/-- The draft of SET_DRAFT has been read: its prepare starts. -/
def State.draftRead (s : State) (seq : W64) (bs : Bytes) : State :=
  let s := s.charge sharedAcct lEth bs.length
  let s := s.modRunning seq fun q => { q with region := none }
  s.startOp { kind := .draft, seq := seq, arg := 0, data := bs }

/-- The bytes of a region descriptor. -/
def regionBytes (r : Region) : Bytes := leBytes r.addr.toNat 8 ++ leBytes r.length.toNat 8 ++ leBytes r.rkey.toNat 4 ++ leBytes r.qp.toNat 2 ++ [0, 0]

/-- REPLACE_WARP (10 R388). -/
def execReplaceWarp (seq : W64) (base mode : Byte) (region : Region) (s : State) : Out :=
  genotOn [(2, base.toNat)] 0x43 seq { threaded := true, origin := true } (fun s =>
    if 64 ≤ base.toNat ∨ 1 < mode.toNat then s.complete seq (.fail .badArgument)
    else if s.regionBad region then s.complete seq badRegion
    else s.startOp { kind := .replace, seq := seq, arg := base.toNat, arg2 := mode.toNat, data := regionBytes region }) s

/-- LAUNCH on a device that is READY (R313): it starts its own DEDICATED contexts of the job. A job with a SERVING
context is refused with NOT_FOUND; the grade is settled then too (00 R3). -/
def State.launchAlone (s : State) (seq : W64) (job : Nat) : State :=
  if s.sched.ctxs.any fun e => e.2.st ≠ .free && e.2.job = job && e.2.serving then
    (if (s.createdOf job).isEmpty then s else s.gradeAtLaunch).complete seq (.fail .notFound)
  else
    let r := s.launchPrepare job []
    if r.2 = .ok then
      let start := r.1.beat + r.1.fld Fld.beatCtrl_launchLead
      (r.1.launchStart job start).complete seq { value := BitVec.ofNat 64 start }
    else r.1.complete seq (.fail r.2)

/-- LAUNCH (10 R389). -/
def execLaunch (seq : W64) (job : W16) (s : State) : Out :=
  genot 0x52 seq { ready := true, threaded := true, origin := true } (fun s =>
    if s.tooFew then s.gradeAtLaunch.complete seq (.fail .noResource)
    else if s.devState = stThreaded then s.startOp { kind := .launch, seq := seq, arg := job.toNat }
    else s.launchAlone seq job.toNat) s

end Sys2Proof.Machine
end

