-- ==== Sys2Proof/Machine/Contexts.lean ====
section
/-!
DEFINITION. Programs (04 R171; 08 R308), contexts (08 R309 to R312), pre-emption, saves and restores (08 R329 to R332).
-/
namespace Sys2Proof.Machine

/-! ### LOAD_PROGRAM (04 R171; 08 R308) -/

/-- The pin entries of a binary, none where one breaks R171. -/
def parsePins (ref : Nat) : List Bytes → List Nat → Option (List (Nat × Nat × Nat))
  | [], _ => some []
  | e :: es, seen =>
    let b := byteAt e 0
    let w := field e 2 2
    let h := field e 4 2
    let ok : Bool := b < 64 && byteAt e 1 = 0 && field e 6 2 = 0 && w ≠ 0 && h ≠ 0 && w * h ≤ ref && !seen.contains b
    if ok then (parsePins ref es (b :: seen)).map ((b, w, h) :: ·) else none

/-- The program of a Poilo binary, its code image not yet placed; none where the binary breaks R171. -/
def parseBinary (bs : Bytes) : Option Program :=
  let mode := byteAt bs 6
  let codeOff := field bs 8 8
  let codeSize := field bs 0x10 8
  let count := field bs 0x18 4
  let entOff := field bs 0x20 8
  let ref := field bs 0x28 2
  let split := byteAt bs 0x2A
  let pins := byteAt bs 0x2B
  let pinOff := field bs 0x30 8
  let ents := (pieces 8 count (bs.drop entOff)).map leNat
  let head : Bool := 64 ≤ bs.length && field bs 0 4 = 0x504C4F32 && field bs 4 2 = 1 && mode < 2 && byteAt bs 7 = 0 &&
    field bs 0x1C 4 = 0 && field bs 0x2C 4 = 0 && field bs 0x38 8 = 0
  let ranges : Bool := codeOff % 8 = 0 && codeSize % 8 = 0 && codeSize ≤ 0x1000000 && 1 ≤ count && count ≤ 256 && ref ≤ 1200 &&
    [0, 1, 2, 4, 8, 16].contains split && pins ≤ 64 && (ref ≠ 0 || pins = 0)
  let inside : Bool := codeOff + codeSize ≤ bs.length && entOff + 8 * count ≤ bs.length && pinOff + 8 * pins ≤ bs.length &&
    ents.all fun e => e % 8 = 0 && e < codeSize
  if head && ranges && inside then
    (parsePins ref (pieces 8 pins (bs.drop pinOff)) []).map fun ps =>
      ⟨Config.sha512 bs, mode = 1, codeSize, 0, ents, ref, split, ps⟩
  else none

/-- Whether some context uses a program. -/
def State.programUsed (s : State) (h : Nat) : Bool := s.sched.ctxs.any fun e => e.2.st ≠ .free && e.2.program = h

/-- Frees a program. -/
def State.freeProgram (s : State) (h : Nat) : State :=
  let s := s.freeHeld (.program h)
  { s with sched := { s.sched with programs := SMap.del s.sched.programs h } }

/-- Loaded programs that no context uses, the lowest handle first. -/
def State.unusedPrograms (s : State) : List Nat :=
  s.sched.programs.filterMap fun e => if e.2.isSome && !s.programUsed e.1 then some e.1 else none

/-- Takes the vault pages of a program, freeing unused programs one by one, then in the order of R297. -/
def State.programPages (s : State) (h n : Nat) : List Nat → Option (List Nat × State)
  | [] => s.reserve n 1 (.program h) none
  | u :: us =>
    match s.takeRuns n 1 (.program h) none with
    | some r => some r
    | none => (s.freeProgram u).programPages h n us

/-- Stores a program under a handle, or answers NO_RESOURCE. -/
def State.putProgram (s : State) (seq : W64) (h : Nat) (g : Program) (code : Bytes) : State :=
  match s.programPages h (ceilDiv code.length vpageBytes) s.unusedPrograms with
  | none => s.complete seq (.fail .noResource)
  | some (runs, s) =>
    let addr := runs.headD 0 * vpageBytes
    let s := s.storeFor addr code sharedAcct
    let s := { s with sched := { s.sched with programs := SMap.put s.sched.programs h (some { g with codeAddr := addr }) } }
    s.complete seq { value := BitVec.ofNat 64 h }

/-- The binary of LOAD_PROGRAM has been read. -/
def State.programRead (s : State) (seq : W64) (bs : Bytes) : State :=
  let s := s.charge sharedAcct lEth bs.length
  match parseBinary bs with
  | none => s.complete seq (.fail .badArgument)
  | some g =>
    let same := s.sched.programs.find? fun e => match e.2 with
      | some x => x.sha = g.sha
      | none => false
    match same with
    | some e => s.complete seq { value := BitVec.ofNat 64 e.1 }
    | none =>
      let code := cut bs (field bs 8 8) g.codeSize
      match firstFrom (fun h => (s.program h).isNone) 0 256, s.unusedPrograms with
      | some h, _ => s.putProgram seq h g code
      | none, h :: _ => (s.freeProgram h).putProgram seq h g code
      | none, [] => s.complete seq (.fail .noResource)

/-- LOAD_PROGRAM (10 R389). -/
def execLoadProgram (seq : W64) (region : Region) (s : State) : Out :=
  genot 0x50 seq rdyThr (fun s => if s.regionBad region then s.complete seq badRegion else s.startRead seq [] region) s

/-! ### CREATE_CONTEXT (08 R309 to R311) -/

/-- The fields of CREATE_CONTEXT. -/
structure NewCtx where
  program : Nat
  part : Nat
  cls : Nat
  base : Nat
  client : Nat
  job : Nat
  first : Nat
  count : Nat
  quota : Nat
  deriving DecidableEq, Repr

def NewCtx.list (n : NewCtx) : List Nat := [n.program, n.part, n.cls, n.base, n.client, n.job, n.first, n.count, n.quota]

def newCtxOf (xs : List Nat) : NewCtx :=
  ⟨xs.getD 0 0, xs.getD 1 0, xs.getD 2 0, xs.getD 3 0, xs.getD 4 0, xs.getD 5 0, xs.getD 6 0, xs.getD 7 0, xs.getD 8 0⟩

/-- The partition that a context names, as it would be. -/
def NewCtx.partition (n : NewCtx) : Partition := { first := n.first, count := n.count, serving := n.cls = 1 }

/-- Cases of the BAD_ARGUMENT row of R309 that the fields alone decide. -/
def State.createBad (s : State) (n : NewCtx) (g : Program) (len : Nat) : Bool :=
  let other : Bool := match s.part n.part with
    | some q => q.first ≠ n.first || q.count ≠ n.count || q.serving ≠ (n.cls = 1)
    | none => false
  n.client = 0xFFFF || 64 ≤ n.part || other || n.count = 0 || 1200 < n.first + n.count || 1 < n.cls ||
    (n.cls = 1 && (g.vm1 || 64 ≤ n.base)) || (n.cls = 0 && 64 ≤ n.base && n.base ≠ 255) ||
    (n.cls = 0 && (len % 640 ≠ 0 || 65536 * 640 < len))

/-- CREATE_CONTEXT starts: it reads the list or the plan. -/
def State.createStart (s : State) (seq : W64) (n : NewCtx) (r : Region) : State :=
  match s.program n.program with
  | none => s.complete seq (.fail .notFound)
  | some g =>
    if s.createBad n g r.length.toNat then s.complete seq (.fail .badArgument)
    else if s.regionBad r then s.complete seq badRegion
    else s.startRead seq n.list r

/-- Whether the head of a template keeps "Serving commands" (R315, R316). -/
def templateOk (g : Program) (count : Nat) (t : Bytes) : Bool :=
  t.length = 640 && field t 0 2 < g.entries.length && field t 2 2 < 4 && 1 ≤ field t 6 2 && field t 4 2 + field t 6 2 ≤ count &&
    field t 8 8 = 0 && field t 0x16 2 = 0 && field t 0x18 8 % 256 = 0 && zeroIn t 0x20 32 &&
    (List.range 8).all fun i => bitsOf (field t 0x10 4) (4 * i + 3) (4 * i) < 6

/-- Whether HP, HEAD_DIM and KVFMT form a head group of R197. -/
def headGroupOk (fmt heads hp dim : Nat) : Bool :=
  let e := if fmt = 4 then 2 else 1
  [0, 1, 4].contains fmt && [1, 2, 4, 8, 16].contains hp && [32, 64, 128].contains dim && 1 ≤ heads && heads ≤ 128 &&
    heads % hp = 0 && 4096 % (2 * hp * dim * e) = 0

/-- Whether a step plan keeps "Serving commands". -/
def planOk (g : Program) (count : Nat) (bs : Bytes) : Bool :=
  let n := byteAt bs 6 + byteAt bs 7 + byteAt bs 8
  64 ≤ bs.length && field bs 0 4 = 0x5354504C && field bs 4 2 = 1 && 1 ≤ byteAt bs 7 && 1 ≤ byteAt bs 8 &&
    headGroupOk (byteAt bs 9) (byteAt bs 10) (byteAt bs 11) (field bs 12 2) && zeroIn bs 14 50 && 64 + 640 * n ≤ bs.length &&
    (pieces 640 n (bs.drop 64)).all (templateOk g count)

/-- Bytes of the save area of one core (R311). -/
def saveBytes : Nat := 884736

/-- Frames of a save area. -/
def saveFrameCount (cores : Nat) : Nat := ceilDiv (saveBytes * cores) pageBytes

/-- The lowest free context number. -/
def State.freeCtx (s : State) : Option Nat := firstFrom (fun k => (s.ctx k).st = .free) 0 256

/-- Whether a new partition overlaps another. -/
def State.partClash (s : State) (n : NewCtx) : Bool :=
  (s.part n.part).isNone && s.sched.parts.any fun e => match e.2 with
    | some q => q.first < n.first + n.count && n.first < q.first + q.count
    | none => false

/-- Whether the client would need a 1,025th account. -/
def State.noAccount (s : State) (client : Nat) : Bool :=
  (SMap.get s.ledger.accounts none client).isNone && 1024 ≤ (s.ledger.accounts.filter fun e => e.1 ≠ sharedAcct && e.2.isSome).length

/-- The quota and the save area: physical frames of each. -/
def State.takeContext (s : State) (k : Nat) (n : NewCtx) : Option (List Nat × List Nat × State) :=
  match s.reserve framePages n.quota (.client n.client) (some n.client) with
  | none => none
  | some (qs, s) =>
    match s.reserve framePages (saveFrameCount n.count) (.save k) none with
    | none => none
    | some (vs, s) => some (qs.map (· / framePages), vs.map (· / framePages), s)

/-- Pages of the wefts of a client, for a context of that client (R294). -/
def State.weftPages (s : State) (client : Nat) : SMap PageSt :=
  s.warp.wefts.foldl (fun (m : SMap PageSt) (e : Nat × Option Weft) => match e.2 with
    | some w => if w.client = client then w.mapped m else m
    | none => m) []

/-- The context is made. -/
def State.makeContext (s : State) (seq : W64) (k : Nat) (n : NewCtx) (vm1 : Bool) (plan : Bytes) (quota save : List Nat) : State :=
  let s := quota.foldl (fun (s : State) (f : Nat) => s.wipe (f * pageBytes) pageBytes) s
  let serving : Bool := n.cls = 1
  let c : Context := { st := .created, client := n.client, job := n.job, part := n.part, serving := serving, base := n.base,
                       program := n.program, vm1 := vm1, quota := n.quota, saveFrames := save, plan := plan,
                       pages := mapFrames (s.weftPages n.client) 0 quota }
  let acct := match SMap.get s.ledger.accounts none n.client with
    | some a => a
    | none => {}
  let s := { s with ledger := { s.ledger with accounts := SMap.put s.ledger.accounts n.client (some acct) } }
  let q := (s.part n.part).getD n.partition
  let s := { s with sched := { s.sched with parts := SMap.put s.sched.parts n.part (some q) } }
  let s := (s.setCtx k c).charge n.client lEth plan.length
  (s.forClient seq n.client).complete seq { value := BitVec.ofNat 64 k }

/-- The list or the plan of CREATE_CONTEXT has been read. -/
def State.createRead (s : State) (seq : W64) (n : NewCtx) (bs : Bytes) : State :=
  match s.program n.program with
  | none => s.complete seq (.fail .notFound)
  | some g =>
    let busy : Bool := n.cls = 1 && (s.servingCtx n.client n.base).isSome
    if s.createBad n g (if n.cls = 0 then bs.length else 0) || (n.cls = 1 && !planOk g n.count bs) then
      s.complete seq (.fail .badArgument)
    else if busy then s.complete seq (.fail .busy)
    else if s.noAccount n.client || s.partClash n then s.complete seq (.fail .noResource)
    else
      match s.freeCtx with
      | none => s.complete seq (.fail .noResource)
      | some k =>
        match s.takeContext k n with
        | none => s.complete seq (.fail .noResource)
        | some (qs, vs, s) => s.makeContext seq k n g.vm1 bs qs vs

/-- CREATE_CONTEXT (10 R389). -/
def execCreateContext (seq : W64) (program partition cls base : Byte) (client job first count : W16) (quota : W32)
    (region : Region) (s : State) : Out :=
  genotOn [(2, base.toNat)] 0x51 seq rdyThr (fun s => s.createStart seq ⟨program.toNat, partition.toNat, cls.toNat, base.toNat, client.toNat,
    job.toNat, first.toNat, count.toNat, quota.toNat⟩ region) s

/-! ### Saves (08 R331) -/

/-- The pieces of a range of a run of frames: physical address and length. -/
def framesRange (frames : List Nat) (off : Nat) : Nat → List (Nat × Nat)
  | 0 => []
  | n =>
    let a := min n (pageBytes - off % pageBytes)
    if a = n then [(inFrames frames off, n)] else [(inFrames frames off, a), (inFrames frames (off + a), n - a)]

/-- Data bytes at the stacks of saving or restoring the cores of a command, for its client. -/
def State.saveTraffic (s : State) (c : RunCmd) (write : Bool) : State :=
  let k := s.ctx c.ctx
  let first := ((s.part k.part).map (·.first)).getD 0
  let ps := (List.range c.count).flatMap fun i => framesRange k.saveFrames ((c.first - first + i) * saveBytes) saveBytes
  let s := ps.foldl (fun (s : State) (e : Nat × Nat) => (List.range nStacks).foldl (fun (s : State) st =>
    let n := bytesIn e.1 e.2 st
    if write then s.countWrite st n else s.countRead st n) s) s
  s.charge k.client lVault (saveBytes * c.count)

/-- Whether cores of a command have remote operations that wait for their reply. -/
def State.openRemote (s : State) (c : RunCmd) : Bool :=
  let ps := s.setCores c
  s.rmt.any fun e => match e.2 with
    | some o => ps.contains o.core && !o.orphan
    | none => false

/-- Where the parts of a core's save area begin, and the length of the state record. -/
def saveAcc : Nat := 0x80000
def saveRec : Nat := 0xC0000
def recBytes : Nat := 0x18000

/-- Bytes of an accumulator file from offset `base` on: those of rows that read as +0.0 are zero. -/
def Engine.accImage (x : Engine) (base : Nat) : Mem :=
  x.acc.flatMap fun e => ((List.range 4).map fun i => (base + 4 * e.1 + i, (x.entry (e.1 / 128) (e.1 % 128)).extractLsb' (8 * i) 8)).filter (·.2 ≠ 0)

/-- The save area of a core (R311): the spool, the accumulators, and the state record, whose layout the spec does not give: its bytes
are free values (log 75). -/
def Core.saveImage (c : Core) (ctr : Nat) : Mem :=
  c.spool.window 0 saveAcc 0 ++ c.eng0.accImage saveAcc ++ c.eng1.accImage (saveAcc + 0x20000) ++
    (((List.range recBytes).map fun i => (saveRec + i, Config.freeByte (ctr + i))).filter (·.2 ≠ 0))

/-- The tellers write the save area of a core, place `off` in the frames of its context (R331 step 4). -/
def State.writeSave (s : State) (frames : List Nat) (off : Nat) (img : Mem) : State :=
  let ps := framesRange frames off saveBytes
  let r := ps.foldl (fun (r : Mem × Nat) e => (r.1.blit e.1 e.2 img r.2, r.2 + e.2)) (s.vault, 0)
  { s with vault := r.1 }

/-- The save areas of the cores of a command are written. -/
def State.writeSaves (s : State) (c : RunCmd) : State :=
  let k := s.ctx c.ctx
  let first := ((s.part k.part).map (·.first)).getD 0
  ((s.setCores c).zip (List.range c.count)).foldl (fun (s : State) (e : Nat × Nat) =>
    let s := s.writeSave k.saveFrames ((c.first - first + e.2) * saveBytes) ((s.core e.1).saveImage s.freeCtr)
    { s with freeCtr := s.freeCtr + recBytes }) s

/-- A command of context `k` begins to be saved: its cores issue nothing more (R331 step 1). -/
def State.beginSave (s : State) (key : Nat) (c : RunCmd) : State :=
  let s := (s.setCores c).foldl (fun (s : State) p => s.modCore p fun x => { x with saving := true }) s
  s.modCtx c.ctx fun x => { x with saving := (x.saving.filter fun v => v.cmd ≠ key) ++ [⟨key, s.beat⟩] }

/-- A native command that is not side-effecting can be killed (R160, R170). -/
def State.killable (s : State) (c : RunCmd) : Bool := !c.side && !(s.ctx c.ctx).vm1

/-- A kill by PREEMPT or by a swap, its attempt charged to an account (R330, R336). A command that is to end by a fault or by
CMD.ABORT ends so (04 R164, R168). -/
def State.killFor (s : State) (key : Nat) (c : RunCmd) (acct : Nat) : State :=
  if c.pending then s.abortPending key c else (s.killCmd key c acct).charge (s.ctx c.ctx).client lKilled 1

/-- Whether a save has nothing left to wait for (R331). -/
def State.saveReady (s : State) (c : RunCmd) : Bool :=
  c.phase = .running && c.faulted.isNone && c.ending.isNone && !s.openRemote c &&
    (s.setCores c).all fun p =>
      let x := s.core p
      x.tagsFree = 64 && x.eng0.queue.isEmpty && x.eng1.queue.isEmpty && x.merge.isNone

/-- The command is saved: its cores take other work. -/
def State.saveCmd (s : State) (key : Nat) (c : RunCmd) : State :=
  let cores := (s.setCores c).map s.core
  let s := (s.saveTraffic c true).writeSaves c
  let s := (s.setCores c).foldl (fun (s : State) p => s.modCore p Core.aborted) s
  let s := (s.dropCmd key).modCtx c.ctx fun x => { x with
    saved := x.saved ++ [⟨c, cores⟩], saving := x.saving.filter fun v => v.cmd ≠ key }
  s.preemptCheck c.ctx

/-- The saves in progress of a context, with their commands. -/
def State.saves (s : State) (k : Nat) : List (Saving × RunCmd) :=
  (s.ctx k).saving.filterMap fun v => (s.cmdAt v.cmd).map fun c => (v, c)

/-- SAVE_DONE: the first save of the context that has nothing left to wait for is written. -/
def saveDone (k : Nat) (s : State) : State :=
  match (s.saves k).find? fun e => s.saveReady e.2 with
  | some (v, c) => s.saveCmd v.cmd c
  | none => s

/-- SAVE_DONE (R331). -/
def execSaveDone (ctx : Nat) (s : State) : Out := onUnit (ctx < 256) (whenDo s.sys.tclk s (saveDone ctx))

/-- SAVE_REMOTE_DEADLINE: a save whose remote replies are not all in by b_s + 8,750 becomes a kill. -/
def saveRemoteDeadline (k : Nat) (s : State) : State :=
  match (s.saves k).find? fun e => e.1.bs + 8750 < s.beat && s.killable e.2 && s.openRemote e.2 && e.2.phase = .running with
  | some (v, c) =>
    let x := s.ctx k
    let s := s.killFor v.cmd c (if x.preempts.isEmpty then sharedAcct else x.client)
    let s := s.modCtx k fun x => { x with saving := x.saving.filter (fun w => w.cmd ≠ v.cmd), degraded := !x.preempts.isEmpty }
    s.preemptCheck k
  | none => s

/-- SAVE_REMOTE_DEADLINE (R331). -/
def execSaveRemoteDeadline (ctx : Nat) (s : State) : Out := onUnit (ctx < 256) (whenDo s.sys.tclk s (saveRemoteDeadline ctx))

/-! ### PREEMPT, RESUME, DESTROY_CONTEXT (08 R312, R329) -/

/-- Stops the running commands of a context, but for those in their commit phase: killed where `kill` allows it, else
saved. -/
def State.stopCmds (s : State) (k : Nat) (kill : Bool) (acct : Nat) : State :=
  (s.cmdsOf k).foldl (fun (s : State) (e : Nat × RunCmd) =>
    if e.2.phase ≠ .running then s
    else if e.2.pending then s.abortPending e.1 e.2
    else if kill && s.killable e.2 then s.killFor e.1 e.2 acct
    else if (s.ctx k).saving.any fun v => v.cmd = e.1 then s
    else s.beginSave e.1 e.2) s

/-- A context number that names a context. -/
def State.ctxExists (s : State) (k : Nat) : Bool := (s.ctx k).st ≠ .free

/-- PREEMPT runs. -/
def State.preemptRun (s : State) (seq : W64) (k mode : Nat) : State :=
  if !s.ctxExists k then s.complete seq (.fail .notFound)
  else
    let client := (s.ctx k).client
    let s := s.forClient seq client
    if 1 < mode then s.complete seq (.fail .badArgument)
    else if (s.ctx k).st ≠ .launched then s.complete seq {}
    else
      let s := s.modCtx k fun c => { c with preempts := c.preempts ++ [seq] }
      (s.stopCmds k (mode = 0) client).preemptCheck k

/-- PREEMPT (10 R389). -/
def execPreempt (seq : W64) (ctx mode : Byte) (s : State) : Out :=
  genotOn [(4, ctx.toNat)] 0x53 seq rdyThr (fun s => s.preemptRun seq ctx.toNat mode.toNat) s

/-- A context begins to wait for residence, at the back. -/
def State.queueCtx (s : State) (k : Nat) : State :=
  let s := s.modCtx k fun c => { c with waitOrder := s.sched.waitNo }
  { s with sched := { s.sched with waitNo := s.sched.waitNo + 1 } }

/-- RESUME runs. -/
def State.resumeRun (s : State) (seq : W64) (k : Nat) : State :=
  let s' := s.forClient seq (s.ctx k).client
  match (s.ctx k).st with
  | .free => s.complete seq (.fail .notFound)
  | .launched => s'.complete seq {}
  | .preempted => ((s'.ctxTo k .launched).queueCtx k).complete seq {}
  | .created => s'.complete seq (.fail .badArgument)
  | .faulted => s'.complete seq (.fail .badArgument)

/-- RESUME (10 R389). -/
def execResume (seq : W64) (ctx : Byte) (s : State) : Out :=
  genotOn [(4, ctx.toNat)] 0x54 seq rdyThr (fun s => s.resumeRun seq ctx.toNat) s

/-- Frames mapped to a context that its client holds: its own pages, step table and staging. -/
def State.ownFrames (s : State) (c : Context) : List Nat :=
  c.pages.filterMap fun e => match e.2 with
    | .resident f => if (s.vpage (f * framePages)).now = .client c.client then some f else none
    | _ => none

/-- The context and what it holds are gone; its partition ends with its last context. -/
def State.dropContext (s : State) (k : Nat) : State :=
  let c := s.ctx k
  let s := ((s.freeFrames (s.ownFrames c)).freeHeld (.save k)).freeHeld (.reduction k)
  let s := { s with sched := { s.sched with ctxs := SMap.del s.sched.ctxs k, unpub := s.sched.unpub.filter fun u => u.ctx ≠ k } }
  let used : Bool := s.sched.ctxs.any fun e => e.2.st ≠ .free && e.2.part = c.part
  if used then s else { s with sched := { s.sched with parts := SMap.del s.sched.parts c.part } }

/-- DESTROY_CONTEXT runs. -/
def State.destroyRun (s : State) (seq : W64) (k : Nat) : State :=
  let c := s.ctx k
  let bound : Bool := c.serving && s.openSessions.any fun e => e.2.client = c.client && e.2.base = c.base
  if !s.ctxExists k then s.complete seq (.fail .notFound)
  else
    let s := s.forClient seq c.client
    if c.st = .launched || bound then s.complete seq (.fail .busy) else (s.dropContext k).complete seq {}

/-- DESTROY_CONTEXT (10 R389). -/
def execDestroyContext (seq : W64) (ctx : Byte) (s : State) : Out :=
  genotOn [(4, ctx.toNat)] 0x55 seq anyState (fun s => s.destroyRun seq ctx.toNat) s

/-! ### RESTORE (08 R332; 02 R62) -/

/-- A plane that was loaded from the spool is loaded again from the address recorded for it: in BF16, its half of the image.
The spec gives no reload for a plane that a logical tile loaded: it keeps the image that was saved (DESIGN CHOICE, log 127). -/
def Core.reloadPlane (c : Core) (n : Nat) : Core :=
  let x := c.plane n
  match x.valid, x.src with
  | true, .spool off =>
    let image := c.load off (imageSize x.fmt)
    c.setPlane n { x with image := if x.fmt = .bf16 then bf16Half image x.upper else image }
  | _, _ => c

/-- What a core that held `old` holds after it takes the saved state `x` of a command under key `key`: the epoch grows by 1;
the warp FIFO and its cursor, the banks and the peak of the tags are the core's own. -/
def Core.restored (x old : Core) (key beat tmo : Nat) : Core :=
  let c := { x with
    epoch := old.epoch + 1, fifo := old.fifo, deliver := old.deliver, experts := old.experts, banksOff := old.banksOff,
    settling := old.settling, tagPeak := old.tagPeak, cmd := key, stopped := false, saving := false,
    threads := x.threads.mapVals (Thread.rewait beat tmo),
    streams := x.streams.mapVals fun y => if y.slotWait.isSome then { y with slotWait := some beat, slotTmo := tmo } else y }
  (List.range 4).foldl Core.reloadPlane c

/-- Whether every core of a command's set is idle and in service. -/
def State.coresIdle (s : State) (c : RunCmd) : Bool :=
  (List.range c.count).all fun i => match s.physOf (c.first + i) with
    | some p => (s.core p).phase = .none && !s.cmap.retired.contains p && !s.cmap.fenced.contains p
    | none => false

/-- One saved command runs again. -/
def State.restoreCmd (s : State) (k : Nat) (v : SavedCmd) : State :=
  let key := s.sched.nextCmd
  let s := { s with sched := { s.sched with nextCmd := key + 1 } }
  let s := (s.saveTraffic v.cmd false).setCmd key v.cmd
  let s := ((s.setCores v.cmd).zip v.cores).foldl (fun (s : State) (e : Nat × Core) =>
    s.setCore e.1 (e.2.restored (s.core e.1) key s.beat (s.fld (Fld.coreSlotTmo_timeout e.1)))) s
  let s := s.modCtx k fun c => { c with saved := c.saved.drop 1 }
  (s.setCores v.cmd).foldl (fun (s : State) p => (List.range 32).foldl (fun s n => s.resumeStream p n) s) s

/-- Whether a context may run commands now: LAUNCHED, started, resident, and not about to stop. -/
def Context.runs (c : Context) : Bool :=
  c.st = .launched && c.startBeat.isNone && c.resident && c.preempts.isEmpty && !c.swapping

/-- RESTORE: the first saved command of a context, once its cores are idle. -/
def restore (k : Nat) (s : State) : State :=
  let c := s.ctx k
  match c.saved with
  | v :: _ => if c.runs && s.coresIdle v.cmd then s.restoreCmd k v else s
  | [] => s

/-- RESTORE (R332). -/
def execRestore (ctx : Nat) (s : State) : Out := onUnit (ctx < 256) (whenDo s.sys.tclk s (restore ctx))

end Sys2Proof.Machine
end

