-- ==== Sys2Proof/Machine/Steps.lean ====
section
/-!
DEFINITION. Steps of a SERVING context (01 R23 to R26; 08 R319 to R323): the step table, the commit of a step with its KV
copy, its tokens and its record, and the sessions that leave at it.
-/
namespace Sys2Proof.Machine

/-! ### Rows (08 R321, R323; 10 R392) -/

/-- A row of a step table: session, KIND without its weft bit, position, token. -/
abbrev Row := Nat × Nat × Nat × W32

/-- The prompt tokens of a session that may be rows of the step that began at `began`, as rows with their order: those
whose command was accepted by then (01 R25). The table waits for tokens that are still read from the host
(`State.feedsPending`), so every one of them is here. -/
def Session.prefill (n : Nat) (x : Session) (began : Nat) : List (Nat × Row) :=
  let ready := x.prompt.takeWhile fun t => t.here && t.beat ≤ began
  (ready.zip (List.range ready.length)).map fun e => (e.1.order, (n, (if e.1.last then 2 else 1), x.committed + e.2, e.1.tok))

/-- Places a feed's rows in acceptance order. -/
def byOrder (x : Nat × Row) : List (Nat × Row) → List (Nat × Row)
  | [] => [x]
  | y :: ys => if x.1 ≤ y.1 then x :: y :: ys else y :: byOrder x ys

/-- Sessions that may take part in the running step of context `c`. -/
def State.stepSessions (s : State) (c : Context) : List (Nat × Session) :=
  s.openSessions.filter fun e => e.2.client = c.client && e.2.base = c.base && s.mayTakePart e.2 (s.base c.base).step

/-- The prefill rows of a step, in acceptance order, up to the budget. -/
def State.prefillRows (s : State) (k : Nat) : List Row :=
  let c := s.ctx k
  let all := (s.stepSessions c).flatMap fun e => e.2.prefill e.1 (s.base c.base).beganAt
  let budget := min (s.fld (Fld.schedCtx_prefillRows k)) c.prefillMax
  ((all.foldr byOrder []).take budget).map (·.2)

/-- The decode rows of a step, in increasing session id. -/
def State.decodeRows (s : State) (k : Nat) : List Row :=
  (s.stepSessions (s.ctx k)).filterMap fun e =>
    if e.2.prompt.isEmpty && !e.2.promptOpen then some (e.1, 0, e.2.committed, e.2.lastTok) else none

/-- The group of a row's session. -/
def State.rowGroup (s : State) (r : Row) : Nat := ((s.session r.1).map (·.group)).getD 0

/-- The rows of session group `g`: decode rows first, then prefill rows. -/
def State.groupRows (s : State) (k g : Nat) : List Row :=
  (s.decodeRows k ++ s.prefillRows k).filter fun r => s.rowGroup r = g

/-- Session groups of a context. -/
def Context.groups (c : Context) : Nat := max 1 c.latS

/-! ### The step table (08 R321) -/

/-- A row as the table holds it. -/
def State.rowBytes (s : State) (r : Row) : Bytes :=
  match s.session r.1 with
  | none => List.replicate 64 0
  | some x =>
    let weft := (x.weft.bind s.weft).map (·.progAddr)
    leBytes r.1 4 ++ leBytes (r.2.1 + if x.weft.isSome then 128 else 0) 1 ++ leBytes 0 3 ++ leBytes r.2.2.1 4 ++
      leBytes r.2.2.2.toNat 4 ++ leBytes x.dir 8 ++ leBytes (weft.getD 0) 8 ++ leBytes x.seed.toNat 8 ++ leBytes x.paramsAddr 8 ++
      leBytes 0 16

/-- Group entries: first row and row count of each group. -/
def groupEntries (at_ : Nat) : List Nat → Bytes
  | [] => []
  | n :: ns => leBytes at_ 4 ++ leBytes n 4 ++ groupEntries (at_ + n) ns

/-- The step table. -/
def State.stepTable (s : State) (b : Nat) (groups : List (List Row)) : Bytes :=
  let n := groups.length
  let rows := groups.flatten
  let head := leBytes (s.base b).step.toNat 8 ++ leBytes b 1 ++ [0] ++ leBytes n 2 ++ leBytes rows.length 4 ++ leBytes 0 48
  let ents := groupEntries 0 (groups.map List.length)
  let pad := roundUp (64 + 8 * n) 64 - (64 + 8 * n)
  head ++ ents ++ List.replicate pad 0 ++ rows.flatMap s.rowBytes

/-- The session that a FEED_PROMPT still to be queued, or whose tokens are still read from the host, names. -/
def Running.feeds (r : Running) : Option Nat :=
  if r.code = 0x61 ∧ r.fresh then some (field r.body 0 4)
  else if r.code = 0x61 ∧ r.region.isSome then r.args.head?
  else none

/-- Whether prompt tokens that were accepted by the beginning of the running step have still to be queued for a session of
a context: they join that step (01 R25), so its table waits for them. -/
def State.feedsPending (s : State) (c : Context) : Bool :=
  s.eth.running.any fun r => match r.feeds with
    | some n => r.acceptBeat ≤ (s.base c.base).beganAt && (s.session n).any fun x => x.client = c.client && x.base = c.base
    | none => false

/-- The device writes the step table of the running step; its sessions take part from here on. -/
def State.writeTable (s : State) (k : Nat) : State :=
  let c := s.ctx k
  let groups := (List.range c.groups).map (s.groupRows k)
  let rows := groups.flatten
  let s := s.clerkPut k stepTableAddr (s.stepTable c.base groups)
  let s := rows.foldl (fun (s : State) (r : Row) => s.modSession r.1 fun x => { x with inStep := true }) s
  s.modCtx k fun c => { c with stepReady := true, stage := 0, place := 0, stepDone := false, rows := rows }

/-! ### The commit of a context's rows (08 R322; 05 R197) -/

/-- Pages of one page list of a session. -/
def kvPer (c : Context) (x : Session) : Nat := ceilDiv x.maxCtx (kvTokens c)

/-- The KV page that holds token `t` of layer `l` and head group `g`. -/
def kvPage (c : Context) (x : Session) (l g t : Nat) : Nat :=
  x.pages.getD ((l * kvGroups c + g) * kvPer c x + t / kvTokens c) 0

/-- Where the K and the V vector of head `h` of a group lie for token `t` of a page. -/
def kvPlace (c : Context) (page t h : Nat) : Nat × Nat :=
  let j := t % kvTokens c
  let vec := planDim c * kvSize c
  let at_ := page + 4096 * (j % 16) + (j / 16 * planHp c + h) * vec
  (at_, at_ + kvSlots c * planHp c * vec)

/-- Copies one staged row of one layer into its session's pages. -/
def State.copyLayer (s : State) (c : Context) (x : Session) (l t : Nat) (row : Bytes) : State :=
  let vec := planDim c * kvSize c
  (List.range (planHeads c)).foldl (fun (s : State) head =>
    let g := head / planHp c
    let p := kvPlace c (kvPage c x l g t) t (head % planHp c)
    let kBytes := cut row (head * vec) vec
    let vBytes := cut row ((planHeads c + head) * vec) vec
    (s.clerkStore p.1 kBytes).clerkStore p.2 vBytes) s

/-- Copies row `i` of the step table for every layer. -/
def State.copyRow (s : State) (k i : Nat) (r : Row) : State :=
  let c := s.ctx k
  let layers := ((s.base c.base).model.map (·.layers)).getD 0
  match s.session r.1 with
  | none => s
  | some x =>
    let s := (List.range layers).foldl (fun (s : State) l =>
      let y := s.clerkGet k (stagingOf c l i) (kvRow c)
      y.1.copyLayer c x l r.2.2.1 y.2) s
    s.charge c.client lVault (2 * layers * kvRow c)

/-- Adds to a use count, which stops at all ones (07 R296). -/
def useUp (n m : Nat) : Nat := min (n + m) 0xFFFFFFFF

/-- A token of session `n` is counted for its base and its weft. -/
def State.countUse (s : State) (x : Session) : State :=
  let b := s.base x.base
  let s := s.setBase x.base { b with use := useUp b.use 1 }
  match x.weft with
  | some w => match s.weft w with
    | some y => s.setWeft w { y with use := useUp y.use 1 }
    | none => s
  | none => s

/-- Flags of a token record (10 R399). -/
def tokenFlags (ended closing first : Bool) : Nat := (if ended then 1 else 0) + (if closing then 2 else 0) + (if first then 4 else 0)

/-- Holds a token record for its ring; RING_FULL at 131,072 (10 R400, R401). -/
def State.holdToken (s : State) (ring : Nat) (t : TokenRec) : State :=
  let held := SMap.get s.eth.tokens [] ring ++ [t]
  let s := { s with eth := { s.eth with tokens := SMap.put s.eth.tokens ring held } }
  if held.length = 131072 ∧ !s.eth.fullRings.contains ring then
    let s := { s with eth := { s.eth with fullRings := s.eth.fullRings ++ [ring] } }
    s.raise 0x0030 ring (BitVec.ofNat 64 held.length) []
  else s

/-- The session after one of its rows has committed: a decode row, or a prompt token that is now processed. -/
def Session.advance (x : Session) (r : Row) : Session :=
  let x := { x with committed := x.committed + 1, ended := decide (x.maxCtx ≤ x.committed + 1) }
  if r.2.1 = 0 then x else { x with history := x.history ++ [r.2.2.2], prompt := x.prompt.drop 1 }

/-- Whether a row produces a token: a decode row, or the last row of a prompt. -/
def Row.samples (r : Row) : Bool := r.2.1 = 0 || r.2.1 = 2

/-- The CLOSE_SESSION of session `n` that a commit at the present beat takes: one that runs, or one that has been accepted and
whose row is still to come (01 R26). -/
def State.closeTaken (s : State) (n : Nat) : Option W64 :=
  match s.session n with
  | none => none
  | some x => match x.closing with
    | some (b, seq) => if b ≤ s.beat then some seq else none
    | none => (s.eth.running.find? fun r => r.code = 0x62 && r.fresh && field r.body 0 4 = n && r.acceptBeat ≤ s.beat).map (·.seq)

/-- Row `i` commits: its KV, its session's length, its token. -/
def State.commitRow (s : State) (k i : Nat) (r : Row) : State :=
  let s := s.copyRow k i r
  match s.session r.1 with
  | none => s
  | some x0 =>
    let x := x0.advance r
    if Row.samples r then
      let y := s.clerkGet k (tokenArrayAddr + 4 * i) 4
      let s := y.1
      let tok : W32 := BitVec.ofNat 32 (leNat y.2)
      let closing : Bool := (s.closeTaken r.1).isSome
      let rec_ : TokenRec := ⟨x.client, r.1, r.2.2.1 + 1, tok, x.base, tokenFlags x.ended closing (r.2.1 = 2), (s.base x.base).step⟩
      let s := s.setSession r.1 { x with history := x.history ++ [tok], lastTok := tok }
      (s.countUse x).holdToken x.ring rec_
    else s.setSession r.1 x

/-- The rows of a context commit in row order. -/
def State.commitRows (s : State) (k : Nat) : State :=
  let rows := (s.ctx k).rows
  (rows.zip (List.range rows.length)).foldl (fun (s : State) (e : Row × Nat) => s.commitRow k e.2 e.1) s

/-! ### STEP_COMMIT (01 R23) -/

/-- SERVING contexts of a base whose sessions take part: LAUNCHED, started and resident (08 R333). -/
def State.servingNow (s : State) (b : Nat) : List Nat :=
  s.sched.ctxs.filterMap fun e =>
    if e.2.st = .launched && e.2.serving && e.2.base = b && e.2.resident && e.2.startBeat.isNone then some e.1 else none

/-- Whether every session of a context that takes part has its output of the running step: the step's commands have all ended,
and where there are rows each of them has committed (log 76). -/
def State.outputsReady (s : State) (k : Nat) : Bool :=
  let c := s.ctx k
  c.stepDone && !s.busyCtx k && (c.rows.isEmpty || !c.noOutput)

/-- Whether the running step of base `b` can commit: its last pass has closed, and every output is there. -/
def State.canCommit (s : State) (b : Nat) : Bool :=
  let x := s.base b
  x.passed && !x.finished && x.skip.isNone && x.passesLeft = 0 && (s.servingNow b).all s.outputsReady

/-- Sessions whose context is left out of the step take no part in it, and its commands of the step are dropped (08 R333). -/
def State.leaveOut (s : State) (b : Nat) : State :=
  let s := { s with sessions := s.sessions.mapVals fun x => x.map fun (y : Session) =>
    if y.base = b && y.inStep && !s.served y then { y with inStep := false } else y }
  let now := s.servingNow b
  let out := s.sched.ctxs.filterMap fun e => if e.2.serving && e.2.base = b && !now.contains e.1 then some e.1 else none
  out.foldl (fun (s : State) k => (s.dropSaved k fun _ => true).modCtx k fun c => { c with rerun := [], rows := [] }) s

/-- CLOSE_SESSION and MIGRATE_SESSION that the commit of a step of base `b` takes (01 R26, R32). -/
def State.takeLeavers (s : State) (b : Nat) (step : W64) : State :=
  (s.sessionsOn b).foldl (fun (s : State) (e : Nat × Session) =>
    match s.closeTaken e.1 with
    | some seq => s.closeNow e.1 seq
    | none => if e.2.migrating.isSome && e.2.left_.isNone && e.2.migBeat ≤ s.beat then s.takeMigration e.1 step else s) s

/-- The commit of the running step of base `b`. -/
def State.commitStep (s : State) (b : Nat) : State :=
  let x := s.base b
  let s := s.leaveOut b
  let took := (s.sessionsOn b).filter fun e => e.2.inStep
  let left := s.unservedOn b
  let now := s.servingNow b
  let tokens := (now.map fun k => ((s.ctx k).rows.filter Row.samples).length).sum
  let s := now.foldl State.commitRows s
  let s := left.foldl (fun (s : State) (e : Nat × Session) => s.charge e.2.client lUnserved 1) s
  let s := s.takeLeavers b x.step
  let s := s.holdStep (s.stepRecord b took.length tokens x.firstPass false x.late)
  ((s.settleWefts b).endStep b).stepArrive b (if x.late then 2 else 0)

/-- STEP_COMMIT (01 R23 to R26; 08 R322). -/
def execStepCommit (base : Nat) (s : State) : Out :=
  onUnit (base < 64) (whenDo (s.sys.tclk && s.devState = stThreaded && s.canCommit base) s fun s => s.commitStep base)

end Sys2Proof.Machine
end

