-- ==== Sys2Proof/Machine/Sched.lean ====
section
/-!
DEFINITION. Dispatch (08 R315 to R319), turns, residence and swapping (08 R324 to R328).
-/
namespace Sys2Proof.Machine

/-! ### Command records (08 R315, R316; 04 R157) -/

/-- The fields of a record head that dispatch uses, with its region entries. -/
structure Rec where
  kernel : Nat
  flags : Nat
  first : Nat
  count : Nat
  seq : W64
  subst : Nat
  layerMask : Nat
  repeat_ : Nat
  stride : W64
  reservedOk : Bool
  args : List W64
  entries : List (List W64)
  deriving DecidableEq, Repr

/-- The words of a run of bytes. -/
def wordsOf (n : Nat) (bs : Bytes) : List W64 := (pieces 8 n bs).map fun b => BitVec.ofNat 64 (leNat b)

/-- The record of 640 bytes. -/
def parseRec (t : Bytes) : Rec where
  kernel := field t 0 2
  flags := field t 2 2
  first := field t 4 2
  count := field t 6 2
  seq := BitVec.ofNat 64 (field t 8 8)
  subst := field t 0x10 4
  layerMask := field t 0x14 2
  repeat_ := field t 0x16 2
  stride := BitVec.ofNat 64 (field t 0x18 8)
  reservedOk := zeroIn t 0x20 32
  args := wordsOf 8 (t.drop 0x40)
  entries := (pieces 32 16 (t.drop 0x80)).map (wordsOf 4)

/-- What a record's substitution takes beside the record (R316). -/
structure Subst where
  index : Nat
  step : W64 := 0
  passSeq : Nat := 0
  deriving DecidableEq, Repr

/-- The substitution code of argument word `i + 1`. -/
def Rec.code (r : Rec) (i : Nat) : Nat := bitsOf r.subst (4 * i + 3) (4 * i)

/-- Argument word `i + 1` (R316). -/
def Rec.arg (r : Rec) (u : Subst) (i : Nat) : W64 :=
  let w := r.args.getD i 0
  match r.code i with
  | 1 => BitVec.ofNat 64 u.index
  | 2 => u.step
  | 3 => BitVec.ofNat 64 stepTableAddr
  | 4 => w + BitVec.ofNat 64 u.index * r.stride
  | 5 => BitVec.ofNat 64 u.passSeq
  | _ => w

def Rec.argWords (r : Rec) (u : Subst) : List W64 := (List.range 8).map (r.arg u)

/-- A region entry whose reserved fields and alignments keep R157, after its advance; none where it breaks them. An unused
entry is nothing. -/
def Rec.entry (r : Rec) (u : Subst) (i : Nat) : Option (Option RegionEnt) :=
  let ws := r.entries.getD i []
  let w0 := (ws.getD 0 0).toNat
  let w1 := (ws.getD 1 0).toNat
  let w2 := (ws.getD 2 0).toNat
  let kind := bitsOf w0 63 62
  let clean : Bool := bitsOf w0 60 44 = 0 && bitsOf w1 63 40 = 0 && bitsOf w2 63 44 = 0 && ws.getD 3 0 = 0 && kind ≠ 3
  let by_ := if r.layerMask.testBit i then (BitVec.ofNat 64 u.index * r.stride).toNat else 0
  let base := bitsOf w0 43 0 + by_
  let pub := bitsOf w2 43 0 + by_
  let len := bitsOf w1 39 0
  if !clean then none
  else if kind = 0 then some none
  else if base % 256 = 0 ∧ len % 256 = 0 ∧ pub % 8 = 0 then
    some (some { index := i, append := kind = 2, zero := w0.testBit 61, base := base, length := len, pub := pub })
  else none

/-- The region entries in use, none where one breaks R157. -/
def Rec.regions (r : Rec) (u : Subst) : Option (List RegionEnt) :=
  ((List.range 16).mapM (r.entry u)).map fun es => es.filterMap id

/-- Whether a range lies in the own pages of a context, or in the parts of the serving window that can be output regions
(R310, R320). -/
def State.regionIn (s : State) (c : Context) (a n : Nat) : Bool :=
  let layers := ((s.base c.base).model.map (·.layers)).getD 0
  a + n ≤ c.quota * pageBytes ||
    (c.serving && ((tokenArrayAddr ≤ a && a + n ≤ windowLo) || (stagingAddr ≤ a && a + n ≤ stagingOf c layers 0)))

/-- Whether two ranges share a byte. -/
def meets (a n b m : Nat) : Bool := a < b + m && b < a + n && n ≠ 0 && m ≠ 0

/-- Whether no two entries overlap. -/
def apart : List RegionEnt → Bool
  | [] => true
  | e :: es => (es.all fun f => !meets e.base e.length f.base f.length) && apart es

/-- The checks of R157 on the region entries of a command of context `c`, with the reduction regions of exact mode (09 R346). -/
def State.regionsOk (s : State) (c : Context) (es : List RegionEnt) : Bool :=
  let red := ((es.filter fun e => !e.append && e.zero).map (·.length)).sum
  es.all (fun e => s.regionIn c e.base e.length && s.regionIn c e.pub 8 &&
    es.all fun f => !meets f.base f.length e.pub 8) && apart es && (!c.exact || red ≤ 262144)

/-! ### The next command of a context -/

/-- A command ready to be dispatched, and how its context goes on after it; or the SEQ of a record that is refused. -/
inductive Next where
  | cmd (c : RunCmd) (after : Context)
  | refuse (seq : W64)
  deriving DecidableEq, Repr

/-- Records of a command list. -/
def Context.records (c : Context) : Nat := c.plan.length / 640

/-- The run command of a record. -/
def Rec.run (r : Rec) (k : Nat) (q : Partition) (u : Subst) (seq : W64) (last : Bool) (serving : Option ServingPos)
    (es : List RegionEnt) (entry : Nat) : RunCmd :=
  { ctx := k, seq := seq, first := q.first + r.first, count := r.count, entry := entry, args := r.argWords u, regions := es,
    fence := r.flags.testBit 0, last := last, serving := serving }

/-- Whether the core set of a record has a core that the power plan powers down (12 R435). -/
def State.setOff (s : State) (first count : Nat) : Bool := (List.range count).any fun i => s.planOff (first + i)

/-- The next record of a dedicated list (R315 to R317). -/
def State.nextRecord (s : State) (k : Nat) (c : Context) (q : Partition) (g : Program) : Option Next :=
  if c.records ≤ c.recIdx then none
  else
    let r := parseRec (cut c.plan (640 * c.recIdx) 640)
    let u : Subst := { index := c.rep }
    let seqOk : Bool := c.rep ≠ 0 || c.prevSeq.isNone || c.prevSeq = some (r.seq - 1)
    let ok : Bool := r.kernel < g.entries.length && r.flags < 4 && r.reservedOk && 1 ≤ r.count && r.first + r.count ≤ q.count &&
      r.stride.toNat % 256 = 0 && ((List.range 8).all fun i => [0, 1, 4].contains (r.code i)) && seqOk &&
      !s.setOff (q.first + r.first) r.count
    let regions := if g.vm1 then some ((r.regions u).getD []) else (r.regions u).bind fun es => if s.regionsOk c es then some es else none
    match ok, regions with
    | true, some es =>
      let lastRec : Bool := r.flags.testBit 1 || c.recIdx + 1 = c.records
      let lastRep : Bool := c.rep = r.repeat_
      let cmd := r.run k q u (r.seq + BitVec.ofNat 64 c.rep) (lastRec && lastRep) none es (g.entries.getD r.kernel 0)
      let after : Context :=
        if !lastRep then { c with rep := c.rep + 1 }
        else { c with rep := 0, prevSeq := some (r.seq + BitVec.ofNat 64 r.repeat_),
                      recIdx := if lastRec then c.records else c.recIdx + 1 }
      some (.cmd cmd after)
    | _, _ => some (.refuse r.seq)

/-- Templates of a stage: index of the first in the plan, and their number. -/
def stageSpan (c : Context) (layers t : Nat) : Nat × Nat :=
  if t = 0 then (0, planPre c) else if t ≤ layers then (planPre c, planLayer c) else (planPre c + planLayer c, planPost c)

/-- The stage and place from which the step goes on, past empty stages; none after the last POST template. -/
def settleStage (c : Context) (layers : Nat) : Nat → Nat → Nat → Option (Nat × Nat)
  | 0, _, _ => none
  | fuel + 1, t, j =>
    if layers + 1 < t then none
    else if j < (stageSpan c layers t).2 then some (t, j)
    else settleStage c layers fuel (t + 1) 0

/-- The opened pass of the running step that carries layer `l` of base `b` (R319). -/
def State.layerPass (s : State) (b l : Nat) : Option Pass :=
  s.warp.passes.find? fun x => x.ent.base = b && !x.ent.transposed && x.msg.step = (s.base b).step && x.st ≠ .scheduled &&
    x.ent.first ≤ l && l < x.ent.first + x.ent.count

/-- The first forward pass of the running step of base `b`, once its PASS_START is here (R316, code 0x5). -/
def State.stepPass (s : State) (b : Nat) : Option Pass :=
  s.warp.passes.find? fun x => x.ent.base = b && !x.ent.transposed && x.msg.step = (s.base b).step && x.ent.first = 0

/-- Whether a record takes the PASS_SEQ of a pass (R316). -/
def Rec.usesPass (r : Rec) : Bool := (List.range 8).any fun i => r.code i = 5

/-- Layers of the running step's base. -/
def State.layersOf (s : State) (b : Nat) : Nat := ((s.base b).model.map (·.layers)).getD 0

/-- The next command of a serving step whose table is written (R319). -/
def State.nextTemplate (s : State) (k : Nat) (c : Context) (q : Partition) (g : Program) : Option Next :=
  let b := s.base c.base
  let layers := s.layersOf c.base
  if !(b.skip.isNone && !b.finished && c.stepReady && !c.stepDone) then none
  else
    match settleStage c layers (layers + 3) c.stage c.place with
    | none => none
    | some (t, j) =>
      let inLayer : Bool := 1 ≤ t && t ≤ layers
      let r := parseRec (cut c.plan (64 + 640 * ((stageSpan c layers t).1 + j)) 640)
      let carrier := if inLayer then (s.layerPass c.base (t - 1)).map (·.msg.seq)
        else if r.usesPass then (s.stepPass c.base).map (·.msg.seq) else some 0
      match carrier with
      | none => none
      | some ps =>
        let seq := BitVec.ofNat 64 (b.step.toNat * 2 ^ 24 + t * 256 + j)
        let u : Subst := { index := if inLayer then t - 1 else 0, step := b.step, passSeq := ps }
        let regions := (r.regions u).bind fun es => if s.regionsOk c es then some es else none
        match regions, s.setOff (q.first + r.first) r.count with
        | some es, false =>
          let cmd := r.run k q u seq false (some ⟨c.base, b.step, t, j⟩) es (g.entries.getD r.kernel 0)
          let more := settleStage c layers (layers + 3) t (j + 1)
          let after : Context := match more with
            | some (t', j') => { c with stage := t', place := j' }
            | none => { c with stepDone := true }
          some (.cmd cmd after)
        | _, _ => some (.refuse seq)

/-- The next command of a context: a killed command before any other; none while a saved one waits (R318). -/
def State.nextOf (s : State) (k : Nat) : Option Next :=
  let c := s.ctx k
  match c.saved, c.rerun with
  | [], x :: xs =>
    if s.setOff x.first x.count then some (.refuse x.seq) else some (.cmd x { c with rerun := xs })
  | [], [] =>
    match s.part c.part, s.program c.program with
    | some q, some g => if c.serving then s.nextTemplate k c q g else s.nextRecord k c q g
    | _, _ => none
  | _, _ => none

/-- Whether the fence of a next command is met: no earlier command of its context is left. Killed commands go first, so no
other than a running one can be earlier. -/
def State.fenceMet (s : State) (k : Nat) (c : RunCmd) : Bool :=
  !c.fence || (s.cmdsOf k).all fun e => !e.2.seq.ult c.seq

/-- Whether the step table of a context is due: the barrier of the step before has completed, and the step goes on here
(R319). -/
def State.tableDue (s : State) (c : Context) : Bool :=
  let b := s.base c.base
  c.serving && !c.stepReady && b.skip.isNone && !b.finished && s.inDraft c.base

/-- Whether a context has a command ready: its fence and pass conditions hold (R317, R319, R324). A serving step whose table is
still to be written is ready. -/
def State.hasReady (s : State) (k : Nat) : Bool :=
  let c := s.ctx k
  s.tableDue c || match s.nextOf k with
    | some (.cmd x _) => s.fenceMet k x
    | some (.refuse _) => true
    | none => !c.saved.isEmpty

/-! ### Dispatch -/

/-- A core takes a command (R118; 02 R55, 03 R84, R111): its state is zeroed for a different client. -/
def Core.take (c : Core) (key client ctx entry : Nat) (vm1 : Bool) (args : List W64) : Core :=
  let c :=
    if c.client = client then c
    else
      let clean := fun (x : Engine) => { x with acc := [], rows := [] }
      { c with spool := [], planes := [], eng0 := clean c.eng0, eng1 := clean c.eng1,
               streams := c.streams.mapVals fun x => { x with rearmLost := false } }
  let c := { c with client := client, ctx := ctx, vm1 := vm1, cmd := key, phase := .dispatched, stopped := false, saving := false,
                    strict := false }
  c.modThread 0 fun th => th.started (BitVec.ofNat 64 entry) args

/-- The command runs on its cores. -/
def State.dispatch (s : State) (c : RunCmd) : State :=
  let key := s.sched.nextCmd
  let k := s.ctx c.ctx
  let s := { s with sched := { s.sched with nextCmd := key + 1 } }
  let s := s.setCmd key { c with beat := s.beat }
  let s := (s.setCores c).foldl (fun (s : State) p => s.modCore p fun x => x.take key k.client c.ctx c.entry k.vm1 c.args) s
  s.traceRec 6 1 0xFFFF c.ctx (leBytes c.seq.toNat 8)

/-- A record is refused at dispatch (R317): CONTEXT_FAULT, and the end of a dedicated job. -/
def State.refuseRecord (s : State) (k : Nat) (seq : W64) : State :=
  let c := s.ctx k
  let s := (s.cmdEvent 0x0022 k seq .badArgument 0 0).ctxFault k
  let s := if c.serving then s else (s.jobEnd c.job c.jobSeq .badArgument).modCtx k fun x => { x with final := none }
  s.preemptCheck k

/-- Resident contexts of a partition that run (R325). -/
def State.running (s : State) (n : Nat) : List Nat :=
  s.sched.ctxs.filterMap fun e => if e.2.part = n && e.2.runs then some e.1 else none

/-- Whether a context's base has an open pass with images waiting for the partition's cores (R324). -/
def State.imagesWait (s : State) (k : Nat) : Bool :=
  let c := s.ctx k
  match s.part c.part with
  | some q =>
    c.base < 64 && (s.warp.passes.any fun x => x.ent.base = c.base && (x.st = .open_ || x.st = .closing)) &&
      (List.range q.count).any fun i => match s.physOf (q.first + i) with
        | some p => (s.nextImage p).any fun e => e.1.ent.base = c.base
        | none => false
  | none => false

/-- The next of some contexts after number `k`, in increasing number from the lowest again. -/
def nextAfter (k : Nat) (ks : List Nat) : Option Nat := (ks.find? fun x => k < x).orElse fun _ => ks.head?

/-- The context whose turn it is to dispatch (R324). -/
def State.turnOf (s : State) (n : Nat) (q : Partition) : Option Nat :=
  let ready := (s.running n).filter s.hasReady
  let urgent := ready.filter s.imagesWait
  let from_ := if urgent.isEmpty then ready else urgent
  match q.turn with
  | some (k, _) => if from_.contains k then some k else nextAfter k from_
  | none => from_.head?

/-- Gives the turn of a partition to a context; a turn that goes on keeps its beginning. -/
def State.giveTurn (s : State) (n : Nat) (q : Partition) (k : Nat) : State :=
  let beat := match q.turn with
    | some (j, b) => if j = k then b else s.beat
    | none => s.beat
  { s with sched := { s.sched with parts := SMap.put s.sched.parts n (some { q with turn := some (k, beat) }) } }

/-- The step of a context begins, and its table is written as soon as the prompts that join it are queued (R319; 01 R25). -/
def State.tableStep (s : State) (k : Nat) : State :=
  let c := s.ctx k
  if s.tableDue c then
    let s := s.stepBegins c.base
    if s.feedsPending c then s else s.writeTable k
  else s

/-- The context dispatches: its step table, then its next command. -/
def State.dispatchNext (s : State) (k : Nat) : State :=
  let s := s.tableStep k
  match s.nextOf k with
  | some (.refuse seq) => s.refuseRecord k seq
  | some (.cmd x after) => if s.fenceMet k x && s.coresIdle x then (s.setCtx k after).dispatch x else s
  | none => s

/-- COMMAND_DISPATCH: the context, where it is its turn. -/
def commandDispatch (k : Nat) (s : State) : State :=
  let c := s.ctx k
  match s.part c.part with
  | none => s
  | some q =>
    if !c.runs || !s.hasReady k then s
    else if !q.serving then s.dispatchNext k
    else if s.turnOf c.part q = some k then (s.giveTurn c.part q k).dispatchNext k
    else s

/-- COMMAND_DISPATCH (R317, R319). -/
def execCommandDispatch (ctx : Nat) (s : State) : Out :=
  onUnit (ctx < 256) (whenDo (s.sys.tclk && s.serving) s (commandDispatch ctx))

/-- TURN_EXPIRY: after SLICE beats the turn passes on (R324). -/
def turnExpiry (n : Nat) (s : State) : State :=
  match s.part n with
  | none => s
  | some q =>
    match q.turn with
    | none => s
    | some (k, b) =>
      if b + s.fld (Fld.schedPart_slice n) ≤ s.beat then
        let next := nextAfter k ((s.running n).filter s.hasReady)
        let turn := next.map fun j => (j, (s.beat : Int))
        { s with sched := { s.sched with parts := SMap.put s.sched.parts n (some { q with turn := turn }) } }
      else s

/-- TURN_EXPIRY. -/
def execTurnExpiry (part : Nat) (s : State) : Out := onUnit (part < 64) (whenDo s.sys.tclk s (turnExpiry part))

/-! ### Residence and swapping -/

/-- Resident contexts of a partition. -/
def State.residents (s : State) (n : Nat) : List Nat :=
  s.sched.ctxs.filterMap fun e => if e.2.st ≠ .free && e.2.part = n && e.2.resident then some e.1 else none

/-- LAUNCHED contexts of a partition that have started and wait for residence. -/
def State.waiters (s : State) (n : Nat) : List (Nat × Nat) :=
  s.sched.ctxs.filterMap fun e =>
    if e.2.part = n && e.2.st = .launched && !e.2.resident && e.2.startBeat.isNone && e.2.preempts.isEmpty then
      some (e.2.waitOrder, e.1) else none

/-- CONTEXT_RESIDENT: the context that has waited longest becomes resident, while fewer than four are. -/
def contextResident (n : Nat) (s : State) : State :=
  if 4 ≤ (s.residents n).length then s
  else
    match lowest ((s.waiters n).map (·.1)) with
    | none => s
    | some w =>
      match (s.waiters n).find? fun e => e.1 = w with
      | some e =>
        let s := s.modCtx e.2 fun c => { c with resident := true }
        s.joinImages (s.ctx e.2)
      | none => s

/-- CONTEXT_RESIDENT (R325). -/
def execContextResident (part : Nat) (s : State) : Out :=
  onUnit (part < 64) (whenDo (s.sys.tclk && s.serving) s (contextResident part))

/-- Whether every thread of a command is idle or waits with a kind of R326. -/
def State.cmdBlocked (s : State) (c : RunCmd) : Bool :=
  (s.setCores c).all fun p => (List.range 8).all fun t => match (s.thread p t).st with
    | .idle => true
    | .waiting w => [1, 2, 3, 5, 6, 7].contains (s.waitView p w).1
    | _ => false

/-- A resident context is blocked (R326). -/
def State.blocked (s : State) (k : Nat) : Bool := !(s.cmdsOf k).isEmpty && (s.cmdsOf k).all fun e => s.cmdBlocked e.2

/-- Contexts that a swap may never choose (R327; 09 R348). -/
def State.unswappable (s : State) (k : Nat) : Bool :=
  (s.cmdsOf k).any fun e => e.2.phase ≠ .running || (s.kindsOf e.2).contains 3

/-- The latest beat at which a running command of a context began. -/
def State.latestBeat (s : State) (k : Nat) : Nat := (s.cmdsOf k).foldl (fun a e => max a e.2.beat) 0

/-- The rank of a context in the choice of R327, the lowest first. -/
def State.swapRank (s : State) (k : Nat) : Nat :=
  if (s.cmdsOf k).isEmpty then 0 else if s.ctxWait k = 0 then 5 else s.ctxWait k

/-- Whether context `a` goes before context `b`. -/
def State.swapBefore (s : State) (a b : Nat) : Bool :=
  let x := s.swapRank a
  let y := s.swapRank b
  x < y || (x = y && (s.latestBeat b < s.latestBeat a || (s.latestBeat a = s.latestBeat b && b < a)))

/-- The context that R327 chooses. -/
def State.swapChoice (s : State) (n : Nat) : Option Nat :=
  let could := (s.residents n).filter fun k =>
    let idle : Bool := (s.cmdsOf k).isEmpty && !s.hasReady k
    !s.unswappable k && (idle || s.blocked k)
  could.foldl (fun (a : Option Nat) k => match a with
    | none => some k
    | some j => if s.swapBefore k j then some k else some j) none

/-- Whether both conditions of R326 hold; a swap that has begun ends first. -/
def State.swapDue (s : State) (n : Nat) : Bool :=
  let rs := s.residents n
  4 ≤ rs.length && (rs.all fun k => s.blocked k || !s.hasReady k) && (!rs.any fun k => (s.ctx k).swapping) &&
    (s.waiters n).any fun e => s.hasReady e.2

/-- SWAP_DECISION: one resident context is swapped out (R326 to R328). -/
def swapDecision (n : Nat) (s : State) : State :=
  if s.swapDue n then
    match s.swapChoice n with
    | none => s
    | some k =>
      let s := (s.count Fld.schedCounts_swaps).modCtx k fun c => { c with swapping := true }
      (s.stopCmds k true sharedAcct).swapCheck k
  else s

/-- SWAP_DECISION (R326). -/
def execSwapDecision (part : Nat) (s : State) : Out := onUnit (part < 64) (whenDo s.sys.tclk s (swapDecision part))

end Sys2Proof.Machine
end

