-- ==== Sys2Proof/Machine/Ledger.lean ====
section
/-!
DEFINITION. The ledger (08 R334 to R339): energy intervals, step records, LEDGER_READ and LEDGER_CLEAR, and the halving of
the use counts (07 R296); host rings (10 R397, R398).
-/
namespace Sys2Proof.Machine

/-! ### ENERGY_INTERVAL (08 R337; 12 R442) -/

/-- A weight as a multiple of 2^-149; none where it is negative or not finite. -/
def weightNat (w : W32) : Option Nat := match readFp32 w with
  | .fin neg m e => if neg && m ≠ 0 then none else some (m * 2 ^ (e + 149).toNat)
  | _ => none

/-- The five weights of the ACLK point of the interval. -/
def State.weights (s : State) : Option (List Nat) := (s.cal.weights.getD s.ledger.point []).mapM weightNat

/-- Activity of an account in an interval of `len` beats, in units that all accounts share: 7 × 2^149 to the picojoule. A watt
over one beat is 40,000 ÷ 7 pJ. -/
def activity (ws : List Nat) (len id : Nat) (a : Account) : Nat :=
  let n := fun (i : Nat) => SMap.get a.inc 0 i
  7 * (ws.getD 0 0 * n lEngine + ws.getD 1 0 * n lVault + ws.getD 2 0 * n lLink + ws.getD 3 0 * n lEth) +
    (if id = sharedAcct then ws.getD 4 0 * len * 40000 else 0)

/-- An account charged `num ÷ den` microjoules with its carried fraction (R337). -/
def Account.energy (a : Account) (num den : Nat) : Account :=
  let n := num * a.frac.2 + a.frac.1 * den
  let d := den * a.frac.2
  let r := n % d
  let g := Nat.gcd r d
  let uj := a.uj + n / d
  let mj := min (SMap.get a.counters 0 lEnergy + uj / 1000) (2 ^ 64 - 1)
  { a with counters := SMap.put a.counters lEnergy mj, uj := uj % 1000, frac := (r / g, d / g), inc := [] }

/-- Listed accounts. -/
def State.accounts (s : State) : List (Nat × Account) := s.ledger.accounts.filterMap fun e => e.2.map fun a => (e.1, a)

def State.setAccount (s : State) (id : Nat) (a : Account) : State :=
  { s with ledger := { s.ledger with accounts := SMap.put s.ledger.accounts id (some a) } }

/-- Charges each account its part of `uj` microjoules; where the weights give no sum to divide by, each charge is a free value
of microjoules. -/
def State.apportion (s : State) (uj len : Nat) : State :=
  let ws := s.weights
  let sum := match ws with
    | some xs => ((s.accounts).map fun e => activity xs len e.1 e.2).sum
    | none => 0
  s.accounts.foldl (fun (s : State) (e : Nat × Account) =>
    match ws, sum with
    | some xs, n + 1 => s.setAccount e.1 (e.2.energy (uj * activity xs len e.1 e.2) (n + 1))
    | _, _ =>
      let f := s.freeWord
      f.2.setAccount e.1 (e.2.energy f.1.toNat 1)) s

/-- ENERGY_INTERVAL: at the end of 17,500 beats, `uj` microjoules measured. -/
def energyInterval (uj : Nat) (s : State) : State :=
  let from_ := s.ledger.intervalFrom
  if from_ + 17500 ≤ s.beat then
    let s := s.apportion uj (s.beat - from_).toNat
    let total := s.ledger.uj + uj
    let s := s.count Fld.ledgEnergy_energy (total / 1000)
    let s := s.setFld Fld.ledgInterval_lastUj (min uj 0xFFFFFFFF)
    let s := s.countWrap Fld.ledgInterval_intervals
    let s := { s with ledger := { s.ledger with intervalFrom := s.beat, point := s.fld Fld.clkStatus_point, uj := total % 1000 } }
    s.drive 4 true
  else s

/-- ENERGY_INTERVAL (R337). -/
def execEnergyInterval (uj : Nat) (s : State) : Out :=
  .next (whenDo (s.sys.tclk && (s.serving || s.devState = stFaulted)) s (energyInterval uj))

/-! ### USE_COUNT_HALVING (07 R296) -/

/-- USE_COUNT_HALVING: every 2^30 beats. -/
def useCountHalving (s : State) : State :=
  if s.warp.halvedAt + 2 ^ 30 ≤ s.beat then
    let bases := s.warp.bases.mapVals fun b => { b with use := b.use / 2 }
    let wefts := s.warp.wefts.mapVals fun w => w.map fun (x : Weft) => { x with use := x.use / 2 }
    { s with warp := { s.warp with bases := bases, wefts := wefts, halvedAt := s.warp.halvedAt + 2 ^ 30 } }
  else s

/-- USE_COUNT_HALVING. -/
def execUseCountHalving (s : State) : Out := .next (whenDo s.sys.tclk s useCountHalving)

/-! ### Rings (10 R397, R398) -/

def ledgerRing : Nat := 255

/-- Entries of a ring. -/
def State.ringSize (s : State) (n : Nat) : Nat := 2 ^ s.fld (Fld.ethRingCfg_log2Entries n)

/-- The 64 bytes of a step record (R339). -/
def StepRec.bytes (r : StepRec) : Bytes :=
  leBytes 1 1 ++ leBytes r.base 1 ++ leBytes r.flags 2 ++ leBytes r.sessions 4 ++ leBytes r.step.toNat 8 ++ leBytes r.beat 8 ++
    leBytes r.oldVersion.toNat 8 ++ leBytes r.newVersion.toNat 8 ++ leBytes r.split 2 ++ leBytes r.client 2 ++ leBytes r.tokens 4 ++
    leBytes r.draftId.toNat 8 ++ leBytes r.passSeq 8

/-- Records that a ring has room for by the consumed count last read. -/
def State.ringRoom (s : State) (n : Nat) : Nat :=
  SMap.get s.eth.consumed 0 n + s.ringSize n - s.fld (Fld.ethRingProd_produced n)

/-- Writes records to consecutive places of ring `n` from record `k` on, and the produced count after each RDMA WRITE: one write up
to the end of the ring and one from its start (10 R397, R398). -/
def State.ringWrite (s : State) (n k : Nat) (recs : List Bytes) (size : Nat) : State :=
  let e := s.ringSize n
  let q := s.fld (Fld.ethRingCfg_qp n)
  let rkey := BitVec.ofNat 32 (s.fld (Fld.ethRingCfg_rkey n))
  let put := fun (s : State) (k : Nat) (recs : List Bytes) =>
    if recs.isEmpty then s
    else
      let s := s.qpWrite q (s.raw (Reg.ethRingAddr n) + BitVec.ofNat 64 (k % e * size)) rkey recs.flatten
      s.qpWrite q (s.raw (Reg.ethRingCons n) + 8) rkey (leBytes (k + recs.length) 8)
  put (put s k (recs.take (e - k % e))) (k + (e - k % e)) (recs.drop (e - k % e))

/-- Whether records of a ring can be written now: the port is up, the ring is enabled, its queue pair is ready and its class is
not paused (R367). -/
def State.ringLive (s : State) (n : Nat) : Bool :=
  s.sys.tclk && s.fld Fld.ethStatus_state = 2 && s.flag (Fld.ethRingCfg_enable n) &&
    s.fld (Fld.ethQp_state (s.fld (Fld.ethRingCfg_qp n))) = 1 && !s.dataPaused

/-- STEP_RECORD_WRITE: the oldest held record, and the produced count. -/
def stepRecordWrite (s : State) : State :=
  match s.ledger.held with
  | [] => s
  | r :: rs =>
    if s.ringLive ledgerRing && 0 < s.ringRoom ledgerRing then
      let k := s.fld (Fld.ethRingProd_produced ledgerRing)
      let s := { s with ledger := { s.ledger with held := rs }, eth := { s.eth with postedSteps := s.eth.postedSteps ++ [(k, r.bytes)] } }
      ((s.countWrap (Fld.ethRingProd_produced ledgerRing)).charge sharedAcct lEth 72).ringWrite ledgerRing k [r.bytes] 64
    else s

/-- STEP_RECORD_WRITE (R339). -/
def execStepRecordWrite (s : State) : Out :=
  .next (whenDo (s.serving || s.devState = stFaulted) s stepRecordWrite)

/-! ### LEDGER_READ and LEDGER_CLEAR (08 R338; 10 R394) -/

/-- An account record of 88 bytes. -/
def accountRecord (id : Nat) (a : Account) : Bytes :=
  leBytes id 2 ++ List.replicate 6 0 ++ (List.range 10).flatMap fun i => leBytes (SMap.get a.counters 0 i) 8

/-- The use counts of bases 0 to 63. -/
def State.baseCounts (s : State) : Bytes := (List.range 64).flatMap fun b => leBytes (s.base b).use 4

/-- Eight bytes for each loaded weft. -/
def State.weftCounts (s : State) : Bytes := s.warp.wefts.flatMap fun e => match e.2 with
  | some w => leBytes e.1 2 ++ [0, 0] ++ leBytes w.use 4
  | none => []

/-- Zeroes the counters of an account; a client's account without a context is removed. -/
def State.clearAccount (s : State) (id : Nat) : State :=
  match SMap.get s.ledger.accounts none id with
  | none => s
  | some a =>
    let used : Bool := id = sharedAcct || s.liveCtxs.any fun e => e.2.client = id
    if used then s.setAccount id { a with counters := [] }
    else { s with ledger := { s.ledger with accounts := SMap.del s.ledger.accounts id } }

/-- LEDGER_READ, and LEDGER_CLEAR where `clear` says so. -/
def State.ledgerDo (s : State) (seq : W64) (account : Nat) (all clear : Bool) (r : Region) : State :=
  let beat := s.raw Reg.beatCount
  if all then
    let bytes := (s.accounts.flatMap fun e => accountRecord e.1 e.2) ++ s.baseCounts ++ s.weftCounts
    if s.regionBad r then s.complete seq badRegion
    else if r.length.toNat < bytes.length then s.complete seq (.fail .badArgument)
    else
      let s := if clear then s.accounts.foldl (fun (s : State) (e : Nat × Account) => s.clearAccount e.1) s else s
      let s := { s with eth := { s.eth with wrote := s.eth.wrote ++ [(r.addr, bytes)] } }
      (s.charge sharedAcct lEth bytes.length).startPut seq r bytes beat
  else
    match SMap.get s.ledger.accounts none account with
    | none => s.complete seq (.fail .notFound)
    | some a =>
      let data := accountRecord account a ++ s.baseCounts
      let s := if clear then s.clearAccount account else s
      s.complete seq { value := beat, data := data }

/-- LEDGER_READ (10 R394). -/
def execLedgerRead (seq : W64) (account : W16) (all : Bool) (region : Region) (s : State) : Out :=
  genot 0x70 seq anyState (fun s => s.ledgerDo seq account.toNat all false region) s

/-- LEDGER_CLEAR (10 R394). -/
def execLedgerClear (seq : W64) (account : W16) (all : Bool) (region : Region) (s : State) : Out :=
  genot 0x71 seq anyState (fun s => s.ledgerDo seq account.toNat all true region) s

end Sys2Proof.Machine
end

