-- ==== Sys2Proof/Machine/Transport.lean ====
section
/-!
DEFINITION. The Ethernet port (10 R363 to R384): frames and their filter, congestion, queue pairs and their errors, attach, and
the admission of command messages.
-/
namespace Sys2Proof.Machine

/-! ### The port -/

/-- From P6 of bring-up on, except in FROZEN, the port runs (R383). -/
def State.portRuns (s : State) : Bool :=
  s.sys.tclk && (s.serving || s.devState = stFaulted || (s.devState = stBringup && 6 ≤ s.fld Fld.devState_phase))

/-- The port is up. -/
def State.ethUp (s : State) : Bool := s.portRuns && s.fld Fld.ethStatus_state = 2

/-- ETH_STATUS.STATE by the locked lanes and the PMD: up while every lane is locked and the PMD is known. -/
def State.settleEth (s : State) (partner : Bool) : State :=
  let lanes := s.fld Fld.ethStatus_laneLock
  let up : Bool := lanes = 255 && s.fld Fld.ethStatus_pmd ≠ 0
  s.setFld Fld.ethStatus_state (if up then 2 else if partner || lanes ≠ 0 then 1 else 0)

/-- AUTONEG_TIMEOUT: no partner within 87,500,000 beats, so the port runs as 800GAUI-8. -/
def autonegTimeout (s : State) : State :=
  match s.eth.anegFrom with
  | some b =>
    if b + 87500000 < s.beat then
      ({ s with eth := { s.eth with anegFrom := none } }.setFld Fld.ethStatus_pmd 3).settleEth false
    else s
  | none => s

/-- AUTONEG_TIMEOUT (R363). -/
def execAutonegTimeout (s : State) : Out := .next (whenDo s.portRuns s autonegTimeout)

/-- The PMD that a partner is heard with: 800GBASE-CR8 or 800GBASE-KR8, as the medium is, which the spec does not fix. -/
def State.hearPartner (s : State) : State :=
  let f := s.freeByte
  let s := { f.2 with eth := { f.2.eth with anegFrom := none } }
  s.setFld Fld.ethStatus_pmd (1 + f.1.toNat % 2)

/-- ETH_LANE_LOCK_CHANGE: the lanes that are locked now, and whether an auto-negotiation partner is heard. -/
def ethLaneLockChange (lanes : BitVec 8) (partner : Bool) (s : State) : State :=
  let s := s.setFld Fld.ethStatus_laneLock lanes.toNat
  let fresh : Bool := partner && s.fld Fld.ethStatus_pmd = 0
  (if fresh then s.hearPartner else s).settleEth partner

/-- ETH_LANE_LOCK_CHANGE (R363). -/
def execEthLaneLockChange (lanes : BitVec 8) (partner : Bool) (s : State) : Out :=
  .next (whenDo s.portRuns s (ethLaneLockChange lanes partner))

/-- PFC_PAUSE_RX: a pause or a resume of a class that takes part in PFC. -/
def pfcPauseRx (cls : Nat) (pause : Bool) (s : State) : State :=
  let s := (s.countWrap Fld.ethRxFrames_count).count Fld.ethPfcRx_count
  let bit := BitVec.twoPow 8 cls
  let now := if pause then s.eth.paused ||| bit else s.eth.paused &&& ~~~bit
  let on := (s.fld Fld.ethCfg_pfcEn).testBit cls
  ({ s with eth := { s.eth with paused := if on then now else s.eth.paused } }).flushWaiting

/-- PFC_PAUSE_RX (R367). -/
def execPfcPauseRx (cls : Nat) (pause : Bool) (s : State) : Out := onUnit (cls < 8) (whenDo s.ethUp s (pfcPauseRx cls pause))

/-! ### Congestion (R369, R370) -/

def State.qp (s : State) (q : Nat) : Qp := SMap.get s.eth.qps {} q

def State.qpReady (s : State) (q : Nat) : Bool := s.fld (Fld.ethQp_state q) = 1

/-- Whether `gap` beats have passed since a beat, if there is one. -/
def passedSince (old : Option Int) (gap now : Nat) : Bool := match old with
  | some b => b + gap ≤ now
  | none => true

/-- CNP_RX: a cut of RATE unless the last cut is too near. -/
def cnpRx (q : Nat) (s : State) : State :=
  let s := (s.countWrap Fld.ethRxFrames_count).count Fld.ethCnpRx_count
  if s.qpReady q then
    let b := s.beat
    let x := s.qp q
    let r := s.fld (Fld.ethQp_rate q)
    let cut := passedSince x.lastCut (s.fld Fld.ethCc_hold) b
    let s := if cut then s.setFld (Fld.ethQp_rate q) (max (s.fld Fld.ethCc_rMin) (r - ceilDiv r 4)) else s
    s.modQp q fun x => { x with lastCnp := some b, lastCut := if cut then some b else x.lastCut }
  else s

/-- CNP_RX (R370). -/
def execCnpRx (qp : Nat) (s : State) : Out := onUnit (qp < 1024) (whenDo s.ethUp s (cnpRx qp))

/-- RATE_RAISE: RATE grows by STEP once QUIET beats have passed since the last CNP and the last raise. -/
def rateRaise (q : Nat) (s : State) : State :=
  let x := s.qp q
  let r := s.fld (Fld.ethQp_rate q)
  let quiet := s.fld Fld.ethCc_quiet
  let due : Bool := s.qpReady q && r < 256 && passedSince x.lastCnp quiet s.beat && passedSince x.lastRaise quiet s.beat
  if due then
    let b := s.beat
    (s.setFld (Fld.ethQp_rate q) (min 256 (r + s.fld Fld.ethCc_step))).modQp q fun x => { x with lastRaise := some b }
  else s

/-- RATE_RAISE (R370). -/
def execRateRaise (qp : Nat) (s : State) : Out := onUnit (qp < 1024) (whenDo s.portRuns s (rateRaise qp))

/-! ### Errors of a queue pair (R375) -/

/-- A command whose host read fails ends: what its start had taken is undone. -/
def State.failRead (s : State) (r : Running) (a : Answer) : State :=
  if r.code = 0x40 then (s.unload (r.args.headD 0)).endLoad r.seq a
  else if r.code = 0x61 then s.feedRead r none a
  else s.endLoad r.seq a

/-- Running commands that write host memory through queue pair `q`. -/
def State.putsOn (s : State) (q : Nat) : List Running :=
  s.eth.running.filter fun r => (r.put.map fun p => p.region.qp.toNat) = some q

/-- Queue pair `q` moves to ERROR: the commands whose host access meets it complete with TIMEOUT. -/
def State.qpError (s : State) (q : Nat) : State :=
  let s := s.setFld (Fld.ethQp_state q) 2
  let s := if q = 0 then s.setFld Fld.ethAttach_cmdError 1 else s
  let s := s.modQp q fun x => { x with sentAt := none, retries := 0 }
  let s := (s.readsOn q).foldl (fun s r => s.failRead r (.fail .timeout)) s
  (s.putsOn q).foldl (fun s r => s.complete r.seq (.fail .timeout)) s

/-- The oldest unacknowledged request of queue pair `q` goes out again. -/
def State.resend (s : State) (q : Nat) : State := (s.count Fld.ethRetry_count).putFrames (((s.qp q).unacked).take 1)

/-- A request of queue pair `q` is sent once more at beat `at_`, or the queue pair has had its tries. -/
def State.retryQp (s : State) (q at_ : Nat) : State :=
  let x := s.qp q
  if x.retries < s.fld Fld.ethXport_retryCnt then
    (s.resend q).modQp q fun x => { x with retries := x.retries + 1, sentAt := some at_ }
  else s.qpError q

/-- RETRY_TIMEOUT: the oldest unacknowledged request has waited RETRY_TMO beats. -/
def retryTimeout (q : Nat) (s : State) : State :=
  match (s.qp q).sentAt with
  | some b => if s.qpReady q ∧ b + s.fld Fld.ethXport_retryTmo < s.beat then s.retryQp q s.beat else s
  | none => s

/-- RETRY_TIMEOUT (R375). -/
def execRetryTimeout (qp : Nat) (s : State) : Out := onUnit (qp < 1024) (whenDo s.portRuns s (retryTimeout qp))

/-- RNR_NAK_RX: on the command and event queue pairs the request goes out again after 175,000 beats, without limit; on a data
queue pair it counts as a retry. -/
def rnrNakRx (q : Nat) (s : State) : State :=
  if s.qpReady q ∧ (s.qp q).sentAt.isSome then
    if q < 2 then
      let b := s.beat + 175000
      (s.resend q).modQp q fun x => { x with sentAt := some b }
    else s.retryQp q s.beat
  else s

/-- RNR_NAK_RX (R375). -/
def execRnrNakRx (qp : Nat) (s : State) : Out := onUnit (qp < 1024) (whenDo s.ethUp s (rnrNakRx qp))

/-- Whether PSN `a` comes no later than PSN `b`. -/
def psnLe (a b : Nat) : Bool := (b + 2 ^ 24 - a) % 2 ^ 24 < 2 ^ 23

/-- The messages of queue pair `q` that the host has acknowledged are delivered: all but the last `n`, which still wait. -/
def State.deliverMsgs (s : State) (q n : Nat) : State :=
  let e := s.eth
  if q = 0 then { s with eth := { e with undelivered := e.undelivered.drop (e.undelivered.length - n) } }
  else if q = 1 then { s with eth := { e with evtSent := e.evtSent.drop (e.evtSent.length - n) } }
  else s

/-- The commands whose bytes the host has acknowledged up to `psn` of queue pair `q` complete (R385). -/
def State.endPuts (s : State) (q psn : Nat) : State :=
  (s.putsOn q).foldl (fun s r => match r.put with
    | some p => if (p.psn.map fun x => psnLe x psn) = some true then s.complete r.seq { value := p.value } else s
    | none => s) s

/-- The host acknowledges every packet up to `psn` on queue pair `q`. -/
def State.qpAcked (s : State) (q psn : Nat) : State :=
  let all : Bool := (psn + 1) % 2 ^ 24 = s.fld (Fld.ethQpPsn_nextSend q)
  let b := s.beat
  let rest := if all then [] else (s.qp q).unacked.filter fun f => !psnLe f.psn psn
  let s := s.modQp q fun x => { x with retries := 0, sentAt := if all then none else x.sentAt.map fun _ => b, unacked := rest }
  (s.deliverMsgs q ((rest.filter SentFrame.ends).length)).endPuts q psn

/-- The running command of queue pair `q` that made the request of a frame. -/
def State.askerOf (s : State) (q : Nat) (f : SentFrame) : Option Running :=
  match f.reads, f.writes with
  | some a, _ => (s.readsOn q).find? fun r => (r.region.map fun g => regionCovers g a) = some true
  | none, some a => (s.putsOn q).find? fun r => (r.put.map fun p => regionCovers p.region a) = some true
  | none, none => none

/-- A NAK of kind remote access error for the request with PSN `psn` of queue pair `q`: the command that made it ends (R376). -/
def State.qpRefused (s : State) (q psn : Nat) : State :=
  match (s.qp q).unacked.find? fun f => f.psn = psn with
  | some f =>
    let s := s.modQp q fun x => { x with unacked := x.unacked.filter fun g => g.psn ≠ psn }
    match s.askerOf q f with
    | some r =>
      let bad : Answer := { status := .badArgument, detail := 2 }
      (if r.put.isSome then s.complete r.seq bad else s.failRead r bad).askAll q
    | none => s
  | none => s

/-! ### Attach (R373, R374) -/

/-- Whether an attach from `ip` is accepted now. -/
def State.mayAttach (s : State) (ip : IpAddr) : Bool :=
  !s.flag Fld.ethAttach_attached || s.flag Fld.ethAttach_cmdError || s.hostIp = IpBits ip

/-- Whether the entries of an attach are well formed: 2 to 1,024 of them, fields of 24 bits, and entry 0's HOST_PSN the PSN of the
message's first packet. -/
def attachOk (psn : Nat) (qps : List AttachQp) : Bool :=
  2 ≤ qps.length && qps.length ≤ 1024 && ((qps.head?).map (·.hostPsn)) = some psn &&
    qps.all fun e => e.hostQpn < 2 ^ 24 && e.hostPsn < 2 ^ 24 && e.devPsn < 2 ^ 24

/-- Queue pair `q` as an attach sets it: ready with an entry, or reset. -/
def State.setQp (s : State) (q : Nat) (e : Option AttachQp) : State :=
  match e with
  | some e =>
    let s := s.setRaw (Reg.ethQp q) (BitVec.ofNat 64 (2 ^ 62 + 256 * 2 ^ 48 + e.hostQpn * 2 ^ 24 + 0x100 + q))
    s.setRaw (Reg.ethQpPsn q) (BitVec.ofNat 64 (e.devPsn * 2 ^ 24 + e.hostPsn))
  | none => (s.setRaw (Reg.ethQp q) (resetWord (Reg.ethQp q))).setRaw (Reg.ethQpPsn q) 0

/-- Messages that an attach sends again: the completions that the host has not acknowledged, and those that waited. -/
def Eth.owed (e : Eth) : List CmdMsg := (e.undelivered ++ e.waiting).filter fun m => match m with
  | .done _ => true
  | .ack _ _ _ => false

/-- Packets of RDMA WRITEs that the host has not acknowledged, but for those of running commands, with their queue pairs. -/
def State.openWrites (s : State) : List (Nat × SentBody) :=
  s.eth.qps.flatMap fun e => (e.2.unacked.filter fun f => f.writes.isSome && (s.askerOf e.1 f).isNone).map fun f => (e.1, f.body)

/-- RDMA operations in flight restart from the start of their regions on the new queue pairs (R374). -/
def State.restartRdma (s : State) (writes : List (Nat × SentBody)) : State :=
  let s := writes.foldl (fun (s : State) e => if s.qpReady e.1 then s.qpSend e.1 [e.2] else s) s
  let running := s.eth.running.map fun r => { r with asked := 0, got := [], put := r.put.map fun p => { p with psn := none } }
  let s := { s with eth := { s.eth with running := running } }
  let s := running.foldl (fun s r => s.issuePut r) s
  running.foldl (fun s r => ((r.readQp).map fun q => s.askAll q).getD s) s

/-- An accepted attach; `next` is the PSN that follows its message. -/
def State.attachTo (s : State) (mac : BitVec 48) (ip dst : IpAddr) (next : Nat) (qps : List AttachQp) : State :=
  let writes := s.openWrites
  let s := s.setRaw Reg.ethHostMac (mac.setWidth 64)
  let s := s.setRaw Reg.ethHostIpHi ((IpBits ip).extractLsb' 64 64)
  let s := s.setRaw Reg.ethHostIpLo ((IpBits ip).extractLsb' 0 64)
  let s := (List.range 1024).foldl (fun s q => s.setQp q qps[q]?) s
  let s := s.setFld (Fld.ethQpPsn_expected 0) next
  let s := ((s.setFld Fld.ethAttach_qpCount qps.length).setFld Fld.ethAttach_cmdError 0).setFld Fld.ethAttach_attached 1
  let owed := s.eth.owed
  let events := s.eth.evtSent ++ s.eth.events
  let s := { s with eth := { s.eth with qps := [], devAddr := some dst, msgIn := none, joining := none, undelivered := [], waiting := [],
                                         events := events, evtSent := [] } }
  let c : Completion := { code := 0, seq := 0, status := .ok, acceptBeat := s.beat, beat := s.beat }
  let s := s.reply 0 ((next + 2 ^ 24 - 1) % 2 ^ 24) .ack
  let s := (s.charge sharedAcct lEth (32 + 8 + 12 * qps.length + 56)).send (.done c)
  (owed.foldl (fun s m => s.send m) s).restartRdma writes

/-- An attach message arrives. -/
def State.attach (s : State) (mac : BitVec 48) (ip dst : IpAddr) (psn next : Nat) (qps : List AttachQp) : State :=
  if attachOk psn qps && s.mayAttach ip then s.attachTo mac ip dst next qps
  else s.count Fld.ethAttachRefused_count

/-- Packets of an attach message with `n` entries, of 4,096 bytes each but the last. -/
def attachPackets (n : Nat) : Nat := ceilDiv (40 + 12 * n) 4096

/-- ATTACH (R373, R374): an attach message with its source addresses, the device's address that it was sent to and the PSN of its
first packet. -/
def execAttach (srcMac : BitVec 48) (srcIp dstIp : IpAddr) (psn : Nat) (qps : List AttachQp) (s : State) : Out :=
  .next (whenDo s.ethUp s fun s => s.attach srcMac srcIp dstIp psn ((psn + attachPackets qps.length) % 2 ^ 24) qps)

/-- The entries of an attach body; none where its length and QP_COUNT disagree or its reserved bytes are not zero. -/
def attachEntries (b : Bytes) : Option (List AttachQp) :=
  let n := field b 0 2
  let ok : Bool := b.length = 8 + 12 * n && field b 2 6 = 0
  if ok then some ((pieces 12 n (b.drop 8)).map fun e => ⟨field e 0 4, field e 4 4, field e 8 4⟩) else none

/-! ### Command messages (R377 to R384) -/

/-- A region descriptor's reserved bytes are zero. -/
def regionTail (b : Bytes) (off : Nat) : Bool := field b (off + 22) 2 = 0

/-- The device states, the least body length, whether the named reserved fields are zero, and whether the region descriptor's are, of
a command by its code and body; none for a code that no command has. -/
def cmdForm (code : Nat) (b : Bytes) : Option (States × Nat × Bool × Bool) :=
  let org : States := { threaded := true, origin := true }
  match code with
  | 0x01 => some (anyState, 0, true, true)
  | 0x02 => some (anyState, 0, true, true)
  | 0x10 => some (anyState, 10, true, true)
  | 0x11 => some (anyState, 24, true, true)
  | 0x20 => some (anyState, 64, true, true)
  | 0x21 => some (rdyThr, 140 + field b 2 2, field b 137 3 = 0, true)
  | 0x22 => some (rdyThr, 4 + field b 2 2, true, true)
  | 0x30 => some (anyState, 0, true, true)
  | 0x31 => some ({ ready := true, faulted := true, origin := true }, 8 + 8 * field b 0 2,
      (pieces 8 (field b 0 2) (b.drop 8)).all fun e => field e 5 3 = 0, true)
  | 0x32 => some (org, 0, true, true)
  | 0x40 => some (thrOnly, 32, true, regionTail b 8)
  | 0x41 => some (thrOnly, 32, true, regionTail b 8)
  | 0x42 => some (rdyThr, 4, true, true)
  | 0x43 => some (org, 32, true, regionTail b 8)
  | 0x44 => some (thrOnly, if byteAt b 2 = 0 then 40 else 24, true, byteAt b 2 ≠ 0 || regionTail b 16)
  | 0x45 => some (org, 24, true, regionTail b 0)
  | 0x90 => some (thrOnly, 32, true, regionTail b 8)
  | 0x50 => some (rdyThr, 24, true, regionTail b 0)
  | 0x51 => some (rdyThr, 40, true, regionTail b 16)
  | 0x52 => some ({ ready := true, threaded := true, origin := true }, 2, true, true)
  | 0x53 => some (rdyThr, 2, true, true)
  | 0x54 => some (rdyThr, 1, true, true)
  | 0x55 => some (anyState, 1, true, true)
  | 0x60 => some (thrOnly, 24 + field b 12 4, byteAt b 7 = 0, true)
  | 0x61 => if byteAt b 8 / 2 % 2 = 1 then some (thrOnly, 40, true, regionTail b 16)
    else some (thrOnly, 16 + 4 * field b 4 4, true, true)
  | 0x62 => some ({ threaded := true, faulted := true }, 4, true, true)
  | 0x63 => some (thrOnly, 6, true, true)
  | 0x70 => if byteAt b 2 % 2 = 1 then some (anyState, 32, true, regionTail b 8) else some (anyState, 3, true, true)
  | 0x71 => if byteAt b 2 % 2 = 1 then some (anyState, 32, true, regionTail b 8) else some (anyState, 3, true, true)
  | 0x80 => some (anyState, 8, true, true)
  | 0x81 => some (anyState, 28, true, regionTail b 0)
  | 0xA0 => some (rdyThr, 1, true, true)
  | 0xA1 => some (rdyThr, 8 + field b 0 4, true, true)
  | 0xA2 => some (rdyThr, 8 + field b 0 4, true, true)
  | 0xB0 => some (anyState, 4, true, true)
  | 0xB1 => some (anyState, 4, true, true)
  | _ => none

/-- Accepts a command message of `n` bytes; `a` is its refusal where its form is wrong, and otherwise the command's own row starts
it. -/
def State.admitMsg (s : State) (code : Nat) (seq : W64) (st : States) (a : Option Answer) (n : Nat) (body : Bytes := []) : State :=
  match a with
  | some a => (s.charge sharedAcct lEth n).accept code seq st true fun s => s.complete seq a
  | none =>
    let t := s.accept code seq st true fun s => s.modRunning seq fun r => { r with rx := n, body := body }
    let taken : Bool := (s.running? seq).isNone && (t.running? seq).isSome
    if taken then t else t.charge sharedAcct lEth n

/-- A command message whose last packet has arrived (R379). -/
def State.commandMsg (s : State) (m : Bytes) : State :=
  let code := field m 2 2
  let seq := BitVec.ofNat 64 (field m 8 8)
  let b := m.drop 32
  let head : Bool := byteAt m 0 = 1 && field m 4 4 + 32 = m.length
  match cmdForm code b with
  | some (st, least, zero, tail) =>
    if !head || b.length < least then s.admitMsg code seq anyState (some (.fail .badCommand)) m.length
    else if !zero then s.admitMsg code seq st (some (.fail .badArgument)) m.length
    else if !tail then s.admitMsg code seq st (some badRegion) m.length
    else s.admitMsg code seq st none m.length b
  | none => s.admitMsg code seq anyState (some (.fail .badCommand)) m.length

/-! ### Received frames (R364 to R369, R372) -/

/-- The link-local address of R364: fe80::/64 with the modified EUI-64 of the MAC address. -/
def linkLocal (mac : BitVec 48) : BitVec 128 :=
  let hi := mac.toNat / 2 ^ 24 ^^^ 0x020000
  BitVec.ofNat 128 (0xFE80 * 2 ^ 112 + hi * 2 ^ 40 + 0xFFFE * 2 ^ 24 + mac.toNat % 2 ^ 24)

/-- Whether the device holds an IP address. -/
def State.ownIp (s : State) (a : IpAddr) : Bool := match a with
  | .v4 x => s.flag Fld.ethIp4_valid && s.fld Fld.ethIp4_addr = x.toNat
  | .v6 x => x = linkLocal (macOf Config.serial) ||
    (x ≠ 0 && x.toNat = (s.raw Reg.ethIp6Hi).toNat * 2 ^ 64 + (s.raw Reg.ethIp6Lo).toNat)

/-- Whether a frame passes the address filter of R364. -/
def State.frameForUs (s : State) (f : EthFrame) : Bool := match f.body with
  | .arp a => s.ownIp a
  | .neighbour a => s.ownIp a
  | _ => f.dstMac = macOf Config.serial && s.ownIp f.dstIp

/-- Whether a frame passes the VLAN rule of R366. -/
def State.vlanOk (s : State) (f : EthFrame) : Bool :=
  match f.vlan with
  | none => !s.flag Fld.ethCfg_vlanEn
  | some (id, _) => id = 0 || (s.flag Fld.ethCfg_vlanEn && id.toNat = s.fld Fld.ethCfg_vlanId)

/-- CNP_SEND (R369): a CE-marked packet for queue pair `q`. -/
def State.sendCnp (s : State) (q : Nat) : State :=
  let due : Bool := passedSince (s.qp q).cnpSent (s.fld Fld.ethXport_cnpGap) s.beat && !s.classPaused (s.fld Fld.ethCfg_cnpPrio)
  if due then
    let b := s.beat
    ((s.count Fld.ethCnpTx_count).reply q 0 .cnp).modQp q fun x => { x with cnpSent := some b }
  else s

/-- A message has arrived whole on the command queue pair; its first packet had PSN `psn` and its last one `last`. -/
def State.commandQp (s : State) (f : EthFrame) (psn last : Nat) (inOrder : Bool) (m : Bytes) : State :=
  if byteAt m 1 = 5 then
    let head : Bool := byteAt m 0 = 1 && field m 2 2 = 0 && field m 4 4 + 32 = m.length && field m 8 8 = 0
    match attachEntries (m.drop 32) with
    | some qps => if head then s.attach f.srcMac f.srcIp f.dstIp psn ((last + 1) % 2 ^ 24) qps
      else s.count Fld.ethAttachRefused_count
    | none => s.count Fld.ethAttachRefused_count
  else if inOrder && byteAt m 1 = 1 then (s.reply 0 last .ack).commandMsg m
  else s

/-- A packet joins the part of a message that it goes on, and begins one where it goes on none. -/
def joinPart (part : Option PartMsg) (src : BitVec 128) (psn : Nat) (m : Bytes) : PartMsg :=
  let new : PartMsg := ⟨src, psn, (psn + 1) % 2 ^ 24, m⟩
  match part with
  | some p => if p.src = src ∧ p.next = psn then ⟨src, p.first, (psn + 1) % 2 ^ 24, p.bytes ++ m⟩ else new
  | none => new

/-- A SEND packet on the command queue pair: the next one in PSN order, or one outside that order, which may belong to an attach. -/
def State.sendOn0 (s : State) (f : EthFrame) (psn : Nat) (last inOrder : Bool) (m : Bytes) : State :=
  let p := joinPart (if inOrder then s.eth.msgIn else s.eth.joining) (IpBits f.srcIp) psn m
  let keep := if last then none else some p
  let s := if inOrder then
      { s with eth := { s.eth with msgIn := keep } }.setFld (Fld.ethQpPsn_expected 0) ((psn + 1) % 2 ^ 24)
    else { s with eth := { s.eth with joining := keep } }
  if last then s.commandQp f p.first psn inOrder p.bytes else s

/-- A RoCEv2 packet for queue pair `q` (R372). -/
def State.rocePacket (s : State) (f : EthFrame) (op : RoceOp) (q psn : Nat) (last : Bool) (m : Bytes) : State :=
  let mine : Bool := s.qpReady q && IpBits f.srcIp = s.hostIp
  let s := if f.ce && mine then s.sendCnp q else s
  let inOrder : Bool := mine && psn = s.fld (Fld.ethQpPsn_expected q)
  match op with
  | .ack => if mine then s.qpAcked q psn else s
  | .nak => if mine then s.qpRefused q psn else s
  | .send => if q = 0 then s.sendOn0 f psn last inOrder m else if mine then s.reply q psn (.nak .invalidRequest) else s
  | .rdmaRead => if mine then s.reply q psn (.nak .remoteAccess) else s
  | .rdmaWrite => if mine then s.reply q psn (.nak .remoteAccess) else s
  | .atomic => if mine then s.reply q psn (.nak .remoteAccess) else s

/-- An answer for an own address goes to the sender of the frame (R363, R366). -/
def State.answerFrame (s : State) (f : EthFrame) (own : IpAddr) (b : SentBody) : State :=
  s.putFrames [{ dstMac := f.srcMac, srcMac := macOf Config.serial, dstIp := some f.srcIp, srcIp := some own, vlan := s.tagNow, body := b }]

/-- What a frame that passes the filters does. A RoCEv2 packet has at most 4,096 bytes of payload (R368). -/
def State.takeFrame (s : State) (f : EthFrame) : State := match f.body with
  | .arp a => s.answerFrame f a .arp
  | .neighbour a => s.answerFrame f a .neighbour
  | .echo => s.answerFrame f f.dstIp .echo
  | .roce op qpn psn last icrcOk m =>
    if !icrcOk then s.count Fld.ethIcrcErr_count
    else if 4096 < m.length then s
    else if 0x100 ≤ qpn ∧ qpn < 0x500 then s.rocePacket f op (qpn - 0x100) psn last m
    else s
  | .other => s

/-- ETH_FRAME_RX: its codewords, the length, VLAN and address filters, and what the frame carries. -/
def ethFrameRx (f : EthFrame) (s : State) : State :=
  let s := (s.count Fld.ethFecCorr_count f.fecCorr).count Fld.ethFecUncorr_count f.fecBad
  let s := s.countWrap Fld.ethRxFrames_count
  if f.fecBad ≠ 0 then s
  else if 9216 < f.length || !s.vlanOk f then s
  else if !s.frameForUs f || !s.rxRoom f then s.count Fld.ethRxDrop_count
  else (s.rxTake f).takeFrame f

/-- ETH_FRAME_RX (R364). -/
def execEthFrameRx (f : EthFrame) (s : State) : Out := .next (whenDo s.ethUp s (ethFrameRx f))

end Sys2Proof.Machine
end

