-- ==== Sys2Proof/Machine/Device.lean ====
section
/-!
DEFINITION. The Genot commands on the device itself (10 R386, R394): device and register commands with the side effects of
register writes, SET_MODE, SET_CLOCK_PLAN, SET_POWER_PLAN, and claims (13 R470).
-/
namespace Sys2Proof.Machine

/-! ### DEVICE_INFO, DEVICE_STATE, REG_READ -/

/-- The bytes of registers, 8 each. -/
def State.regBytes (s : State) (offs : List Nat) : Bytes := offs.flatMap fun o => leBytes (s.readReg o).toNat 8

/-- DEVICE_INFO (10 R386). -/
def execDeviceInfo (seq : W64) (s : State) : Out :=
  genot 0x01 seq anyState (fun s =>
    s.complete seq { data := s.regBytes [Reg.devId, Reg.devSerial, Reg.devGrade, Reg.lnkCoord, Reg.ethMac] }) s

/-- DEVICE_STATE (10 R386). -/
def execDeviceState (seq : W64) (s : State) : Out :=
  genot 0x02 seq anyState (fun s =>
    s.complete seq { data := s.regBytes [Reg.devState, Reg.devMode, Reg.warpStatus, Reg.schedStatus, Reg.ethStatus] }) s

/-- REG_READ runs. -/
def State.regReadRun (s : State) (seq : W64) (off n : Nat) : State :=
  let ok : Bool := off % 8 = 0 && 1 ≤ n && n ≤ 1024 && off + 8 * n ≤ readEnd
  if ok then s.complete seq { data := s.regBytes ((List.range n).map fun i => off + 8 * i) } else s.complete seq (.fail .badArgument)

/-- REG_READ (10 R386). -/
def execRegRead (seq : W64) (off : W64) (count : W16) (s : State) : Out :=
  genot 0x10 seq anyState (fun s => s.regReadRun seq off.toNat count.toNat) s

/-! ### What a write stores -/

/-- Replaces a field of `w` by `f` of it where the write has touched it. -/
def Fld.fixup (f : Fld) (mask w : W64) (g : Nat → Nat) : W64 :=
  if f.mask &&& mask = 0 then w else f.insert w (g (w.toNat / 2 ^ f.lo % 2 ^ f.width))

/-- The value of a field in a word. -/
def Fld.of (f : Fld) (w : W64) : Nat := w.toNat / 2 ^ f.lo % 2 ^ f.width

/-- Fields that store another value where the one written lies out of their range: for each, its register tables' rule. -/
def clampWord (off : Nat) (mask w : W64) : W64 :=
  if 0x100000 ≤ off then
    (if off % 0x1000 = 8 then (Fld.coreSlotTmo_timeout 0).fixup mask w (max 175) else w)
  else if Reg.schedPart 0 ≤ off ∧ off < Reg.schedPart 64 then (Fld.schedPart_slice 0).fixup mask w (max 175)
  else if off = Reg.warpCtrl then
    let w := Fld.warpCtrl_passSlack.fixup mask w (max 17500)
    Fld.warpCtrl_startLead.fixup mask (Fld.warpCtrl_recallBudget.fixup mask w (max 1750)) (max 1750)
  else if off = Reg.lnkCtrl 0 ∨ off = Reg.lnkCtrl 1 ∨ off = Reg.lnkCtrl 2 ∨ off = Reg.lnkCtrl 3 then
    (Fld.lnkCtrl_replayTmo 0).fixup mask w (max 35)
  else if off = Reg.beatCtrl then
    let w := Fld.beatCtrl_launchLead.fixup mask w (max 1750)
    Fld.beatCtrl_markShift.fixup mask w fun v => if 4 ≤ v ∧ v ≤ 40 then v else 0
  else if off = Reg.ethCfg then Fld.ethCfg_pmtu.fixup mask w (min 2)
  else if off = Reg.ethCc then Fld.ethCc_step.fixup mask (Fld.ethCc_rMin.fixup mask w (max 1)) (max 1)
  else if off = Reg.ethXport then Fld.ethXport_retryTmo.fixup mask w (max 17500)
  else if off = Reg.pwrCtrl then Fld.pwrCtrl_recover.fixup mask w (max 1750)
  else if off = Reg.pwrTherm then
    let w := Fld.pwrTherm_throttle.fixup mask (Fld.pwrTherm_release.fixup mask w (max 1)) (min 110)
    Fld.pwrTherm_warn.fixup mask w (min (Fld.pwrTherm_throttle.of w))
  else if Reg.dbgTraceCfg 0 ≤ off ∧ off < Reg.dbgTraceCfg 8 then
    (Fld.dbgTraceCfg_mode 0).fixup mask w fun v => if v = 3 then 0 else v
  else w

/-- A write of registers that are plain words: the access codes of R10, then the ranges. -/
def State.storeReg (s : State) (off : Nat) (val mask : W64) : State :=
  match regSpec off with
  | some r =>
    let locked : Bool := off = Reg.secCtrl && s.flag Fld.secCtrl_lock
    s.setRaw off (clampWord off mask (r.written (s.raw off) val mask locked))
  | none => s

/-! ### Writes with an effect of their own -/

/-- CORE_TAGS.PEAK: a write that is not zero there makes it the tags held now (03 R117). -/
def State.writeTags (s : State) (p : Nat) (val mask : W64) : State :=
  if (Fld.coreTags_peak 0).of (val &&& mask) ≠ 0 then s.modCore p fun c => { c with tagPeak := c.tagsHeld } else s

/-- STR_STATUS.REARM_LOST (03 R111). -/
def State.writeStream (s : State) (p n : Nat) (val mask : W64) : State :=
  if (Fld.strStatus_rearmLost 0 0).of (val &&& mask) ≠ 0 then
    s.modCore p fun c => c.setStream n { c.stream n with rearmLost := false }
  else s

/-- A write in the control block of core `p` at offset `o`. -/
def State.writeCore (s : State) (p o : Nat) (val mask : W64) : State :=
  if o = 0x18 then s.writeTags p val mask
  else if 0x200 ≤ o ∧ o < 0x400 ∧ o % 16 = 0 then s.writeStream p ((o - 0x200) / 16) val mask
  else s.storeReg (Reg.coreMap p + o) val mask

/-- Whether a ring's configuration may be enabled (10 R402). -/
def State.ringOk (s : State) (n : Nat) (cfg : W64) : Bool :=
  let k := (Fld.ethRingCfg_log2Entries n).of cfg
  6 ≤ k && k ≤ (if n = ledgerRing then 16 else 20) && 2 ≤ (Fld.ethRingCfg_qp n).of cfg &&
    (s.raw (Reg.ethRingAddr n)).toNat % 64 = 0 && (s.raw (Reg.ethRingCons n)).toNat % 64 = 0

/-- A write of ETH_RING_CFG_n: while ENABLE is 1 only ENABLE changes; setting it checks the ring and zeroes PRODUCED. -/
def State.writeRingCfg (s : State) (n : Nat) (val mask : W64) : State :=
  let en := Fld.ethRingCfg_enable n
  if s.flag en then s.storeReg (Reg.ethRingCfg n) val (mask &&& en.mask)
  else
    let s := s.storeReg (Reg.ethRingCfg n) val mask
    if s.flag en then
      if s.ringOk n (s.raw (Reg.ethRingCfg n)) then
        let s := s.setRaw (Reg.ethRingProd n) 0
        { s with eth := { s.eth with consumed := SMap.del s.eth.consumed n, consBeat := SMap.del s.eth.consBeat n } }
      else s.setFld en 0
    else s

/-- A write of a register of ring `n`. -/
def State.writeRing (s : State) (n k : Nat) (val mask : W64) : State :=
  if k = 1 then s.writeRingCfg n val mask
  else if s.flag (Fld.ethRingCfg_enable n) then s
  else s.storeReg (Reg.ethRingAddr n + 8 * k) val mask

/-- The device's configured address of the family to which the attached host sends. -/
def State.addrSent (s : State) : Bool := match s.eth.devAddr with
  | some a => s.ownIp a
  | none => true

/-- A write of ETH_IP4, ETH_IP6_HI or ETH_IP6_LO: a change of the address to which the host sends moves its queue pairs to ERROR
(10 R364). -/
def State.writeAddress (s : State) (off : Nat) (val mask : W64) : State :=
  let before := s.addrSent
  let s := s.storeReg off val mask
  if before && !s.addrSent then
    ((List.range 1024).filter fun q => s.qpReady q).foldl (fun s q => s.qpError q) s
  else s

/-- A write of SEC_CTRL: setting TEST_LOCK makes a wipe pending (11 R421). -/
def State.writeSec (s : State) (val mask : W64) : State :=
  let old := s.flag Fld.secCtrl_testLock
  let s := s.storeReg Reg.secCtrl val mask
  if !old && s.flag Fld.secCtrl_testLock then s.setFld Fld.secStatus_wipePending 1 else s

/-- A trace partition starts at index 0. -/
def State.restartTrace (s : State) (i : Nat) : State :=
  let s := (s.setRaw (Reg.dbgTracePos i) 0).setFld Fld.dbgStatus_triggered (s.fld Fld.dbgStatus_triggered &&& (255 - 2 ^ i))
  { s with traceLeft := SMap.del s.traceLeft i }

/-- A write of DBG_TRACE_CFG_i: ignored while the partition is unclaimed; setting ENABLE restarts it (12 R450, R451). -/
def State.writeTrace (s : State) (i : Nat) (val mask : W64) : State :=
  if (s.claimed 2 i).isNone then s
  else
    let idle : Bool := !s.flag (Fld.dbgTraceCfg_enable i) || s.flag (Fld.dbgTracePos_stopped i)
    let s := s.storeReg (Reg.dbgTraceCfg i) val mask
    if idle && (val &&& mask).getLsbD 0 then s.restartTrace i else s

/-- A write to a register that is not reserved. -/
def State.writeReg (s : State) (off : Nat) (val mask : W64) : State :=
  if 0x100000 ≤ off then s.writeCore ((off - 0x100000) / 0x1000) (off % 0x1000) val mask
  else if Reg.ethRingAddr 0 ≤ off ∧ off < Reg.ethRingAddr 256 then
    s.writeRing ((off - Reg.ethRingAddr 0) / 32) (off % 32 / 8) val mask
  else if off = Reg.ethIp4 ∨ off = Reg.ethIp6Hi ∨ off = Reg.ethIp6Lo then s.writeAddress off val mask
  else if off = Reg.ethCfg then (s.storeReg off val mask).flushWaiting
  else if off = Reg.secCtrl then s.writeSec val mask
  else if off = Reg.pwrTherm then
    let s := s.storeReg off val mask
    s.drive 5 (s.fld Fld.pwrTherm_warn ≤ s.hottest)
  else if Reg.dbgTraceCfg 0 ≤ off ∧ off < Reg.dbgTraceCfg 8 ∧ off % 16 = 0 then
    s.writeTrace ((off - Reg.dbgTraceCfg 0) / 16) val mask
  else s.storeReg off val mask

/-- REG_WRITE runs (00 R7; 10 R386). -/
def State.regWriteRun (s : State) (seq : W64) (off : Nat) (val mask : W64) : State :=
  if off % 8 ≠ 0 ∨ readEnd ≤ off then s.complete seq (.fail .badArgument)
  else if off < 0x10000 ∨ romBase ≤ off then s.complete seq (.fail .denied)
  else if (regSpec off).isNone then s.complete seq (.fail .badArgument)
  else (s.writeReg off val mask).complete seq {}

/-- A REG_WRITE at a given offset. -/
def regWriteAt (seq : W64) (off : Nat) (val mask : W64) (s : State) : Out :=
  genot 0x11 seq anyState (fun s => s.regWriteRun seq off val mask) s

/-- REG_WRITE (10 R386). -/
def execRegWrite (seq off val mask : W64) (s : State) : Out := regWriteAt seq off.toNat val mask s

/-- PEAK_CLEAR (03 R117): a REG_WRITE to CORE_TAGS. -/
def execPeakClear (seq : W64) (p : Nat) (val mask : W64) (s : State) : Out :=
  if p < nCores then regWriteAt seq (Reg.coreTags p) val mask s else .fault .noSuchUnit

/-- REARM_LOST_CLEAR (03 R111): a REG_WRITE to STR_STATUS_n. -/
def execRearmLostClear (seq : W64) (p n : Nat) (val mask : W64) (s : State) : Out :=
  if p < nCores ∧ n < 32 then regWriteAt seq (Reg.strStatus p n) val mask s else .fault .noSuchUnit

/-- RING_ENABLE (10 R402): a REG_WRITE to ETH_RING_CFG_n. -/
def execRingEnable (seq : W64) (ring : Nat) (val mask : W64) (s : State) : Out :=
  if ring < 256 then regWriteAt seq (Reg.ethRingCfg ring) val mask s else .fault .noSuchUnit

/-- RING_DISABLE (10 R402): a REG_WRITE to ETH_RING_CFG_n. -/
def execRingDisable (seq : W64) (ring : Nat) (val mask : W64) (s : State) : Out :=
  if ring < 256 then regWriteAt seq (Reg.ethRingCfg ring) val mask s else .fault .noSuchUnit

/-- ETH_ADDRESS_WRITE (10 R364): a REG_WRITE to ETH_IP4 (0), ETH_IP6_HI (1) or ETH_IP6_LO (2). -/
def execEthAddressWrite (seq : W64) (which : Nat) (val mask : W64) (s : State) : Out :=
  if which < 3 then regWriteAt seq (Reg.ethIp4 + 8 * which) val mask s else .fault .noSuchUnit

/-- TEST_LOCK (11 R421): a REG_WRITE to SEC_CTRL. -/
def execTestLock (seq val mask : W64) (s : State) : Out := regWriteAt seq Reg.secCtrl val mask s

/-- LOCK (11 R424): a REG_WRITE to SEC_CTRL. -/
def execLock (seq val mask : W64) (s : State) : Out := regWriteAt seq Reg.secCtrl val mask s

/-- ALERT_CLEAR (13 R456): a REG_WRITE to ERR_STATUS. -/
def execAlertClear (seq val mask : W64) (s : State) : Out := regWriteAt seq Reg.errStatus val mask s

/-- VALID_CLEAR (05 R210): a REG_WRITE to VLT_ERR_ADDR. -/
def execValidClear (seq : W64) (st : Nat) (val mask : W64) (s : State) : Out :=
  if st < nStacks then regWriteAt seq (Reg.vltErrAddr st) val mask s else .fault .noSuchUnit

/-- TRACE_ENABLE (12 R451): a REG_WRITE to DBG_TRACE_CFG_i. -/
def execTraceEnable (seq : W64) (part : Nat) (val mask : W64) (s : State) : Out :=
  if part < 8 then regWriteAt seq (Reg.dbgTraceCfg part) val mask s else .fault .noSuchUnit

/-! ### SET_MODE (00 R8) -/

/-- SET_MODE runs. -/
def State.setModeRun (s : State) (seq : W64) (x : Nat) : State :=
  if 1 < x then s.complete seq (.fail .badArgument)
  else if s.fld Fld.devMode_exact = x then s.complete seq {}
  else if s.anyLaunched then s.complete seq (.fail .busy)
  else (s.setFld Fld.devMode_exact x).complete seq {}

/-- SET_MODE (10 R394). -/
def execSetMode (seq : W64) (exact : Byte) (s : State) : Out := genot 0xA0 seq rdyThr (fun s => s.setModeRun seq exact.toNat) s

/-! ### SET_CLOCK_PLAN (12 R431) -/

/-- Steps of ACLK that the power controller holds below the plan. -/
def State.aclkSteps (s : State) : Nat := (s.sys.powerActs.filter fun a => a = PowerAct.aclk).length

/-- The ACLK point that the plan and the power controller call for. -/
def State.aclkTarget (s : State) : Nat := min 2 (s.fld Fld.clkPlan_point + s.aclkSteps)

/-- Commands that wait for the plan complete once ACLK is where it puts it. -/
def State.settleClock (s : State) : State :=
  let done : Bool := s.sys.trans.isNone && s.fld Fld.clkStatus_point = s.aclkTarget
  if done then
    let s' := { s with sys := { s.sys with clockCmds := [] } }
    s.sys.clockCmds.foldl (fun s q => s.complete q {}) s'
  else s

/-- The actions that stand under a new plan: ACLK is held below its POINT only where ALLOW_DVFS is 1, and no lower than it runs. -/
def keptActs (acts : List PowerAct) (room : Nat) : List PowerAct :=
  let issue := acts.filter fun a => a = PowerAct.issue
  let aclk := acts.filter fun a => a = PowerAct.aclk
  issue ++ aclk.take room

/-- SET_CLOCK_PLAN runs. -/
def State.setClockRun (s : State) (seq : W64) (plan : Bytes) : State :=
  let point := byteAt plan 0
  let flags := byteAt plan 1
  if plan.length ≠ 8 ∨ 2 < point ∨ 1 < flags ∨ !zeroIn plan 2 6 then s.complete seq (.fail .badArgument)
  else if point = 0 ∧ !s.flag Fld.calStatus_valid then s.complete seq (.fail .calInvalid)
  else
    let room := if flags = 1 then s.fld Fld.clkStatus_point - point else 0
    let s := (s.setFld Fld.clkPlan_point point).setFld Fld.clkPlan_allowDvfs flags
    let acts := keptActs s.sys.powerActs room
    { s with sys := { s.sys with powerActs := acts, clockCmds := s.sys.clockCmds ++ [seq] } }.settleClock

/-- SET_CLOCK_PLAN (10 R394). -/
def execSetClockPlan (seq : W64) (plan : Bytes) (s : State) : Out := genot 0xA2 seq rdyThr (fun s => s.setClockRun seq plan) s

/-! ### SET_POWER_PLAN (12 R433 to R435) -/

/-- An entry of a power plan. -/
structure PlanEnt where
  id : Nat
  off : Bool
  banks : Nat
  first : Nat
  count : Nat
  zero : Bool
  deriving DecidableEq, Repr

def planEnt (b : Bytes) : PlanEnt :=
  ⟨byteAt b 0, byteAt b 1 % 2 = 1, byteAt b 2, field b 4 2, field b 6 2, byteAt b 3 = 0⟩

def PlanEnt.meets (a b : PlanEnt) : Bool := a.first < b.first + b.count && b.first < a.first + a.count

/-- Entries in force. -/
def State.planInForce (s : State) : List PlanEnt :=
  (List.range 64).filterMap fun i =>
    if s.flag (Fld.pwrEntry_valid i) then
      some ⟨s.fld (Fld.pwrEntry_id i), s.flag (Fld.pwrEntry_coreOff i), s.fld (Fld.pwrEntry_bankOff i), s.fld (Fld.pwrEntry_firstCore i),
            s.fld (Fld.pwrEntry_coreCount i), true⟩
    else none

/-- Whether no two entries share a core or an ID. -/
def distinct : List PlanEnt → Bool
  | [] => true
  | e :: es => es.all (fun x => x.id ≠ e.id && !x.meets e) && distinct es

/-- The word of PWR_ENTRY_n. -/
def PlanEnt.word (e : PlanEnt) : W64 :=
  BitVec.ofNat 64 (2 ^ 63 + (if e.off then 2 ^ 62 else 0) + e.banks * 2 ^ 48 + e.count * 2 ^ 32 + e.first * 2 ^ 16 + e.id)

/-- Puts the entries of a plan in force, each in the register of its ID. -/
def State.putPlan (s : State) (es : List PlanEnt) : State :=
  (List.range 64).foldl (fun s i => s.setRaw (Reg.pwrEntry i) (((es.find? fun e => e.id = i + 1).map (·.word)).getD 0)) s

/-- Whether logical core `n` is powered down by entries. -/
def offIn (es : List PlanEnt) (n : Nat) : Bool := es.any fun e => e.off && e.first ≤ n && n < e.first + e.count

/-- Logical cores of partitions that hold a LAUNCHED or PREEMPTED context. -/
def State.busyCores (s : State) : List Nat :=
  s.sched.parts.flatMap fun e => match e.2 with
    | some q =>
      let held : Bool := s.sched.ctxs.any fun c => c.2.part = e.1 && (c.2.st = .launched || c.2.st = .preempted)
      if held then (List.range q.count).map (q.first + ·) else []
    | none => []

/-- The first refusal of a power plan, in the order of R434: the entries that would then be in force otherwise. -/
def State.checkPlan (s : State) (plan : Bytes) : Answer ⊕ List PlanEnt :=
  let op := byteAt plan 0
  let n := byteAt plan 1
  let cap := field plan 2 2
  let es := (pieces 8 n (plan.drop 8)).map planEnt
  let now := s.planInForce
  let inForce := fun (e : PlanEnt) => now.any fun x => x.id = e.id
  let shape : Bool := plan.length = 8 + 8 * n && n ≤ 64 && op ≤ 2 && (cap = 0 || (1000 ≤ cap && cap ≤ 3000)) && zeroIn plan 4 4 &&
    es.all fun e => 1 ≤ e.id && e.id ≤ 64 && (op = 2 || e.zero)
  let ranges : Bool := op = 2 || (distinct es && es.all fun e => 1 ≤ e.count && e.first + e.count ≤ 1200)
  if !shape || !ranges || (op = 1 && es.any inForce) then .inl (.fail .badArgument)
  else if op = 2 && !es.all inForce then .inl (.fail .notFound)
  else
    let clash := if op = 1 then es.findSome? fun e => now.find? fun x => x.meets e else none
    match clash with
    | some x => .inl { status := .conflict, holder := 0x03000000 + x.id }
    | none =>
      let next := if op = 0 then es else if op = 1 then now ++ es else now.filter fun x => !(es.any fun e => e.id = x.id)
      let busy : Bool := s.busyCores.any fun c => offIn now c != offIn next c
      if busy then .inl (.fail .busy) else .inr next

/-- Cores that a plan powers down stop at once; those that it powers up run again. -/
def State.stopOff (s : State) (es : List PlanEnt) : State :=
  let cores := (s.cmap.logical.zip (List.range s.cmap.logical.length)).filter fun e => s.planOff e.2 != offIn es e.2
  let s := cores.foldl (fun (s : State) (e : Nat × Nat) => s.modCore e.1 fun c => { c with stopped := offIn es e.2 }) s
  s.setFld Fld.pwrCores_powered (nCores - ((List.range s.cmap.logical.length).filter fun n => offIn es n).length)

/-- SET_POWER_PLAN runs. -/
def State.setPowerRun (s : State) (seq : W64) (plan : Bytes) : State :=
  match s.checkPlan plan with
  | .inl a => s.complete seq a
  | .inr es =>
    let cap := field plan 2 2
    let s := (s.stopOff es).putPlan es
    (if cap = 0 then s else s.setFld Fld.pwrCap_cap cap).complete seq {}

/-- SET_POWER_PLAN (10 R394). -/
def execSetPowerPlan (seq : W64) (plan : Bytes) (s : State) : Out := genot 0xA1 seq rdyThr (fun s => s.setPowerRun seq plan) s

/-! ### Claims (13 R470) -/

/-- Resources of a kind. -/
def claimCount (kind : Nat) : Nat := if kind = 0 then 8 else if kind = 1 then 32 else if kind = 2 then 8 else if kind = 3 then 32 else 0

/-- The level that a GPIO takes on when it is claimed. -/
def State.gpioLevel (s : State) (function : Nat) : Bool :=
  function = 5 && s.fld Fld.pwrTherm_warn ≤ s.hottest

/-- The next claim id, from 1 to 0xFF_FFFF: in order, and once those are used up the lowest free one. -/
def State.claimId (s : State) : Nat :=
  if s.nextClaim < 2 ^ 24 then s.nextClaim
  else (firstFrom (fun i => s.claims.all fun c => c.id ≠ i) 1 (s.claims.length + 1)).getD 1

/-- Gives a free resource to a claim. -/
def State.takeClaim (s : State) (kind function index : Nat) : State :=
  let c : Claim := ⟨s.claimId, kind, function, index⟩
  let s := { s with claims := s.claims ++ [c], nextClaim := min (2 ^ 24) (s.nextClaim + 1) }
  if kind = 0 ∧ s.gpioLevel function then { s with sys := { s.sys with gpioOut := s.sys.gpioOut ||| BitVec.ofNat 8 (2 ^ index) } }
  else if kind = 3 then
    (s.setFld (Fld.xptPort_mode (index / 8) (index % 8)) 3).setFld (Fld.xptHolder_holder (index / 8) (index % 8)) 2
  else s

/-- CLAIM_RESOURCE runs. -/
def State.claimRun (s : State) (seq : W64) (kind function index : Nat) : State :=
  if claimCount kind ≤ index ∨ (kind = 0 ∧ 5 < function) then s.complete seq (.fail .badArgument)
  else
    match s.claimed kind index with
    | some c => s.complete seq { status := .conflict, holder := 0x02000000 + c.id }
    | none =>
      if kind = 3 ∧ s.fld (Fld.xptHolder_holder (index / 8) (index % 8)) = 1 then
        s.complete seq { status := .conflict, holder := 0x01000000 }
      else (s.takeClaim kind function index).complete seq { value := BitVec.ofNat 64 s.claimId }

/-- CLAIM_RESOURCE (10 R394). -/
def execClaimResource (seq : W64) (kind function : Byte) (index : W16) (s : State) : Out :=
  genot 0xB0 seq anyState (fun s => s.claimRun seq kind.toNat function.toNat index.toNat) s

/-- What becomes of a resource when its claim ends. -/
def State.idleResource (s : State) (c : Claim) : State :=
  if c.kind = 0 then { s with sys := { s.sys with gpioOut := s.sys.gpioOut &&& ~~~BitVec.ofNat 8 (2 ^ c.index) } }
  else if c.kind = 2 then s.setFld (Fld.dbgTraceCfg_enable c.index) 0
  else if c.kind = 3 then
    let p := c.index / 8
    let b := c.index % 8
    (s.setFld (Fld.xptPort_mode p b) (if s.bundleUp p b then 1 else 0)).setFld (Fld.xptHolder_holder p b) 0
  else s

/-- RELEASE_RESOURCE runs. -/
def State.releaseRun (s : State) (seq : W64) (id : Nat) : State :=
  match s.claims.find? fun c => c.id = id with
  | some c => ({ s with claims := s.claims.filter fun x => x.id ≠ id }.idleResource c).complete seq {}
  | none => s.complete seq (.fail .notFound)

/-- RELEASE_RESOURCE (10 R394). -/
def execReleaseResource (seq : W64) (claim : W32) (s : State) : Out := genot 0xB1 seq anyState (fun s => s.releaseRun seq claim.toNat) s

end Sys2Proof.Machine
end

