-- ==== Sys2Proof/Machine/Strongbox.lean ====
section
/-!
DEFINITION. The strongbox and the on-package flash: quotes (11 R407 to R409), the publisher table (R410 to R413), the
calibration set (12 R441 to R444) and the completion of flash writes.
-/
namespace Sys2Proof.Machine

/-! ### The calibration set (12 R441) -/

def calSize : Nat := 262144

/-- A byte of the stored set. -/
def State.calByte (s : State) (i : Nat) : Byte := match s.cal.broken with
  | some k => Config.freeByte (k + i)
  | none => if s.cal.own then s.cal.image.byte i else Config.factoryCal i

/-- Bytes `off` up to `off + n - 1` of the stored set. -/
def State.calBytes (s : State) (off n : Nat) : Bytes := (List.range n).map fun i => s.calByte (off + i)

/-- A field of the stored set. -/
def State.calField (s : State) (off n : Nat) : Nat := leNat (s.calBytes off n)

/-- The digest that a set must carry. -/
def calDigest (tail : Bytes) : Bytes := digestBytes (Config.sha512 tail)

/-- The first check of MAGIC (1), VERSION (2), SERIAL (3) that a set fails. -/
def headCheck (head : Bytes) : Option Nat :=
  if field head 0 4 ≠ 0x4C414356 then some 1
  else if field head 4 2 ≠ 1 then some 2
  else if field head 8 8 ≠ Config.serial.toNat then some 3
  else none

/-- The first check that the stored set fails, DIGEST being 4 (R442; 13 R454). -/
def State.calCheck (s : State) : Option Nat :=
  if s.cal.broken.isSome then some 4
  else
    match headCheck (s.calBytes 0 16) with
    | some n => some n
    | none => if s.calBytes 0xC0 64 = calDigest (s.calBytes 0x100 (calSize - 0x100)) then none else some 4

/-- Replaces bytes of a run. -/
def patch (bs : Bytes) (off : Nat) (new : Bytes) : Bytes := bs.take off ++ new ++ bs.drop (off + new.length)

/-- Byte `j` of a retired map that holds the cores `ps`. -/
def mapByte (ps : List Nat) (j : Nat) : Byte :=
  ps.foldl (fun (a : Byte) p => if p / 8 = j then a ||| BitVec.ofNat 8 (2 ^ (p % 8)) else a) 0

/-- A set with the cores `ps` added to its retired map and its digest made anew. -/
def sealSet (bs : Bytes) (ps : List Nat) : Bytes :=
  let map_ := (List.range 160).map fun j => (cut bs (0x12500 + j) 1).headD 0 ||| mapByte ps j
  let bs := patch bs 0x12500 map_
  patch bs 0xC0 (calDigest (bs.drop 0x100))

/-- Cores that the stored retired map names. -/
def State.calRetired (s : State) : List Nat := (List.range nCores).filter fun p => (s.calByte (0x12500 + p / 8)).getLsbD (p % 8)

/-- The set is written. -/
def State.putCal (s : State) (bs : Bytes) : State :=
  let cal := { s.cal with own := true, image := Mem.store [] 0 bs, broken := none }
  { s with cal := cal }.setFld Fld.calStatus_writes (field bs 0x10 4)

/-- What CAL_WRITE writes (R443). -/
def State.calImage (s : State) (bs : Bytes) : Bytes :=
  sealSet (patch bs 0x10 (leBytes (s.calField 0x10 4 + 1) 4)) (s.cmap.retired ++ s.cmap.fenced ++ s.calRetired)

/-! ### CAL_READ and CAL_WRITE (10 R394) -/

/-- CAL_READ runs. -/
def State.calReadRun (s : State) (seq : W64) (off n : Nat) : State :=
  if n = 0 ∨ 8192 < n ∨ calSize < off + n then s.complete seq (.fail .badArgument)
  else
    let st := if s.flag Fld.calStatus_valid then Status.ok else Status.calInvalid
    s.complete seq { status := st, data := s.calBytes off n }

/-- CAL_READ (10 R394; 12 R442). -/
def execCalRead (seq : W64) (off len : W32) (s : State) : Out :=
  genot 0x80 seq anyState (fun s => s.calReadRun seq off.toNat len.toNat) s

/-- CAL_WRITE starts. -/
def State.calWriteRun (s : State) (seq : W64) (r : Region) (confirm : W32) : State :=
  if s.regionBad r then s.complete seq badRegion
  else if r.length.toNat ≠ calSize ∨ confirm ≠ 0x43414C57 then s.complete seq (.fail .badArgument)
  else if s.anyLaunched then s.complete seq (.fail .busy)
  else s.startRead seq [] r

/-- CAL_WRITE (10 R394). -/
def execCalWrite (seq : W64) (region : Region) (confirm : W32) (s : State) : Out :=
  genot 0x81 seq anyState (fun s => s.calWriteRun seq region confirm) s

/-- The set of CAL_WRITE has been read (R443). -/
def State.calRead (s : State) (seq : W64) (bs : Bytes) : State :=
  let s := s.charge sharedAcct lEth bs.length
  if (headCheck bs).isSome then s.complete seq (.fail .badArgument)
  else if cut bs 0xC0 64 ≠ calDigest (bs.drop 0x100) then s.complete seq (.fail .integrity)
  else { s with sec := { s.sec with flash := s.sec.flash ++ [FlashOp.calWrite seq bs] } }

/-! ### Quotes (11 R407 to R409) -/

/-- A run of exactly `n` bytes. -/
def fit (n : Nat) (bs : Bytes) : Bytes := (bs ++ List.replicate n 0).take n

/-- The anchor table record of R408. -/
def State.anchorRecord (s : State) : Bytes :=
  (List.range 64).flatMap fun i => s.regBytes [Reg.secSlot i, Reg.secAnchor i 0, Reg.secAnchor i 1, Reg.secAnchor i 2, Reg.secAnchor i 3]

/-- Bytes 0x000 to 0x407 of a quote. -/
def State.quoteBody (s : State) (nonce : Bytes) : Bytes :=
  leBytes 0x54455551 4 ++ leBytes 1 2 ++ leBytes 1168 2 ++
  s.regBytes [Reg.devSerial, Reg.devId, Reg.devGrade, Reg.devState, Reg.devMode, Reg.secStatus, Reg.beatCount] ++ fit 64 nonce ++
  s.regBytes ((List.range 8).map Reg.secRomHash) ++ digestBytes (Config.sha512 (s.calBytes 0 calSize)) ++
  digestBytes (Config.sha512 s.anchorRecord) ++ s.regBytes [Reg.secEnrolCount, Reg.secQuotes, Reg.lnkCoord, Reg.lnkOriginSerial] ++
  List.replicate 32 0 ++ fit 133 Config.identityPub ++ List.replicate 3 0 ++ fit 512 Config.certificate

/-- A quote of 1,168 bytes. -/
def State.quote (s : State) (nonce : Bytes) : Bytes :=
  let body := s.quoteBody nonce
  let sig := Config.ecdsaSign (Config.sha512 body)
  body ++ fit 66 sig.1 ++ fit 66 sig.2 ++ List.replicate 4 0

/-- ATTEST (10 R386): it is signed after those before it. -/
def execAttest (seq : W64) (nonce : Bytes) (s : State) : Out :=
  genot 0x20 seq anyState (fun s => { s with sec := { s.sec with quotes := s.sec.quotes ++ [(seq, nonce)] } }) s

/-- QUOTE_SIGNED: the first ATTEST completes. -/
def quoteSigned (s : State) : State :=
  match s.sec.quotes with
  | (seq, nonce) :: rest =>
    let s := { s with sec := { s.sec with quotes := rest } }.countWrap Fld.secQuotes_count
    s.complete seq { data := s.quote nonce }
  | [] => s

/-- QUOTE_SIGNED (R409). -/
def execQuoteSigned (s : State) : Out := .next (whenDo s.sys.tclk s quoteSigned)

/-! ### The publisher table (11 R410 to R413) -/

/-- SEC_STATUS.OWNED. -/
def State.owned (s : State) : Bool := (s.anchor 0).st = .enrolled

/-- The statement that AUTH signs (R411). -/
def State.changeStatement (s : State) (c : AnchorChange) : Bytes :=
  leBytes (if c.key.isSome then 0x4C524E45 else 0x4B4F5652) 4 ++ List.replicate 4 0 ++ leBytes Config.serial.toNat 8 ++
  leBytes (s.sec.enrolCount + 1) 8 ++ leBytes c.slot 1 ++ List.replicate 7 0 ++ fit 133 (c.key.getD []) ++ List.replicate 3 0

/-- Whether a run of bytes is a key as ENROL_PUBLISHER carries it. -/
def keyOk (key : Bytes) : Bool := key.length = 133 && byteAt key 0 = 4 && Config.isPoint key

/-- Whether a key's anchor equals that of a slot other than `n`. -/
def State.anchorTaken (s : State) (n : Nat) (key : Bytes) : Bool :=
  (List.range 64).any fun i => i ≠ n && (s.anchor i).st ≠ .empty && anchorOf (s.anchor i).key = anchorOf key

/-- Whether AUTH signs the statement with the key of slot 0. -/
def State.authOk (s : State) (c : AnchorChange) : Bool :=
  Config.ecdsaVerify (s.anchor 0).key (Config.sha512 (s.changeStatement c)) (c.auth.take 66) (c.auth.drop 66)

/-- The first refusal of R412 that applies. -/
def State.changeRefusal (s : State) (c : AnchorChange) : Option Status :=
  let badKey : Bool := match c.key with
    | some k => !keyOk k
    | none => false
  let first : Bool := c.key.isSome && c.slot = 0
  let clash : Bool := match c.key with
    | some k => ((s.anchor c.slot).st = .enrolled && c.slot ≠ 0) || s.anchorTaken c.slot k
    | none => false
  if 63 < c.slot || badKey then some .badArgument
  else if !s.owned && !first then some .denied
  else if c.auth.length ≠ (if s.owned then 132 else 0) then some .badArgument
  else if s.owned && !s.authOk c then some .badSignature
  else if clash then some .badArgument
  else if c.key.isNone && (s.anchor c.slot).st ≠ .enrolled then some .notFound
  else if s.sec.enrolCount = 65535 then some .noResource
  else none

/-- Whether a change of the table is being written. -/
def State.changing (s : State) : Bool := s.sec.flash.any fun o => match o with
  | .enrol _ _ _ => true
  | .revoke _ _ => true
  | _ => false

/-- The flash write of a change. -/
def AnchorChange.op (c : AnchorChange) : FlashOp := match c.key with
  | some k => .enrol c.seq c.slot k
  | none => .revoke c.seq c.slot

def State.setChanges (s : State) (cs : List AnchorChange) : State := { s with sec := { s.sec with changes := cs } }

/-- Runs the changes that wait, one at a time: a refused one completes at once, the first that is accepted is written. -/
def State.runChanges (s : State) : List AnchorChange → State
  | [] => s.setChanges []
  | c :: cs =>
    if s.changing then s.setChanges (c :: cs)
    else
      match s.changeRefusal c with
      | some st =>
        let s := if st = .badSignature then s.count Fld.secFail_auth else s
        (s.complete c.seq (.fail st)).runChanges cs
      | none => { s with sec := { s.sec with changes := cs, flash := s.sec.flash ++ [c.op] } }

/-- ENROL_PUBLISHER (10 R386). -/
def execEnrolPublisher (seq : W64) (slot : Byte) (key auth : Bytes) (s : State) : Out :=
  genot 0x21 seq rdyThr (fun s => s.runChanges (s.sec.changes ++ [⟨seq, slot.toNat, some key, auth⟩])) s

/-- REVOKE_PUBLISHER (10 R386). -/
def execRevokePublisher (seq : W64) (slot : Byte) (auth : Bytes) (s : State) : Out :=
  genot 0x22 seq rdyThr (fun s => s.runChanges (s.sec.changes ++ [⟨seq, slot.toNat, none, auth⟩])) s

/-- The table after a change of slot `n` (R413). -/
def State.putAnchor (s : State) (n : Nat) (key : Option Bytes) : State :=
  let count := s.sec.enrolCount + 1
  let slots := match key with
    | some k => SMap.put s.sec.slots n ⟨.enrolled, count, k⟩
    | none =>
      if n = 0 then SMap.put (s.sec.slots.mapVals fun a => { a with st := .empty, key := [] }) 0 ⟨.empty, count, []⟩
      else SMap.put s.sec.slots n { s.anchor n with st := .revoked, count := count }
  { s with sec := { s.sec with slots := slots, enrolCount := count } }

/-! ### FLASH_WRITE_DONE -/

/-- What a flash write leaves in the flash. -/
def State.flashEffect (s : State) (o : FlashOp) : State := match o with
  | .enrol _ n k => s.putAnchor n (some k)
  | .revoke _ n => s.putAnchor n none
  | .calWrite _ bs => (s.putCal (s.calImage bs)).setFld Fld.calStatus_pending 1
  | .retire p => s.putCal (sealSet (s.calBytes 0 calSize) [p])

/-- The command of a flash write completes. -/
def State.flashReply (s : State) (o : FlashOp) : State := match o with
  | .enrol seq _ _ => s.complete seq {}
  | .revoke seq _ => s.complete seq {}
  | .calWrite seq _ => s.complete seq {}
  | .retire _ => s

/-- FLASH_WRITE_DONE: the write in progress ends. In FROZEN no other starts and its command does not complete (12 R445). -/
def flashWriteDone (s : State) : State :=
  match s.sec.flash with
  | [] => s
  | o :: rest =>
    if s.sys.tclk then
      let s := ({ s with sec := { s.sec with flash := rest } }.flashEffect o).flashReply o
      s.runChanges s.sec.changes
    else { s with sec := { s.sec with flash := rest, flashStopped := true } }.flashEffect o

/-- FLASH_WRITE_DONE (11 R413, 12 R443, R444). -/
def execFlashWriteDone (s : State) : Out :=
  .next (whenDo (s.sys.tclk || (s.devState = stFrozen && !s.sec.flashStopped)) s flashWriteDone)

end Sys2Proof.Machine
end

