-- ==== Sys2Proof/Machine/Posting.lean ====
section
/-!
DEFINITION. What passes between the device and host memory (10 R372, R380, R395 to R401): host data of commands,
acknowledgements, events, tokens and the consumed counts of rings.
-/
namespace Sys2Proof.Machine

/-! ### RDMA_READ_RESPONSE (10 R372, R376) -/

/-- The whole region of a command has been read. -/
def State.hostData (s : State) (r : Running) (bs : Bytes) : State :=
  let a := r.args.headD 0
  let b := r.args.getD 1 0
  match r.code with
  | 0x40 => s.warpRead r.seq a bs
  | 0x41 => s.weftRead r.seq a b (r.args.getD 2 0) bs
  | 0x44 => s.replaceRead r.seq a (BitVec.ofNat 64 b) bs
  | 0x45 => s.draftRead r.seq bs
  | 0x50 => s.programRead r.seq bs
  | 0x51 => s.createRead r.seq (newCtxOf r.args) bs
  | 0x61 => s.feedRead r (some bs) {}
  | 0x81 => s.calRead r.seq bs
  | 0x90 => s.pageRead r.seq a b bs
  | _ => s

/-- The RDMA READ of queue pair `q` at a host address has been answered: the requests that remain are timed anew. -/
def State.qpAnswered (s : State) (q : Nat) (addr : W64) : State :=
  let b := s.beat
  s.modQp q fun x =>
    let rest := x.unacked.eraseP fun f => f.reads = some addr
    { x with retries := 0, unacked := rest, sentAt := if rest.isEmpty then none else some b }

/-- The data of a command's next RDMA READ request arrive, in packets of the path MTU; with the last one the whole region has been
read, and the requests that waited for one of the 16 go out. -/
def State.takeData (s : State) (r : Running) (g : Region) (bs : Bytes) : State :=
  let q := g.qp.toNat
  let got := r.got ++ bs
  let s := s.countWrap Fld.ethRxFrames_count (max 1 (ceilDiv bs.length s.pmtu))
  let s := s.qpAnswered q (g.addr + BitVec.ofNat 64 r.got.length)
  if got.length < g.length.toNat then (s.modRunning r.seq fun x => { x with got := got }).askAll q
  else ((s.modRunning r.seq fun x => { x with region := none, got := [] }).askAll q).hostData r got

/-- RDMA_READ_RESPONSE: the data of the oldest request that a running command has made, or a NAK of kind remote access error. -/
def rdmaReadResponse (seq : W64) (data : Option Bytes) (s : State) : State :=
  match s.running? seq with
  | some r =>
    match r.region with
    | some g =>
      let q := g.qp.toNat
      let live : Bool := s.qpReady q && r.answered < r.asked && !s.sec.keyWait.contains seq
      match live, data with
      | true, some bs => if bs.length = partLen g r.answered then s.betweenCommands fun s => s.takeData r g bs else s
      | true, none =>
        let s := (s.modRunning r.seq fun x => { x with region := none }).qpAnswered q (g.addr + BitVec.ofNat 64 r.got.length)
        ((s.countWrap Fld.ethRxFrames_count).askAll q).failRead r { status := .badArgument, detail := 2 }
      | false, _ => s
    | none => s
  | none => s

/-- RDMA_READ_RESPONSE (R372). -/
def execRdmaReadResponse (seq : W64) (data : Option Bytes) (s : State) : Out :=
  .next (whenDo s.ethUp s (rdmaReadResponse seq data))

/-! ### ACK_DEADLINE (10 R380) -/

/-- ACK_DEADLINE: a running command that has had no acknowledgement receives one. -/
def ackDeadline (seq : W64) (s : State) : State :=
  match s.running? seq with
  | some r =>
    if r.acked then s
    else
      let s := s.modRunning seq fun r => { r with acked := true }
      (s.charge sharedAcct lEth 32).send (.ack r.code seq s.beat)
  | none => s

/-- ACK_DEADLINE (R380). -/
def execAckDeadline (seq : W64) (s : State) : Out := .next (whenDo s.portRuns s (ackDeadline seq))

/-! ### EVENT_SEND (10 R395) -/

/-- EVENT_SEND: the oldest held event goes out on the event queue pair. -/
def eventSend (s : State) : State :=
  match s.eth.events with
  | [] => s
  | e :: es =>
    if s.qpReady 1 && !s.dataPaused then
      let s := { s with eth := { s.eth with events := es, delivered := s.eth.delivered ++ [e], evtSent := s.eth.evtSent ++ [e] } }
      (s.qpSend 1 (s.sendPackets e.image)).charge sharedAcct lEth 64
    else s

/-- EVENT_SEND (R395). -/
def execEventSend (s : State) : Out := .next (whenDo s.ethUp s eventSend)

/-! ### TOKEN_POST and RING_CONS_REREAD (10 R397 to R401) -/

/-- A ring that holds fewer than 131,072 records no longer keeps its sessions out of steps. -/
def State.unfillRing (s : State) (n : Nat) : State :=
  if (SMap.get s.eth.tokens [] n).length < 131072 then
    { s with eth := { s.eth with fullRings := s.eth.fullRings.filter (· ≠ n) } }
  else s

/-- TOKEN_POST: the held records of a ring that it has room for, and the produced count. -/
def tokenPost (n : Nat) (s : State) : State :=
  let held := SMap.get s.eth.tokens [] n
  let now := held.take (s.ringRoom n)
  if s.ringLive n && !now.isEmpty then
    let k := s.fld (Fld.ethRingProd_produced n)
    let new := (now.zip (List.range now.length)).map fun e => (n, k + e.2, e.1)
    let eth := { s.eth with tokens := SMap.put s.eth.tokens n (held.drop now.length), posted := s.eth.posted ++ new }
    let s := { s with eth := eth }.countWrap (Fld.ethRingProd_produced n) now.length
    let s := now.foldl (fun (s : State) (t : TokenRec) => (s.charge t.client lEth 16).charge t.client lTokens 1) s
    ((s.charge sharedAcct lEth 8).ringWrite n k (now.map TokenRec.image) 16).unfillRing n
  else s

/-- TOKEN_POST (R400). -/
def execTokenPost (ring : Nat) (s : State) : Out :=
  onUnit (ring < 255) (whenDo s.portRuns s (tokenPost ring))

/-- RING_CONS_REREAD: a ring without room reads its consumed count, at most once in 875 beats. -/
def ringConsReread (n : Nat) (value : W64) (s : State) : State :=
  let due : Bool := s.ringLive n && s.ringRoom n = 0 &&
    passedSince (if SMap.has s.eth.consBeat n then some (SMap.get s.eth.consBeat 0 n) else none) 875 s.beat
  if due then
    let eth := { s.eth with consumed := SMap.put s.eth.consumed n value.toNat, consBeat := SMap.put s.eth.consBeat n s.beat }
    let q := s.fld (Fld.ethRingCfg_qp n)
    let s := { s with eth := eth }.countWrap Fld.ethRxFrames_count
    let s := s.qpRead q (s.raw (Reg.ethRingCons n)) (BitVec.ofNat 32 (s.fld (Fld.ethRingCfg_rkey n))) 8
    s.qpAnswered q (s.raw (Reg.ethRingCons n))
  else s

/-- RING_CONS_REREAD (R398): `value` is the count that the host's memory holds. -/
def execRingConsReread (ring : Nat) (value : W64) (s : State) : Out :=
  onUnit (ring < 256) (whenDo s.portRuns s (ringConsReread ring value))

end Sys2Proof.Machine
end

