-- ==== Sys2Proof/Machine/Power.lean ====
section
/-!
DEFINITION. Bring-up, reset and power (12 R425 to R429; 14 R479, R480), clocks (12 R432, R433), the power controller (12 R436,
R437), temperature (12 R438, R439) and freeze (12 R445, R446).
-/
namespace Sys2Proof.Machine

/-! ### Power-on, reset, power-off (R425) -/

/-- What a register holds after a reset: ROS and RW1CS fields keep their values, and so does the quote count (11 R409). -/
def keptWord (off : Nat) (w : W64) : W64 :=
  if off = Reg.secQuotes then w
  else
    let m := match regSpec off with
      | some r => r.maskOf [.ros, .rw1cs]
      | none => 0
    (resetWord off &&& ~~~m) ||| (w &&& m)

/-- Register words that outlive a reset. -/
def State.keptRegs (s : State) : State :=
  s.regs.foldl (fun (t : State) (e : Nat × W64) => t.setRaw e.1 (keptWord e.1 e.2)) { s with regs := [] }

/-- What the strongbox keeps. -/
def Sec.kept (x : Sec) : Sec := { minted := x.minted, enrolCount := x.enrolCount, slots := x.slots }

/-- Pages as a reset leaves them: none is held, and each remembers its holder, so that R422 still zeroes it. -/
def VPage.released (x : VPage) : VPage := match x.now with
  | .free => x
  | h => { now := .free, last := h, lastClient := match h with
      | .client c => some c
      | _ => x.lastClient }

/-- Whether a flash write sets a bit of the retired map. -/
def FlashOp.isRetire : FlashOp → Bool
  | .retire _ => true
  | _ => false

/-- Straps are sampled (14 R479). -/
def State.sampleStraps (s : State) (origin : Bool) (pos : BitVec 4) : State :=
  let s := { s with sys := { s.sys with loomOrigin := origin, boardPos := pos } }
  (s.setFld Fld.lnkCoord_boardPos pos.toNat).setFld Fld.lnkCoord_originStrap (if origin then 1 else 0)

/-- The device as it stands at P0, with what outlives power-off. -/
def State.fresh (s : State) : State :=
  { State.reset with pending := s.pending, freeCtr := s.freeCtr, sec := s.sec.kept, cal := s.cal }

/-- POWER_ON: from OFF to P0. -/
def powerOn (origin : Bool) (pos : BitVec 4) (s : State) : State := s.fresh.sampleStraps origin pos

/-- POWER_ON (R425). -/
def execPowerOn (origin : Bool) (boardPos : BitVec 4) (s : State) : Out :=
  .next (whenDo (s.devState = 0) s (powerOn origin boardPos))

/-- RESET: the vault keeps its contents unless a freeze has left them unspecified. -/
def resetDevice (origin : Bool) (pos : BitVec 4) (s : State) : State :=
  let t := s.fresh
  let sys := { t.sys with freezeN := s.sys.freezeN, vddIoOk := s.sys.vddIoOk, tapIr := s.sys.tapIr, tapDr := s.sys.tapDr,
                          tapData := s.sys.tapData }
  let vault := if s.sys.vaultLost then [] else s.vault
  -- DEV_GRADE.RETIRED never falls: the retired cores and the writes of the retired map that are due outlive a reset (R444).
  let cmap : CoreMap := { retired := s.cmap.retired ++ s.cmap.fenced }
  let sec := { t.sec with flash := s.sec.flash.filter FlashOp.isRetire }
  { t with regs := s.keptRegs.regs, sys := sys, vault := vault, vpages := s.vpages.mapVals VPage.released, cmap := cmap,
           sec := sec }.sampleStraps origin pos

/-- RESET (R425). -/
def execReset (origin : Bool) (boardPos : BitVec 4) (s : State) : Out :=
  .next (whenDo (s.devState ≠ 0) s (resetDevice origin boardPos))

/-- Whether the calibration set is being written. -/
def State.writingCal (s : State) : Bool := match s.sec.flash with
  | .calWrite _ _ :: _ => true
  | .retire _ :: _ => true
  | _ => false

/-- POWER_OFF: only the strongbox and the calibration set keep their contents; a set that was being written is left invalid (R443). -/
def powerOff (s : State) : State :=
  let t := s.fresh
  let sys := { t.sys with rails := false, pwrGood := false, resetN := false, vddIoOk := false }
  let t := { t with sys := sys }.setFld Fld.devState_state 0
  if s.writingCal then { t with cal := { t.cal with broken := some t.freeCtr }, freeCtr := t.freeCtr + calSize } else t

/-- POWER_OFF (R425). -/
def execPowerOff (s : State) : Out := .next (powerOff s)

/-- VDD_IO_IN_WINDOW (14 R480): the VID codes are driven, or no longer. -/
def execVddIoInWindow (inWindow : Bool) (s : State) : Out := .next { s with sys := { s.sys with vddIoOk := inWindow } }

/-! ### Freeze (R445, R446) -/

/-- A stack at a freeze: a ready one enters self-refresh. -/
def State.restStack (s : State) (st : Nat) : State :=
  if s.fld (Fld.vltStatus_state st) = 2 then s.setFld (Fld.vltStatus_state st) 3 else s

/-- The device stops and enters FROZEN with a cause. -/
def State.freezeNow (s : State) (cause : Nat) : State :=
  let early : Bool := s.devState = stBringup
  let lost : Bool := early && s.fld Fld.devState_phase ≤ 4
  let s := s.setDevState stFrozen (if early then s.fld Fld.devState_phase else 15) 0
  let s := s.setFld Fld.dbgStatus_cause cause
  let s := (List.range nStacks).foldl State.restStack s
  let s := (List.range nPorts).foldl (fun s p => s.setFld (Fld.lnkPortStatus_state p) pIdle) s
  let s := (s.setFld Fld.ethStatus_state 0).setFld Fld.ethStatus_laneLock 0
  let s := s.drive 3 true
  { s with sys := { s.sys with tclk := false, freezeAsked := false, vaultLost := s.sys.vaultLost || lost } }

/-- Whether a freeze can take effect: the device is neither OFF nor FROZEN. -/
def State.freezable (s : State) : Bool := s.devState ≠ 0 && s.devState ≠ stFrozen

/-- FREEZE: FREEZE_N falls. Before the root PLL has locked the freeze waits for the end of P1. -/
def freeze (s : State) : State :=
  let s := { s with sys := { s.sys with freezeN := false } }
  if s.flag Fld.clkStatus_rootLock then s.freezeNow 1 else { s with sys := { s.sys with freezeAsked := true } }

/-- FREEZE (R445). -/
def execFreeze (s : State) : Out := .next (whenDo s.freezable s freeze)

/-- ROOT_LOCK_LOST (R433): after P1 the device freezes. -/
def execRootLockLost (s : State) : Out :=
  .next (whenDo (s.freezable && s.flag Fld.clkStatus_rootLock) s fun s => (s.freezeNow 3).setFld Fld.clkStatus_rootLock 0)

/-- The trip temperature (14 R490). -/
def tripTemp : Nat := 115

/-- THERM_TRIP: a reading reaches the trip temperature, or the board drives THERM_TRIP_N low. -/
def thermTrip (driven : Option TempSource) (s : State) : State :=
  let s := match driven with
    | some src => s.storeReading src tripTemp
    | none => s
  { s with sys := { s.sys with thermTripN := false } }.freezeNow 2

/-- THERM_TRIP (R439). -/
def execThermTrip (driven : Option TempSource) (s : State) : Out := .next (whenDo s.freezable s (thermTrip driven))

/-- A reading arrives: THERM_WARN and THERMAL_WARN follow it, and one that reaches the trip temperature stops the device (14 R490). In
FROZEN the GPIO still follows a die sensor (12 R440). -/
def thermalWarn (src : TempSource) (temp : Nat) (s : State) : State :=
  if s.sys.tclk then
    let s := s.takeReading src temp
    if tripTemp ≤ temp then thermTrip none s else s
  else
    match src with
    | .die _ =>
      let s := s.storeReading src temp
      s.drive 5 (s.fld Fld.pwrTherm_warn ≤ s.hottest)
    | .stack _ => s

/-- THERMAL_WARN (R438). -/
def execThermalWarn (src : TempSource) (temp : Nat) (s : State) : Out :=
  let ok : Bool := temp < 256 && match src with
    | .die n => n < 256
    | .stack st => st < nStacks
  onUnit ok (whenDo (s.sys.tclk || s.devState = stFrozen) s (thermalWarn src temp))

/-! ### Clocks (R432; 14 R480) -/

/-- VID code of a voltage in mV, clamped. -/
def vidCode (mv lo hi : Nat) : Nat := max lo (min hi ((mv - 500) / 5))

/-- The codes of VDD_CORE and VDD_SRAM for an ACLK point. -/
def State.vidCodes (s : State) (point : Nat) : Nat × Nat :=
  let v := s.cal.volts.getD point (800, 850)
  (vidCode v.1 30 60, vidCode v.2 50 80)

/-- The codes for an ACLK point become those driven. -/
def State.driveVid (s : State) (point : Nat) : State :=
  let v := s.vidCodes point
  { s with sys := { s.sys with vidRamp := none } }.putVid v.1 v.2

/-- The codes set out for those of an ACLK point (R480). -/
def State.rampVid (s : State) (point : Nat) : State :=
  let v := s.vidCodes point
  let r : VidRamp := ⟨s.sys.coreVid, s.sys.sramVid, v.1, v.2, s.beat⟩
  { s with sys := { s.sys with vidRamp := some r } }

/-- ACLK runs at a new point. -/
def State.aclkAt (s : State) (point : Nat) : State := (s.setFld Fld.clkStatus_point point).count Fld.clkCount_transitions

/-- ACLK_TRANSITION: where ACLK is not at the point called for, it stops to change (frequency falls), or VDD_CORE ramps first. -/
def aclkTransition (s : State) : State :=
  let now := s.fld Fld.clkStatus_point
  let due : Bool := s.sys.trans.isNone && s.aclkTarget ≠ now
  if due then
    let t : Trans := { point := s.aclkTarget, rising := s.aclkTarget < now }
    let s := { s with sys := { s.sys with trans := some t, rampEnd := none } }
    if t.rising then (s.setFld Fld.clkStatus_ramping 1).rampVid t.point else s
  else s

/-- Whether the clocks can change: after bring-up, with TCLK running. -/
def State.clocksRun (s : State) : Bool := s.sys.tclk && (s.serving || s.devState = stFaulted)

/-- ACLK_TRANSITION (R432). -/
def execAclkTransition (s : State) : Out := .next (whenDo s.clocksRun s aclkTransition)

/-- ACLK_RESTART: ACLK restarts at its new divider; a fall of frequency is followed by the ramp. -/
def aclkRestart (s : State) : State :=
  match s.sys.trans with
  | some t =>
    if t.rising then
      if t.ramped then ({ s with sys := { s.sys with trans := none } }.aclkAt t.point).settleClock else s
    else if s.flag Fld.clkStatus_ramping then s
    else ((s.aclkAt t.point).setFld Fld.clkStatus_ramping 1).rampVid t.point
  | none => s

/-- ACLK_RESTART (R432). -/
def execAclkRestart (s : State) : Out := .next (whenDo s.clocksRun s aclkRestart)

/-- VDD_RAMP_DONE: VDD_CORE has reached the voltage of the new point. -/
def vddRampDone (s : State) : State :=
  match s.sys.trans with
  | some t =>
    if s.flag Fld.clkStatus_ramping then
      let b := s.beat
      let next := if t.rising then some { t with ramped := true } else none
      let s := (s.setFld Fld.clkStatus_ramping 0).driveVid t.point
      { s with sys := { s.sys with trans := next, rampEnd := some b } }.settleClock
    else s
  | none => s

/-- VDD_RAMP_DONE (R432). -/
def execVddRampDone (s : State) : Out := .next (whenDo s.clocksRun s vddRampDone)

/-! ### The power controller (R436, R437) -/

/-- Trace record of the power controller. -/
def State.powerTrace (s : State) (code value : Nat) : State := s.traceRec 5 code 0xFFFF 0 (leBytes value 8)

/-- The controller acts against an excess of power or heat; `cause` is 1 or 2. -/
def State.throttle (s : State) (cause : Nat) : State :=
  let s := { s with sys := { s.sys with underFrom := none } }
  let k := s.fld Fld.pwrStatus_issueLimit
  if 4 < k then
    let s := { s with sys := { s.sys with powerActs := s.sys.powerActs ++ [PowerAct.issue] } }
    ((s.setFld Fld.pwrStatus_issueLimit (k - 1)).setFld Fld.pwrStatus_cause cause).powerTrace 1 (k - 1)
  else if s.flag Fld.clkPlan_allowDvfs ∧ s.fld Fld.clkStatus_point < 2 then
    let s := { s with sys := { s.sys with powerActs := s.sys.powerActs ++ [PowerAct.aclk] } }
    (s.setFld Fld.pwrStatus_cause cause).powerTrace 2 s.aclkTarget
  else (s.setFld Fld.pwrStatus_capUnmet 1).powerTrace 3 1

/-- Actions without one ACLK step, or without one step of the issue limit where there is none. -/
def undoAct (acts : List PowerAct) : List PowerAct :=
  if acts.contains PowerAct.aclk then acts.erase PowerAct.aclk else acts.erase PowerAct.issue

/-- The controller undoes its last action, ACLK first. -/
def State.recover (s : State) : State :=
  let k := s.fld Fld.pwrStatus_issueLimit
  let clock : Bool := s.sys.powerActs.contains PowerAct.aclk
  let acts := undoAct s.sys.powerActs
  let b := s.beat
  let s := { s with sys := { s.sys with powerActs := acts, underFrom := some b } }
  let s := if clock then s.powerTrace 2 s.aclkTarget else (s.setFld Fld.pwrStatus_issueLimit (min 8 (k + 1))).powerTrace 1 (min 8 (k + 1))
  if acts.isEmpty then s.setFld Fld.pwrStatus_cause 0 else s

/-- The controller finds the device under its cap with the hysteresis, and cool. -/
def State.underCap (s : State) : State :=
  match s.sys.underFrom with
  | none =>
    let b := s.beat
    { s with sys := { s.sys with underFrom := some b } }
  | some b => if b + s.fld Fld.pwrCtrl_recover ≤ s.beat ∧ s.sys.powerActs ≠ [] then s.recover else s

/-- Whether an evaluation acts: no transition is under way, and its window began after the end of the last ramp. -/
def State.evaluates (s : State) : Bool :=
  s.sys.trans.isNone && s.aclkTarget = s.fld Fld.clkStatus_point && match s.sys.rampEnd with
    | some e => e + 1750 < s.beat
    | none => true

/-- POWER_EVALUATION: `watts` is the average over the last 1,750 beats. -/
def powerEvaluation (watts : Nat) (s : State) : State :=
  let s := s.setFld Fld.pwrStatus_power (min watts 65535)
  let cap := s.fld Fld.pwrCap_cap
  let hot : Bool := s.fld Fld.pwrTherm_throttle ≤ s.hottest
  let cool : Bool := s.hottest < s.fld Fld.pwrTherm_throttle - s.fld Fld.pwrTherm_release
  if !s.evaluates then s
  else if cap < watts then s.throttle 1
  else if hot then s.throttle 2
  else if watts + s.fld Fld.pwrCtrl_hyst ≤ cap && cool then s.underCap
  else { s with sys := { s.sys with underFrom := none } }

/-- POWER_EVALUATION (R436, R437). -/
def execPowerEvaluation (watts : Nat) (s : State) : Out :=
  .next (whenDo (s.clocksRun && s.beat % 1750 = 0) s (powerEvaluation watts))

/-! ### Bring-up (R426 to R429, R442; 11 R406; 13 R453) -/

/-- Bring-up holds at its phase. -/
def State.holdPhase (s : State) : State := { s with sys := { s.sys with bringupHeld := true } }

def State.toPhase (s : State) (n : Nat) : State := s.setFld Fld.devState_phase n

/-- P1 ends: the root PLL is locked and TCLK runs; a freeze that was asked for takes effect. -/
def State.endP1 (s : State) : State :=
  let s := (s.setFld Fld.clkStatus_rootLock 1).toPhase 2
  let s := { s with sys := { s.sys with tclk := true } }
  if s.sys.freezeAsked then s.freezeNow 1 else s

/-- The bytes of the ROM hash appear in SEC_ROM_HASH. -/
def State.showRomHash (s : State) : State :=
  (List.range 8).foldl (fun s w => s.setRaw (Reg.secRomHash w) (BitVec.ofNat 64 (field (digestBytes Config.romHash) (8 * w) 8))) s

/-- FP32 words of a run. -/
def wordsIn (n : Nat) (bs : Bytes) : List W32 := (pieces 4 n bs).map fun b => BitVec.ofNat 32 (leNat b)

/-- P2 takes the values of a valid set, or the defaults. -/
def State.readCal (s : State) : State :=
  let s := s.setFld Fld.calStatus_writes (s.calField 0x10 4)
  if s.calCheck.isNone then
    let volts := (List.range 3).map fun k => (s.calField (0x12400 + 16 * k) 2, s.calField (0x12402 + 16 * k) 2)
    let weights := (List.range 3).map fun k => wordsIn 5 (s.calBytes (0x12440 + 32 * k) 20)
    { s with cal := { s.cal with volts := volts, weights := weights } }.setFld Fld.calStatus_valid 1
  else
    let cal := { s.cal with volts := (List.range 3).map Config.romVolts, weights := (List.range 3).map Config.romWeights }
    ({ s with cal := cal }.setFld Fld.calStatus_defaults 1).setFld Fld.clkPlan_point 1

/-- P2 ends: the ROM hash matches, the set has been read; otherwise bring-up holds. -/
def State.endP2 (s : State) : State :=
  let s := s.showRomHash
  if Config.romHash = Config.romHashFused then (s.setFld Fld.secStatus_romOk 1).readCal.toPhase 3 else s.holdPhase

/-- Maps the logical cores, in increasing order of the usable physical ones (02 R39), and sets DEV_GRADE. -/
def State.mapCores (s : State) (retired : List Nat) : State :=
  let g := gradeOf (nCores - retired.length)
  let n := gradeCores g
  let usable := (List.range nCores).filter fun p => !retired.contains p
  let s := { s with cmap := { logical := usable.take n, retired := retired } }
  let s := (s.setFld Fld.devGrade_retired retired.length).setFld Fld.devGrade_grade g
  (s.setFld Fld.devGrade_logicalCores n).setFld Fld.devGrade_spares (nCores - n - retired.length)

/-- A core that fails its self-test is retired (13 R460). -/
def State.retireAtP3 (s : State) (p : Nat) : State :=
  let s := (s.logError eCoreRetired p 4 (BitVec.ofNat 64 (0x7FF * 65536 + 0x7FF))).count Fld.errCores_fieldRetired
  { s with sec := { s.sec with flash := s.sec.flash ++ [FlashOp.retire p] } }

/-- P3 ends with the cores whose self-test failed: the map, the grade, and the entries of the error log. -/
def State.endP3 (s : State) (bad : List Nat) : State :=
  let stored := if s.flag Fld.calStatus_valid then s.calRetired else []
  let old := stored ++ s.cmap.retired.filter fun p => !stored.contains p
  let new := (bad.filter fun p => p < nCores && !old.contains p).dedup
  let s := s.mapCores (old ++ new)
  let s := match s.calCheck with
    | some n => s.logError eCalInvalid 0 (BitVec.ofNat 64 n) 0
    | none => s
  (new.foldl State.retireAtP3 s).toPhase 4

/-- P4 ends with the stacks that failed training; a pending wipe writes zero to every line. -/
def State.endP4 (s : State) (bad : List Nat) : State :=
  let s := (List.range nStacks).foldl (fun s st => s.setFld (Fld.vltStatus_state st) (if bad.contains st then stkFailed else 2)) s
  let s := if s.flag Fld.secStatus_wipePending then { s with vault := [] }.setFld Fld.secStatus_wipePending 0 else s
  s.toPhase 5

/-- A port that has not trained, or has heard no HELLO, by the end of P5 is DOWN (06 R231). -/
def State.restPort (s : State) (p : Nat) : State :=
  if s.fld (Fld.lnkPortStatus_bundleUp p) = 0 ∨ !(s.port p).heard then s.setFld (Fld.lnkPortStatus_state p) pDown else s

/-- P5 ends with the trained ports and bundles; the Ethernet port starts auto-negotiation. -/
def State.endP5 (s : State) (up : List (Nat × BitVec 8)) : State :=
  let s := (up.filter fun e => e.1 < nPorts).foldl (fun (s : State) (e : Nat × BitVec 8) => linkTrained e.1 e.2 s) s
  let s := (List.range nPorts).foldl State.restPort s
  let b := s.beat
  { s with sys := { s.sys with retryBeat := some b }, eth := { s.eth with anegFrom := some b } }.toPhase 6

/-- P7 moves ACLK to the plan's point with its voltages, and the first energy interval begins. -/
def State.applySet (s : State) : State :=
  let t := s.aclkTarget
  let s := if s.fld Fld.clkStatus_point = t then s else s.aclkAt t
  let b := s.beat
  { s.driveVid t with ledger := { s.ledger with intervalFrom := b, point := t } }

/-- Stacks that failed training are entered in the error log. -/
def State.noteFailed (s : State) (sts : List Nat) : State :=
  sts.foldl (fun (s : State) st => (s.failStack st 3 0).setStack st { s.stack st with failNote := none }) s

/-- P7 ends: READY, and a device strapped as origin starts discovery (06 R233); or FAULTED where a stack is FAILED. -/
def State.endP7 (s : State) : State :=
  let s := s.applySet
  let failed := (List.range nStacks).filter fun st => s.fld (Fld.vltStatus_state st) = stkFailed
  if failed.isEmpty then
    let s := s.changeState stReady 15 0
    if s.sys.loomOrigin then s.startDiscovery none else s
  else
    let n := s.fld Fld.errStatus_next
    (s.noteFailed failed).deviceFault (BitVec.ofNat 64 n)

/-- PHASE_DONE: the phase that runs ends with what it found. -/
def phaseDone (r : PhaseResult) (s : State) : State :=
  let failed : Bool := r = .fail
  match s.fld Fld.devState_phase with
  | 0 => if failed then s.holdPhase else s.toPhase 1
  | 1 => if failed then s.holdPhase else s.endP1
  | 2 => if failed then s.holdPhase else s.endP2
  | 3 => s.endP3 (match r with
    | .coreFails bad => bad
    | _ => [])
  | 4 => s.endP4 (match r with
    | .stackFails bad => bad
    | _ => [])
  | 5 => s.endP5 (match r with
    | .portsUp up => up
    | _ => [])
  | 6 => s.toPhase 7
  | _ => s.endP7

/-- PHASE_DONE (R426). -/
def execPhaseDone (r : PhaseResult) (s : State) : Out :=
  .next (whenDo (s.devState = stBringup && !s.sys.bringupHeld) s (phaseDone r))

end Sys2Proof.Machine
end

