-- ==== Sys2Proof/Machine/Scalar.lean ====
section
/-!
DEFINITION. Scalar and branch instructions (04 R128, R129).
-/
namespace Sys2Proof.Machine

/-- Every SCL operation with two sources: gA takes `f gB src` (R128). No SCL operation faults by itself. -/
def sclOp (f : W64 → W64 → W64) (p t : Nat) (w : IWord) (s : State) : Out :=
  issue p t (unused w true true true 0b000001 0xFFFFFFFF) none
    (fun s' => s'.wg p t w.a (f (s.rg p t w.b) (sclSrc s p t w))) s

/-- gA becomes gB plus the source, modulo 2^64 (R128). -/
def sclAddValue (b x : W64) : W64 := b + x

/-- SCL.ADD (R128). -/
def execSclAdd (p t : Nat) (w : IWord) (s : State) : Out := sclOp sclAddValue p t w s

/-- gA becomes gB minus the source, modulo 2^64 (R128). -/
def sclSubValue (b x : W64) : W64 := b - x

/-- SCL.SUB (R128). -/
def execSclSub (p t : Nat) (w : IWord) (s : State) : Out := sclOp sclSubValue p t w s

/-- gA becomes the low 64 bits of the product (R128). -/
def sclMulValue (b x : W64) : W64 := b * x

/-- SCL.MUL (R128). -/
def execSclMul (p t : Nat) (w : IWord) (s : State) : Out := sclOp sclMulValue p t w s

/-- gA becomes the high 64 bits of the signed product (R128). -/
def sclMulhValue (b x : W64) : W64 := ((b.signExtend 128 * x.signExtend 128).extractLsb' 64 64)

/-- SCL.MULH (R128). -/
def execSclMulh (p t : Nat) (w : IWord) (s : State) : Out := sclOp sclMulhValue p t w s

/-- Bitwise AND (R128). -/
def sclAndValue (b x : W64) : W64 := b &&& x

/-- SCL.AND (R128). -/
def execSclAnd (p t : Nat) (w : IWord) (s : State) : Out := sclOp sclAndValue p t w s

/-- Bitwise OR (R128). -/
def sclOrValue (b x : W64) : W64 := b ||| x

/-- SCL.OR (R128). -/
def execSclOr (p t : Nat) (w : IWord) (s : State) : Out := sclOp sclOrValue p t w s

/-- Bitwise XOR (R128). -/
def sclXorValue (b x : W64) : W64 := b ^^^ x

/-- SCL.XOR (R128). -/
def execSclXor (p t : Nat) (w : IWord) (s : State) : Out := sclOp sclXorValue p t w s

/-- Left shift by src[5:0] (R128). -/
def sclShlValue (b x : W64) : W64 := b <<< (x.toNat % 64)

/-- SCL.SHL (R128). -/
def execSclShl (p t : Nat) (w : IWord) (s : State) : Out := sclOp sclShlValue p t w s

/-- Logical right shift by src[5:0] (R128). -/
def sclShrValue (b x : W64) : W64 := b >>> (x.toNat % 64)

/-- SCL.SHR (R128). -/
def execSclShr (p t : Nat) (w : IWord) (s : State) : Out := sclOp sclShrValue p t w s

/-- Arithmetic right shift by src[5:0] (R128). -/
def sclSraValue (b x : W64) : W64 := b.sshiftRight (x.toNat % 64)

/-- SCL.SRA (R128). -/
def execSclSra (p t : Nat) (w : IWord) (s : State) : Out := sclOp sclSraValue p t w s

/-- Signed minimum (R128). -/
def sclMinValue (b x : W64) : W64 := if b.slt x then b else x

/-- SCL.MIN (R128). -/
def execSclMin (p t : Nat) (w : IWord) (s : State) : Out := sclOp sclMinValue p t w s

/-- Signed maximum (R128). -/
def sclMaxValue (b x : W64) : W64 := if b.slt x then x else b

/-- SCL.MAX (R128). -/
def execSclMax (p t : Nat) (w : IWord) (s : State) : Out := sclOp sclMaxValue p t w s

/-- Unsigned minimum (R128). -/
def sclMinuValue (b x : W64) : W64 := if b.ult x then b else x

/-- SCL.MINU (R128). -/
def execSclMinu (p t : Nat) (w : IWord) (s : State) : Out := sclOp sclMinuValue p t w s

/-- Unsigned maximum (R128). -/
def sclMaxuValue (b x : W64) : W64 := if b.ult x then x else b

/-- SCL.MAXU (R128). -/
def execSclMaxu (p t : Nat) (w : IWord) (s : State) : Out := sclOp sclMaxuValue p t w s

/-- 1 if gB is less than the source, signed (R128). -/
def sclSltValue (b x : W64) : W64 := if b.slt x then 1 else 0

/-- SCL.SLT (R128). -/
def execSclSlt (p t : Nat) (w : IWord) (s : State) : Out := sclOp sclSltValue p t w s

/-- 1 if gB is less than the source, unsigned (R128). -/
def sclSltuValue (b x : W64) : W64 := if b.ult x then 1 else 0

/-- SCL.SLTU (R128). -/
def execSclSltu (p t : Nat) (w : IWord) (s : State) : Out := sclOp sclSltuValue p t w s

/-- SCL.LI (R128): gA becomes EXT. -/
def execSclLi (p t : Nat) (w : IWord) (x : W64) (s : State) : Out :=
  issueX p t (unused w true false false 0 0) none (fun s' => s'.wg p t w.a x) s

/-- Target of a PC-relative jump: PC + 8 × IMM (R128). -/
def brTarget (s : State) (p t : Nat) (w : IWord) : W64 := (s.thread p t).pc + 8 * immS w

/-- PC_ADDR where a taken branch's target is outside the code image or not a multiple of 8 (R129). -/
def targetCodes (s : State) (p : Nat) (target : W64) : List Nat :=
  codeIf (s.codeSize p ≤ target.toNat || target.toNat % 8 ≠ 0) fPcAddr

/-- The PC of a thread becomes `target`. -/
def State.jump (s : State) (p t : Nat) (target : W64) : State := s.modThread p t fun th => { th with pc := target }

/-- Every conditional branch: taken when `c gA gB` (R128, R129). -/
def brOp (c : W64 → W64 → Bool) (p t : Nat) (w : IWord) (s : State) : Out :=
  let taken := c (s.rg p t w.a) (s.rg p t w.b)
  issue p t (unused w true true false 0 0xFFFFFFFF ++ (if taken then targetCodes s p (brTarget s p t w) else [])) none
    (fun s' => if taken then s'.jump p t (brTarget s p t w) else s') s

/-- BR.J (R128). -/
def execBrJ (p t : Nat) (w : IWord) (s : State) : Out :=
  issue p t (unused w false false false 0 0xFFFFFFFF ++ targetCodes s p (brTarget s p t w)) none
    (fun s' => s'.jump p t (brTarget s p t w)) s

/-- BR.BEQ (R128): jumps if gA = gB. -/
def execBrBeq (p t : Nat) (w : IWord) (s : State) : Out := brOp (fun a b => a == b) p t w s

/-- BR.BNE (R128): jumps if gA ≠ gB. -/
def execBrBne (p t : Nat) (w : IWord) (s : State) : Out := brOp (fun a b => a != b) p t w s

/-- BR.BLT (R128): jumps if gA < gB, signed. -/
def execBrBlt (p t : Nat) (w : IWord) (s : State) : Out := brOp (fun a b => a.slt b) p t w s

/-- BR.BGE (R128): jumps if gA ≥ gB, signed. -/
def execBrBge (p t : Nat) (w : IWord) (s : State) : Out := brOp (fun a b => !a.slt b) p t w s

/-- BR.BLTU (R128): jumps if gA < gB, unsigned. -/
def execBrBltu (p t : Nat) (w : IWord) (s : State) : Out := brOp (fun a b => a.ult b) p t w s

/-- BR.BGEU (R128): jumps if gA ≥ gB, unsigned. -/
def execBrBgeu (p t : Nat) (w : IWord) (s : State) : Out := brOp (fun a b => !a.ult b) p t w s

/-- BR.CALL (R128): gA becomes PC + 8, then the jump of BR.J. -/
def execBrCall (p t : Nat) (w : IWord) (s : State) : Out :=
  issue p t (unused w true false false 0 0xFFFFFFFF ++ targetCodes s p (brTarget s p t w)) none
    (fun s' => (s'.wg p t w.a ((s.thread p t).pc + 8)).jump p t (brTarget s p t w)) s

/-- BR.JR (R128): PC becomes gA. -/
def execBrJr (p t : Nat) (w : IWord) (s : State) : Out :=
  issue p t (unused w true false false 0 0 ++ targetCodes s p (s.rg p t w.a)) none
    (fun s' => s'.jump p t (s.rg p t w.a)) s

end Sys2Proof.Machine
end

