-- ==== Sys2Proof/Machine/Stacks.lean ====
section
/-!
DEFINITION. STACK_REQUEST (05 R187, R188): a stack serves the request at the head of its queue.
-/
namespace Sys2Proof.Machine

/-- One request is served. A teller instruction of a running command that reads a host-backed page waits for it (log 28). -/
def State.serveWork (s : State) (st : Nat) (w : VaultWork) : State :=
  match w with
  | .xfer p n start => s.serveXfer p n start s.lineErrs
  | .tel p job =>
    match s.telHost p job st with
    | some e => s.awaitPage e.1 e.2 st w
    | none => s.serveTel p job st s.lineErrs
  | .attn p job =>
    match s.attnHost p job st with
    | some e => s.awaitPage e.1 e.2 st w
    | none => s.serveAttn p job st s.lineErrs
  | .rmt h data => s.rmtServe h data
  | .own o h data => s.ownServe o h data
  | .inject port => s.injectNow port
  | .recall m => s.recallNow m

/-- STACK_REQUEST: the request at the head of the queue leaves it and is served. -/
def stackRequest (st : Nat) (errs : List LineErr) (s : State) : State :=
  let s := { s with lineErrs := errs }
  match (s.stack st).queue with
  | [] => s
  | w :: rest => ((s.setStack st { s.stack st with queue := rest, idleFrom := s.beat }).serveWork st w).settleStacks

/-- STACK_REQUEST. -/
def execStackRequest (st : Nat) (errs : List LineErr) (s : State) : Out :=
  onUnit (st < nStacks) (whenDo s.sys.tclk s (stackRequest st errs))

end Sys2Proof.Machine
end

