-- ==== Sys2Proof/Machine/TestPort.lean ====
section
/-!
DEFINITION. The test port and its instruments (12 R447 to R449; 11 R404, R421), the trace trigger input (12 R451), and the
clerks' watchdogs (13 R457 to R459).
-/
namespace Sys2Proof.Machine

/-! ### Test port instructions (R447) -/

/-- The IDCODE: 0xS000_2BA3. -/
def idCode : W64 := BitVec.ofNat 64 (Config.stepMajor.toNat * 2 ^ 28 + 0x2BA3)

/-- The instruction register and the data that it selects. -/
def State.tap (s : State) (ir : Nat) (dr : W64) (data : Bytes) : State :=
  { s with sys := { s.sys with tapIr := ir, tapDr := dr, tapData := data } }

/-- IDCODE (R447). -/
def execIdcode (s : State) : Out := .next (whenDo s.sys.rails s fun s => s.tap 0x01 idCode [])

/-- SAMPLE/PRELOAD (R447): the boundary register takes the pins, in an order that the spec does not give. -/
def execSamplePreload (s : State) : Out :=
  .next (whenDo s.sys.rails s fun s =>
    let f := s.freeWord
    f.2.tap 0x02 f.1 [])

/-- EXTEST (R447): while RESET_N is low, the boundary register drives the pins. -/
def execExtest (s : State) : Out := .next (whenDo (!s.sys.resetN) s fun s => s.tap 0x03 s.sys.tapDr [])

/-- BYPASS (R447). -/
def execBypass (s : State) : Out := .next (whenDo s.sys.rails s fun s => s.tap 0xFF 0 [])

/-- TRST_N (14 R488): the test port returns to its reset state. -/
def execTrstN (s : State) : Out := .next (s.tap 0x01 idCode [])

/-! ### Instruments (R448, R449) -/

/-- Eight accumulator bytes of core `p` at an offset from the start of its accumulators, 0x8_0000 in its window (02 R52). -/
def Core.accBytes (c : Core) (off : Nat) : Bytes := (List.range 8).map fun i => c.accByte (0x80000 + off + i)

/-- Puts an entry of an accumulator row: the row then reads as its entries, those of a clear one as +0.0 (02 R52, R53; log 134). -/
def Engine.putEntry (x : Engine) (i : Nat) (v : W32) : Engine :=
  let r := i / 128
  let row := SMap.get x.rows {} r
  let acc := if row.fresh then (List.range 128).foldl (fun m c => SMap.del m (128 * r + c)) x.acc else x.acc
  { x with acc := SMap.set acc 0 i v, rows := SMap.put x.rows r { row with fresh := false } }

/-- Puts an accumulator entry of core `p` by its offset. -/
def Core.putAcc (c : Core) (off : Nat) (v : W32) : Core :=
  if off < 0x20000 then { c with eng0 := c.eng0.putEntry (off / 4) v }
  else { c with eng1 := c.eng1.putEntry (off % 0x20000 / 4) v }

/-- A write of accumulators through the window of core `p`, which only the test port does (02 R52; 03 R79). -/
def State.writeAcc (s : State) (p off : Nat) (bs : Bytes) : State :=
  s.modCore p fun c =>
    ((pieces 4 (bs.length / 4) bs).zip (List.range (bs.length / 4))).foldl
      (fun (c : Core) (e : Bytes × Nat) => c.putAcc (off + 4 * e.2) (BitVec.ofNat 32 (leNat e.1))) c

/-- Eight bytes read as a word. -/
def wordOf (bs : Bytes) : W64 := BitVec.ofNat 64 (leNat bs)

/-- What a data instrument reads in FROZEN; with TEST_LOCK, spools, accumulators, planes and FIFOs read as zeros (11 R421). -/
def State.instrument (s : State) (i : Instrument) : State × W64 :=
  let locked := s.flag Fld.secCtrl_testLock
  match i with
  | .reg off => (s, s.readReg off)
  | .scan .strongbox => (s, 0)
  | .scan .other => (s.freeWord.2, s.freeWord.1)
  | .scan _ => if locked then (s, 0) else (s.freeWord.2, s.freeWord.1)
  | .spool p off => (s, if locked then 0 else wordOf ((s.core p).spool.bytes off 8))
  | .acc p off => (s, if locked then 0 else wordOf ((s.core p).accBytes off))
  | .accWrite p off bs => (s.writeAcc p off bs, 0)
  | .plane p n off => (s, if locked then 0 else wordOf (cut ((s.core p).plane n).image off 8))
  | .fifo p n off => (s, if locked then 0 else wordOf (cut (((s.core p).fifo[n]?).map (·.image) |>.getD []) off 8))
  | .trace off => (s, wordOf (s.trace.bytes off 8))
  | .vault => (s, 0)

/-- The VAULT instrument enters read-out mode. -/
def State.enterReadout (s : State) : State :=
  let ok : Bool := !s.flag Fld.secCtrl_testLock && s.fld Fld.dbgStatus_cause ≠ 3
  if ok then
    let s := (List.range nStacks).foldl (fun s st =>
      if s.fld (Fld.vltStatus_state st) = 3 then s.setFld (Fld.vltStatus_state st) 4 else s) s
    s.setFld Fld.dbgStatus_readout 1
  else s

/-- IJTAG: a register in any state, everything else only in FROZEN. -/
def ijtag (i : Instrument) (s : State) : State :=
  let open_ : Bool := s.devState = stFrozen || match i with
    | .reg _ => true
    | _ => false
  if open_ then
    let r := s.instrument i
    let s := r.1.tap 0x20 r.2 []
    match i with
    | .vault => s.enterReadout
    | _ => s
  else s.tap 0x20 0 []

/-- IJTAG (R448). -/
def execIjtag (i : Instrument) (s : State) : Out :=
  let ok : Bool := match i with
    | .spool p _ => p < nCores
    | .acc p off => p < nCores && off + 8 ≤ 0x40000
    | .accWrite p off bs => p < nCores && off % 4 = 0 && bs.length % 4 = 0 && off + bs.length ≤ 0x40000
    | .plane p _ _ => p < nCores
    | .fifo p _ _ => p < nCores
    | _ => true
  onUnit ok (whenDo s.sys.rails s (ijtag i))

/-- A line as read-out mode decodes it, with what the decoding counts and logs (05 R210, R211): its bytes, none where it is
uncorrectable, and the status 0, 1 or 2. A stack that fails now does not fault the device, which stays FROZEN (12 R446). -/
def State.readoutLine (s : State) (line : Nat) (errs : List LineErr) : State × Option Bytes × Nat :=
  let r := (s.countRead (stackOf (64 * line)) 64).decodeLine line errs .other
  let t := { r.1 with vstacks := s.vstacks }
  match r.2 with
  | .bad _ => (t, none, 2)
  | .ok fixes => (t, some (s.lineBytes line (errOf errs line).syms fixes), if fixes.isEmpty then 0 else 1)

/-- VAULT_READOUT: 64 bytes and their status. Contents that are unspecified are free values. -/
def vaultReadout (addr : Nat) (errs : List LineErr) (s : State) : State :=
  let r := s.readoutLine (addr / 64) errs
  match r.2.1, s.sys.vaultLost with
  | some bs, false => r.1.tap 0x20 (BitVec.ofNat 64 r.2.2) bs
  | _, _ =>
    let f := r.1.freeBytes 64
    f.2.tap 0x20 (BitVec.ofNat 64 r.2.2) f.1

/-- VAULT_READOUT (R449). -/
def execVaultReadout (addr : Nat) (errs : List LineErr) (s : State) : Out :=
  onUnit (addr % 64 = 0 && addr < 2 ^ 40)
    (whenDo (s.devState = stFrozen && s.flag Fld.dbgStatus_readout) s (vaultReadout addr errs))

/-! ### TRACE_TRIG_IN (R440, R451) -/

/-- Partition `i` is triggered from outside. -/
def State.trigExt (s : State) (i : Nat) : State :=
  if s.tracing i && s.flag (Fld.dbgTraceCfg_trigExt i) then
    let s := s.traceTrigger i (s.fld (Fld.dbgTracePos_index i))
    let stop : Bool := s.fld (Fld.dbgTraceCfg_mode i) = 2 && SMap.get s.traceLeft 0 i = 0
    if stop then s.setFld (Fld.dbgTracePos_stopped i) 1 else s
  else s

/-- TRACE_TRIG_IN (R451): a rising edge on a GPIO that is claimed for it. -/
def execTraceTrigIn (gpio : Nat) (s : State) : Out :=
  onUnit (gpio < 8) (whenDo (s.sys.tclk && (s.gpiosFor 1).getLsbD gpio) s fun s => (List.range 8).foldl State.trigExt s)

/-! ### Clerks (13 R457 to R459) -/

def State.clerk (s : State) (c : Nat) : Clerk := SMap.get s.clerks {} c

/-- Live clerks. -/
def State.liveClerks (s : State) : List Nat := (List.range 16).filter fun c => (s.fld Fld.errClerks_alive).testBit c

/-- A clerk fails: the lowest live clerk takes its journal; fewer than 12 left fault the device. -/
def State.clerkFails (s : State) (c : Nat) : State :=
  let s := s.setFld Fld.errClerks_failed (s.fld Fld.errClerks_failed ||| 2 ^ c)
  let s := s.setFld Fld.errClerks_alive (s.fld Fld.errClerks_alive &&& (65535 - 2 ^ c))
  let live := s.liveClerks
  let n := s.fld Fld.errStatus_next
  let s := s.logError eClerkFailed c (BitVec.ofNat 64 (live.headD 0)) (BitVec.ofNat 64 live.length)
  if live.length < 12 then s.deviceFault (BitVec.ofNat 64 n) else s

/-- CLERK_WATCHDOG: the clerk restarts and replays its journal; its third restart in 175,000,000 beats is its failure, and a journal
that fails its parity faults the device. -/
def clerkWatchdog (c : Nat) (parityOk : Bool) (s : State) : State :=
  let b := s.beat
  let x := s.clerk c
  let recent := (x.restarts.filter fun (r : Int) => (b : Int) < r + 175000000) ++ [(b : Int)]
  let s := { s with clerks := SMap.put s.clerks c { x with restarts := recent, open_ := 0 } }
  let s := s.count Fld.errClerks_restarts
  let s := s.logError eClerkRestart c (BitVec.ofNat 64 x.open_) (BitVec.ofNat 64 recent.length)
  let s := if 3 ≤ recent.length then s.clerkFails c else s
  if parityOk then s else s.deviceFault (BitVec.allOnes 64)

/-- CLERK_WATCHDOG (13 R458, R459). -/
def execClerkWatchdog (clerk : Nat) (parityOk : Bool) (s : State) : Out :=
  onUnit (clerk < 16) (whenDo (s.sys.tclk && s.liveClerks.contains clerk) s (clerkWatchdog clerk parityOk))

end Sys2Proof.Machine
end

