-- ==== Sys2Proof/Machine/Dispatch.lean ====
section
/-! DEFINITION. The dispatch: one arm for each command of the table, each one call of that command's meaning. -/
namespace Sys2Proof.Machine

def exec (i : Instr) (s : State) : Host.Outcome State Fault Refusal :=
  match i with
  | .sclAdd p t w => Sys2Proof.Machine.execSclAdd p t w s
  | .sclSub p t w => Sys2Proof.Machine.execSclSub p t w s
  | .sclMul p t w => Sys2Proof.Machine.execSclMul p t w s
  | .sclMulh p t w => Sys2Proof.Machine.execSclMulh p t w s
  | .sclAnd p t w => Sys2Proof.Machine.execSclAnd p t w s
  | .sclOr p t w => Sys2Proof.Machine.execSclOr p t w s
  | .sclXor p t w => Sys2Proof.Machine.execSclXor p t w s
  | .sclShl p t w => Sys2Proof.Machine.execSclShl p t w s
  | .sclShr p t w => Sys2Proof.Machine.execSclShr p t w s
  | .sclSra p t w => Sys2Proof.Machine.execSclSra p t w s
  | .sclMin p t w => Sys2Proof.Machine.execSclMin p t w s
  | .sclMax p t w => Sys2Proof.Machine.execSclMax p t w s
  | .sclMinu p t w => Sys2Proof.Machine.execSclMinu p t w s
  | .sclMaxu p t w => Sys2Proof.Machine.execSclMaxu p t w s
  | .sclSlt p t w => Sys2Proof.Machine.execSclSlt p t w s
  | .sclSltu p t w => Sys2Proof.Machine.execSclSltu p t w s
  | .sclLi p t w x => Sys2Proof.Machine.execSclLi p t w x s
  | .brJ p t w => Sys2Proof.Machine.execBrJ p t w s
  | .brBeq p t w => Sys2Proof.Machine.execBrBeq p t w s
  | .brBne p t w => Sys2Proof.Machine.execBrBne p t w s
  | .brBlt p t w => Sys2Proof.Machine.execBrBlt p t w s
  | .brBge p t w => Sys2Proof.Machine.execBrBge p t w s
  | .brBltu p t w => Sys2Proof.Machine.execBrBltu p t w s
  | .brBgeu p t w => Sys2Proof.Machine.execBrBgeu p t w s
  | .brCall p t w => Sys2Proof.Machine.execBrCall p t w s
  | .brJr p t w => Sys2Proof.Machine.execBrJr p t w s
  | .splLd p t w => Sys2Proof.Machine.execSplLd p t w s
  | .splLds p t w => Sys2Proof.Machine.execSplLds p t w s
  | .splSt p t w => Sys2Proof.Machine.execSplSt p t w s
  | .splAcc p t w => Sys2Proof.Machine.execSplAcc p t w s
  | .sltBind p t w => Sys2Proof.Machine.execSltBind p t w s
  | .sltUnbind p t w => Sys2Proof.Machine.execSltUnbind p t w s
  | .sltState p t w => Sys2Proof.Machine.execSltState p t w s
  | .sltFill p t w => Sys2Proof.Machine.execSltFill p t w s
  | .sltRel p t w => Sys2Proof.Machine.execSltRel p t w s
  | .strArm p t w => Sys2Proof.Machine.execStrArm p t w s
  | .strCancel p t w => Sys2Proof.Machine.execStrCancel p t w s
  | .strWait p t w => Sys2Proof.Machine.execStrWait p t w s
  | .strDld p t w => Sys2Proof.Machine.execStrDld p t w s
  | .strDset p t w => Sys2Proof.Machine.execStrDset p t w s
  | .strStatus p t w => Sys2Proof.Machine.execStrStatus p t w s
  | .engLdw p t w => Sys2Proof.Machine.execEngLdw p t w s
  | .engMm p t w x => Sys2Proof.Machine.execEngMm p t w x s
  | .engConv p t w x => Sys2Proof.Machine.execEngConv p t w x s
  | .engDrn p t w x => Sys2Proof.Machine.execEngDrn p t w x s
  | .engFence p t w => Sys2Proof.Machine.execEngFence p t w s
  | .vecLd p t w => Sys2Proof.Machine.execVecLd p t w s
  | .vecSt p t w => Sys2Proof.Machine.execVecSt p t w s
  | .vecAdd p t w => Sys2Proof.Machine.execVecAdd p t w s
  | .vecSub p t w => Sys2Proof.Machine.execVecSub p t w s
  | .vecMul p t w => Sys2Proof.Machine.execVecMul p t w s
  | .vecFma p t w => Sys2Proof.Machine.execVecFma p t w s
  | .vecMax p t w => Sys2Proof.Machine.execVecMax p t w s
  | .vecMin p t w => Sys2Proof.Machine.execVecMin p t w s
  | .vecCmp p t w => Sys2Proof.Machine.execVecCmp p t w s
  | .vecSel p t w => Sys2Proof.Machine.execVecSel p t w s
  | .vecExp p t w => Sys2Proof.Machine.execVecExp p t w s
  | .vecLog p t w => Sys2Proof.Machine.execVecLog p t w s
  | .vecRcp p t w => Sys2Proof.Machine.execVecRcp p t w s
  | .vecRsqrt p t w => Sys2Proof.Machine.execVecRsqrt p t w s
  | .vecTanh p t w => Sys2Proof.Machine.execVecTanh p t w s
  | .vecSig p t w => Sys2Proof.Machine.execVecSig p t w s
  | .vecRsum p t w => Sys2Proof.Machine.execVecRsum p t w s
  | .vecRmax p t w => Sys2Proof.Machine.execVecRmax p t w s
  | .vecBcast p t w => Sys2Proof.Machine.execVecBcast p t w s
  | .vecCvtmx p t w => Sys2Proof.Machine.execVecCvtmx p t w s
  | .vecPhilox p t w => Sys2Proof.Machine.execVecPhilox p t w s
  | .vecI2f p t w => Sys2Proof.Machine.execVecI2f p t w s
  | .vecUnif p t w => Sys2Proof.Machine.execVecUnif p t w s
  | .telAttn p t w => Sys2Proof.Machine.execTelAttn p t w s
  | .telCmd p t w => Sys2Proof.Machine.execTelCmd p t w s
  | .telMerge p t w => Sys2Proof.Machine.execTelMerge p t w s
  | .rmtGet p t w => Sys2Proof.Machine.execRmtGet p t w s
  | .rmtPut p t w => Sys2Proof.Machine.execRmtPut p t w s
  | .rmtAcc p t w => Sys2Proof.Machine.execRmtAcc p t w s
  | .rmtWait p t w => Sys2Proof.Machine.execRmtWait p t w s
  | .barArrive p t w => Sys2Proof.Machine.execBarArrive p t w s
  | .barWait p t w => Sys2Proof.Machine.execBarWait p t w s
  | .barSync p t w => Sys2Proof.Machine.execBarSync p t w s
  | .thrStart p t w => Sys2Proof.Machine.execThrStart p t w s
  | .thrEnd p t w => Sys2Proof.Machine.execThrEnd p t w s
  | .thrJoin p t w => Sys2Proof.Machine.execThrJoin p t w s
  | .thrRds p t w => Sys2Proof.Machine.execThrRds p t w s
  | .cmdBegin p t w => Sys2Proof.Machine.execCmdBegin p t w s
  | .cmdPub p t w => Sys2Proof.Machine.execCmdPub p t w s
  | .cmdCommit p t w => Sys2Proof.Machine.execCmdCommit p t w s
  | .cmdAbort p t w => Sys2Proof.Machine.execCmdAbort p t w s
  | .threadReady p t => Sys2Proof.Machine.execThreadReady p t s
  | .cmdBeginComplete p => Sys2Proof.Machine.execCmdBeginComplete p s
  | .coreReport p => Sys2Proof.Machine.execCoreReport p s
  | .commitDone p => Sys2Proof.Machine.execCommitDone p s
  | .foldDone p => Sys2Proof.Machine.execFoldDone p s
  | .commandAbort p => Sys2Proof.Machine.execCommandAbort p s
  | .slotTimeout p who => Sys2Proof.Machine.execSlotTimeout p who s
  | .accUpdate p e => Sys2Proof.Machine.execAccUpdate p e s
  | .frontDone p => Sys2Proof.Machine.execFrontDone p s
  | .drainDone p e => Sys2Proof.Machine.execDrainDone p e s
  | .engHwFault p e cause => Sys2Proof.Machine.execEngHwFault p e cause s
  | .transferHang p n start => Sys2Proof.Machine.execTransferHang p n start s
  | .spareSubstitution p => Sys2Proof.Machine.execSpareSubstitution p s
  | .keeperRampStep p e => Sys2Proof.Machine.execKeeperRampStep p e s
  | .bankSettled p b => Sys2Proof.Machine.execBankSettled p b s
  | .strTransferIssue p => Sys2Proof.Machine.execStrTransferIssue p s
  | .transferReply p n start => Sys2Proof.Machine.execTransferReply p n start s
  | .stackRequest st errs => Sys2Proof.Machine.execStackRequest st errs s
  | .stackHang st => Sys2Proof.Machine.execStackHang st s
  | .refresh st => Sys2Proof.Machine.execRefresh st s
  | .stackTempChange st temp => Sys2Proof.Machine.execStackTempChange st temp s
  | .scrubLine st err => Sys2Proof.Machine.execScrubLine st err s
  | .telStackReply p job st => Sys2Proof.Machine.execTelStackReply p job st s
  | .attnPartial p job st piece errs => Sys2Proof.Machine.execAttnPartial p job st piece errs s
  | .mergeDone p => Sys2Proof.Machine.execMergeDone p s
  | .flitTx port bundle => Sys2Proof.Machine.execFlitTx port bundle s
  | .flitRx port bundle words spoilt bytes => Sys2Proof.Machine.execFlitRx port bundle words spoilt bytes s
  | .replayTimeout port bundle => Sys2Proof.Machine.execReplayTimeout port bundle s
  | .retrainDone port bundle rtt => Sys2Proof.Machine.execRetrainDone port bundle rtt s
  | .retrainFail port bundle => Sys2Proof.Machine.execRetrainFail port bundle s
  | .idleFlitInsert port => Sys2Proof.Machine.execIdleFlitInsert port s
  | .laneFailure port lane => Sys2Proof.Machine.execLaneFailure port lane s
  | .linkTrained port bundles => Sys2Proof.Machine.execLinkTrained port bundles s
  | .hello port h => Sys2Proof.Machine.execHello port h s
  | .portTrainRetry port => Sys2Proof.Machine.execPortTrainRetry port s
  | .discFlood port f => Sys2Proof.Machine.execDiscFlood port f s
  | .discAnswer port serial accept => Sys2Proof.Machine.execDiscAnswer port serial accept s
  | .discReport port serial reports => Sys2Proof.Machine.execDiscReport port serial reports s
  | .discTimeout port => Sys2Proof.Machine.execDiscTimeout port s
  | .threadPrepare nr nc row col paths rtts => Sys2Proof.Machine.execThreadPrepare nr nc row col paths rtts s
  | .threadCommit n steps replaced => Sys2Proof.Machine.execThreadCommit n steps replaced s
  | .prepareReply op row col answer => Sys2Proof.Machine.execPrepareReply op row col answer s
  | .draftPrepare draft => Sys2Proof.Machine.execDraftPrepare draft s
  | .draftCommit => Sys2Proof.Machine.execDraftCommit s
  | .launchPrepare ask => Sys2Proof.Machine.execLaunchPrepare ask s
  | .launchStart job beat => Sys2Proof.Machine.execLaunchStart job beat s
  | .replacePrepare base mode pkg => Sys2Proof.Machine.execReplacePrepare base mode pkg s
  | .replaceCommit base mode s0 => Sys2Proof.Machine.execReplaceCommit base mode s0 s
  | .jobStop job status => Sys2Proof.Machine.execJobStop job status s
  | .faultFlit port loc => Sys2Proof.Machine.execFaultFlit port loc s
  | .barrierArriveRx port key flags gen => Sys2Proof.Machine.execBarrierArriveRx port key flags gen s
  | .barrierReleaseRx port key flags gen => Sys2Proof.Machine.execBarrierReleaseRx port key flags gen s
  | .barrierTimeout key => Sys2Proof.Machine.execBarrierTimeout key s
  | .beatTimingExchange t0 t1 t2 t3 => Sys2Proof.Machine.execBeatTimingExchange t0 t1 t2 t3 s
  | .beatValue value => Sys2Proof.Machine.execBeatValue value s
  | .startBeatReached => Sys2Proof.Machine.execStartBeatReached s
  | .beatMark => Sys2Proof.Machine.execBeatMark s
  | .routedFlit port type route payload => Sys2Proof.Machine.execRoutedFlit port type route payload s
  | .rmtRequestRx head body errs => Sys2Proof.Machine.execRmtRequestRx head body errs s
  | .rmtResponseRx head body => Sys2Proof.Machine.execRmtResponseRx head body s
  | .rmtTimeout tag => Sys2Proof.Machine.execRmtTimeout tag s
  | .migrateRx m => Sys2Proof.Machine.execMigrateRx m s
  | .passSchedule => Sys2Proof.Machine.execPassSchedule s
  | .passStart m => Sys2Proof.Machine.execPassStart m s
  | .passOpen seq => Sys2Proof.Machine.execPassOpen seq s
  | .warpInject port errs => Sys2Proof.Machine.execWarpInject port errs s
  | .warpFlitRx port route payload => Sys2Proof.Machine.execWarpFlitRx port route payload s
  | .passCloseBound seq => Sys2Proof.Machine.execPassCloseBound seq s
  | .imageDelivery p => Sys2Proof.Machine.execImageDelivery p s
  | .recallRequestRx m errs => Sys2Proof.Machine.execRecallRequestRx m errs s
  | .recallDataRx passSeq index payload => Sys2Proof.Machine.execRecallDataRx passSeq index payload s
  | .recallRefusedRx passSeq index reason => Sys2Proof.Machine.execRecallRefusedRx passSeq index reason s
  | .recallBudgetExpiry passSeq index => Sys2Proof.Machine.execRecallBudgetExpiry passSeq index s
  | .stepCommit base => Sys2Proof.Machine.execStepCommit base s
  | .commandDispatch ctx => Sys2Proof.Machine.execCommandDispatch ctx s
  | .turnExpiry part => Sys2Proof.Machine.execTurnExpiry part s
  | .swapDecision part => Sys2Proof.Machine.execSwapDecision part s
  | .contextResident part => Sys2Proof.Machine.execContextResident part s
  | .saveRemoteDeadline ctx => Sys2Proof.Machine.execSaveRemoteDeadline ctx s
  | .saveDone ctx => Sys2Proof.Machine.execSaveDone ctx s
  | .restore ctx => Sys2Proof.Machine.execRestore ctx s
  | .energyInterval uj => Sys2Proof.Machine.execEnergyInterval uj s
  | .stepRecordWrite => Sys2Proof.Machine.execStepRecordWrite s
  | .useCountHalving => Sys2Proof.Machine.execUseCountHalving s
  | .ethFrameRx f => Sys2Proof.Machine.execEthFrameRx f s
  | .pfcPauseRx cls pause => Sys2Proof.Machine.execPfcPauseRx cls pause s
  | .cnpRx qp => Sys2Proof.Machine.execCnpRx qp s
  | .rateRaise qp => Sys2Proof.Machine.execRateRaise qp s
  | .retryTimeout qp => Sys2Proof.Machine.execRetryTimeout qp s
  | .rnrNakRx qp => Sys2Proof.Machine.execRnrNakRx qp s
  | .rdmaReadResponse seq data => Sys2Proof.Machine.execRdmaReadResponse seq data s
  | .attach srcMac srcIp dstIp psn qps => Sys2Proof.Machine.execAttach srcMac srcIp dstIp psn qps s
  | .ackDeadline seq => Sys2Proof.Machine.execAckDeadline seq s
  | .eventSend => Sys2Proof.Machine.execEventSend s
  | .tokenPost ring => Sys2Proof.Machine.execTokenPost ring s
  | .ringConsReread ring value => Sys2Proof.Machine.execRingConsReread ring value s
  | .autonegTimeout => Sys2Proof.Machine.execAutonegTimeout s
  | .deviceInfo seq => Sys2Proof.Machine.execDeviceInfo seq s
  | .deviceState seq => Sys2Proof.Machine.execDeviceState seq s
  | .regRead seq off count => Sys2Proof.Machine.execRegRead seq off count s
  | .regWrite seq off val mask => Sys2Proof.Machine.execRegWrite seq off val mask s
  | .peakClear seq p val mask => Sys2Proof.Machine.execPeakClear seq p val mask s
  | .rearmLostClear seq p n val mask => Sys2Proof.Machine.execRearmLostClear seq p n val mask s
  | .ringEnable seq ring val mask => Sys2Proof.Machine.execRingEnable seq ring val mask s
  | .ringDisable seq ring val mask => Sys2Proof.Machine.execRingDisable seq ring val mask s
  | .ethAddressWrite seq which val mask => Sys2Proof.Machine.execEthAddressWrite seq which val mask s
  | .testLock seq val mask => Sys2Proof.Machine.execTestLock seq val mask s
  | .lock seq val mask => Sys2Proof.Machine.execLock seq val mask s
  | .alertClear seq val mask => Sys2Proof.Machine.execAlertClear seq val mask s
  | .validClear seq st val mask => Sys2Proof.Machine.execValidClear seq st val mask s
  | .traceEnable seq part val mask => Sys2Proof.Machine.execTraceEnable seq part val mask s
  | .attest seq nonce => Sys2Proof.Machine.execAttest seq nonce s
  | .enrolPublisher seq slot key auth => Sys2Proof.Machine.execEnrolPublisher seq slot key auth s
  | .revokePublisher seq slot auth => Sys2Proof.Machine.execRevokePublisher seq slot auth s
  | .discover seq => Sys2Proof.Machine.execDiscover seq s
  | .threadLoom seq paths => Sys2Proof.Machine.execThreadLoom seq paths s
  | .beatAlign ask => Sys2Proof.Machine.execBeatAlign ask s
  | .loadWarpShard seq base region => Sys2Proof.Machine.execLoadWarpShard seq base region s
  | .loadWeft seq weft client base region => Sys2Proof.Machine.execLoadWeft seq weft client base region s
  | .evict seq mode id => Sys2Proof.Machine.execEvict seq mode id s
  | .replaceWarp seq base mode region => Sys2Proof.Machine.execReplaceWarp seq base mode region s
  | .replaceWeft seq weft source atStep region => Sys2Proof.Machine.execReplaceWeft seq weft source atStep region s
  | .setDraft seq region => Sys2Proof.Machine.execSetDraft seq region s
  | .pageSupply seq weft page region => Sys2Proof.Machine.execPageSupply seq weft page region s
  | .loadProgram seq region => Sys2Proof.Machine.execLoadProgram seq region s
  | .createContext seq program partition cls base client job first count quota region => Sys2Proof.Machine.execCreateContext seq program partition cls base client job first count quota region s
  | .launch seq job => Sys2Proof.Machine.execLaunch seq job s
  | .preempt seq ctx mode => Sys2Proof.Machine.execPreempt seq ctx mode s
  | .resume seq ctx => Sys2Proof.Machine.execResume seq ctx s
  | .destroyContext seq ctx => Sys2Proof.Machine.execDestroyContext seq ctx s
  | .openSession seq client base weft ring maxCtx seed params => Sys2Proof.Machine.execOpenSession seq client base weft ring maxCtx seed params s
  | .feedPrompt seq session count last tokens region => Sys2Proof.Machine.execFeedPrompt seq session count last tokens region s
  | .closeSession seq session => Sys2Proof.Machine.execCloseSession seq session s
  | .migrateSession seq session row col => Sys2Proof.Machine.execMigrateSession seq session row col s
  | .ledgerRead seq account all region => Sys2Proof.Machine.execLedgerRead seq account all region s
  | .ledgerClear seq account all region => Sys2Proof.Machine.execLedgerClear seq account all region s
  | .calRead seq off len => Sys2Proof.Machine.execCalRead seq off len s
  | .calWrite seq region confirm => Sys2Proof.Machine.execCalWrite seq region confirm s
  | .setMode seq exact => Sys2Proof.Machine.execSetMode seq exact s
  | .setPowerPlan seq plan => Sys2Proof.Machine.execSetPowerPlan seq plan s
  | .setClockPlan seq plan => Sys2Proof.Machine.execSetClockPlan seq plan s
  | .claimResource seq kind function index => Sys2Proof.Machine.execClaimResource seq kind function index s
  | .releaseResource seq claim => Sys2Proof.Machine.execReleaseResource seq claim s
  | .powerOn origin boardPos => Sys2Proof.Machine.execPowerOn origin boardPos s
  | .reset origin boardPos => Sys2Proof.Machine.execReset origin boardPos s
  | .phaseDone r => Sys2Proof.Machine.execPhaseDone r s
  | .aclkTransition => Sys2Proof.Machine.execAclkTransition s
  | .aclkRestart => Sys2Proof.Machine.execAclkRestart s
  | .vddRampDone => Sys2Proof.Machine.execVddRampDone s
  | .rootLockLost => Sys2Proof.Machine.execRootLockLost s
  | .powerEvaluation watts => Sys2Proof.Machine.execPowerEvaluation watts s
  | .thermalWarn src temp => Sys2Proof.Machine.execThermalWarn src temp s
  | .thermTrip driven => Sys2Proof.Machine.execThermTrip driven s
  | .freeze => Sys2Proof.Machine.execFreeze s
  | .idcode => Sys2Proof.Machine.execIdcode s
  | .samplePreload => Sys2Proof.Machine.execSamplePreload s
  | .extest => Sys2Proof.Machine.execExtest s
  | .ijtag x => Sys2Proof.Machine.execIjtag x s
  | .bypass => Sys2Proof.Machine.execBypass s
  | .vaultReadout addr errs => Sys2Proof.Machine.execVaultReadout addr errs s
  | .traceTrigIn gpio => Sys2Proof.Machine.execTraceTrigIn gpio s
  | .clerkWatchdog clerk parityOk => Sys2Proof.Machine.execClerkWatchdog clerk parityOk s
  | .prepareAbort op => Sys2Proof.Machine.execPrepareAbort op s
  | .lastRead p slot => Sys2Proof.Machine.execLastRead p slot s
  | .powerOff => Sys2Proof.Machine.execPowerOff s
  | .flashWriteDone => Sys2Proof.Machine.execFlashWriteDone s
  | .quoteSigned => Sys2Proof.Machine.execQuoteSigned s
  | .ethLaneLockChange lanes partner => Sys2Proof.Machine.execEthLaneLockChange lanes partner s
  | .vddIoInWindow inWindow => Sys2Proof.Machine.execVddIoInWindow inWindow s
  | .trstN => Sys2Proof.Machine.execTrstN s

end Sys2Proof.Machine
end

