-- ==== Sys2Proof/Safety.lean ====
section
/-!
DEFINITION. What a safe run is, and the words in which the statements are made: when an instruction issues, what an
instruction or an event leaves alone, and when a Genot command begins at once.
-/
namespace Sys2Proof.Safety
open Sys2Proof.Machine

/-- A run is safe at `s` when the command at the front of the queue names units that exist. -/
def Ready (s : State) : Prop := ∀ c rest, s.pending = c :: rest → c.wf = true

/-! ### Issue of a Poilo instruction (04 R119, R120, R129) -/

/-- Thread `u` of core `p` issues an instruction of `size` bytes: TCLK runs, the core issues, the thread is ready, the
command of the core has begun, and the instruction lies within the code image. -/
def Issues (s : State) (p u size : Nat) : Prop :=
  p < 1232 ∧ u < 8 ∧ s.sys.tclk = true ∧ (s.core p).stopped = false ∧ (s.core p).saving = false ∧
  (s.thread p u).st = .ready ∧ ((s.core p).phase = .dispatched → u ≠ 0) ∧
  (s.thread p u).pc.toNat + size ≤ s.codeSize p

/-- Nothing outside the cores changed. -/
def OutsideCores (s t : State) : Prop := { t with cores := [] } = { s with cores := [] }

/-- No core but `p` changed, nor anything outside the cores. -/
def CoreOnly (s t : State) (p : Nat) : Prop := OutsideCores s t ∧ ∀ q, q ≠ p → t.core q = s.core q

/-- A core without its threads. -/
def unthreaded (c : Core) : Core := { c with threads := [], lastThread := 0 }

/-- Of the threads of core `p` only `u` changed, and it issued last. -/
def OthersIdle (s t : State) (p u : Nat) : Prop :=
  (t.core p).lastThread = u ∧ ∀ v, v ≠ u → t.thread p v = s.thread p v

/-- Only thread `u` of core `p` changed: memory, slots, streams, engines and everything else are as they were. -/
def ThreadOnly (s t : State) (p u : Nat) : Prop :=
  CoreOnly s t p ∧ unthreaded (t.core p) = unthreaded (s.core p) ∧ OthersIdle s t p u

/-- The thread passed an instruction of `size` bytes, and of its other state only its scalar registers may differ. -/
def PassedG (x y : Thread) (size : Nat) : Prop :=
  y.pc = x.pc + BitVec.ofNat 64 size ∧ { y with pc := 0, g := [] } = { x with pc := 0, g := [] }

/-- The thread passed an instruction of `size` bytes, and of its other state only its vector registers may differ. -/
def PassedV (x y : Thread) (size : Nat) : Prop :=
  y.pc = x.pc + BitVec.ofNat 64 size ∧ { y with pc := 0, v := [] } = { x with pc := 0, v := [] }

/-- The thread passed an instruction of `size` bytes, and of its other state only its predicates may differ. -/
def PassedP (x y : Thread) (size : Nat) : Prop :=
  y.pc = x.pc + BitVec.ofNat 64 size ∧ { y with pc := 0, pr := [] } = { x with pc := 0, pr := [] }

/-- The thread passed an instruction of `size` bytes and is otherwise as it was. -/
def Passed (x y : Thread) (size : Nat) : Prop := y = { x with pc := x.pc + BitVec.ofNat 64 size }

/-- Scalar register `a` became `v`, where it is not g0; every other is as it was. -/
def WroteG (x y : Thread) (a : Nat) (v : W64) : Prop :=
  ∀ r, y.rg r = if r = a ∧ r ≠ 0 then v else x.rg r

/-- The effect of an instruction that only writes scalar register `a`. -/
def WritesG (s t : State) (p u size a : Nat) (v : W64) : Prop :=
  ThreadOnly s t p u ∧ PassedG (s.thread p u) (t.thread p u) size ∧ WroteG (s.thread p u) (t.thread p u) a v

/-- The thread passed an instruction of `size` bytes and is otherwise as it was; no other thread, no other core and
nothing outside the cores changed. -/
def RanOn (s t : State) (p u size : Nat) : Prop :=
  CoreOnly s t p ∧ OthersIdle s t p u ∧ Passed (s.thread p u) (t.thread p u) size

/-- Bytes `a` to `a + n - 1` lie in the spool, in banks that are on and settled (03 R78, R85, R86). -/
def SpoolOk (c : Core) (a n : Nat) : Prop :=
  a + n ≤ 0x80000 ∧ c.touchesOff a n = false ∧ c.settlingBank a n = none

/-- The address gB + IMM of the SPL instructions (04 R130). -/
def spl (s : State) (p u : Nat) (w : IWord) : Nat := (s.rg p u w.b + w.imm.signExtend 64).toNat

/-- Outside the threads and the spool, core `p` is as it was. -/
def SpoolRest (c d : Core) : Prop := { unthreaded d with spool := [] } = { unthreaded c with spool := [] }

/-- Outside the threads and the slots, the core is as it was. -/
def SlotRest (c d : Core) : Prop := { unthreaded d with slots := [] } = { unthreaded c with slots := [] }

/-- Outside the threads, the slots and the streams, the core is as it was. -/
def StreamRest (c d : Core) : Prop :=
  { unthreaded d with slots := [], streams := [] } = { unthreaded c with slots := [], streams := [] }

/-- Outside the threads, the slots, the planes, the warp FIFO and the engines, the core is as it was. -/
def EngineRest (c d : Core) : Prop :=
  { unthreaded d with slots := [], planes := [], fifo := [], eng0 := {}, eng1 := {} } =
    { unthreaded c with slots := [], planes := [], fifo := [], eng0 := {}, eng1 := {} }

/-- Slot `n` became `x`; every other slot is as it was. -/
def SlotBecame (c d : Core) (n : Nat) (x : Slot) : Prop := d.slot n = x ∧ ∀ m, m ≠ n → d.slot m = c.slot m

/-- Stream `n` became `x`; every other stream is as it was. -/
def StreamBecame (c d : Core) (n : Nat) (x : Stream) : Prop := d.stream n = x ∧ ∀ m, m ≠ n → d.stream m = c.stream m

/-- The thread faulted with `code` and every thread of its core stopped issuing (04 R166, R167). -/
def Faulted (t : State) (p u code : Nat) : Prop :=
  (t.thread p u).st = .faulted ∧ (t.thread p u).fault = code ∧ (t.core p).stopped = true

/-- The thread waits (04 R120): its PC has not passed the instruction. -/
def WaitsAt (s t : State) (p u : Nat) (w : Wait) : Prop :=
  CoreOnly s t p ∧ unthreaded (t.core p) = unthreaded (s.core p) ∧ (∀ v, v ≠ u → t.thread p v = s.thread p v) ∧
  (t.thread p u).st = .waiting w ∧ (t.thread p u).pc = (s.thread p u).pc ∧
  { t.thread p u with st := .ready, waitBeat := 0, waitTmo := 0 } =
    { s.thread p u with st := .ready, waitBeat := 0, waitTmo := 0 }

/-! ### Tables of the statements: an instruction and what the spec gives it -/

/-- The SCL operations of two sources, each with its result from gB and the source (04 R128). -/
def sclTable : List ((Nat → Nat → IWord → Instr) × (W64 → W64 → W64)) := [
  (.sclAdd, fun b x => BitVec.ofNat 64 (b.toNat + x.toNat)),
  (.sclSub, fun b x => BitVec.ofInt 64 (b.toInt - x.toInt)),
  (.sclMul, fun b x => BitVec.ofNat 64 (b.toNat * x.toNat)),
  (.sclMulh, fun b x => BitVec.ofInt 64 (b.toInt * x.toInt / 2 ^ 64)),
  (.sclAnd, fun b x => b &&& x),
  (.sclOr, fun b x => b ||| x),
  (.sclXor, fun b x => b ^^^ x),
  (.sclShl, fun b x => BitVec.ofNat 64 (b.toNat * 2 ^ (x.toNat % 64))),
  (.sclShr, fun b x => BitVec.ofNat 64 (b.toNat / 2 ^ (x.toNat % 64))),
  (.sclSra, fun b x => BitVec.ofInt 64 (b.toInt / 2 ^ (x.toNat % 64))),
  (.sclMin, fun b x => if b.toInt ≤ x.toInt then b else x),
  (.sclMax, fun b x => if b.toInt ≤ x.toInt then x else b),
  (.sclMinu, fun b x => if b.toNat ≤ x.toNat then b else x),
  (.sclMaxu, fun b x => if b.toNat ≤ x.toNat then x else b),
  (.sclSlt, fun b x => if b.toInt < x.toInt then 1 else 0),
  (.sclSltu, fun b x => if b.toNat < x.toNat then 1 else 0)]

/-- The conditional branches, each with its condition on gA and gB (04 R128). -/
def brTable : List ((Nat → Nat → IWord → Instr) × (W64 → W64 → Bool)) := [
  (.brBeq, fun a b => a.toNat = b.toNat),
  (.brBne, fun a b => a.toNat ≠ b.toNat),
  (.brBlt, fun a b => a.toInt < b.toInt),
  (.brBge, fun a b => b.toInt ≤ a.toInt),
  (.brBltu, fun a b => a.toNat < b.toNat),
  (.brBgeu, fun a b => b.toNat ≤ a.toNat)]

/-- A jump target that the code image allows (04 R129). -/
def TargetOk (s : State) (p : Nat) (x : W64) : Prop := x.toNat < s.codeSize p ∧ x.toNat % 8 = 0

/-- The effect of a jump: only the thread's PC changed, to `x`. -/
def Jumped (s t : State) (p u : Nat) (x : W64) : Prop :=
  ThreadOnly s t p u ∧ t.thread p u = { s.thread p u with pc := x }

/-- The lane-wise vector instructions of one or two sources, each with its result from the lanes of vB and vC
(04 R143 to R145); in the second place, whether vC is a source. -/
def laneTable : List ((Nat → Nat → IWord → Instr) × Bool × (W32 → W32 → W32)) := [
  (.vecAdd, true, fadd), (.vecSub, true, fsub), (.vecMul, true, fmul), (.vecMax, true, fmax), (.vecMin, true, fmin),
  (.vecExp, false, fun x _ => fexp x), (.vecLog, false, fun x _ => flog x), (.vecRcp, false, fun x _ => frcp x),
  (.vecRsqrt, false, fun x _ => frsqrt x), (.vecTanh, false, fun x _ => ftanh x), (.vecSig, false, fun x _ => fsig x),
  (.vecI2f, false, fun x _ => i2f x), (.vecUnif, false, fun x _ => unif x)]

/-- Lane `l` of vector register `a` became `f l` where `mask` selects it; every other lane of every register is as it
was. -/
def WroteV (x y : Thread) (a : Nat) (mask : BitVec 128) (f : Nat → W32) : Prop :=
  ∀ r l, l < 128 → y.lane r l = if r = a ∧ mask.getLsbD l = true then f l else x.lane r l

/-- The effect of an instruction that only writes vector register `a` under a mask. -/
def WritesV (s t : State) (p u a : Nat) (mask : BitVec 128) (f : Nat → W32) : Prop :=
  ThreadOnly s t p u ∧ PassedV (s.thread p u) (t.thread p u) 8 ∧ WroteV (s.thread p u) (t.thread p u) a mask f

/-- The lane mask of a vector instruction: the predicate that MOD[5:3] names (04 R143). -/
def maskOf (s : State) (p u : Nat) (w : IWord) : BitVec 128 := (s.thread p u).rp (w.mod.toNat / 8)

/-! ### Vector memory, engines, tellers -/

/-- Outside the threads, the slots and the spool, the core is as it was. -/
def SlotSpoolRest (c d : Core) : Prop :=
  { unthreaded d with slots := [], spool := [] } = { unthreaded c with slots := [], spool := [] }

/-- Every slot is as it was. -/
def SlotsKept (c d : Core) : Prop := ∀ n, d.slot n = c.slot n

/-- Thread `u` holds slot `n` as its producer or its consumer (04 R132). -/
def HeldBy (c : Core) (n u : Nat) : Prop :=
  ((c.slot n).st = .draining ∨ (c.slot n).st = .filling) ∧ (c.slot n).user = .thread u

/-- The slot of VEC.LD or VEC.ST in its slot form: it is as it was where the thread holds it already, in either direction;
else its state was `first`, and it is now `mine` and held by the thread (04 R132). -/
def VecSlotUsed (c d : Core) (n u : Nat) (first mine : SlotSt) : Prop :=
  (HeldBy c n u ∧ SlotsKept c d) ∨
    ((c.slot n).st = first ∧ SlotBecame c d n { c.slot n with
      st := mine
      user := .thread u })

/-- Elements of `k` bytes at `a`, one for each lane, became `f l` where the mask selects the lane; every other byte of the
spool is as it was. -/
def WroteElems (c d : Core) (a k : Nat) (mask : BitVec 128) (f : Nat → Bytes) : Prop :=
  (∀ l i, l < 128 → i < k → d.spool.byte (a + k * l + i) =
    if mask.getLsbD l = true then (f l).getD i 0 else c.spool.byte (a + k * l + i)) ∧
  ∀ x, x < a ∨ a + 128 * k ≤ x → d.spool.byte x = c.spool.byte x

/-- The narrow rows of an engine that `rows` names became active and owned by thread `u`; they and all others keep the
rest of their state, and every entry keeps its value. -/
def RowsOwned (x y : Engine) (rows : List Nat) (u : Nat) : Prop :=
  y.acc = x.acc ∧ ∀ r, SMap.get y.rows {} r =
    if r ∈ rows then { SMap.get x.rows {} r with st := .active u } else SMap.get x.rows {} r

/-- The column results for one engine among those of a run. -/
def resultsOn (rs : List (Eng × RowRes)) (e : Eng) : List RowRes := (rs.filter fun r => r.1 = e).map (·.2)

/-- An engine after work with rows was queued: `o` stands at the end of its queue, `rows` are active and owned by thread `u`,
and real rows end the keeper's gap (02 R53, R69, R72). -/
def WorkQueued (x y : Engine) (o : EngOp) (rows : List Nat) (u : Nat) : Prop :=
  y.queue = x.queue ++ [o] ∧ y.gapFrom = none ∧ y.keeper = 0 ∧ y.marks = x.marks ∧ RowsOwned x y rows u

/-- Engine `e` after a run with results `rs` was queued, which writes `rows` of each engine: its results stand at the end of
its queue as one entry; an engine without results is as it was. -/
def RunQueued (x y : Engine) (e : Eng) (rs : List (Eng × RowRes)) (rows : Eng → List Nat) (u : Nat) : Prop :=
  if resultsOn rs e = [] then y = x else WorkQueued x y (.run (resultsOn rs e) (allRows rows)) (rows e) u

/-- Engine `e` after a logical-tile run `o` was queued, whose fold steps have the results `rs`: each engine that the run names
holds a front and the rows behind it for every step; on the other, a mark holds the planes that the fronts write (02 R57,
R65, R66). -/
def FoldQueued (x y : Engine) (e : Eng) (o : MmOp) (rs : List (List (Eng × RowRes))) (u : Nat) : Prop :=
  if e ∈ engsOf o.eng then
    WorkQueued x y (.fold (o.eng ≠ 2) (o.foldSteps rs e) (allRows (o.rowsIn o.ltFmt))) (o.rowsIn o.ltFmt e) u
  else y = { x with marks := x.marks ++ [⟨x.queue.length, planesOf o.sel o.ltFmt⟩] }

/-- An engine after a front of `n` ACLK cycles, which writes `planes`, was queued. -/
def FrontQueued (x y : Engine) (n : Nat) (planes : List Nat) : Prop :=
  y.queue = x.queue ++ [.front n planes] ∧ y.rows = x.rows ∧ y.acc = x.acc ∧ y.marks = x.marks

/-- The planes after a load of `image` into plane `n` of both engines (02 R59): a BF16 image takes the pair, the first half of
each cell row in the lower plane and the second in the upper one (02 R493). -/
def PlanesLoaded (c d : Core) (n : Nat) (f : EFmt) (image : Bytes) (src : PlaneSrc) : Prop :=
  ∀ m, d.plane m =
    if m = n then { valid := true, fmt := f, image := if f = .bf16 then bf16Half image false else image, src := src }
    else if f = .bf16 ∧ m = n + 1 then { valid := true, fmt := f, upper := true, image := bf16Half image true, src := src }
    else c.plane m

/-- An engine after a drain was queued: the rows that it takes are draining, and keep the thread that owned them (02 R53). -/
def DrainQueued (x y : Engine) (rows : List Nat) (d : Drain) : Prop :=
  y.queue = x.queue ++ [.drain d] ∧ y.acc = x.acc ∧ y.marks = x.marks ∧
  (∀ r, r ∉ rows → SMap.get y.rows {} r = SMap.get x.rows {} r) ∧
  ∀ r, r ∈ rows → (SMap.get y.rows {} r).fresh = (SMap.get x.rows {} r).fresh ∧
    ∃ o, (SMap.get y.rows {} r).st = .draining o ∧ ∀ v, (SMap.get x.rows {} r).st = .active v ↔ o = some v

/-- One consumption of a slot by the engines began, where the operand is a slot reference. -/
def EngineUses (c d : Core) (isSlot : Bool) (r : W64) : Prop :=
  if isSlot then SlotBecame c d (refSlot r) { c.slot (refSlot r) with
    st := .draining
    user := .engine }
  else SlotsKept c d

/-- Outside the running commands and core `p`, nothing of the device changed. -/
def CommandAndCore (s t : State) (p : Nat) : Prop :=
  { t with cores := [], sched := { t.sched with cmds := [] } } = { s with cores := [], sched := { s.sched with cmds := [] } } ∧
  ∀ q, q ≠ p → t.core q = s.core q

/-- A remote operation of thread `u` of core `p` left for the device at `dst` (04 R151, 06 R240, R242): the lowest free remote tag
holds it, its request messages stand at the end of what goes out and their flits at the end of the ports' queues, and the link
bytes are charged to the client. -/
def RmtSent (s t : State) (dst : Nat × Nat) (p u kind type a off n : Nat) : Prop :=
  ∃ tag fs, tag = freeKey (s.rmt.filter fun e => e.2.isSome) ∧
    fs = rmtFlits dst.1 dst.2
      { addr := BitVec.ofNat 64 a, row := s.loom.row, col := s.loom.col, tag := tag, epoch := (s.core p).epoch,
        op := kind, accType := type, count := 0, total := n, refusal := 0, phase := 0,
        job := (s.ctx (s.core p).ctx).job, client := (s.ctx (s.core p).ctx).client } n
      (if kind = 0 then [] else (s.core p).load off n) ∧
    t.rmt = SMap.put s.rmt tag (some { core := p, thread := u, epoch := (s.core p).epoch, kind := kind, addr := a,
                                       localOff := off, len := n, beat := s.beat }) ∧
    t.loom = { s.loom with out := s.loom.out ++ fs } ∧ t.ports = (s.queueFlits (fs.flatMap s.flitsOf)).ports ∧
    t.ledger = (s.charge (s.ctx (s.core p).ctx).client lLink (240 * fs.length)).ledger ∧
    { t with cores := [], rmt := [], loom := {}, ports := [], ledger := {}, sched := { t.sched with cmds := [] } } =
      { s with cores := [], rmt := [], loom := {}, ports := [], ledger := {}, sched := { s.sched with cmds := [] } }

/-- The command on core `p` becomes side-effecting by a write outside its regions, and is otherwise as it was (04 R160). -/
def SideEffecting (s t : State) (p : Nat) : Prop :=
  match s.cmdOf p with
  | some c => t.sched = if (s.core p).vm1 then s.sched else (s.setCmd (s.core p).cmd { c with side := true }).sched
  | none => t.sched = s.sched

/-! ### Events of a core -/

/-- Only the state of thread `u` of core `p` changed. -/
def ThreadState (s t : State) (p u : Nat) (st : ThreadSt) : Prop :=
  CoreOnly s t p ∧ { t.core p with threads := [] } = { s.core p with threads := [] } ∧
  (∀ v, v ≠ u → t.thread p v = s.thread p v) ∧ t.thread p u = { s.thread p u with st := st }

/-- Core `c` has begun its command (04 R158; 02 R55, 03 R84, R113). -/
def CmdBegun (c d : Core) (strict : Bool) (off : BitVec 8) : Prop :=
  d.phase = .beginning ∧ d.epoch = c.epoch + 1 ∧ d.strict = strict ∧ d.banksOff = off ∧
  (∀ n, (d.slot n).bound = false ∧ (d.slot n).st = .empty) ∧ (∀ n, (d.plane n).valid = false) ∧
  (∀ n, n < 32 → (d.stream n).st ≠ .running ∧ (d.stream n).st ≠ .halted) ∧
  ∀ e, (d.eng e).queue = [] ∧ ∀ r, (SMap.get (d.eng e).rows {} r).st = .clear

/-- Every core of a command is free: it has no command, and its threads are idle (04 R163, R164). -/
def CoresFree (s t : State) (c : RunCmd) : Prop :=
  ∀ q ∈ s.setCores c, (t.core q).phase = .none ∧ (t.core q).stopped = false ∧ ∀ u, (t.thread q u).st = .idle

/-- Outside the engines, core `p` is as it was, and so are the other cores, and everything outside the cores but the
running commands and the counter of free values. -/
def EnginesOnly (s t : State) (p : Nat) : Prop :=
  { t with cores := [], freeCtr := 0, sched := { t.sched with cmds := [] } } =
    { s with cores := [], freeCtr := 0, sched := { s.sched with cmds := [] } } ∧
  (∀ q, q ≠ p → t.core q = s.core q) ∧
  { t.core p with eng0 := {}, eng1 := {}, threads := [] } = { s.core p with eng0 := {}, eng1 := {}, threads := [] }

/-- A new entry of column `col` of narrow row `n` (02 R45): the first accumulation stores the result, a later one adds it. -/
def accumulated (x : Engine) (n : Nat) (isInt : Bool) (v : W32) (col : Nat) : W32 :=
  if (SMap.get x.rows {} n).fresh then v
  else if isInt then (satAdd32 (SMap.get x.acc 0 (128 * n + col)) v).1
  else fadd (SMap.get x.acc 0 (128 * n + col)) v

/-! ### Links and loom -/

/-- Every bundle but bundle `b` of port `p` is as it was. -/
def OtherBundles (s t : State) (p b : Nat) : Prop := ∀ q c, bunId q c ≠ bunId p b → t.bundle q c = s.bundle q c

/-- Nothing but the loom's own record and what it sends changed outside the registers, the trace and the ledger. -/
def LoomOnly (s t : State) : Prop :=
  t.cores = s.cores ∧ t.vault = s.vault ∧ t.sched = s.sched ∧ t.warp = s.warp ∧ t.sessions = s.sessions ∧ t.eth = s.eth ∧
  t.bundles = s.bundles

/-- `ms` stand, in order, at the end of what the loom's clerks have handed to the mesh. -/
def SentLast (s t : State) (ms : List LoomMsg) : Prop := t.loom.out = s.loom.out ++ ms

/-- The device is on the mesh: TCLK runs, and it is READY, THREADED or FAULTED. -/
def Meshed (s : State) : Prop := s.sys.tclk = true ∧ (s.devState = 2 ∨ s.devState = 3 ∨ s.devState = 5)

/-- TCLK runs and the device is THREADED. -/
def Threaded (s : State) : Prop := s.sys.tclk = true ∧ s.devState = 3

/-! ### Vault -/

/-- The vault has room for a session of layout `l` of SERVING context `k`, and for the staging of its row (01 R14, 08 R322). -/
def RoomFor (s : State) (k : Nat) (l : SessLayout) : Prop :=
  let c := s.ctx k
  let rows := (s.openSessions.filter fun e => e.2.client = c.client && e.2.base = c.base).length + 1 + c.prefillMax
  l.frames + (((s.base c.base).model.map (·.layers)).getD 0) * (rows * kvRow c / pageBytes + 2) ≤ 524288

/-- No stack of the vault has failed, and no die is marked. -/
def Healthy (s : State) : Prop :=
  ∀ k, k < 16 → (s.stack k).failNote = none ∧ s.fld (Fld.vltStatus_state k) ≠ 5 ∧ s.marked k = none

/-- Outside the queues of the stacks, the registers, the running commands and the ledger, nothing but core `p` changed. -/
def ServedOn (s t : State) (p : Nat) : Prop :=
  (∀ q, q ≠ p → t.core q = s.core q) ∧ t.warp = s.warp ∧ t.loom = s.loom ∧ t.eth = s.eth ∧ t.sessions = s.sessions

/-- The transfer that starts at element `start` has its reply. -/
def Replied (s t : State) (p n start : Nat) (r : XferReply) : Prop :=
  { t.core p with streams := [] } = { s.core p with streams := [] } ∧
  (∀ m, m ≠ n → (t.core p).stream m = (s.core p).stream m) ∧
  (t.core p).stream n = { (s.core p).stream n with
    out := ((s.core p).stream n).out.map fun o =>
      if o.start = start then { o with served := some s.beat, reply := some r } else o }

/-- A TEL.CMD of a core. -/
def telJob (s : State) (p job : Nat) : Option TelJob := SMap.get ((s.core p).tel.map fun e => (e.1, some e.2)) none job

/-- A TEL.ATTN of a core. -/
def attnJob (s : State) (p job : Nat) : Option AttnJob := SMap.get ((s.core p).attn.map fun e => (e.1, some e.2)) none job

/-! ### Warp -/

/-- A warp flit of pass `x` with index `i` of a half, tainted or not. -/
def IsWarpFlit (f : OutFlit) (x : Pass) (half taint : Bool) (i : Nat) (payload : Bytes) : Prop :=
  f.type = 1 ∧ f.vc = 0 ∧ f.payload = payload ∧ f.route = BitVec.ofNat 27
    ((if half then 2 ^ 26 else 0) + (if taint then 2 ^ 25 else 0) + x.msg.seq % 8 * 2 ^ 22 + i)

/-- Flit `f` stands at the end of the queue of port `p`; the other ports are as they were. -/
def Queued (s t : State) (p : Nat) (f : OutFlit) : Prop :=
  t.port p = { s.port p with txq := (s.port p).txq ++ [f] } ∧ ∀ q, q ≠ p → t.port q = s.port q

/-- The command with `seq` no longer runs. -/
def Ended (t : State) (seq : W64) : Prop := ∀ r ∈ t.eth.running, r.seq ≠ seq

/-! ### Genot commands -/

/-- A command arrives under a new SEQ and may begin at once (10 R379 to R384): the port takes commands, no outcome of the SEQ
is held and it is not below the highest, nothing that runs holds it up, and the device is in one of the states named:
READY, THREADED, FAULTED. -/
def Arrives (s : State) (seq : W64) (ready threaded faulted : Prop) : Prop :=
  s.portTakes = true ∧ seq ≠ 0 ∧ seq.ult s.eth.highest = false ∧ (∀ e ∈ s.eth.outcomes, e.1 ≠ seq) ∧
  (∀ r ∈ s.eth.running, r.seq ≠ seq ∧ r.fresh = false ∧ r.unsettled = false) ∧ s.eth.running.length < 256 ∧
  ((s.devState = 2 ∧ ready) ∨ (s.devState = 3 ∧ threaded) ∨ (s.devState = 5 ∧ faulted))

/-- Registers that a message to the host or its trace record may change: the Ethernet port's and the trace's. -/
def Mail (off : Nat) : Prop := (0x70000 ≤ off ∧ off < 0x80000) ∨ (0xC0000 ≤ off ∧ off < 0xD0000)

/-- Of the state without the registers, nothing changed but the Ethernet port, the accounts and the trace. -/
def Rest (s t : State) : Prop :=
  { t with regs := [], eth := {}, ledger := {}, trace := [], traceLeft := [], sys := { t.sys with gpioOut := 0 } } =
    { s with regs := [], eth := {}, ledger := {}, trace := [], traceLeft := [], sys := { s.sys with gpioOut := 0 } }

/-- Nothing changed but what a message to the host changes. -/
def Kept (s t : State) : Prop := Rest s t ∧ ∀ off, ¬Mail off → t.raw off = s.raw off

/-- The same but for the register at `o`. -/
def KeptBut (s t : State) (o : Nat) : Prop := Rest s t ∧ ∀ off, off ≠ o → ¬Mail off → t.raw off = s.raw off

/-- The command with `seq` has ended at the beat at which it arrived, and its completion is held for a repetition of its SEQ and is
on its way to the host (10 R380, R381). -/
def Completed (s t : State) (seq : W64) (st : Status) (value : W64) (data : Bytes) : Prop :=
  Ended t seq ∧ ∃ c : Completion, (seq, some c) ∈ t.eth.outcomes ∧ CmdMsg.done c ∈ t.eth.undelivered ++ t.eth.waiting ∧
    c.seq = seq ∧ c.status = st ∧ c.value = value ∧ c.data = data ∧ c.acceptBeat = s.beat ∧ c.beat = s.beat

/-- The command ends with a refusal and has no other effect. -/
def Refused (s t : State) (seq : W64) (st : Status) : Prop := Kept s t ∧ Completed s t seq st 0 []

/-- The command runs on: it has no completion yet. -/
def RunsOn (t : State) (seq : W64) : Prop := ∃ r ∈ t.eth.running, r.seq = seq ∧ r.fresh = false

/-- The command runs on and reads a region of host memory (10 R372, R376). -/
def Reads (t : State) (seq : W64) (g : Region) : Prop :=
  ∃ r ∈ t.eth.running, r.seq = seq ∧ r.fresh = false ∧ r.region = some g

/-- A region of host memory that the host may name (10 R376): its queue pair is a data queue pair and is ready. -/
def RegionOk (s : State) (g : Region) : Prop :=
  2 ≤ g.qp.toNat ∧ g.qp.toNat < 1024 ∧ s.fld (Fld.ethQp_state g.qp.toNat) = 1

/-- The command with `seq` has ended, and its completion is on its way to the host (10 R380). -/
def Answered (t : State) (seq : W64) (st : Status) (value : W64) : Prop :=
  Ended t seq ∧ ∃ c : Completion, CmdMsg.done c ∈ t.eth.undelivered ++ t.eth.waiting ∧ c.seq = seq ∧ c.status = st ∧ c.value = value

/-- Only the registers at `offs` changed. -/
def OnlyRegs (s t : State) (offs : List Nat) : Prop :=
  { t with regs := [] } = { s with regs := [] } ∧ ∀ off, off ∉ offs → t.raw off = s.raw off

/-- A counter of 32 bits that stops at all ones has counted one. -/
def Counted (s t : State) (f : Fld) : Prop := t.fld f = min (s.fld f + 1) (2 ^ f.width - 1)

/-- A received frame and the codewords that the FEC corrected in it, or could not correct, are counted (10 R363, R402). -/
def FrameCounted (s t : State) (f : EthFrame) : Prop :=
  t.raw Reg.ethRxFrames = s.raw Reg.ethRxFrames + 1 ∧
  t.fld Fld.ethFecCorr_count = min (s.fld Fld.ethFecCorr_count + f.fecCorr) (2 ^ 48 - 1) ∧
  t.fld Fld.ethFecUncorr_count = min (s.fld Fld.ethFecUncorr_count + f.fecBad) (2 ^ 32 - 1)

/-- A packet for queue pair `q` comes from the attached host and the queue pair is ready (10 R372, R373). -/
def FromHost (s : State) (f : EthFrame) (q : Nat) : Prop := s.fld (Fld.ethQp_state q) = 1 ∧ IpBits f.srcIp = s.hostIp

/-! ### Canonical forms -/

/-- A thread's registers have their canonical forms, and g0 and p0, which hold no stored value, are not listed. -/
def ThreadForms (x : Thread) : Prop :=
  SMap.wf x.g 0 = true ∧ SMap.wf x.v 0 = true ∧ SMap.wf x.pr 0 = true ∧ SMap.get x.g 0 0 = 0 ∧ SMap.get x.pr 0 0 = 0

/-- Every core's spool, and every thread's registers, have their canonical forms. -/
def CoreForms (s : State) : Prop :=
  ∀ p, Mem.wf (s.core p).spool = true ∧ ∀ u, ThreadForms (s.thread p u)

end Sys2Proof.Safety
end

