-- ==== Sys2Proof/Certificates/Slice0/Obligations.lean ====
section
/-!
DEFINITION. The statements for the provers, in the order of OBLIGATIONS.json.
-/
open Sys2Proof Sys2Proof.Machine Sys2Proof.Safety

/-! ### Poilo: scalar and branch instructions -/

/-- 04 R128: every SCL operation of two sources completes, gA becomes its result, the PC grows by 8, and nothing else of
the device changes. The second source is gC, or IMM sign-extended when MOD bit 0 is 1; g0 stays 0. -/
def Obligations.SclResults : Prop :=
  ∀ e ∈ sclTable, ∀ (p u : Nat) (w : IWord) (s : State), Issues s p u 8 → w.mod.toNat ≤ 1 →
    ∃ t, exec (e.1 p u w) s = .next t ∧
      WritesG s t p u 8 w.a.toNat
        (e.2 (s.rg p u w.b) (if w.mod.toNat = 1 then w.imm.signExtend 64 else s.rg p u w.c))

/-- 04 R128: SCL.LI completes with gA the extension word, passing 16 bytes; BR.J, BR.CALL and BR.JR complete at their target
where the code image allows it, and BR.CALL sets gA to the address after it; a conditional branch completes: taken it goes to
PC + 8 × IMM where the code image allows that, not taken it passes 8 bytes. Nothing else of the device changes. 04 R129: BR.J,
BR.CALL, BR.JR and a taken conditional branch whose target the code image does not allow (it lies outside the image, or is not a
multiple of 8) fault their thread with PC_ADDR (0x03) at the PC that they had, and no thread of the core issues any more. -/
def Obligations.JumpsAndBranches : Prop :=
  (∀ (p u : Nat) (w : IWord) (s : State),
     (∀ x, Issues s p u 16 → w.b = 0 → w.c = 0 → w.mod = 0 → w.imm = 0 →
       ∃ t, exec (.sclLi p u w x) s = .next t ∧ WritesG s t p u 16 w.a.toNat x) ∧
     (∀ x, x = (s.thread p u).pc + 8 * w.imm.signExtend 64 → Issues s p u 8 → w.b = 0 → w.c = 0 → w.mod = 0 →
       TargetOk s p x →
       (w.a = 0 → ∃ t, exec (.brJ p u w) s = .next t ∧ Jumped s t p u x) ∧
       ∃ t, exec (.brCall p u w) s = .next t ∧ ThreadOnly s t p u ∧ (t.thread p u).pc = x ∧
         WroteG (s.thread p u) (t.thread p u) w.a.toNat ((s.thread p u).pc + 8) ∧
         { t.thread p u with pc := 0, g := [] } = { s.thread p u with pc := 0, g := [] }) ∧
     (Issues s p u 8 → w.b = 0 → w.c = 0 → w.mod = 0 → w.imm = 0 → TargetOk s p (s.rg p u w.a) →
       ∃ t, exec (.brJr p u w) s = .next t ∧ Jumped s t p u (s.rg p u w.a))) ∧
  (∀ e ∈ brTable, ∀ (p u : Nat) (w : IWord) (s : State), Issues s p u 8 → w.c = 0 → w.mod = 0 →
     (e.2 (s.rg p u w.a) (s.rg p u w.b) = true →
       TargetOk s p ((s.thread p u).pc + 8 * w.imm.signExtend 64) →
       ∃ t, exec (e.1 p u w) s = .next t ∧ Jumped s t p u ((s.thread p u).pc + 8 * w.imm.signExtend 64)) ∧
     (e.2 (s.rg p u w.a) (s.rg p u w.b) = false →
       ∃ t, exec (e.1 p u w) s = .next t ∧ Jumped s t p u ((s.thread p u).pc + 8))) ∧
  (∀ (p u : Nat) (w : IWord) (x : W64) (i : Instr) (s : State), Issues s p u 8 → w.c = 0 → w.mod = 0 → ¬TargetOk s p x →
     (i = .brJ p u w ∧ w.a = 0 ∧ w.b = 0 ∧ x = (s.thread p u).pc + 8 * w.imm.signExtend 64) ∨
     (i = .brCall p u w ∧ w.b = 0 ∧ x = (s.thread p u).pc + 8 * w.imm.signExtend 64) ∨
     (i = .brJr p u w ∧ w.b = 0 ∧ w.imm = 0 ∧ x = s.rg p u w.a) ∨
     (∃ e ∈ brTable, i = e.1 p u w ∧ e.2 (s.rg p u w.a) (s.rg p u w.b) = true ∧
       x = (s.thread p u).pc + 8 * w.imm.signExtend 64) →
     ∃ t, exec i s = .next t ∧ Faulted t p u 0x03 ∧ (t.thread p u).pc = (s.thread p u).pc)

/-! ### Poilo: spool, slots and streams -/

/-- 04 R130: a load of 1, 2, 4 or 8 bytes completes: SPL.LD writes the little-endian number at gB + IMM to gA, SPL.LDS
the same number as a signed one of that size. Nothing else of the device changes. -/
def Obligations.SpoolLoads : Prop :=
  ∀ (p u : Nat) (w : IWord) (s : State), Issues s p u 8 → w.c = 0 → w.mod.toNat < 4 →
    spl s p u w % 2 ^ w.mod.toNat = 0 → SpoolOk (s.core p) (spl s p u w) (2 ^ w.mod.toNat) →
    (∃ t, exec (.splLd p u w) s = .next t ∧ WritesG s t p u 8 w.a.toNat
      (BitVec.ofNat 64 (leNat ((s.core p).load (spl s p u w) (2 ^ w.mod.toNat))))) ∧
    (∃ t, exec (.splLds p u w) s = .next t ∧ WritesG s t p u 8 w.a.toNat
      (BitVec.ofInt 64 (BitVec.ofNat (8 * 2 ^ w.mod.toNat)
        (leNat ((s.core p).load (spl s p u w) (2 ^ w.mod.toNat)))).toInt))

/-- 04 R130: SPL.ST of 1, 2, 4 or 8 bytes completes: byte i of gA stands at gB + IMM + i, and every other byte of the
spool, and everything else of the device, is as it was. 04 R130, 03 R78, R85: a load or a store that is misaligned or
runs past the spool faults its thread with SPL_ADDR (0x04), and one in a bank that is powered down with SPL_OFF
(0x05). -/
def Obligations.SpoolStore : Prop :=
  (∀ (p u : Nat) (w : IWord) (s : State), Issues s p u 8 → w.c = 0 → w.mod.toNat < 4 →
     spl s p u w % 2 ^ w.mod.toNat = 0 → SpoolOk (s.core p) (spl s p u w) (2 ^ w.mod.toNat) →
     ∃ t, exec (.splSt p u w) s = .next t ∧ RanOn s t p u 8 ∧ SpoolRest (s.core p) (t.core p) ∧
       ∀ x, (t.core p).spool.byte x =
         if spl s p u w ≤ x ∧ x < spl s p u w + 2 ^ w.mod.toNat
         then (s.rg p u w.a).extractLsb' (8 * (x - spl s p u w)) 8 else (s.core p).spool.byte x) ∧
  (∀ (p u : Nat) (w : IWord) (s : State), ∀ i ∈ [Instr.splLd p u w, .splLds p u w, .splSt p u w],
     Issues s p u 8 → w.c = 0 → w.mod.toNat < 4 →
     ((spl s p u w % 2 ^ w.mod.toNat ≠ 0 ∨ 0x80000 < spl s p u w + 2 ^ w.mod.toNat) →
       ∃ t, exec i s = .next t ∧ Faulted t p u 0x04) ∧
     (spl s p u w % 2 ^ w.mod.toNat = 0 → spl s p u w + 2 ^ w.mod.toNat ≤ 0x80000 →
       (s.core p).touchesOff (spl s p u w) (2 ^ w.mod.toNat) = true →
       ∃ t, exec i s = .next t ∧ Faulted t p u 0x05))

/-- 03 R82, 04 R130: SPL.ACC completes: where pC selects lane l, element l of the run at gB + IMM becomes its sum with
lane l of vA in the type of MOD (0 FP32, 1 INT32, 2 BF16); every other byte of the spool is as it was, and SAT is set
where an INT32 sum saturated. -/
def Obligations.SpoolAccumulate : Prop :=
  ∀ (p u : Nat) (w : IWord) (s : State), Issues s p u 8 → w.mod.toNat < 3 → w.a.toNat < 16 → w.c.toNat < 8 →
    spl s p u w % (128 * accSize w.mod.toNat) = 0 →
    SpoolOk (s.core p) (spl s p u w) (128 * accSize w.mod.toNat) →
    ∃ t, exec (.splAcc p u w) s = .next t ∧ CoreOnly s t p ∧ OthersIdle s t p u ∧ SpoolRest (s.core p) (t.core p) ∧
      (t.thread p u).pc = (s.thread p u).pc + 8 ∧
      (∀ l i, l < 128 → i < accSize w.mod.toNat →
        (t.core p).spool.byte (spl s p u w + accSize w.mod.toNat * l + i) =
          if ((s.thread p u).rp w.c.toNat).getLsbD l = true
          then (accElem w.mod.toNat ((s.core p).load (spl s p u w + accSize w.mod.toNat * l) (accSize w.mod.toNat))
            (s.rv p u w.a l)).1.getD i 0
          else (s.core p).spool.byte (spl s p u w + accSize w.mod.toNat * l + i)) ∧
      (∀ x, x < spl s p u w ∨ spl s p u w + 128 * accSize w.mod.toNat ≤ x →
        (t.core p).spool.byte x = (s.core p).spool.byte x) ∧
      { t.thread p u with pc := 0 } = { s.thread p u with
        pc := 0
        sat := (s.thread p u).sat || (List.range 128).any fun l => ((s.thread p u).rp w.c.toNat).getLsbD l &&
          (accElem w.mod.toNat ((s.core p).load (spl s p u w + accSize w.mod.toNat * l) (accSize w.mod.toNat))
            (s.rv p u w.a l)).2 }

/-- 04 R131, 03 R87, R88, R90, R117: SLT.BIND binds a free slot empty, SLT.UNBIND unbinds an empty one (an unbound slot
stays as it is) and faults its thread with SLT_BUSY (0x07) in any other state, SLT.FILL ends the thread's fill with gA
bytes, SLT.REL ends the thread's consumption, SLT.STATE reads SLT_n. Only that slot, or gA, changes. -/
def Obligations.SlotInstructions : Prop :=
  ∀ (p u n : Nat) (w : IWord) (s : State), Issues s p u 8 → n < 32 → w.c = 0 → w.mod = 0 →
    (∀ k, w.imm.toNat = n + 256 * k → 1 ≤ k → k < 256 → (s.rg p u w.a).toNat % 256 = 0 →
      (s.rg p u w.b).toNat % 256 = 0 → 256 ≤ (s.rg p u w.b).toNat → (s.rg p u w.b).toNat ≤ 65536 →
      (s.rg p u w.a).toNat + (s.rg p u w.b).toNat ≤ 0x80000 →
      (∀ e ∈ (s.core p).slots, e.1 ≠ n → e.2.bound = true →
        e.2.base + e.2.len ≤ (s.rg p u w.a).toNat ∨ (s.rg p u w.a).toNat + (s.rg p u w.b).toNat ≤ e.2.base) →
      (((s.core p).slot n).bound = true → ((s.core p).slot n).st = .empty) →
      ∃ t, exec (.sltBind p u w) s = .next t ∧ RanOn s t p u 8 ∧ SlotRest (s.core p) (t.core p) ∧
        SlotBecame (s.core p) (t.core p) n
          { bound := true, base := (s.rg p u w.a).toNat, len := (s.rg p u w.b).toNat, consume := k }) ∧
    (w.imm.toNat = n → w.b = 0 →
      (w.a = 0 → (((s.core p).slot n).bound = true → ((s.core p).slot n).st = .empty) →
        ∃ t, exec (.sltUnbind p u w) s = .next t ∧ RanOn s t p u 8 ∧ SlotRest (s.core p) (t.core p) ∧
          SlotBecame (s.core p) (t.core p) n { (s.core p).slot n with bound := false }) ∧
      (w.a = 0 → ((s.core p).slot n).bound = true → ((s.core p).slot n).st ≠ .empty →
        ∃ t, exec (.sltUnbind p u w) s = .next t ∧ Faulted t p u 0x07) ∧
      (∃ t, exec (.sltState p u w) s = .next t ∧ WritesG s t p u 8 w.a.toNat ((s.core p).slot n).word) ∧
      (((s.core p).slot n).bound = true → ((s.core p).slot n).st = .filling → ((s.core p).slot n).user = .thread u →
        (s.rg p u w.a).toNat ≤ ((s.core p).slot n).len →
        ∃ t, exec (.sltFill p u w) s = .next t ∧ RanOn s t p u 8 ∧ SlotRest (s.core p) (t.core p) ∧
          SlotBecame (s.core p) (t.core p) n { (s.core p).slot n with
            st := .full
            user := .none
            fillLen := (s.rg p u w.a).toNat
            remain := ((s.core p).slot n).consume }) ∧
      (w.a = 0 → ((s.core p).slot n).bound = true → ((s.core p).slot n).st = .draining →
        ((s.core p).slot n).user = .thread u →
        ∃ t, exec (.sltRel p u w) s = .next t ∧ RanOn s t p u 8 ∧ SlotRest (s.core p) (t.core p) ∧
          SlotBecame (s.core p) (t.core p) n { (s.core p).slot n with
            st := if ((s.core p).slot n).remain ≤ 1 then .empty else .full
            user := .none
            remain := ((s.core p).slot n).remain - 1 }))

/-- 04 R133, 03 R104, R108 to R112, R117: STR.ARM of an idle stream starts dB, STR.ARM of a running or halted one leaves
dB pending; STR.CANCEL of a running or halted stream discards its pending descriptor and leaves it IDLE, or CANCELLING
while transfers are outstanding; STR.WAIT passes an IDLE stream; STR.DLD and STR.DSET write descriptor words; STR.STATUS
reads STR_STATUS_s. -/
def Obligations.StreamInstructions : Prop :=
  ∀ (p u n : Nat) (w : IWord) (s : State), Issues s p u 8 → n < 32 → w.c = 0 →
    (w.imm.toNat = n → w.mod = 0 →
      (w.a = 0 → descBad s p ((s.core p).descReg w.b.toNat) = false →
        (dMcast ((s.core p).descReg w.b.toNat) ≠ 0 → (s.core p).vm1 = false) →
        (((s.core p).stream n).st = .idle →
          ∃ t, exec (.strArm p u w) s = .next t ∧ RanOn s t p u 8 ∧ StreamRest (s.core p) (t.core p) ∧
            StreamBecame (s.core p) (t.core p) n {
              st := .running
              desc := (s.core p).descReg w.b.toNat
              owner := u
              doneCount := ((s.core p).stream n).doneCount
              rearmLost := ((s.core p).stream n).rearmLost
              slotLen := ((s.core p).slot (dSlot ((s.core p).descReg w.b.toNat))).len }) ∧
        (((s.core p).stream n).st = .running ∨ ((s.core p).stream n).st = .halted →
          ∃ t, exec (.strArm p u w) s = .next t ∧ RanOn s t p u 8 ∧ StreamRest (s.core p) (t.core p) ∧
            StreamBecame (s.core p) (t.core p) n { (s.core p).stream n with
              pend := some ((s.core p).descReg w.b.toNat, u)
              rearmLost := ((s.core p).stream n).rearmLost || ((s.core p).stream n).pend.isSome })) ∧
      (w.a = 0 → w.b = 0 → ((s.core p).stream n).st = .running ∨ ((s.core p).stream n).st = .halted →
        dMcast ((s.core p).stream n).desc = 0 →
        ∃ t, exec (.strCancel p u w) s = .next t ∧ RanOn s t p u 8 ∧ StreamRest (s.core p) (t.core p) ∧
          ((t.core p).stream n).st = (if ((s.core p).stream n).out = [] then .idle else .cancelling) ∧
          ((t.core p).stream n).pend = none ∧ ((t.core p).stream n).out = ((s.core p).stream n).out ∧
          ((t.core p).stream n).rearmLost = ((s.core p).stream n).rearmLost ∧
          ∀ m, m ≠ n → (t.core p).stream m = (s.core p).stream m) ∧
      (w.a = 0 → w.b = 0 → ((s.core p).stream n).st = .idle → ((s.core p).stream n).pend = none →
        ∃ t, exec (.strWait p u w) s = .next t ∧ RanOn s t p u 8 ∧ unthreaded (t.core p) = unthreaded (s.core p)) ∧
      (w.b = 0 → ∃ t, exec (.strStatus p u w) s = .next t ∧
        WritesG s t p u 8 w.a.toNat ((s.core p).stream n).word)) ∧
    (w.mod = 0 → spl s p u w % 64 = 0 → SpoolOk (s.core p) (spl s p u w) 64 →
      ∃ t, exec (.strDld p u w) s = .next t ∧ RanOn s t p u 8 ∧
        { unthreaded (t.core p) with desc := [] } = { unthreaded (s.core p) with desc := [] } ∧
        ∀ i k, k < 8 → ((t.core p).descReg i).getD k 0 =
          if i = w.a.toNat then BitVec.ofNat 64 (leNat ((s.core p).load (spl s p u w + 8 * k) 8))
          else ((s.core p).descReg i).getD k 0) ∧
    (w.mod.toNat < 8 → w.imm = 0 →
      ∃ t, exec (.strDset p u w) s = .next t ∧ RanOn s t p u 8 ∧
        { unthreaded (t.core p) with desc := [] } = { unthreaded (s.core p) with desc := [] } ∧
        ∀ i k, k < 8 → ((t.core p).descReg i).getD k 0 =
          if i = w.a.toNat ∧ k = w.mod.toNat then s.rg p u w.b else ((s.core p).descReg i).getD k 0)

/-! ### Poilo: vector instructions -/

/-- 04 R143 to R145: every lane-wise vector instruction of one or two sources completes when no merge holds the vector
unit: where the predicate of MOD[5:3] selects lane l, lane l of vA becomes the result of lanes l of its sources as they
were; the PC passes 8 bytes and nothing else of the device changes. -/
def Obligations.VectorLanes : Prop :=
  ∀ e ∈ laneTable, ∀ (p u : Nat) (w : IWord) (s : State), Issues s p u 8 → (s.core p).merge = none →
    w.a.toNat < 16 → w.b.toNat < 16 → (if e.2.1 then w.c.toNat < 16 else w.c = 0) → w.mod.toNat % 8 = 0 → w.imm = 0 →
    ∃ t, exec (e.1 p u w) s = .next t ∧
      WritesV s t p u w.a.toNat (maskOf s p u w) fun l => e.2.2 (s.rv p u w.b l) (s.rv p u w.c l)

/-- 04 R143, R147: VEC.FMA (one rounding), VEC.SEL (every lane is written), VEC.BCAST and VEC.PHILOX complete with
only vA and the PC changed; VEC.PHILOX with a C field of 31 faults with ILLEGAL (0x01). 04 R143, R148, 02 R51: VEC.CVTMX completes: the 68 bytes at gB + IMM become the MXFP4 row
of vA, and no other byte changes. A row that would straddle two banks, or is not aligned to 4, faults with SPL_ADDR.
-/
def Obligations.VectorMoves : Prop :=
  (∀ (p u : Nat) (w : IWord) (s : State), Issues s p u 8 → (s.core p).merge = none → w.a.toNat < 16 →
     w.mod.toNat % 8 = 0 → w.imm = 0 →
     (w.b.toNat < 16 → w.c.toNat < 16 →
       (∃ t, exec (.vecFma p u w) s = .next t ∧ WritesV s t p u w.a.toNat (maskOf s p u w) fun l =>
         ffma (s.rv p u w.b l) (s.rv p u w.c l) (s.rv p u w.a l)) ∧
       ∃ t, exec (.vecSel p u w) s = .next t ∧ WritesV s t p u w.a.toNat (BitVec.allOnes 128) fun l =>
         if (maskOf s p u w).getLsbD l then s.rv p u w.b l else s.rv p u w.c l) ∧
     (w.c = 0 → ∃ t, exec (.vecBcast p u w) s = .next t ∧
       WritesV s t p u w.a.toNat (maskOf s p u w) fun _ => (s.rg p u w.b).extractLsb' 0 32) ∧
     (w.c ≠ 31 → ∃ t, exec (.vecPhilox p u w) s = .next t ∧ WritesV s t p u w.a.toNat (maskOf s p u w) fun l =>
       (philox [(s.rg p u w.c).extractLsb' 0 32 + BitVec.ofNat 32 (l / 4), (s.rg p u w.c).extractLsb' 32 32,
         ((s.thread p u).rg (w.c.toNat + 1)).extractLsb' 0 32, ((s.thread p u).rg (w.c.toNat + 1)).extractLsb' 32 32]
         [(s.rg p u w.b).extractLsb' 0 32, (s.rg p u w.b).extractLsb' 32 32]).getD (l % 4) 0) ∧
     (w.c = 31 → ∃ t, exec (.vecPhilox p u w) s = .next t ∧ Faulted t p u 0x01)) ∧
  (∀ (p u a : Nat) (w : IWord) (s : State), Issues s p u 8 → w.a.toNat < 16 → w.c = 0 → w.mod = 0 → a = spl s p u w →
     ((s.core p).merge = none → a % 4 = 0 → a / 0x10000 = (a + 67) / 0x10000 → SpoolOk (s.core p) a 68 →
       ∃ t, exec (.vecCvtmx p u w) s = .next t ∧ RanOn s t p u 8 ∧ SpoolRest (s.core p) (t.core p) ∧
         ∀ x, (t.core p).spool.byte x = if a ≤ x ∧ x < a + 68
           then (mxRow ((List.range 128).map (s.rv p u w.a))).getD (x - a) 0 else (s.core p).spool.byte x) ∧
     (a % 4 ≠ 0 ∨ a / 0x10000 ≠ (a + 67) / 0x10000 → ∃ t, exec (.vecCvtmx p u w) s = .next t ∧ Faulted t p u 0x04))

/-- 04 R143, R146: VEC.CMP completes: bit l of pA becomes the comparison of lanes l where the mask selects l, and p0 stays
all ones. VEC.RSUM and VEC.RMAX complete with gA the reduction of the lane tree, a masked-off lane counting as +0 or as
−Infinity. Nothing else of the device changes. -/
def Obligations.VectorPredicatesAndReductions : Prop :=
  ∀ (p u : Nat) (w : IWord) (s : State), Issues s p u 8 → (s.core p).merge = none → w.b.toNat < 16 → w.imm = 0 →
    (w.a.toNat < 8 → w.c.toNat < 16 → w.mod.toNat % 8 < 6 →
      ∃ t, exec (.vecCmp p u w) s = .next t ∧ ThreadOnly s t p u ∧ PassedP (s.thread p u) (t.thread p u) 8 ∧
        ∀ r l, l < 128 → ((t.thread p u).rp r).getLsbD l =
          if r = w.a.toNat ∧ r ≠ 0 ∧ (maskOf s p u w).getLsbD l = true
          then fcmp (w.mod.toNat % 8) (s.rv p u w.b l) (s.rv p u w.c l) else ((s.thread p u).rp r).getLsbD l) ∧
    (w.c = 0 → w.mod.toNat % 8 = 0 →
      (∃ t, exec (.vecRsum p u w) s = .next t ∧ WritesG s t p u 8 w.a.toNat ((laneTree fadd ((List.range 128).map fun l =>
        if (maskOf s p u w).getLsbD l then s.rv p u w.b l else 0)).setWidth 64)) ∧
      ∃ t, exec (.vecRmax p u w) s = .next t ∧ WritesG s t p u 8 w.a.toNat ((laneTree fmax ((List.range 128).map fun l =>
        if (maskOf s p u w).getLsbD l then s.rv p u w.b l else negInf32)).setWidth 64))

/-- 04 R132, R143, R148: VEC.LD and VEC.ST complete in their spool form and in their slot form, on an aligned run of 128
elements: a load writes the masked lanes of vA, a store the masked elements and no other byte. In the slot form the first
load of a consumption takes a full slot and the first store of a fill an empty one; while the thread holds the slot, its
further loads and stores leave it as it is. -/
def Obligations.VectorMemory : Prop :=
  ∀ (p u k n a : Nat) (w : IWord) (s : State), Issues s p u 8 → (s.core p).merge = none → w.a.toNat < 16 → w.c = 0 →
    w.mod.toNat % 8 < 6 → k = vecEsize (w.mod.toNat % 8) → n = (s.rg p u w.b).toNat % 32 → a = vecAddr s p u w →
    (w.imm.toNat < 2 ^ 31 → a % (128 * k) = 0 → SpoolOk (s.core p) a (128 * k) →
      (∃ t, exec (.vecLd p u w) s = .next t ∧ WritesV s t p u w.a.toNat (maskOf s p u w) fun l =>
        vecRead (w.mod.toNat % 8) ((s.core p).load (a + k * l) k)) ∧
      ∃ t, exec (.vecSt p u w) s = .next t ∧ RanOn s t p u 8 ∧ SpoolRest (s.core p) (t.core p) ∧
        WroteElems (s.core p) (t.core p) a k (maskOf s p u w) fun l => vecWrite (w.mod.toNat % 8) (s.rv p u w.a l)) ∧
    (∀ off, w.imm.toNat = 2 ^ 31 + off → off < 2 ^ 19 → off % (128 * k) = 0 → ((s.core p).slot n).bound = true →
      off + 128 * k ≤ ((s.core p).slot n).len → (s.core p).touchesOff a (128 * k) = false →
      (s.core p).settlingBank a (128 * k) = none →
      (((s.core p).slot n).st = .full ∨ HeldBy (s.core p) n u →
        ∃ t, exec (.vecLd p u w) s = .next t ∧ CoreOnly s t p ∧ OthersIdle s t p u ∧ SlotRest (s.core p) (t.core p) ∧
          VecSlotUsed (s.core p) (t.core p) n u .full .draining ∧ PassedV (s.thread p u) (t.thread p u) 8 ∧
          WroteV (s.thread p u) (t.thread p u) w.a.toNat (maskOf s p u w) fun l =>
            vecRead (w.mod.toNat % 8) ((s.core p).load (a + k * l) k)) ∧
      (((s.core p).slot n).st = .empty ∨ HeldBy (s.core p) n u →
        ∃ t, exec (.vecSt p u w) s = .next t ∧ RanOn s t p u 8 ∧ SlotSpoolRest (s.core p) (t.core p) ∧
          VecSlotUsed (s.core p) (t.core p) n u .empty .filling ∧
          WroteElems (s.core p) (t.core p) a k (maskOf s p u w) fun l => vecWrite (w.mod.toNat % 8) (s.rv p u w.a l)))

/-! ### Poilo: engines -/

/-- 02 R58, R59, 04 R134, R135: ENG.LDW completes where its operands break no rule and its wait is over: plane MOD[5:4] of
both engines (a pair in BF16) takes the image from the spool, the slot or the head of the warp FIFO, and both engine
queues get the front. A slot source is one consumption; a FIFO source takes its head. -/
def Obligations.EngineLoadWeights : Prop :=
  ∀ (p u : Nat) (w : IWord) (s : State), Issues s p u 8 → ldwCodes s p u w = [] → ldwWait s p u w = none →
    ∃ t, exec (.engLdw p u w) s = .next t ∧ RanOn s t p u 8 ∧ EngineRest (s.core p) (t.core p) ∧
      (∀ e, FrontQueued ((s.core p).eng e) ((t.core p).eng e) (if ldwFmt w = .bf16 then 256 else 128)
        (if ldwFmt w = .bf16 then [w.mod.toNat / 16, w.mod.toNat / 16 + 1] else [w.mod.toNat / 16])) ∧
      (t.core p).fifo = (if ldwKind w = 2 then (s.core p).fifo.tail else (s.core p).fifo) ∧
      EngineUses (s.core p) (t.core p) (ldwKind w = 1) (s.rg p u w.a) ∧
      (ldwKind w ≠ 2 → PlanesLoaded (s.core p) (t.core p) (w.mod.toNat / 16) (ldwFmt w)
        ((s.core p).load (refAddr s p (ldwKind w = 1) (s.rg p u w.a)) (imageSize (ldwFmt w)))
        (.spool (refAddr s p (ldwKind w = 1) (s.rg p u w.a)))) ∧
      (ldwKind w = 2 → ∀ x, (s.core p).fifo.head? = some x →
        PlanesLoaded (s.core p) (t.core p) (w.mod.toNat / 16) (ldwFmt w) x.image .warp)

/-- 02 R53, R57, R60 to R66, R69, 04 R136 to R140: ENG.MM and ENG.CONV complete where their operands break no rule and their
wait is over: each engine that takes rows gets the run's column results at the end of its queue, and the rows are active
and owned by the thread; a slot source is one consumption of each slot. A logical tile puts its fronts and the rows behind
each of them into the queue of every engine that the run names, marks the other engine for its fronts, and leaves its last
image in its plane. The spool, the vault and every accumulator entry are as they were. -/
def Obligations.EngineRuns : Prop :=
  ∀ (p u : Nat) (w : IWord) (x : W64) (s : State), Issues s p u 16 →
    (∀ o, o = mmOp s p u w x → mmCodes s p u w x = [] → mmWait s p u w x = none →
      ∃ t, exec (.engMm p u w x) s = .next t ∧ RanOn s t p u 16 ∧ EngineRest (s.core p) (t.core p) ∧
        (t.core p).fifo = (s.core p).fifo ∧
        (o.lt = false → ∀ e, RunQueued ((s.core p).eng e) ((t.core p).eng e) e (o.results (s.core p) u
          (refAddr s p o.srcSlot o.src) ((s.core p).load o.list.toNat (ceilDiv o.rows 4)))
          (o.rowsIn (o.wfmt (s.core p) ((s.core p).load o.list.toNat (ceilDiv o.rows 4)))) u) ∧
        (o.lt = true → ∀ e, FoldQueued ((s.core p).eng e) ((t.core p).eng e) e o (o.folds.map (o.foldResults (s.core p) u
          (refAddr s p o.srcSlot o.src) ((s.core p).load (refAddr s p o.ltSlot o.tile) o.tileLen))) u) ∧
        (∀ n, (t.core p).slot n =
          if o.srcSlot = true ∧ n = refSlot o.src ∨ o.lt = true ∧ o.ltSlot = true ∧ n = refSlot o.tile
          then { (s.core p).slot n with
            st := .draining
            user := .engine }
          else (s.core p).slot n) ∧
        (o.lt = false → ∀ n, (t.core p).plane n = (s.core p).plane n) ∧
        (o.lt = true → PlanesLoaded (s.core p) (t.core p) o.sel o.ltFmt
          (ltImage o ((s.core p).load (refAddr s p o.ltSlot o.tile) o.tileLen) (o.blocks - 1) (o.segs - 1)).flatten
          .none)) ∧
    (∀ o, o = convOp s p u w x → convCodes s p u w x = [] → convWait s p u w x = none →
      ∃ t, exec (.engConv p u w x) s = .next t ∧ RanOn s t p u 16 ∧ EngineRest (s.core p) (t.core p) ∧
        (t.core p).fifo = (s.core p).fifo ∧ (∀ n, (t.core p).plane n = (s.core p).plane n) ∧
        EngineUses (s.core p) (t.core p) o.srcSlot o.src ∧
        ∀ e, RunQueued ((s.core p).eng e) ((t.core p).eng e) e (o.results (s.core p) u
          ((s.core p).load (refAddr s p o.srcSlot o.src) (o.slices * o.sliceLen))) o.rowsIn u)

/-- 02 R53, R69, 04 R134, R141: ENG.DRN completes where its operands break no rule and its wait is over: each named engine
gets the drain at the end of its queue, its rows are draining, and a slot destination is filling. ENG.FENCE passes when
the named queues are empty and changes nothing else. -/
def Obligations.EngineDrainsAndFence : Prop :=
  ∀ (p u : Nat) (w : IWord) (s : State),
    (∀ (x : W64) o, o = drnOp s p u w x → Issues s p u 16 → drnCodes s p u w x = [] → drnWait s p u w x = none →
      ∃ t, exec (.engDrn p u w x) s = .next t ∧ RanOn s t p u 16 ∧ EngineRest (s.core p) (t.core p) ∧
        (t.core p).fifo = (s.core p).fifo ∧ (∀ n, (t.core p).plane n = (s.core p).plane n) ∧
        (∀ n, (t.core p).slot n = if o.dstSlot = true ∧ n = refSlot o.dst then { (s.core p).slot n with
            st := .filling
            user := .engine }
          else (s.core p).slot n) ∧
        (o.eng ≠ 1 → DrainQueued (s.core p).eng0 (t.core p).eng0 o.rows
          (o.drain (refAddr s p o.dstSlot o.dst) 0 (if o.eng = 0 then 1 else 2))) ∧
        (o.eng ≠ 0 → DrainQueued (s.core p).eng1 (t.core p).eng1 o.rows
          (o.drain (refAddr s p o.dstSlot o.dst) (if o.eng = 1 then 0 else 1) (if o.eng = 1 then 1 else 2))) ∧
        (o.eng = 1 → (t.core p).eng0 = (s.core p).eng0) ∧ (o.eng = 0 → (t.core p).eng1 = (s.core p).eng1)) ∧
    (Issues s p u 8 → w.a = 0 → w.b = 0 → w.c = 0 → w.imm = 0 → w.mod.toNat < 3 →
      (w.mod.toNat ≠ 1 → (s.core p).eng0.queue = []) → (w.mod.toNat ≠ 0 → (s.core p).eng1.queue = []) →
      ∃ t, exec (.engFence p u w) s = .next t ∧ RanOn s t p u 8 ∧ unthreaded (t.core p) = unthreaded (s.core p))

/-! ### Poilo: tellers, remote operations, barriers, threads, commands -/

/-- 04 R149, R160, 05 R190, R199: TEL.CMD and TEL.ATTN complete where their operands break no rule and their wait is
over. TEL.CMD gives every stack that its record addresses a request, TEL.ATTN gives every stack one and starts 16 × SPLIT
partials, and each takes its slot to filling (a TEL.CMD that addresses no stack completes its fill at once); a vault write
outside the command's regions makes the command side-effecting. The spool, the vault and every other slot are as they were.
04 R150, 05 R204: TEL.MERGE completes where its operands break no rule and its wait is over: its whole output stands in the
spool, which is otherwise as it was, the merge holds the vector unit, a slot source is one consumption, and the thread waits
for the vector unit with its PC past the instruction. -/
def Obligations.TellerInstructions : Prop :=
  (∀ (p u : Nat) (w : IWord) (ws : List W64) (s : State), Issues s p u 8 → ws = recWords (s.core p) (s.rg p u w.a).toNat →
     (∀ ix job isSlot dst, ix = telIndices (s.core p) ws → job = freeKey (s.core p).tel → isSlot = w.mod.getLsbD 0 →
       dst = s.rg p u w.b → telCmdCodes s p u w = [] →
       (isSlot = true → ((s.core p).slot (refSlot dst)).st = .empty) →
       (s.core p).settlingBank (s.rg p u w.a).toNat 64 = none →
       (∀ e ∈ telReads ws, (s.core p).settlingBank e.1 e.2 = none) →
       (s.core p).settlingBank (slotAddr s p isSlot dst) (tResult ws) = none →
       (telStacks ws ix).length ≤ (s.core p).tagsFree →
       ∃ t, exec (.telCmd p u w) s = .next t ∧ OthersIdle s t p u ∧ Passed (s.thread p u) (t.thread p u) 8 ∧
         (t.core p).tel = (if telStacks ws ix = [] then (s.core p).tel else SMap.put (s.core p).tel job {
           thread := u
           ctx := (s.core p).ctx
           words := ws
           indices := ix
           data := telData (s.core p) ws
           dst := slotAddr s p isSlot dst
           slot := if isSlot then some (refSlot dst) else none
           left := telStacks ws ix }) ∧
         (∀ n, (t.core p).slot n =
           if isSlot = true ∧ n = refSlot dst then
             (if telStacks ws ix = [] then ((s.core p).slot n).endFill (tResult ws)
             else { (s.core p).slot n with
               st := .filling
               user := .tel job })
           else (s.core p).slot n) ∧
         { unthreaded (t.core p) with tel := [], slots := [], tagPeak := 0 } =
           { unthreaded (s.core p) with tel := [], slots := [], tagPeak := 0 } ∧
         (∀ st, (t.stack st).queue =
           (s.stack st).queue ++ if st ∈ telStacks ws ix then [.tel p job] else []) ∧
         CommandAndCore { s with vstacks := [] } { t with vstacks := [] } p ∧
         (telWrites s (s.core p).ctx ws ix = [] → t.sched = s.sched) ∧
         (telWrites s (s.core p).ctx ws ix ≠ [] → (∀ c, s.cmdOf p = some c →
           c.allows (tOp ws = 4 && tAcc ws) (telWrites s (s.core p).ctx ws ix) = false) → SideEffecting s t p)) ∧
     (∀ f n, f = (s.ctx (s.core p).ctx).split → n = w.imm.toNat % 32 → attnCodes s p u w = [] →
       ((s.core p).slot n).st = .empty → (s.core p).settlingBank (s.rg p u w.a).toNat 64 = none →
       (s.core p).settlingBank (aQoff ws) (aQBytes ws) = none →
       (s.core p).settlingBank ((s.core p).slot n).base (16 * f * partSize (aHeads ws) (aDim ws)) = none →
       16 ≤ (s.core p).tagsFree →
       ∃ t, exec (.telAttn p u w) s = .next t ∧ (∀ q, q ≠ p → t.core q = s.core q) ∧
         { t with cores := [], vstacks := [] } = { s with cores := [], vstacks := [] } ∧ OthersIdle s t p u ∧
         Passed (s.thread p u) (t.thread p u) 8 ∧
         (∀ st, st < 16 → (t.stack st).queue = (s.stack st).queue ++ [.attn p (freeKey (s.core p).attn)]) ∧
         (t.core p).attn = SMap.put (s.core p).attn (freeKey (s.core p).attn) {
           thread := u
           ctx := (s.core p).ctx
           words := ws
           queries := (s.core p).load (aQoff ws) (aQBytes ws)
           slot := n
           split := f
           left := List.range (16 * f) } ∧
         SlotBecame (s.core p) (t.core p) n { (s.core p).slot n with
           st := .filling
           user := .attn (freeKey (s.core p).attn) } ∧
         { unthreaded (t.core p) with attn := [], slots := [], tagPeak := 0 } =
           { unthreaded (s.core p) with attn := [], slots := [], tagPeak := 0 })) ∧
  (∀ (p u n a : Nat) (w : IWord) (s : State), Issues s p u 8 → n = w.imm.toNat % 512 →
     a = slotAddr s p (w.mod.getLsbD 0) (s.rg p u w.b) → mergeCodes s p u w = [] → mergeWait s p u w = none →
     (s.core p).settlingBank a (n * mergeIn (s.core p) a) = none →
     (s.core p).settlingBank (s.rg p u w.a).toNat (mergeOut (s.core p) a) = none →
     ∃ t, exec (.telMerge p u w) s = .next t ∧ CoreOnly s t p ∧ OthersIdle s t p u ∧
       (t.core p).merge = some {
         thread := u
         dst := (s.rg p u w.a).toNat
         output := ((List.range (storedHeads ((s.core p).load a 64))).flatMap
           (mergeHead (s.exactOn p) (storedHeads ((s.core p).load a 64)) (32 * 2 ^ storedDsel ((s.core p).load a 64))
             (mergeParts (s.core p) a n))).flatMap fun x => leBytes x.toNat 4
         slot := if w.mod.getLsbD 0 then some (refSlot (s.rg p u w.b)) else none } ∧
       (∀ k, (t.core p).slot k = if w.mod.getLsbD 0 = true ∧ k = refSlot (s.rg p u w.b) then { (s.core p).slot k with
           st := .draining
           user := .merge }
         else (s.core p).slot k) ∧
       (∀ m, (t.core p).merge = some m → (t.core p).spool = (s.core p).spool.store m.dst m.output) ∧
       { unthreaded (t.core p) with merge := none, slots := [], spool := [] } =
         { unthreaded (s.core p) with merge := none, slots := [], spool := [] } ∧
       t.thread p u = { s.thread p u with
         pc := (s.thread p u).pc + 8
         st := .waiting .vecUnit
         waitBeat := s.beat
         waitTmo := s.fld (Fld.coreSlotTmo_timeout p) })

/-- 04 R151, R152, R160, 06 R240, R242: RMT.GET, RMT.PUT and RMT.ACC to another device of the board complete where their operands
break no rule: the operation holds a remote tag and its request leaves for that device; a PUT or an ACC makes the command
side-effecting.
A board position without a device faults with RMT_DENIED. RMT.WAIT passes once no operation of the thread is open. -/
def Obligations.RemoteInstructions : Prop :=
  ∀ (p u kind type off : Nat) (w : IWord) (b : W64) (i : Instr) (s : State), Issues s p u 8 →
    (i, kind, type) ∈ [(.rmtGet p u w, 0, 0), (.rmtPut p u w, 1, 0), (.rmtAcc p u w, 2, w.mod.toNat)] →
    b = s.rg p u w.b → off = (s.rg p u w.a).toNat → w.c = 0 → (s.core p).vm1 = false →
    ((kind ≠ 2 → w.mod = 0) → type < 3 → w.imm.toNat % 4 = 0 → 4 ≤ w.imm.toNat → w.imm.toNat ≤ 4096 →
      b.toNat < 2 ^ 48 → b.toNat % 4 = 0 → SpoolOk (s.core p) off w.imm.toNat → s.rmtFree = true →
      (kind ≠ 0 → ∀ c, s.cmdOf p = some c → c.strict ≠ some true) → rmtPos b ≠ s.ownPos →
      (∀ d, s.boardDevice (rmtPos b) = some d → ∃ t, exec i s = .next t ∧
        (∀ q, q ≠ p → t.core q = s.core q) ∧ unthreaded (t.core p) = unthreaded (s.core p) ∧ OthersIdle s t p u ∧
        Passed (s.thread p u) (t.thread p u) 8 ∧ RmtSent s t d p u kind type (b.toNat % 2 ^ 44) off w.imm.toNat ∧
        (kind = 0 → t.sched = s.sched) ∧ (kind ≠ 0 → SideEffecting s t p)) ∧
      (s.boardDevice (rmtPos b) = none → ∃ t, exec i s = .next t ∧ Faulted t p u 0x15)) ∧
    (w.a = 0 → w.b = 0 → w.mod = 0 → w.imm = 0 → s.rmtOpen p u = false →
      ∃ t, exec (.rmtWait p u w) s = .next t ∧ ThreadOnly s t p u ∧ Passed (s.thread p u) (t.thread p u) 8)

/-- 04 R154, R155: BAR.ARRIVE completes in both scopes where the core has not arrived in this generation; in SET scope the
last arrival ends the generation. BAR.WAIT passes once the generation of the core's last arrival is over. BAR.SYNC arrives
and waits. A second arrival, or a wait without an arrival, faults with BAR_SCOPE (0x17). -/
def Obligations.BarrierInstructions : Prop :=
  ∀ (p u n : Nat) (w : IWord) (s x : State), Issues s p u 8 → w.a = 0 → w.b = 0 → w.c = 0 → w.imm.toNat = n → n < 16 →
    (w.mod = 1 ∨ w.mod = 2 ∧ (s.core p).vm1 = false ∧ ∀ c, s.cmdOf p = some c → (s.ctx c.ctx).serving = false) →
    x = (s.passed p u 8).barArrive p w →
    (s.hasArrived p w = false → exec (.barArrive p u w) s = .next x ∧
      exec (.barSync p u w) s = .next (if x.waitHolds p u (x.barWaitOf p w) then x else x.startWait p u (x.barWaitOf p w))) ∧
    (w.mod = 1 → ∀ c, s.cmdOf p = some c → x = (s.passed p u 8).setCmd (s.core p).cmd { c with
      bars := SMap.put c.bars n {
        gen := if c.count ≤ (SMap.get c.bars {} n).cores.length + 1 then (SMap.get c.bars {} n).gen + 1
          else (SMap.get c.bars {} n).gen
        cores := if c.count ≤ (SMap.get c.bars {} n).cores.length + 1 then []
          else s.rank p :: (SMap.get c.bars {} n).cores
        arrived := SMap.put (SMap.get c.bars {} n).arrived (s.rank p) (some (SMap.get c.bars {} n).gen) } }) ∧
    (w.mod = 2 → x = (s.passed p u 8).jobArrive (s.jobOf p) n ((s.logicalOf p).getD p)) ∧
    ((s.lastArrival p w).isSome = true → s.waitHolds p u (s.barWaitOf p w) = true →
      ∃ t, exec (.barWait p u w) s = .next t ∧ ThreadOnly s t p u ∧ Passed (s.thread p u) (t.thread p u) 8) ∧
    (s.hasArrived p w = true → ∃ t, exec (.barArrive p u w) s = .next t ∧ Faulted t p u 0x17) ∧
    (s.lastArrival p w = none → ∃ t, exec (.barWait p u w) s = .next t ∧ Faulted t p u 0x17)

/-- 04 R125, R156: THR.START makes an idle thread ready at gA with g1 to g8 of the issuer and every other register 0; THR.END
makes the thread idle; THR.JOIN passes once every named thread is idle; THR.RDS writes the special value to gA, and clears
SAT for selector 4 with MOD[0]. -/
def Obligations.ThreadInstructions : Prop :=
  ∀ (p u : Nat) (w : IWord) (s : State), Issues s p u 8 → w.c = 0 →
    (∀ v, w.imm.toNat = v → v < 8 → v ≠ 0 → v ≠ u → w.b = 0 → w.mod = 0 → (s.thread p v).st = .idle →
      (s.rg p u w.a).toNat % 8 = 0 → (s.rg p u w.a).toNat + 8 ≤ s.codeSize p →
      ∃ t, exec (.thrStart p u w) s = .next t ∧ CoreOnly s t p ∧ unthreaded (t.core p) = unthreaded (s.core p) ∧
        (t.core p).lastThread = u ∧ Passed (s.thread p u) (t.thread p u) 8 ∧
        (∀ x, x ≠ u → x ≠ v → t.thread p x = s.thread p x) ∧
        (t.thread p v).st = .ready ∧ (t.thread p v).pc = s.rg p u w.a ∧ (t.thread p v).sat = (s.thread p v).sat ∧
        (∀ r, (t.thread p v).rg r = if 1 ≤ r ∧ r ≤ 8 then (s.thread p u).rg r else 0) ∧
        (∀ r l, (t.thread p v).lane r l = 0) ∧ ∀ r, r ≠ 0 → (t.thread p v).rp r = 0) ∧
    (u ≠ 0 → w.a = 0 → w.b = 0 → w.mod = 0 → w.imm = 0 →
      ∃ t, exec (.thrEnd p u w) s = .next t ∧ ThreadOnly s t p u ∧ t.thread p u = { s.thread p u with
        pc := (s.thread p u).pc + 8
        st := .idle }) ∧
    (w.a = 0 → w.b = 0 → w.mod = 0 → w.imm.toNat < 256 →
      (∀ v, v < 8 → w.imm.getLsbD v = true → (s.thread p v).st = .idle) →
      ∃ t, exec (.thrJoin p u w) s = .next t ∧ ThreadOnly s t p u ∧ Passed (s.thread p u) (t.thread p u) 8) ∧
    (∀ sel, w.imm.toNat = sel → sel ≤ 0x0C → w.mod.toNat ≤ 1 →
      (sel = 8 ∨ sel = 9 ∨ sel = 0x0C → (s.core p).vm1 = false) → (sel = 5 → s.exactOn p = false) →
      ∃ t, exec (.thrRds p u w) s = .next t ∧ ThreadOnly s t p u ∧
        (t.thread p u).pc = (s.thread p u).pc + 8 ∧
        WroteG (s.thread p u) (t.thread p u) w.a.toNat (s.special p u sel (s.rg p u w.b)) ∧
        (t.thread p u).sat = ((s.thread p u).sat && !(decide (sel = 4) && w.mod.getLsbD 0)) ∧
        { t.thread p u with pc := 0, g := [], sat := false } = { s.thread p u with pc := 0, g := [], sat := false })

/-- 04 R161: CMD.PUB of a used entry completes: the command holds the core's value for the entry, in place of an earlier one.
04 R162: CMD.COMMIT of thread 0 completes where every other thread of the core is idle and no APPEND value of the core lies
outside its bounds: the core is committing and the thread waits. 04 R164: CMD.ABORT completes: the core issues no more, and a
command that runs and has met no fault is to end with ABORTED. 04 R158, R170, 02 R55, 03 R84, R113: CMD.BEGIN of thread 0
completes on a core whose command has been dispatched, where its STRICT agrees with what the lead core has fixed. The core
counts its epoch on, cancels its streams, unbinds every slot, invalidates every plane, clears every accumulator row, empties both
engine queues and takes the banks of the power plan; its thread waits. The command is side-effecting where the core runs a VM1
program. A core other than the lead core changes no byte of the vault. The lead core, where every publish word of an APPEND entry
reads without error and is at most LENGTH, and no other core of the set has begun with the other STRICT, fixes STRICT, holds those
words as the committed lengths, and zeroes every OUTPUT entry with ZERO set that it may write, and no other byte. -/
def Obligations.CommandInstructions : Prop :=
  (∀ (p u : Nat) (w : IWord) (c : RunCmd) (s : State), Issues s p u 8 → s.cmdOf p = some c → w.b = 0 → w.c = 0 → w.mod = 0 →
     (∀ i, w.imm.toNat = i → i < 16 → (s.core p).vm1 = false → (∃ e ∈ c.regions, e.index = i) →
       ∃ t, exec (.cmdPub p u w) s = .next t ∧ CommandAndCore s t p ∧ unthreaded (t.core p) = unthreaded (s.core p) ∧
         OthersIdle s t p u ∧ Passed (s.thread p u) (t.thread p u) 8 ∧ t.cmdAt (s.core p).cmd = some { c with
           pubs := (c.pubs.filter fun x => !(x.1 = s.rank p && x.2.1 = i)) ++ [(s.rank p, i, s.rg p u w.a)] }) ∧
     (u = 0 → w.a = 0 → w.imm = 0 → (∀ v, v < 8 → v ≠ 0 → (s.thread p v).st = .idle) →
       (∀ x ∈ c.pubs, ∀ e ∈ c.regions, x.1 = s.rank p → e.index = x.2.1 → e.append = true →
         SMap.get c.cl 0 e.index ≤ x.2.2.toNat ∧ x.2.2.toNat ≤ e.length) →
       ∃ t, exec (.cmdCommit p u w) s = .next t ∧ CoreOnly s t p ∧ OthersIdle s t p u ∧ (t.core p).phase = .committing ∧
         unthreaded { t.core p with phase := .none } = unthreaded { s.core p with phase := .none } ∧
         t.thread p u = { s.thread p u with
           pc := (s.thread p u).pc + 8
           st := .waiting .commit
           waitBeat := s.beat
           waitTmo := s.fld (Fld.coreSlotTmo_timeout p) }) ∧
     (w.a = 0 → w.imm = 0 →
       ∃ t, exec (.cmdAbort p u w) s = .next t ∧ (t.core p).stopped = true ∧ CommandAndCore s t p ∧ OthersIdle s t p u ∧
         Passed (s.thread p u) (t.thread p u) 8 ∧
         unthreaded { t.core p with stopped := false } = unthreaded { s.core p with stopped := false } ∧
         (c.phase = .running → c.faulted = none → t.cmdAt (s.core p).cmd = some { c with ending := some .aborted }))) ∧
  (∀ (p : Nat) (w : IWord) (strict : Bool) (c : RunCmd) (s : State), p < 1232 → s.sys.tclk = true →
     (s.core p).stopped = false → (s.core p).saving = false → (s.thread p 0).st = .ready → (s.core p).phase = .dispatched →
     (s.thread p 0).pc.toNat + 8 ≤ s.codeSize p → w.a = 0 → w.b = 0 → w.c = 0 → w.imm = 0 →
     w.mod = (if strict then 1 else 0) → (strict = true → (s.core p).vm1 = false) → s.cmdOf p = some c →
     c.strict ≠ some (!strict) →
     (s.rank p ≠ 0 → ∃ t, exec (.cmdBegin p 0 w) s = .next t ∧
       CmdBegun (s.core p) (t.core p) strict (s.planBanks ((s.logicalOf p).getD 0)) ∧ (∀ q, q ≠ p → t.core q = s.core q) ∧
       (t.thread p 0).st = .waiting .cmdBegin ∧ (t.thread p 0).pc = (s.thread p 0).pc + 8 ∧ t.vault = s.vault ∧
       t.cmdAt (s.core p).cmd = some { c with side := c.side || (s.core p).vm1 }) ∧
     (s.rank p = 0 → Healthy s → s.lineErrs = [] → s.sched.unpub = [] → (c.regions.map (·.index)).Nodup →
       (∀ e ∈ c.regions, e.base + e.length ≤ 0x10000000000) →
       (∀ e ∈ c.regions, e.append = true → (∀ i, i < 8 → s.isAt c.ctx (e.pub + i) = true) ∧
         leNat (s.pload c.ctx e.pub 8) ≤ e.length) →
       (∀ q ∈ s.setCores c, q ≠ p → (s.core q).phase = .dispatched ∨ (s.core q).strict = strict) →
       ∃ t d, exec (.cmdBegin p 0 w) s = .next t ∧
         CmdBegun (s.core p) (t.core p) strict (s.planBanks ((s.logicalOf p).getD 0)) ∧ (∀ q, q ≠ p → t.core q = s.core q) ∧
         (t.thread p 0).st = .waiting .cmdBegin ∧ (t.thread p 0).pc = (s.thread p 0).pc + 8 ∧
         t.cmdAt (s.core p).cmd = some d ∧ d.strict = some strict ∧ d.side = (c.side || (s.core p).vm1) ∧
         { d with strict := none, side := false, cl := [], vbytes := 0 } =
           { c with strict := none, side := false, cl := [], vbytes := 0 } ∧
         (∀ e ∈ c.regions, SMap.get d.cl 0 e.index = if e.append then leNat (s.pload c.ctx e.pub 8) else 0) ∧
         (∀ e ∈ c.regions, e.append = false → e.zero = true → (∀ i, i < e.length → s.writable c.ctx (e.base + i) = true) →
           ∀ i, i < e.length → t.vault.byte (s.pa c.ctx (e.base + i)) = 0) ∧
         ∀ x, (∀ e ∈ c.regions, e.append = false → e.zero = true →
             ∀ i, i < e.length → s.translate c.ctx (e.base + i) ≠ .at x) →
           t.vault.byte x = s.vault.byte x))

/-! ### Events of a core -/

/-- 04 R120: THREAD_READY makes a waiting thread ready when its condition holds, and changes nothing while it does not. 03 R92,
R108: SLOT_TIMEOUT of a timed wait whose condition does not hold faults the thread with SLOT_TIMEOUT (0x08) beyond its beat plus
T, and changes nothing at that beat or before it. 03 R92, R93: SLOT_TIMEOUT of a running stream whose next transfer waits on a
slot faults the owning thread beyond the beat of that wait plus T, and the transfer never starts; at that beat or before it, and
where the slot has become ready, nothing changes. 04 R158: CMD_BEGIN_COMPLETE makes thread 0 ready and starts the core's command
once its 64 tags are free and the lead core has issued its CMD.BEGIN; before that it changes nothing. -/
def Obligations.WaitsEnd : Prop :=
  ∀ (p u : Nat) (w : Wait) (s : State), p < 1232 → u < 8 → s.sys.tclk = true →
    ((s.thread p u).st = .waiting w →
      (s.waitHolds p u w = true → ∃ t, exec (.threadReady p u) s = .next t ∧ ThreadState s t p u .ready) ∧
      (s.waitHolds p u w = false → exec (.threadReady p u) s = .next s) ∧
      (s.timed p w = true → s.waitHolds p u w = false →
        ((s.thread p u).waitBeat + (s.thread p u).waitTmo < s.beat →
          ∃ t, exec (.slotTimeout p (.thread u)) s = .next t ∧ Faulted t p u 0x08) ∧
        (s.beat ≤ (s.thread p u).waitBeat + (s.thread p u).waitTmo →
          exec (.slotTimeout p (.thread u)) s = .next s))) ∧
    (∀ n x b, n < 32 → x = (s.core p).stream n → x.slotWait = some b → x.forming = true →
      s.producerHalted p (x.slotOf (x.fillOf x.nextElem)) = false →
      (s.slotReady p n x (s.members p x.desc) = .wait → b + x.slotTmo < s.beat → (s.core p).phase = .running →
        (s.thread p x.owner).st ≠ .idle →
        ∃ t, exec (.slotTimeout p (.stream n)) s = .next t ∧ Faulted t p x.owner 0x08 ∧
          StreamBecame (s.core p) (t.core p) n { x with stuck := true } ∧ t.vault = s.vault) ∧
      (s.slotReady p n x (s.members p x.desc) ≠ .wait ∨ s.beat ≤ b + x.slotTmo →
        exec (.slotTimeout p (.stream n)) s = .next s)) ∧
    ((s.core p).phase = .beginning → (s.core p).stopped = false →
      ((s.core p).tagsHeld = 0 → (s.core (s.leadOf p)).phase ≠ .dispatched →
        ∃ t, exec (.cmdBeginComplete p) s = .next t ∧ CoreOnly s t p ∧ (t.core p).phase = .running ∧
          t.thread p 0 = { s.thread p 0 with st := .ready } ∧ (∀ v, v ≠ 0 → t.thread p v = s.thread p v) ∧
          { t.core p with threads := [], phase := .none } = { s.core p with threads := [], phase := .none }) ∧
      ((s.core p).tagsHeld ≠ 0 ∨ (s.core (s.leadOf p)).phase = .dispatched →
        exec (.cmdBeginComplete p) s = .next s))

/-- 04 R164, R167: COMMAND_ABORT of a command that has met CMD.ABORT or a fault completes: every core of its set is free with no
stream running, the command is gone, and the vault is as it was where no other command of its context is in its commit phase.
04 R160: where the command was side-effecting and ended by a fault, its context is FAULTED. A command that has met neither is left
alone. 04 R162, R163, 09 R347: CORE_REPORT of a committing core whose streams, engine queues and remote operations are done
completes: the core has reported (in exact mode: met its waits), and with the last core of the set the commit phase begins (in
exact mode: the fold). FOLD_DONE completes: every core of the set has reported, the commit phase begins, and no byte of the vault
outside the units that the command has accumulated into changes. COMMIT_DONE completes: the publish words are written and no other
byte of the vault changes, every core of the set is free, and the command is gone. -/
def Obligations.CommandAborts : Prop :=
  (∀ (p : Nat) (c : RunCmd) (s : State), p < 1232 → s.sys.tclk = true → s.cmdOf p = some c →
     (c.ending.isSome = true ∨ c.faulted.isSome = true →
       ∃ t, exec (.commandAbort p) s = .next t ∧ CoresFree s t c ∧ t.cmdAt (s.core p).cmd = none ∧
         ((∀ e ∈ s.sched.cmds, ∀ d, e.2 = some d → d.ctx = c.ctx → d.phase = .running) → t.vault = s.vault) ∧
         (∀ q ∈ s.setCores c, ∀ n, n < 32 → ((t.core q).stream n).st ≠ .running ∧ ((t.core q).stream n).st ≠ .halted) ∧
         (c.ending = none → c.side = true → (t.ctx c.ctx).st = .faulted)) ∧
     (c.ending = none → c.faulted = none → exec (.commandAbort p) s = .next s)) ∧
  (∀ (p : Nat) (c : RunCmd) (s : State), p < 1232 → s.sys.tclk = true → s.cmdOf p = some c →
     ((s.core p).phase = .committing → (s.core p).stopped = false → c.faulted = none → c.ending = none →
       (∀ e ∈ (s.core p).streams, e.2.st = .idle ∧ e.2.pend = none) → (s.core p).eng0.queue = [] → (s.core p).eng1.queue = [] →
       (∀ e ∈ s.rmt, ∀ o, e.2 = some o → o.core = p → o.orphan = true) →
       ∃ t ph, exec (.coreReport p) s = .next t ∧ ph = (if s.exactOn p then CorePhase.met else .reported) ∧
         t.core p = { s.core p with phase := ph } ∧ CommandAndCore s t p ∧
         ((∀ q ∈ s.setCores c, q ≠ p → (s.core q).phase = ph) →
           t.cmdAt (s.core p).cmd = some { c with phase := if s.exactOn p then .folding else .committing }) ∧
         ((∃ q ∈ s.setCores c, q ≠ p ∧ (s.core q).phase ≠ ph) → t.sched = s.sched)) ∧
     (c.phase = .folding → ∃ t, exec (.foldDone p) s = .next t ∧ (∀ q ∈ s.setCores c, (t.core q).phase = .reported) ∧
       t.cmdAt (s.core p).cmd = some { c with phase := .committing } ∧ t.vault = (s.foldCmd c).vault ∧
       ((∀ r, r < c.count → ∀ e ∈ (SMap.get c.copies {} r).units, e.1 % 256 = 0) →
         ∀ x, (∀ r, r < c.count → ∀ e ∈ (SMap.get c.copies {} r).units, x < e.1 ∨ e.1 + 256 ≤ x) →
           t.vault.byte x = s.vault.byte x)) ∧
     (c.phase = .committing → Healthy s → s.lineErrs = [] →
       ∃ t, exec (.commitDone p) s = .next t ∧ CoresFree s t c ∧ t.cmdAt (s.core p).cmd = none ∧
         t.vault = (s.publish c).vault ∧
         ∀ x, (∀ e ∈ c.regions, ∀ i, i < 8 → s.translate c.ctx (e.pub + i) ≠ .at x) → t.vault.byte x = s.vault.byte x))

/-- 02 R45, R56, R57, R70: ACC_UPDATE completes where a result may land: the first waiting result of the engine's queue that no
front issued before it holds back lands in its row, and leaves the queue; a front ahead of a run holds back the results that
read a plane it writes, and only those. FRONT_DONE takes a front from the head of both queues, or the next front of a logical-tile
run from one engine and, with its last front, its mark from the other. 02 R53, R54: DRAIN_DONE writes the drained rows, clears
them where CLEAR says so, and takes the drain from the queue. 02 R73: KEEPER_RAMP_STEP lowers the keeper by one eighth at its mark,
and not before. 03 R90, R91: LAST_READ ends the engines' consumption of a slot. -/
def Obligations.EngineEvents : Prop :=
  ∀ (p : Nat) (e : Eng) (x : Engine) (s : State), p < 1232 → s.sys.tclk = true → x = (s.core p).eng e →
    (∀ i r o, x.landing [] 0 x.queue = some (i, r, o) → r.cols.length = (if r.wide then 256 else 128) →
      ∃ t, exec (.accUpdate p e) s = .next t ∧ EnginesOnly s t p ∧
        ((t.core p).eng e).queue = x.queue.take i ++ o.toList ++ x.queue.drop (i + 1) ∧
        (∀ h col n, col < 128 → n = (if r.wide then 2 * r.row + h else r.row) → h < (if r.wide then 2 else 1) →
          SMap.get ((t.core p).eng e).acc 0 (128 * n + col) =
            accumulated x n r.isInt (r.cols.getD (128 * h + col) 0) col) ∧
        (∀ n col, col < 128 → n ∉ narrowOf r.wide r.row →
          SMap.get ((t.core p).eng e).acc 0 (128 * n + col) = SMap.get x.acc 0 (128 * n + col)) ∧
        ∀ f, f ≠ e → (t.core p).eng f = (s.core p).eng f) ∧
    (∀ r rs all rest, x.queue = .run (r :: rs) all :: rest → x.marks = [] →
      x.landing [] 0 x.queue = some (0, r, if rs = [] then none else some (.run rs all))) ∧
    (∀ k ps r rs all rest, x.queue = .front k ps :: .run (r :: rs) all :: rest → x.marks = [] →
      ((∀ n ∈ r.planes, n ∉ ps) → x.landing [] 0 x.queue = some (1, r, if rs = [] then none else some (.run rs all))) ∧
      ((∃ n ∈ r.planes, n ∈ ps) → exec (.accUpdate p e) s = .next s)) ∧
    (∀ j k ps qs q0 q1, (s.core p).eng0.queue = .front j ps :: q0 → (s.core p).eng1.queue = .front k qs :: q1 →
      (s.core p).eng0.marks = [] → (s.core p).eng1.marks = [] →
      ∃ t, exec (.frontDone p) s = .next t ∧ EnginesOnly s t p ∧ (t.core p).eng0.queue = q0 ∧ (t.core p).eng1.queue = q1 ∧
        t.freeCtr = s.freeCtr + 1 ∧ ∀ f, ((t.core p).eng f).acc = ((s.core p).eng f).acc ∧
          ((t.core p).eng f).rows = ((s.core p).eng f).rows) ∧
    (∀ f y k rows fs all rest m ms, f ≠ e → y = (s.core p).eng f → x.marks = [] → rows ≠ [] →
      x.queue = .fold true (⟨some k, rows⟩ :: fs) all :: rest → y.marks = m :: ms → m.ahead = 0 →
      ∃ t, exec (.frontDone p) s = .next t ∧ EnginesOnly s t p ∧
        ((t.core p).eng e).queue = .fold true (⟨none, rows⟩ :: fs) all :: rest ∧
        ((∀ g ∈ fs, g.front = none) → (t.core p).eng f = { y with marks := ms }) ∧
        ((∃ g ∈ fs, g.front ≠ none) → (t.core p).eng f = y)) ∧
    (∀ d rest, x.queue = .drain d :: rest →
      ∃ t, exec (.drainDone p e) s = .next t ∧ CoreOnly s t p ∧ ((t.core p).eng e).queue = rest ∧
        (t.core p).spool = (List.range d.count).foldl
          (fun (m : Mem) i => m.store (d.dst + (d.first + d.step * i) * d.stride) (d.rowBytes x i)) (s.core p).spool ∧
        (∀ i r, i < d.count → r ∈ narrowOf d.wide (d.row + i) →
          (d.clear = true → (∃ o, (SMap.get x.rows {} r).st = .draining o) →
            (SMap.get ((t.core p).eng e).rows {} r).st = .clear) ∧
          (∀ o, d.clear = false → (SMap.get x.rows {} r).st = .draining (some o) →
            (SMap.get ((t.core p).eng e).rows {} r).st = .active o)) ∧
        (∀ n len, d.slot = some (n, len) →
          (∀ f, (if f = e then { x with queue := rest } else (s.core p).eng f).drainsTo n = false) →
          (t.core p).slot n = ((s.core p).slot n).endFill len) ∧
        { t.core p with eng0 := {}, eng1 := {}, spool := [], slots := [] } =
          { s.core p with eng0 := {}, eng1 := {}, spool := [], slots := [] }) ∧
    (∀ b, x.gapFrom = some b → x.keeper ≠ 0 → x.keeper ≤ 8 →
      (b + 525 + 175 * (8 - x.keeper) ≤ s.beat →
        ∃ t, exec (.keeperRampStep p e) s = .next t ∧ EnginesOnly s t p ∧
          (t.core p).eng e = { x with keeper := x.keeper - 1 } ∧ ∀ f, f ≠ e → (t.core p).eng f = (s.core p).eng f) ∧
      (s.beat < b + 525 + 175 * (8 - x.keeper) → exec (.keeperRampStep p e) s = .next s)) ∧
    (∀ n, n < 32 → ((s.core p).slot n).st = .draining →
      ((s.core p).slot n).user = .engine ∨ ((s.core p).slot n).user = .merge →
      ∃ t, exec (.lastRead p n) s = .next t ∧ CoreOnly s t p ∧ { t.core p with slots := [] } = { s.core p with slots := [] } ∧
        SlotBecame (s.core p) (t.core p) n { (s.core p).slot n with
          st := if ((s.core p).slot n).remain ≤ 1 then .empty else .full
          user := .none
          remain := ((s.core p).slot n).remain - 1 })

/-- 02 R75, R76, 03 R86, R113, 13 R460, R461: ENG_HW_FAULT and TRANSFER_HANG retire their core: where a spare is left it is
promised the core's number, the retirement goes to flash, and a running command that is not side-effecting and has met no earlier
fault or CMD.ABORT waits in its context to run again, in its place by SEQ; SPARE_SUBSTITUTION gives the number to the spare; BANK_SETTLED makes a settled bank ready, reading as zero. -/
def Obligations.CoreFailures : Prop :=
  ∀ (p : Nat) (i : Instr) (s : State), p < 1232 → s.sys.tclk = true →
    ((∃ e h, i = .engHwFault p e h ∧ s.cmap.retired.contains p = false ∧ s.cmap.fenced.contains p = false) ∨
      (∃ n k o b, i = .transferHang p n k ∧ n < 32 ∧ ((s.core p).stream n).xfer k = some o ∧ o.served = some b ∧
        b + 3500 < s.beat) →
      ∀ l q qs, s.logicalOf p = some l → s.spares.filter (· ≠ p) = q :: qs →
      (∀ c, s.cmdOf p = some c → c.phase = .running ∧ c.side = false ∧ c.ending = none ∧ c.faulted = none) →
      ∃ t, exec i s = .next t ∧ t.cmap = { s.cmap with
          retired := s.cmap.retired ++ [p]
          waiting := s.cmap.waiting ++ [(p, q)] } ∧
        t.sec.flash = s.sec.flash ++ [.retire p] ∧
        ∀ c, s.cmdOf p = some c → t.cmdAt (s.core p).cmd = none ∧ CoresFree s t c ∧
          (t.ctx c.ctx).rerun = c.again.inOrder (s.ctx c.ctx).rerun) ∧
    (∀ q, s.cmap.waiting.find? (fun e => e.1 = p) = some (p, q) →
      ∃ t, exec (.spareSubstitution p) s = .next t ∧
        t.cmap.logical = s.cmap.logical.map (fun x => if x = p then q else x) ∧
        t.cmap.waiting = s.cmap.waiting.filter (fun e => e.1 ≠ p) ∧ t.cmap.retired = s.cmap.retired ∧
        t.cores = s.cores ∧ t.vault = s.vault) ∧
    (∀ b, b < 8 → SMap.has (s.core p).settling b = true → SMap.get (s.core p).settling 0 b ≤ s.beat →
      ∃ t, exec (.bankSettled p b) s = .next t ∧ CoreOnly s t p ∧
        { t.core p with settling := [], spool := [] } = { s.core p with settling := [], spool := [] } ∧
        (∀ a, (t.core p).spool.byte a = if b * 0x10000 ≤ a ∧ a < (b + 1) * 0x10000 then 0 else (s.core p).spool.byte a) ∧
        (t.core p).settlingBank (b * 0x10000) 0x10000 = none)

/-- 03 R100 to R104, R107, R110: STR_TRANSFER_ISSUE forms the next transfer of the next eligible stream: a plain stream that
reads the vault holds one more tag, and its stack one more request. TRANSFER_REPLY frees the tag: data lands in the spool,
the last reply ends the descriptor, an error faults the stream. -/
def Obligations.StreamEvents : Prop :=
  ∀ (p n : Nat) (x : Stream) (s : State), p < 1232 → n < 32 → s.sys.tclk = true →
    (∀ k, x = ((s.noteWaits p).core p).stream n → s.noteWaits p = s → s.nextStream p = some n →
      dNearSlot x.desc = false → dMcast x.desc = 0 → dDir x.desc = 0 → dTranspose x.desc = false →
      k = x.take x.nextElem → k ≠ 0 → (s.core p).touchesOff (s.nearOf p x x.nextElem) (k * dEsize x.desc) = false →
      s.farSide p (match s.cmdOf p with
        | some c => c.ctx
        | none => (s.core p).ctx) false (dEsize x.desc) (x.fars x.nextElem k) = .vault →
      ∃ t o, exec (.strTransferIssue p) s = .next t ∧ o.start = x.nextElem ∧ o.count = k ∧ o.reply = none ∧
        ((t.core p).stream n).out = x.out ++ [o] ∧ ((t.core p).stream n).nextElem = x.nextElem + k ∧
        ((t.core p).stream n).st = .running ∧ (t.core p).lastStream = n ∧
        (∀ m, m ≠ n → (t.core p).stream m = (s.core p).stream m) ∧ t.vault = s.vault ∧
        (t.core p).spool = (s.core p).spool ∧
        (t.stack (stackOf (o.pas.headD 0))).queue = (s.stack (stackOf (o.pas.headD 0))).queue ++ [.xfer p n o.start]) ∧
    (∀ o a, x = (s.core p).stream n → x.xfer o.start = some o → o.dst = [(p, a)] → x.st = .running →
      dNearSlot x.desc = false →
      (∀ bs, o.reply = some (.data bs) →
        ∃ t, exec (.transferReply p n o.start) s = .next t ∧ (t.core p).spool = (s.core p).spool.store a bs ∧
          t.vault = s.vault ∧
          (x.out.filter (fun y => y.start ≠ o.start) ≠ [] →
            ((t.core p).stream n).out = x.out.filter fun y => y.start ≠ o.start) ∧
          (x.out.filter (fun y => y.start ≠ o.start) = [] → dElems x.desc ≤ x.nextElem → x.haltAt = none → x.pend = none →
            ((t.core p).stream n).st = .idle ∧
            ((t.core p).stream n).doneCount = (x.doneCount + 1) % 65536)) ∧
      (∀ code, o.reply = some (.err code) →
        ∃ t, exec (.transferReply p n o.start) s = .next t ∧ ((t.core p).stream n).st = .faulted ∧
          ((t.core p).stream n).fault = code))

/-! ### Links -/

/-- 06 R215 to R221: FLIT_TX takes the next flit of the bundle from the port's queue, gives it the next sequence number,
keeps it until it is acknowledged, and takes a credit of its channel unless it is a LINK flit; its 256 bytes carry the header word,
the payload and the link CRC, and the credits that the header returns are no longer owed. FLIT_RX accepts the expected flit of a
good FEC and CRC: its ACK frees replay buffer, its credits arrive, and one credit is owed for it. A flit with a codeword of more
than 8 symbol errors, or with another CRC, is discarded, and the next header carries NAK. A pass bundle hands the bytes to the bundle
of the opposite port (R226). -/
def Obligations.FlitsSentAndReceived : Prop :=
  ∀ (p b : Nat) (x : Bundle) (s : State), p < 4 → b < 8 → s.sys.tclk = true → x = s.bundle p b →
    (∀ f pay, s.sending p b = true → x.resend = 0 → s.nextFlit p b = some f → (∀ e ∈ x.owed, e.1 < 8) →
      pay = f.payload.take 240 ++ (s.freeBytes (240 - f.payload.length)).1 →
      ∃ t w, exec (.flitTx p b) s = .next t ∧ w = field (t.bundle p b).wire 0 8 ∧ OtherBundles s t p b ∧ t.cores = s.cores ∧
        t.vault = s.vault ∧
        ((t.port p).txq.map fun g => { g with waits := [] }) = ((s.port p).txq.erase f).map (fun g => { g with waits := [] }) ∧
        (t.bundle p b).nextSeq = (x.nextSeq + 1) % 1024 ∧
        (t.bundle p b).unacked = x.unacked ++ [{
          seq := x.nextSeq
          flit := { f with
            payload := pay
            waits := [] }
          beat := s.beat }] ∧
        (f.type ≠ 2 → SMap.get (t.bundle p b).credits 0 f.vc = SMap.get x.credits 0 f.vc - 1) ∧
        (f.type = 2 → (t.bundle p b).credits = x.credits) ∧
        (t.bundle p b).wire.length = 256 ∧ hType w = f.type % 16 ∧ hVc w = f.vc % 8 ∧ hSeq w = x.nextSeq % 1024 ∧
        hAck w = (x.expected + 1023) % 1024 ∧ hNak w = x.nak ∧ (t.bundle p b).nak = false ∧
        (∀ v, SMap.get (t.bundle p b).owed 0 v = SMap.get x.owed 0 v - if v = hCredVc w then hCred w else 0) ∧
        ((t.bundle p b).wire.drop 8).take 240 = pay ∧
        field (t.bundle p b).wire 248 8 = (linkCrc ((t.bundle p b).wire.take 248)).toNat ∧
        t.fld (Fld.lnkTxFlits_count p) = (s.fld (Fld.lnkTxFlits_count p) + 1) % 2 ^ 64) ∧
    (∀ words spoilt bytes w, s.bundleUp p b = true → s.portState p ≠ 6 → w = field bytes 0 8 →
      (s.fld (Fld.xptPort_mode p b) = 1 → spoilt = false → (∀ c ∈ words, c.dedup.length ≤ 8) →
        field bytes 248 8 = (linkCrc (bytes.take 248)).toNat → hType w ≠ 0 → hSeq w = x.expected →
        typeVc (hType w) = some (hVc w) → hNak w = false →
        ∃ t, exec (.flitRx p b words spoilt bytes) s = .next t ∧ OtherBundles s t p b ∧ t.cores = s.cores ∧ t.vault = s.vault ∧
          (t.bundle p b).expected = (x.expected + 1) % 1024 ∧ (t.bundle p b).discarding = false ∧
          (t.bundle p b).unacked = (x.acked (hAck w)).unacked ∧
          SMap.get (t.bundle p b).credits 0 (hCredVc w) = SMap.get x.credits 0 (hCredVc w) + hCred w ∧
          (hType w ≠ 2 → SMap.get (t.bundle p b).owed 0 (hVc w) = SMap.get x.owed 0 (hVc w) + 1) ∧
          t.fld (Fld.lnkRxFlits_count p) = (s.fld (Fld.lnkRxFlits_count p) + 1) % 2 ^ 64) ∧
      (s.fld (Fld.xptPort_mode p b) = 1 →
        spoilt = true ∨ (∃ c ∈ words, 8 < c.dedup.length) ∨ field bytes 248 8 ≠ (linkCrc (bytes.take 248)).toNat →
        ∃ t, exec (.flitRx p b words spoilt bytes) s = .next t ∧ OtherBundles s t p b ∧ t.cores = s.cores ∧ t.vault = s.vault ∧
          (t.bundle p b).expected = x.expected ∧ (t.bundle p b).unacked = x.unacked ∧
          (x.discarding = false → (t.bundle p b).nak = true ∧ (t.bundle p b).discarding = true)) ∧
      (s.fld (Fld.xptPort_mode p b) = 2 →
        ∃ t, exec (.flitRx p b words spoilt bytes) s = .next t ∧ t.cores = s.cores ∧ t.vault = s.vault ∧
          t.bundle (opposite p) b = { s.bundle (opposite p) b with wire := bytes } ∧ (t.bundle p b).expected = x.expected ∧
          (t.bundle p b).unacked = x.unacked ∧ (t.bundle p b).credits = x.credits))

/-- 06 R221, R222, R225: REPLAY_TIMEOUT begins a replay of every unacknowledged flit once the oldest has waited longer than
REPLAY_TMO, and retrains the bundle after 16 replays of it; RETRAIN_DONE within 17,500 beats resumes with a replay; after them
the bundle goes out of service. 06 R215, R224, R231, R232, R239, 12 R428: IDLE_FLIT_INSERT sends an idle flit on a port that has sent
65,536 flits without one; LANE_FAILURE of a lane in use gives it to the first free spare and tells the neighbour, one for its
error rate only past SPARE_THRESH, and an electrically idle link makes the port IDLE; LINK_TRAINED puts the trained bundles in
service and sends HELLO; a trained port comes up once it has heard a HELLO of this part, and one of another part keeps it down;
PORT_TRAIN_RETRY trains a port that is down or failed again. -/
def Obligations.ReplayAndRetraining : Prop :=
  (∀ (p b : Nat) (x : Bundle) (s : State), p < 4 → b < 8 → s.sys.tclk = true → x = s.bundle p b →
     (∀ f fs, x.unacked = f :: fs → x.retrainFrom = none →
       (f.beat + s.fld (Fld.lnkCtrl_replayTmo p) < s.beat →
         (f.replays < 16 → ∃ t, exec (.replayTimeout p b) s = .next t ∧ OtherBundles s t p b ∧ LoomOnly s
             { t with bundles := s.bundles } ∧
           t.bundle p b = { x with
             unacked := x.unacked.map fun g => { g with replays := g.replays + 1 }
             resend := x.unacked.length }) ∧
         (16 ≤ f.replays → ∃ t, exec (.replayTimeout p b) s = .next t ∧ OtherBundles s t p b ∧
           (t.bundle p b).retrainFrom = some (s.beat : Int) ∧ (t.bundle p b).unacked = x.unacked ∧ t.portState p = 4)) ∧
       (s.beat ≤ f.beat + s.fld (Fld.lnkCtrl_replayTmo p) → exec (.replayTimeout p b) s = .next s)) ∧
     (∀ from_ rtt, x.retrainFrom = some from_ →
       (s.beat ≤ from_ + 17500 → ∃ t, exec (.retrainDone p b rtt) s = .next t ∧ OtherBundles s t p b ∧
         t.bundle p b = { x with
           retrainFrom := none
           unacked := x.unacked.map fun g => { g with replays := 0 }
           resend := x.unacked.length } ∧
         t.fld (Fld.lnkBundle_rtt p b) = rtt % 2 ^ 16) ∧
       (from_ + 17500 < s.beat → s.bundleUp p b = true → b ≠ 0 → s.fld (Fld.xptHolder_holder p b) ≠ 1 →
         s.fld (Fld.lnkPortStatus_bundleUp p) ≠ 2 ^ b → ∀ i ∈ [Instr.retrainFail p b, .retrainDone p b rtt],
         ∃ t, exec i s = .next t ∧ OtherBundles s t p b ∧ t.bundleUp p b = false ∧
           (t.fld (Fld.lnkPortStatus_bundleLost p)).testBit b = true ∧ t.bundle p b = {} ∧
           ∀ c, c ≠ b → t.bundleUp p c = s.bundleUp p c))) ∧
  (∀ (p : Nat) (s : State), p < 4 → s.sys.tclk = true →
     (∀ b, 65536 ≤ (s.port p).sinceIdle → ((List.range 8).find? fun b => s.sending p b) = some b →
       ∃ t, exec (.idleFlitInsert p) s = .next t ∧ OtherBundles s t p b ∧ t.cores = s.cores ∧ t.vault = s.vault ∧
         t.port p = { s.port p with sinceIdle := 0 } ∧ hType (field (t.bundle p b).wire 0 8) = 0 ∧
         (t.bundle p b).nextSeq = (s.bundle p b).nextSeq ∧ (t.bundle p b).unacked = (s.bundle p b).unacked) ∧
     (∀ l cause, l < 64 → (s.port p).failedLanes.contains l = false →
       (cause ≠ .idle → (cause = .rate →
           s.fld (Fld.lnkCtrl_spareThresh p) ≠ 0 ∧ s.fld (Fld.lnkCtrl_spareThresh p) < s.laneFixes p l) →
         (s.port p).failedLanes.contains 64 = false → s.flag (Fld.lnkSpare_s64Valid p) = false →
         ∃ t, exec (.laneFailure p ⟨l, cause⟩) s = .next t ∧ t.flag (Fld.lnkSpare_s64Valid p) = true ∧
           t.fld (Fld.lnkSpare_s64Lane p) = l ∧ (t.port p).failedLanes = l :: (s.port p).failedLanes ∧
           SentLast s t [.spare p l] ∧ t.bundles = s.bundles ∧ t.cores = s.cores) ∧
       (cause = .rate → s.fld (Fld.lnkCtrl_spareThresh p) = 0 ∨ s.laneFixes p l ≤ s.fld (Fld.lnkCtrl_spareThresh p) →
         exec (.laneFailure p ⟨l, cause⟩) s = .next s) ∧
       (cause = .idle → s.portUp p = true → s.loom.upAtCommit.contains p = false →
         ∃ t, exec (.laneFailure p ⟨l, cause⟩) s = .next t ∧ t.portState p = 6 ∧ LoomOnly s t)) ∧
     (∀ bs : BitVec 8, bs ≠ 0 → (s.portState p = 0 ∨ s.portState p = 1) →
       ∃ t, exec (.linkTrained p bs) s = .next t ∧ t.fld (Fld.lnkPortStatus_bundleUp p) = bs.toNat ∧
         t.loom.out = s.loom.out ++ [.hello p (s.helloOf p)] ∧
         t.portState p = (if (s.port p).heard = true ∧ s.fld (Fld.lnkPeer_peerPart p) = 2 then
           if s.fld (Fld.lnkPortStatus_bundleLost p) = 0 then 2 else 3 else 1)) ∧
     (∀ h, h.port < 4 → s.portState p = 1 → s.fld (Fld.lnkPortStatus_bundleUp p) ≠ 0 → h.part < 2 ^ 16 →
       ∃ t, exec (.hello p h) s = .next t ∧ t.portState p = (if h.part = 2 then
           if s.fld (Fld.lnkPortStatus_bundleLost p) = 0 then 2 else 3 else 0) ∧
         t.raw (Reg.lnkPeerSerial p) = h.serial ∧ t.fld (Fld.lnkPeer_peerPort p) = h.port ∧
         t.flag (Fld.lnkPeer_valid p) = true ∧ t.port p = { s.port p with heard := true } ∧ t.bundles = s.bundles ∧
         t.cores = s.cores) ∧
     (∀ b, s.sys.retryBeat = some b → (s.portState p = 0 ∨ s.portState p = 5) →
       (b + 175000000 * ((s.port p).tries + 1) ≤ s.beat →
         ∃ t, exec (.portTrainRetry p) s = .next t ∧ t.portState p = 1 ∧ (t.port p).heard = false ∧ t.bundles = s.bundles ∧
           t.cores = s.cores) ∧
       (s.beat < b + 175000000 * ((s.port p).tries + 1) → exec (.portTrainRetry p) s = .next s)))

/-! ### The loom -/

/-- 06 R233, R234: DISC_FLOOD of the first origin, of a lower serial, or of a discovery after the last one has ended (log 131) is
taken up: the device answers that it accepts and floods on; any other flood is declined. DISC_ANSWER counts a neighbour off,
DISC_REPORT keeps a child's reports, and DISC_TIMEOUT counts off a neighbour silent for more than 175,000 beats. -/
def Obligations.DiscoveryRows : Prop :=
  ∀ (p : Nat) (d : Disc) (s : State), p < 4 → Meshed s → d = s.disc →
    (∀ f, (∀ o, d.origin = some o → f.serial.ult o = true ∨ s.discOver f = true) → (d.isOrigin = false ∨ d.live = false) →
      (∃ q ∈ s.upPorts, q ≠ p) →
      ∃ t rc, exec (.discFlood p f) s = .next t ∧ rc = stepTo f.row f.col f.port ∧ t.disc.origin = some f.serial ∧
        t.disc.row = rc.1 ∧ t.disc.col = rc.2 ∧ t.disc.parent = some p ∧ t.disc.live = true ∧
        t.disc.waiting = s.upPorts.filter (· ≠ p) ∧
        SentLast s t (.answer p f.serial true ::
          (s.upPorts.filter (· ≠ p)).map fun q => .flood q { serial := f.serial, row := rc.1, col := rc.2, port := q })) ∧
    (∀ f o, d.origin = some o → f.serial.ult o = false → s.discOver f = false → f.serial ≠ o →
      ∃ t, exec (.discFlood p f) s = .next t ∧ t.disc = d ∧ SentLast s t [.answer p f.serial false] ∧ LoomOnly s t) ∧
    (∀ o, d.live = true → d.origin = some o →
      (∀ acc, d.waiting.contains p = true → (∃ q ∈ d.waiting, q ≠ p) →
        ∃ t, exec (.discAnswer p o acc) s = .next t ∧ LoomOnly s t ∧ t.loom.out = s.loom.out ∧ t.disc = { d with
          waiting := d.waiting.filter (· ≠ p)
          children := if acc then p :: d.children else d.children }) ∧
      (∀ rs, d.children.contains p = true → d.reported.contains p = false → d.waiting ≠ [] →
        ∃ t, exec (.discReport p o rs) s = .next t ∧ LoomOnly s t ∧ t.loom.out = s.loom.out ∧ t.disc = { d with
          reported := p :: d.reported
          reports := d.reports ++ rs }) ∧
      (d.waiting.contains p = true → (∃ q ∈ d.waiting, q ≠ p) →
        (d.beat + 175000 < s.beat → ∃ t, exec (.discTimeout p) s = .next t ∧ LoomOnly s t ∧ t.disc = { d with
          waiting := d.waiting.filter (· ≠ p)
          timedOut := true }) ∧
        (s.beat ≤ d.beat + 175000 → exec (.discTimeout p) s = .next s)))

/-- 06 R238, 07 R267, R268, R300, 08 R313: on a device that is not the origin, each prepare row checks what it is
asked, sets it aside, and answers its status to the origin, THREAD_LOOM's once the beat is aligned or at once where its checks
fail; the commit of a draft, of a replacement and the start of a launch put what was set aside in force; PREPARE_ABORT gives it
up. 06 R238: at the origin, PREPARE_REPLY keeps the first reply of each device to the operation that runs, with the holder that it
names; while some device has still to answer, nothing else of the device changes. -/
def Obligations.TwoPhaseRows : Prop :=
  (∀ (s : State), s.loom.ops = [] →
     (∀ nr nc row col paths rtts k, Meshed s → row < nr → col < nc → s.loom.prep = none →
       k = (⟨nr, nc, row, col, paths⟩ : ThreadPrep) →
       (s.threadCheck k = .ok →
         ∃ t, exec (.threadPrepare nr nc row col paths rtts) s = .next t ∧ t.loom.prep = some k ∧
           t.loom.undo = some (threadRegs.map fun off => (off, s.raw off)) ∧ t.loom.exchanges = 0 ∧
           t.loom.out = s.loom.out ∧ t.cores = s.cores ∧ t.warp = s.warp ∧ t.sched = s.sched) ∧
       (s.threadCheck k ≠ .ok →
         ∃ t, exec (.threadPrepare nr nc row col paths rtts) s = .next t ∧ LoomOnly s t ∧ t.regs = s.regs ∧
           t.loom.prep = none ∧ SentLast s t [.reply .thread row col (s.threadCheck k)
             (if s.threadCheck k = .conflict then s.conflictHolder k else 0)])) ∧
     (∀ value k v, Meshed s → s.loom.prep = some k → 16 ≤ s.loom.exchanges → v = value + s.loom.delay.getD 0 / 2 →
       ∃ t, exec (.beatValue value) s = .next t ∧ t.flag Fld.beatStatus_aligned = true ∧ t.loom.prep = some k ∧
         SentLast s t ((treeChildren k.nr k.nc k.row k.col).map (fun c => .beat c v) ++ [.reply .thread k.row k.col .ok 0])) ∧
     (∀ n steps rep k, Meshed s → s.loom.prep = some k → s.allStaged = [] →
       ∃ t, exec (.threadCommit n steps rep) s = .next t ∧ t.devState = 3 ∧ t.loom.prep = none ∧ t.loom.nr = k.nr ∧
         t.loom.nc = k.nc ∧ t.loom.row = k.row ∧ t.loom.col = k.col ∧ t.loom.pos = ringPos k.nr k.nc k.row k.col ∧
         t.loom.express = k.paths ∧ t.warp.passes = [] ∧ t.warp.draft = none ∧ ∀ p, t.core p = { s.core p with
           deliver := []
           experts := none }) ∧
     (Threaded s →
       (∀ bs, ∃ t, exec (.draftPrepare bs) s = .next t ∧ t.warp = { s.warp with prepared := (s.draftCheck bs).2 } ∧
         SentLast s t [.reply .draft s.loom.row s.loom.col (s.draftCheck bs).1 0] ∧ t.cores = s.cores ∧ t.regs = s.regs) ∧
       (∀ d, s.isOrigin = false → s.warp.prepared = some d →
         ∃ t, exec .draftCommit s = .next t ∧ t.warp.prepared = none ∧ t.cores = s.cores ∧
           (s.warp.draft = none → t.warp.draft = some d ∧ t.warp.waiting = none ∧ t.raw Reg.warpDraftId = d.id) ∧
           (∀ x, s.warp.draft = some x → x.entries ≠ [] → t.warp.waiting = some d ∧ t.warp.draft = some x)) ∧
       (∀ job jobs, s.sched.cmds = [] → ∃ t, exec (.launchPrepare ⟨job, jobs⟩) s = .next t ∧
         t.loom.out = (s.launchPrepare job jobs).1.loom.out ++ [.reply .launch (s.launchPrepare job jobs).1.loom.row
           (s.launchPrepare job jobs).1.loom.col (s.launchPrepare job jobs).2 0] ∧
         t.sched = (s.launchPrepare job jobs).1.sched) ∧
       (∀ job start k q g, s.sched.prepared = [k] → s.beat ≤ start → s.part (s.ctx k).part = some q →
         s.program (s.ctx k).program = some g → (s.ctx k).serving = false → s.regradeDue = false →
         ∃ t, exec (.launchStart job start) s = .next t ∧ (t.ctx k).st = .launched ∧
           (t.ctx k).startBeat = some start ∧ (t.ctx k).recIdx = 0 ∧ (t.ctx k).split = s.splitOf g ∧
           t.sched.prepared = [] ∧ (job, start) ∈ t.loom.starts ∧ t.cores = s.cores ∧
           ∀ j, j ≠ k → t.ctx j = s.ctx j) ∧
       (∀ base mode pkg, 64 ≤ base ∨ 1 < mode →
         ∃ t, exec (.replacePrepare base mode pkg) s = .next t ∧ t.warp = s.warp ∧
           SentLast s t [.reply .replace s.loom.row s.loom.col .badArgument 0]) ∧
       (∀ base mode pkg, base < 64 → mode ≤ 1 → s.sched.cmds = [] →
         ∃ t, exec (.replacePrepare base mode pkg) s = .next t ∧ t.warp = (s.stageWarp base pkg).1.warp ∧
           SentLast (s.stageWarp base pkg).1 t [.reply .replace (s.stageWarp base pkg).1.loom.row
             (s.stageWarp base pkg).1.loom.col (s.stageWarp base pkg).2 0]) ∧
       (∀ base mode s0, (s.base base).staged.isSome = true → s.inDraft base = true →
         ∃ t, exec (.replaceCommit base mode s0) s = .next t ∧ (t.base base).st = .replacing ∧
           (t.base base).repl = some (s0, mode) ∧ (t.base base).staged = (s.base base).staged ∧ t.vault = s.vault ∧
           ∀ b, b ≠ base → t.base b = s.base b)) ∧
     (Meshed s →
       (∃ t, exec (.prepareAbort .draft) s = .next t ∧ t.warp = { s.warp with prepared := none } ∧ LoomOnly s
         { t with warp := s.warp }) ∧
       (∃ t, exec (.prepareAbort .thread) s = .next t ∧ t.loom.prep = none ∧ t.loom.undo = none ∧ t.cores = s.cores) ∧
       (∃ t, exec (.prepareAbort .launch) s = .next t ∧ t.sched.prepared = [] ∧ t.cores = s.cores) ∧
       ∃ t, exec (.prepareAbort .replace) s = .next t ∧ t.cores = s.cores ∧ ∀ b ∈ s.stagedBases, (t.base b).staged = none)) ∧
  (∀ (k : LoomOpKind) (row col : Nat) (st : Status) (holder : Nat) (o : LoomOp) (rest : List LoomOp) (s : State), Meshed s →
     s.loom.ops = o :: rest → o.kind = k → o.replies.length + 1 < s.opDevices o →
     ∃ t, exec (.prepareReply k row col ⟨st, holder⟩) s = .next t ∧ { t with loom := {} } = { s with loom := {} } ∧
       t.loom.out = s.loom.out ∧
       ((∀ r ∈ o.replies, ¬(r.1 = row ∧ r.2.1 = col)) →
         t.loom.ops = { o with
           replies := o.replies ++ [(row, col, st)]
           holders := if holder = 0 then o.holders else o.holders ++ [((row, col), holder)] } :: rest) ∧
       ((∃ r ∈ o.replies, r.1 = row ∧ r.2.1 = col) → t.loom.ops = s.loom.ops))

/-- 06 R239, R247 to R250, 13 R465: an ARRIVE of a child counts in the generation that the barrier awaits, and once the
device and every child have arrived it goes on to the parent; the RELEASE of the parent completes the generation and goes on
to every child, and a leaf without cores of the job has then arrived for the next; an ARRIVE in error, a barrier past BAR_TMO at
the origin, and a FAULT flit leave the device FAULTED; JOB_STOP ends the job's contexts here. -/
def Obligations.LoomBarriersAndFaults : Prop :=
  ∀ (p : Nat) (key : BarKey) (fl : BitVec 8) (gen : W64) (x : LoomBar) (s : State), p < 4 → Threaded s →
    x = s.bar key → s.loom.undo = none →
    (gen = s.barGen key → p ∈ s.childPorts → p ∉ x.children →
      (s.arrivedHere key = false → ∃ t, exec (.barrierArriveRx p key fl gen) s = .next t ∧ t.loom.out = s.loom.out ∧
        t.bar key = { x with
          children := p :: x.children
          flags := x.flags ||| fl
          firstBeat := some (x.firstBeat.getD s.beat) } ∧ t.cores = s.cores) ∧
      (s.arrivedHere key = true → x.sentUp = false → (∀ c ∈ s.childPorts, c = p ∨ c ∈ x.children) → s.isRoot = false →
        ∃ t, exec (.barrierArriveRx p key fl gen) s = .next t ∧
          SentLast s t [.arrive s.parentPort key (x.flags ||| fl) gen] ∧ (t.bar key).sentUp = true ∧ t.cores = s.cores)) ∧
    (gen ≠ s.barGen key ∨ p ∉ s.childPorts ∨ p ∈ x.children →
      ∃ t, exec (.barrierArriveRx p key fl gen) s = .next t ∧ t.devState = 5) ∧
    (∀ j n, key = .job j n → gen = x.gen → x.sentUp = true → p = s.parentPort →
      (s.jobCores j ≠ [] ∨ s.childPorts ≠ [] →
        ∃ t, exec (.barrierReleaseRx p key fl gen) s = .next t ∧
          SentLast s t (s.childPorts.map fun c => .release c key fl gen) ∧ (t.bar key).gen = gen + 1 ∧
          (t.bar key).cores = [] ∧ (t.bar key).localDone = false ∧ (t.bar key).sentUp = false ∧ t.cores = s.cores) ∧
      (s.jobCores j = [] → s.childPorts = [] → s.isRoot = false →
        ∃ t, exec (.barrierReleaseRx p key fl gen) s = .next t ∧ SentLast s t [.arrive s.parentPort key 0 (gen + 1)] ∧
          (t.bar key).gen = gen + 1 ∧ (t.bar key).sentUp = true ∧ t.cores = s.cores)) ∧
    (∀ b, key = .step b → gen = (s.base b).step → x.sentUp = true → p = s.parentPort → (s.base b).repl = none →
      ∃ t, exec (.barrierReleaseRx p key fl gen) s = .next t ∧
        SentLast s t (s.childPorts.map fun c => .release c key fl gen) ∧ (t.base b).step = gen + 1 ∧
        (t.base b).begun = false ∧ (t.bar key).sentUp = false ∧ t.cores = s.cores) ∧
    (∀ b, x.firstBeat = some b → s.isOrigin = true → s.fld Fld.beatBarTmo_timeout ≠ 0 →
      (b + s.fld Fld.beatBarTmo_timeout < s.beat → ∃ t, exec (.barrierTimeout key) s = .next t ∧ t.devState = 5) ∧
      (s.beat ≤ b + s.fld Fld.beatBarTmo_timeout → exec (.barrierTimeout key) s = .next s)) ∧
    (∀ loc, ∃ t, exec (.faultFlit p loc) s = .next t ∧ t.devState = 5) ∧
    (∀ job st k, s.jobCtxs job = [k] → s.cmdsOf k = [] → s.sched.cmds = [] →
      ∃ t, exec (.jobStop job st) s = .next t ∧ (t.ctx k).st = .created)

/-- 06 R251 to R256: BEAT_TIMING_EXCHANGE keeps the smallest round trip of 16 exchanges; BEAT_VALUE, once they are done, sets the
count to the value with half the round trip, rounded up to a TCLK edge, sends that value down the tree, and shows the adjustment;
START_BEAT_REACHED starts the contexts whose beat has come; BEAT_MARK pulses at multiples of 2^MARK_SHIFT. -/
def Obligations.BeatRows : Prop :=
  ∀ (s : State),
    (∀ t0 t1 t2 t3, Meshed s → ∃ t, exec (.beatTimingExchange t0 t1 t2 t3) s = .next t ∧
      { t with loom := {} } = { s with loom := {} } ∧
      t.loom = { s.loom with
        delay := some (match s.loom.delay with
          | some d => if s.loom.exchanges < 16 then min d (t3 - t0 - (t2 - t1)) else t3 - t0 - (t2 - t1)
          | none => t3 - t0 - (t2 - t1))
        exchanges := if s.loom.exchanges < 16 then s.loom.exchanges + 1 else 1 }) ∧
    (∀ value v, Threaded s → s.loom.prep = none → v = value + s.loom.delay.getD 0 / 2 → ceilDiv v 512 < 2 ^ 64 →
      (16 ≤ s.loom.exchanges → ∃ t, exec (.beatValue value) s = .next t ∧ t.beat = ceilDiv v 512 ∧
        t.raw Reg.beatAdjust = BitVec.ofInt 64 ((ceilDiv v 512 : Nat) - (s.beat : Int)) ∧
        SentLast s t (s.childPorts.map fun c => .beat c v) ∧ t.flag Fld.beatStatus_aligned = true ∧ t.vault = s.vault) ∧
      (s.loom.exchanges < 16 → exec (.beatValue value) s = .next s)) ∧
    (s.sys.tclk = true →
      (∃ t, exec .startBeatReached s = .next t ∧ t.loom.starts = s.loom.starts.filter (fun e => s.beat < e.2) ∧
        (∀ job b k, (job, b) ∈ s.loom.starts → b ≤ s.beat → (s.ctx k).job = job → (s.ctx k).startBeat = some b →
          t.ctx k = { s.ctx k with startBeat := none }) ∧ t.cores = s.cores ∧ t.regs = s.regs) ∧
      (s.fld Fld.beatCtrl_markShift ≠ 0 → s.beat % 2 ^ s.fld Fld.beatCtrl_markShift = 0 →
        ∃ t, exec .beatMark s = .next t ∧
          t = { s with sys := { s.sys with gpioOut := s.sys.gpioOut ||| s.gpiosFor 0 } }))

/-- 06 R242 to R244, R246: ROUTED_FLIT for another device goes one hop on, rows before columns. RMT_REQUEST_RX that breaks
the checks of R243 is refused; a PUT into a spool is applied and answered. RMT_RESPONSE_RX in time writes a GET's data, and
the last byte or the done reply frees the tag; a refusal faults the thread with RMT_DENIED (0x15). A reply after the 8,750 beats that
a save waits is dropped (08 R331). RMT_TIMEOUT at issue + 350,001, and a reply later than that, free the tag and fault the thread
with RMT_TIMEOUT (0x16). The header and the data stand in the payload as R242 lays them out. -/
def Obligations.RoutedAndRemoteRows : Prop :=
  ∀ (s : State), s.sys.tclk = true → (∀ st, (s.stack st).failNote = none) →
    (∀ port type (route : BitVec 27) payload q, port < 4 → s.devState = 3 →
      s.hopTo (route.toNat / 2 ^ 21) (route.toNat / 2 ^ 14 % 2 ^ 7) = some q →
      ∃ t f, exec (.routedFlit port type route payload) s = .next t ∧ (t.port q).txq = (s.port q).txq ++ [f] ∧
        f.type = type ∧ f.route = route ∧ f.payload = payload ∧ f.vc = (typeVc type).getD 0 ∧
        (∀ r, r ≠ q → t.port r = s.port r) ∧ t.cores = s.cores ∧ t.bundles = s.bundles) ∧
    (∀ h data head body, head ++ body = rmtPayload h data → data.length ≤ 208 → h.count = data.length → (h.op = 0 → data = []) →
      h.row < 64 → h.col < 128 → h.addr.toNat < 2 ^ 44 → h.tag < 4096 → h.op < 16 → h.accType < 4 → h.total < 2 ^ 16 →
      h.refusal < 256 → h.phase < 256 → h.job < 2 ^ 16 → h.client < 2 ^ 16 →
      (∀ errs code, s.rmtSpots h.job h.client (h.op ≠ 0) h.addr.toNat (if h.op = 0 then h.total else data.length) =
          .error code →
        ∃ t, exec (.rmtRequestRx head body errs) s = .next t ∧ t.cores = s.cores ∧ t.vault = s.vault ∧
          SentLast s t [.rmtRsp { h with
            op := 10
            refusal := code
            phase := if code = 1 then s.fld Fld.devState_phase else 0
            count := 0 } []]) ∧
      (∀ p off, h.op = 1 → h.total = data.length → data ≠ [] → s.rmtIn = [] →
        s.rmtSpots h.job h.client true h.addr.toNat data.length =
          .ok ((List.range data.length).map fun i => .spool p (off + i)) →
        ∃ t, exec (.rmtRequestRx head body []) s = .next t ∧ (t.core p).spool = (s.core p).spool.store off data ∧
          (∀ q, q ≠ p → t.core q = s.core q) ∧ t.vault = s.vault ∧
          SentLast s t [.rmtRsp { h with
            op := 9
            refusal := 0
            phase := 0
            count := 0 } []]) ∧
      (∀ o, SMap.get s.rmt none h.tag = some o → o.orphan = false → o.epoch = (s.core o.core).epoch →
        (h.epoch = o.epoch → s.replyLate o = false → s.beat ≤ o.beat + 350000 →
          (h.op = 8 → ∃ t, exec (.rmtResponseRx head body) s = .next t ∧
            (t.core o.core).spool = (s.core o.core).spool.store (o.localOff + (h.addr.toNat - o.addr)) data ∧
            (SMap.get t.rmt none h.tag = none ↔ o.len ≤ o.got + data.length) ∧ t.vault = s.vault) ∧
          (h.op = 9 → ∃ t, exec (.rmtResponseRx head body) s = .next t ∧ SMap.get t.rmt none h.tag = none ∧ t.cores = s.cores) ∧
          (h.op = 10 → (s.core o.core).phase = .running → (s.thread o.core o.thread).st ≠ .idle →
            ∃ t, exec (.rmtResponseRx head body) s = .next t ∧ SMap.get t.rmt none h.tag = none ∧
              Faulted t o.core o.thread 0x15)) ∧
        (h.epoch = o.epoch → s.replyLate o = true →
          ∃ t, exec (.rmtResponseRx head body) s = .next t ∧ t.cores = s.cores ∧
            SMap.get t.rmt none h.tag = some { o with late := true }) ∧
        (h.epoch = o.epoch → s.replyLate o = false → o.beat + 350000 < s.beat → (s.core o.core).phase = .running →
          (s.thread o.core o.thread).st ≠ .idle →
          ∃ t, exec (.rmtResponseRx head body) s = .next t ∧ SMap.get t.rmt none h.tag = none ∧ Faulted t o.core o.thread 0x16) ∧
        (h.epoch ≠ o.epoch →
          ∃ t, exec (.rmtResponseRx head body) s = .next t ∧ SMap.get t.rmt none h.tag = none ∧ t.cores = s.cores))) ∧
    (∀ (o : RmtOp) tag, SMap.get s.rmt none tag = some o →
      (o.orphan = false → o.epoch = (s.core o.core).epoch → o.beat + 350001 ≤ s.beat →
        (s.core o.core).phase = .running → (s.thread o.core o.thread).st ≠ .idle →
        ∃ t, exec (.rmtTimeout tag) s = .next t ∧ SMap.get t.rmt none tag = none ∧ Faulted t o.core o.thread 0x16) ∧
      (s.beat < o.beat + 350001 → exec (.rmtTimeout tag) s = .next s))

/-! ### Vault and tellers -/

/-- 05 R183, R184, R185, R188, R189: STACK_REQUEST serves the head of a stack's queue: a read replies with the vault's bytes
and changes none of them, a write stores its bytes and no other, a read of a failed stack replies with STR_DATA (0x0C).
STACK_HANG fails a stack whose queue has not moved for more than 3,500 beats, and the device is FAULTED. REFRESH changes no
value, STACK_TEMP_CHANGE shows the reading and refreshes at twice the rate above 85, SCRUB_LINE passes one line. -/
def Obligations.VaultRows : Prop :=
  ∀ (st : Nat) (s : State), st < 16 → s.sys.tclk = true →
    (∀ p n start rest x o bs, (s.stack st).queue = .xfer p n start :: rest → x = (s.core p).stream n →
      x.xfer start = some o → (∀ k, k < 16 → (s.stack k).failNote = none ∧ s.marked k = none) → s.sched.unpub = [] →
      bs = o.pas.flatMap (fun a => (List.range (farUnit x.desc)).map (a + ·)) →
      (Healthy s → dDir x.desc = 0 → ∃ t, exec (.stackRequest st []) s = .next t ∧ ServedOn s t p ∧ t.vault = s.vault ∧
        (t.stack st).queue = rest ∧ Replied s t p n start (.data (bs.map s.vault.byte))) ∧
      (Healthy s → dDir x.desc = 1 → ∃ t, exec (.stackRequest st []) s = .next t ∧ ServedOn s t p ∧
        (t.stack st).queue = rest ∧ Replied s t p n start .done ∧
        ∀ a, t.vault.byte a = (((bs.zip o.bytes).reverse.find? fun e => e.1 = a).map (·.2)).getD (s.vault.byte a)) ∧
      (dDir x.desc = 0 → (∃ a ∈ bs, s.fld (Fld.vltStatus_state (stackOf (64 * (a / 64)))) = 5) →
        ∃ t, exec (.stackRequest st []) s = .next t ∧ t.vault = s.vault ∧ Replied s t p n start (.err 0x0C))) ∧
    (∀ w rest, (s.stack st).queue = w :: rest → s.fld (Fld.vltStatus_state st) ≠ 5 → s.loom.undo = none →
      ((s.stack st).idleFrom + 3500 < s.beat →
        ∃ t, exec (.stackHang st) s = .next t ∧ t.devState = 5 ∧ t.fld (Fld.vltStatus_state st) = 5) ∧
      (s.beat ≤ (s.stack st).idleFrom + 3500 → exec (.stackHang st) s = .next s)) ∧
    (∃ t, exec (.refresh st) s = .next t ∧ { t with vstacks := [] } = { s with vstacks := [] } ∧
      (∀ k, k ≠ st → t.stack k = s.stack k) ∧
      t.stack st = { s.stack st with refreshes := (s.stack st).refreshes + 1 }) ∧
    (∀ temp, temp < 256 → ∃ t, exec (.stackTempChange st temp) s = .next t ∧ t.fld (Fld.vltStatus_temp st) = temp ∧
      t.flag (Fld.vltStatus_refresh2x st) = decide (85 < temp) ∧ t.vault = s.vault ∧ t.cores = s.cores ∧
      (s.fld Fld.pwrTherm_warn ≤ temp → t.sys.warned = true)) ∧
    (Healthy s → s.fld (Fld.vltCtrl_scrubHours st) ≠ 0 →
      ∃ t, exec (.scrubLine st []) s = .next t ∧ t.vault = s.vault ∧ t.cores = s.cores ∧
        t.fld (Fld.vltScrubPos_line st) = (s.fld (Fld.vltScrubPos_line st) + 1) % 2 ^ 30 ∧
        (s.fld (Fld.vltScrubPos_line st) = 2 ^ 30 - 1 → ∀ d, d < 18 → t.fld (Fld.vltInner_outerSym st d) = 0)) ∧
    (s.fld (Fld.vltCtrl_scrubHours st) = 0 → exec (.scrubLine st []) s = .next { s with lineErrs := [] })

/-- 05 R195, R196, R200 to R202, 04 R150: TEL_STACK_REPLY writes a stack's result block at 64 bytes per stack, or the
elements of a GATHER at their places, and the last reply ends the operation and fills its slot. STACK_REQUEST computes the
partial of a stack's tokens, or the code that its reply carries; ATTN_PARTIAL writes the partial at its place with its arrival
number, and the last one fills the slot; a reply that faults faults the thread. MERGE_DONE ends the merge and frees its slot. -/
def Obligations.TellerReplies : Prop :=
  ∀ (p job st : Nat) (s : State), p < 1232 → st < 16 → s.sys.tclk = true →
    (∀ j r, telJob s p job = some j → SMap.get (j.replies.map fun e => (e.1, some e.2)) none st = some r →
      j.failed = false →
      (r.fault = none →
        ∃ t, exec (.telStackReply p job st) s = .next t ∧ CoreOnly s t p ∧
          { t.core p with tel := [], spool := [], slots := [] } = { s.core p with tel := [], spool := [], slots := [] } ∧
          (tOp j.words ≠ 3 → tOp j.words ≠ 6 → (t.core p).spool = (s.core p).spool.store (j.dst + 64 * st) r.block) ∧
          (tOp j.words = 3 → (t.core p).spool = r.elems.foldl
            (fun (m : Mem) e => m.store (j.dst + tElem j.words * e.1) e.2) (s.core p).spool) ∧
          ((∀ k ∈ j.left, k = st) → telJob t p job = none) ∧
          ((∃ k ∈ j.left, k ≠ st) → ∃ i, telJob t p job = some i ∧ i.left = j.left.filter (· ≠ st) ∧
            SlotsKept (s.core p) (t.core p)) ∧
          (∀ n, j.slot = some n → (∀ k ∈ j.left, k = st) → ((s.core p).slot n).st = .filling →
            ((s.core p).slot n).user = .tel job →
            SlotBecame (s.core p) (t.core p) n (((s.core p).slot n).endFill (tResult j.words)))) ∧
      (∀ code, r.fault = some code → (s.core p).phase = .running → (s.thread p j.thread).st ≠ .idle →
        ∃ t, exec (.telStackReply p job st) s = .next t ∧ Faulted t p j.thread code ∧ SlotsKept (s.core p) (t.core p))) ∧
    (∀ j rest s0 r, attnJob s p job = some j → j.split = 1 → (s.stack st).queue = .attn p job :: rest → Healthy s →
      s0 = { s with lineErrs := [] }.setStack st { s.stack st with
        queue := rest
        idleFrom := s.beat } → s0.attnHost p job st = none →
      r = s0.readKv p j (pieceTokens (aLen j.words) 1 st 0) [] →
      ∃ t i, exec (.stackRequest st []) s = .next t ∧ ServedOn s t p ∧ t.vault = s.vault ∧ (t.stack st).queue = rest ∧
        { t.core p with attn := [] } = { s.core p with attn := [] } ∧ attnJob t p job = some i ∧
        { i with parts := [] } = { j with parts := [] } ∧
        SMap.get (i.parts.map fun e => (e.1, some e.2)) none st = some (match r.2.2 with
          | some code => .err code
          | none => .part (partBytes j.words (pieceTokens (aLen j.words) 1 st 0).length 0
              ((List.range (aHeads j.words)).map fun h => attnHead j.words
                ((j.queries.drop (aDim j.words * aQElem j.words * h)).take (aDim j.words * aQElem j.words)) r.2.1)))) ∧
    (∀ j k i r b errs, attnJob s p job = some j → k < 16 → k < j.split → i = st * j.split + k → i ∈ j.left →
      SMap.get (j.parts.map fun e => (e.1, some e.2)) none i = some r → b = partSize (aHeads j.words) (aDim j.words) →
      (∀ bs, r = .part bs →
        ∃ t, exec (.attnPartial p job st k errs) s = .next t ∧ CoreOnly { s with lineErrs := errs } t p ∧
          (t.core p).spool = (s.core p).spool.store (((s.core p).slot j.slot).base + i * b)
            (bs.take 6 ++ leBytes j.arrived 2 ++ bs.drop 8) ∧
          { t.core p with attn := [], spool := [], slots := [] } = { s.core p with attn := [], spool := [], slots := [] } ∧
          ((∃ m ∈ j.left, m ≠ i) → SlotsKept (s.core p) (t.core p) ∧ ∃ y, attnJob t p job = some y ∧
            y.arrived = j.arrived + 1 ∧ y.left = j.left.filter (· ≠ i)) ∧
          ((∀ m ∈ j.left, m = i) → attnJob t p job = none ∧
            (j.failed = false → ((s.core p).slot j.slot).st = .filling → ((s.core p).slot j.slot).user = .attn job →
              SlotBecame (s.core p) (t.core p) j.slot (((s.core p).slot j.slot).endFill (16 * j.split * b))))) ∧
      (∀ code, r = .err code → (s.core p).phase = .running → (s.thread p j.thread).st ≠ .idle →
        ∃ t, exec (.attnPartial p job st k errs) s = .next t ∧ Faulted t p j.thread code ∧ SlotsKept (s.core p) (t.core p))) ∧
    (∀ m, (s.core p).merge = some m →
      ∃ t, exec (.mergeDone p) s = .next t ∧ CoreOnly s t p ∧ (t.core p).merge = none ∧
        { t.core p with merge := none, slots := [] } = { s.core p with merge := none, slots := [] } ∧
        (m.slot = none → SlotsKept (s.core p) (t.core p)) ∧
        ∀ n, m.slot = some n → ((s.core p).slot n).st = .draining → ((s.core p).slot n).user = .merge →
          SlotBecame (s.core p) (t.core p) n ((s.core p).slot n).endUse)

/-! ### Warp circulation -/

/-- 07 R268 to R272: PASS_SCHEDULE at the origin sends PASS_START of the next entry with the next sequence number, no earlier
than START_LEAD from now and than the last pass has sent its flits, and a waiting draft takes effect at the round boundary;
PASS_START goes on to the children in the tree and enters the pass of its entry; PASS_OPEN opens a scheduled pass whose start beat
has come, and the first forward pass of a step begins it. -/
def Obligations.PassStartRows : Prop :=
  ∀ (s : State), Threaded s →
    (∀ d e step, s.isOrigin = true → s.warp.waiting = none → s.warp.draft = some d →
      d.entries[s.warp.nextEntry]? = some e →
      (e.transposed = true ∧ step = BitVec.allOnes 64 ∨ e.transposed = false ∧ s.stepFor e = some step) →
      ∃ t m rest, exec .passSchedule s = .next t ∧ t.loom.out = s.loom.out ++ .pass m :: rest ∧ m.seq = s.warp.nextSeq ∧
        m.entry = s.warp.nextEntry ∧ m.draftId = d.id ∧ m.step = step ∧
        s.beat + s.fld Fld.warpCtrl_startLead ≤ m.start ∧ s.warp.lastStart + ceilDiv s.warp.lastFlits 45 ≤ m.start ∧
        t.warp.nextSeq = s.warp.nextSeq + 1 ∧ t.warp.nextEntry = (s.warp.nextEntry + 1) % d.entries.length ∧
        (t.passAt m.seq).isSome = true) ∧
    (∀ d, s.isOrigin = true → s.warp.waiting = some d → s.warp.nextEntry = 0 →
      ∃ t, exec .passSchedule s = .next t ∧ t.warp.draft = some d ∧ t.warp.waiting = none ∧
        t.raw Reg.warpDraftId = d.id) ∧
    (∀ m d e, s.warp.waiting = none → s.warp.draft = some d → d.entries[m.entry]? = some e → s.passAt m.seq = none →
      (m.seq < 8 ∨ s.passAt (m.seq - 8) = none) →
      ∃ t x, exec (.passStart m) s = .next t ∧ t.passAt m.seq = some x ∧ x.msg = m ∧ x.ent = e ∧
        x.total = e.count * layerFlits (s.geo e.base) (s.loom.nr * s.loom.nc) e.transposed ∧
        x.expected = x.total - e.count * (runAt (s.geo e.base) (s.loom.nr * s.loom.nc) e.transposed s.loom.pos).2 ∧
        (s.beat ≤ m.start → x.st = .scheduled ∧ SentLast s t [.pass m] ∧ LoomOnly s { t with warp := s.warp }) ∧
        (m.start < s.beat → t.flag Fld.warpStatus_lateStart = true)) ∧
    (∀ seq x, s.passAt seq = some x → x.st = .scheduled →
      (x.msg.start ≤ s.beat → x.expected ≠ 0 →
        ∃ t, exec (.passOpen seq) s = .next t ∧ t.passAt seq = some { x with st := .open_ } ∧
          t.raw Reg.warpPass = BitVec.ofNat 64 seq ∧ t.raw Reg.warpPassStart = BitVec.ofNat 64 x.msg.start ∧
          (x.ent.transposed = false → x.ent.first = 0 → x.msg.step = (s.base x.ent.base).step →
            (t.base x.ent.base).begun = true ∧ (t.base x.ent.base).passed = true ∧ (t.base x.ent.base).firstPass = seq ∧
            ((s.base x.ent.base).begun = false → (t.base x.ent.base).beganAt = s.beat) ∧
            (t.base x.ent.base).mix = (x.msg.oldVersion, x.msg.newVersion, x.msg.split) ∧
            (t.base x.ent.base).step = (s.base x.ent.base).step)) ∧
      (s.beat < x.msg.start → exec (.passOpen seq) s = .next s))

/-- 07 R263 to R265, R273, R278 to R280: WARP_INJECT queues the next own flit of the oldest opened pass on the port of its
half; WARP_FLIT_RX of an open pass forwards the flit on the far ring port, keeps a copy that passes the end-to-end check, and
forwards one that fails it tainted and recalls it; a tainted flit goes on tainted; a flit of no open pass is counted as stray.
PASS_CLOSE_BOUND closes a pass past both of its bounds and recalls what is missing. -/
def Obligations.WarpFlitRows : Prop :=
  ∀ (port : Nat) (s : State), port < 4 → Threaded s →
    (∀ x xs half i, s.halfAt port = some half → (∀ f ∈ (s.port port).txq, f.type ≠ 1) → s.warp.passes = x :: xs →
      x.st ≠ .scheduled → s.ownNext x half (x.injected half) = some i → Healthy s → s.sched.unpub = [] →
      s.stackBefore (s.flitPas x i) = none →
      ∃ t f, exec (.warpInject port []) s = .next t ∧ Queued s t port f ∧ IsWarpFlit f x half false i (s.ownFlit x i) ∧
        t.passAt x.msg.seq = some (x.inject half) ∧ t.vault = s.vault ∧ t.cores = s.cores) ∧
    (∀ (route : BitVec 27) payload x half i out good, half = route.getLsbD 26 → i = route.toNat % 2 ^ 22 →
      out = (if half then s.loom.bOut else s.loom.aOut) →
      good = decide (field payload 232 8 = (x.crc i (payload.take 232)).toNat) →
      s.openPasses.find? (fun y => y.msg.seq % 8 = route.toNat / 2 ^ 22 % 8) = some x →
      port = (if half then s.loom.aOut else s.loom.bOut) → i < x.total → s.ownIndex x i = false →
      s.passAt x.msg.seq = some x →
      (route.getLsbD 25 = false → good = true →
        ∃ t f y rest, exec (.warpFlitRx port route payload) s = .next t ∧ (t.port out).txq = (s.port out).txq ++ f :: rest ∧
          IsWarpFlit f x half false i payload ∧ t.passAt x.msg.seq = some y ∧
          (SMap.get x.flits none i = none → SMap.get y.flits none i = some (payload.take 232)) ∧
          (SMap.has x.flits i = false → y.counted = x.counted + 1) ∧ t.vault = s.vault ∧
          (x.st = .open_ → x.counted + 1 < x.expected → Queued s t out f)) ∧
      (route.getLsbD 25 = false → good = false →
        ∃ t f rest, exec (.warpFlitRx port route payload) s = .next t ∧ (t.port out).txq = (s.port out).txq ++ f :: rest ∧
          IsWarpFlit f x half true i payload ∧
          t.fld Fld.warpTaint_detected = min (s.fld Fld.warpTaint_detected + 1) (2 ^ 24 - 1) ∧
          (x.st = .open_ → x.counted + 1 < x.expected → x.wants i = true →
            SentLast s t [.recall ⟨x.msg.seq, i, 1, s.loom.row, s.loom.col⟩ (s.homeFor x i)])) ∧
      (route.getLsbD 25 = true →
        ∃ t f rest, exec (.warpFlitRx port route payload) s = .next t ∧ (t.port out).txq = (s.port out).txq ++ f :: rest ∧
          IsWarpFlit f x half true i payload ∧
          t.fld Fld.warpTaint_received = min (s.fld Fld.warpTaint_received + 1) (2 ^ 24 - 1))) ∧
    (∀ (route : BitVec 27) payload, (∀ y ∈ s.openPasses, y.msg.seq % 8 ≠ route.toNat / 2 ^ 22 % 8) →
      ∃ t, exec (.warpFlitRx port route payload) s = .next t ∧ { t with regs := [] } = { s with regs := [] } ∧
        t.fld Fld.warpTaint_stray = min (s.fld Fld.warpTaint_stray + 1) (2 ^ 16 - 1)) ∧
    (∀ seq x n, s.passAt seq = some x → x.st = .open_ → n = s.slackOf x →
      (x.msg.start + ceilDiv x.total 45 + n < s.beat → x.lastBeat + n < s.beat →
        ∃ t y, exec (.passCloseBound seq) s = .next t ∧ t.passAt seq = some y ∧
          (s.missing x = [] → y.st = .closed ∧ y.recalls = []) ∧
          (s.missing x ≠ [] → y.st = .closing ∧ ∀ i ∈ s.missing x, ∃ r ∈ y.recalls, r.index = i)) ∧
      (s.beat ≤ x.msg.start + ceilDiv x.total 45 + n ∨ s.beat ≤ x.lastBeat + n →
        exec (.passCloseBound seq) s = .next s))

/-- 07 R281 to R284: RECALL_REQUEST_RX at a home answers with the flits that it holds, and refuses a pass that is not among the
16 that it has most recently begun to inject (2) and an index that is not its own (3); RECALL_DATA_RX keeps a copy that passes
the end-to-end check and recalls one that fails it again; a refusal fails the pass, and so does a budget that has expired;
a failed forward pass of the running step marks the step skipped. 07 R274, R277, 02 R58: IMAGE_DELIVERY puts the next
image of a core's band at the end of its warp FIFO where the core takes it, the image is complete and the FIFO's 64
KiB have room; without room nothing happens, and an image of an expert that the core's mask leaves out is passed over.
-/
def Obligations.RecallRows : Prop :=
  (∀ (s : State), Threaded s →
     (∀ m, (∀ k, (s.stack k).failNote = none) →
       (s.recentPasses.find? (fun x => x.msg.seq = m.passSeq) = none →
         ∃ t, exec (.recallRequestRx m []) s = .next t ∧ SentLast s t [.recallRefused m 2] ∧ t.warp = s.warp) ∧
       (∀ x, s.recentPasses.find? (fun x => x.msg.seq = m.passSeq) = some x →
         ((∃ i, i < m.count ∧ (x.total ≤ m.index + i ∨ s.ownIndex x (m.index + i) = false)) →
           ∃ t, exec (.recallRequestRx m []) s = .next t ∧ SentLast s t [.recallRefused m 3] ∧ t.warp = s.warp) ∧
         ((∀ i, i < m.count → m.index + i < x.total ∧ s.ownIndex x (m.index + i) = true) → Healthy s → s.sched.unpub = [] →
           s.stackBefore ((recallIndices m).flatMap (s.flitPas x)) = none →
           ∃ t, exec (.recallRequestRx m []) s = .next t ∧ t.warp = s.warp ∧ t.vault = s.vault ∧
             SentLast s t ((List.range (ceilDiv (240 * m.count) 216)).map fun k => .recallData m k
               (replyPart ((List.range m.count).flatMap fun i => s.ownFlit x (m.index + i)) k))))) ∧
     (∀ seq i payload x r, s.passAt seq = some x → x.st = .open_ ∨ x.st = .closing →
       x.recalls.find? (fun r => r.index = i) = some r →
       (s.beat ≤ r.until_ → field payload 232 8 = (x.crc i (payload.take 232)).toNat →
         ∃ t y, exec (.recallDataRx seq i payload) s = .next t ∧ t.passAt seq = some y ∧
           SMap.get y.flits none i = some (payload.take 232) ∧ ∀ q ∈ y.recalls, q.index ≠ i) ∧
       (s.beat ≤ r.until_ → field payload 232 8 ≠ (x.crc i (payload.take 232)).toNat →
         ∃ t, exec (.recallDataRx seq i payload) s = .next t ∧ t.warp = s.warp ∧
           SentLast s t [.recall ⟨seq, i, 1, s.loom.row, s.loom.col⟩ (s.homeFor x i)]) ∧
       (r.until_ < s.beat → exec (.recallDataRx seq i payload) s = .next s) ∧
       (s.beat ≤ r.until_ → exec (.recallBudgetExpiry seq i) s = .next s) ∧
       (∀ c reason refusal, (c = .recallRefusedRx seq i refusal ∧ reason = 2) ∨
           (c = .recallBudgetExpiry seq i ∧ reason = 1 ∧ refusal = 0 ∧ r.until_ < s.beat) →
         ∃ t, exec c s = .next t ∧ t.passAt seq = some { x with
             st := .failed
             recalls := [] } ∧
           (x.ent.transposed = false → (s.base x.ent.base).begun = true → x.msg.step = (s.base x.ent.base).step →
             (s.base x.ent.base).skip = none → 1 < (s.base x.ent.base).passesLeft → s.sched.cmds = [] →
             (t.base x.ent.base).skip = some (seq, reason, refusal) ∧
             (t.base x.ent.base).passesLeft = (s.base x.ent.base).passesLeft - 1)))) ∧
  (∀ (p i : Nat) (x : Pass) (all : List BandImage) (b : BandImage) (c : Core) (s : State), p < 1232 → Threaded s →
     s.nextImage p = some (x, all, i) → all[i]? = some b →
     (∀ bs, s.expertRule (s.core p) x b = some (c, true) → s.bandImage x b = some bs →
       (((s.core p).fifo.map fun t => t.image.length).sum + bs.length ≤ 65536 →
         ∃ t, exec (.imageDelivery p) s = .next t ∧ CoreOnly s t p ∧
           (t.core p).fifo = (s.core p).fifo ++ [{ fmt := fmtOf (s.geo x.ent.base), passSeq := x.msg.seq, image := bs }] ∧
           (t.core p).deliver = SMap.put (s.core p).deliver x.ent.base (x.msg.seq, i + 1) ∧
           { t.core p with fifo := [], deliver := [], experts := none } =
             { s.core p with fifo := [], deliver := [], experts := none }) ∧
       (65536 < ((s.core p).fifo.map fun t => t.image.length).sum + bs.length →
         exec (.imageDelivery p) s = .next s)) ∧
     (s.expertRule (s.core p) x b = some (c, false) →
       ∃ t, exec (.imageDelivery p) s = .next t ∧ CoreOnly s t p ∧ (t.core p).fifo = (s.core p).fifo ∧
         (t.core p).deliver = SMap.put (s.core p).deliver x.ent.base (x.msg.seq, i + 1)))

/-! ### Steps, dispatch, saves and the ledger -/

/-- 01 R23 to R25, 08 R322, 10 R399: STEP_COMMIT of a base whose outputs are there arrives at the step barrier; a decode row
that commits makes its session one token longer, and its token is held for the session's ring. A base that is not ready is
left alone. -/
def Obligations.StepCommits : Prop :=
  ∀ (b : Nat) (s : State), b < 64 → Threaded s →
    (s.canCommit b = true → (∃ c ∈ s.childPorts, c ∉ (s.bar (.step b)).children) →
      ∃ t, exec (.stepCommit b) s = .next t ∧ (t.bar (.step b)).localDone = true ∧ (t.base b).step = (s.base b).step) ∧
    (∀ k r x, s.canCommit b = true → s.servingNow b = [k] → (s.ctx k).rows = [r] → r.2.1 = 0 → s.session r.1 = some x →
      x.base = b → (∀ e ∈ s.sessionsOn b, s.closeTaken e.1 = none ∧ e.2.migrating = none) →
      ∃ t y rec, exec (.stepCommit b) s = .next t ∧ t.session r.1 = some y ∧ y.committed = x.committed + 1 ∧
        y.ended = decide (x.maxCtx ≤ x.committed + 1) ∧ y.inStep = false ∧ y.history = x.history ++ [y.lastTok] ∧
        y.prompt = x.prompt ∧ SMap.get t.eth.tokens [] x.ring = SMap.get s.eth.tokens [] x.ring ++ [rec] ∧
        rec.client = x.client ∧ rec.session = r.1 ∧ rec.position = r.2.2.1 + 1 ∧ rec.token = y.lastTok ∧ rec.base = b ∧
        rec.step = (s.base b).step) ∧
    (s.canCommit b = false → exec (.stepCommit b) s = .next s)

/-- 04 R118, 08 R315 to R319, 02 R55, 03 R84: COMMAND_DISPATCH of a context of a DEDICATED partition puts its next command on
its idle cores: thread 0 of each is ready at the kernel's entry with the argument words in g1 to g8, and the spool of a core
that served another client is zeroed; a record that is refused faults the context; a context without a ready command is left
alone. -/
def Obligations.CommandDispatches : Prop :=
  ∀ (k : Nat) (q : Partition) (s : State), k < 256 → s.sys.tclk = true → s.serving = true →
    s.part (s.ctx k).part = some q → q.serving = false → (s.ctx k).serving = false → (s.ctx k).runs = true →
    (∀ x after, s.nextOf k = some (.cmd x after) → x.ctx = k → s.fenceMet k x = true → s.coresIdle x = true →
      ∃ t, exec (.commandDispatch k) s = .next t ∧ t.ctx k = after ∧
        t.cmdAt s.sched.nextCmd = some { x with beat := s.beat } ∧ t.vault = s.vault ∧
        (∀ p, p ∉ s.setCores x → t.core p = s.core p) ∧
        ∀ p ∈ s.setCores x, (t.core p).phase = .dispatched ∧ (t.core p).stopped = false ∧
          (t.core p).cmd = s.sched.nextCmd ∧ (t.core p).ctx = k ∧ (t.core p).client = after.client ∧
          (t.core p).vm1 = after.vm1 ∧ (t.thread p 0).st = .ready ∧ (t.thread p 0).pc = BitVec.ofNat 64 x.entry ∧
          (∀ r, (t.thread p 0).rg r = if 1 ≤ r ∧ r ≤ 8 then x.args.getD (r - 1) 0 else 0) ∧
          ((s.core p).client = after.client → (t.core p).spool = (s.core p).spool) ∧
          ((s.core p).client ≠ after.client → (t.core p).spool = [])) ∧
    (∀ seq, s.nextOf k = some (.refuse seq) →
      ∃ t, exec (.commandDispatch k) s = .next t ∧ (t.ctx k).st = .faulted) ∧
    (s.hasReady k = false → exec (.commandDispatch k) s = .next s)

/-- 08 R324 to R328: TURN_EXPIRY passes the turn on after SLICE beats; CONTEXT_RESIDENT gives residence to the context
that has waited longest while fewer than four are resident; SWAP_DECISION swaps the chosen context out: at once where
it runs nothing or its command can be killed, and by a save of its cores where it cannot; a command that is to end by a fault or by
CMD.ABORT ends so (04 R164). 08 R331, R332: SAVE_DONE
writes a save that has nothing left to wait for: its command leaves its cores, and the context holds their state.
SAVE_REMOTE_DEADLINE turns a save whose remote replies are not in after 8,750 beats into a kill. RESTORE puts the
first saved command on its cores again, each with an epoch that has grown by 1. -/
def Obligations.TurnsAndSwaps : Prop :=
  (∀ (n : Nat) (s : State), n < 64 → s.sys.tclk = true →
     (∀ q k b, s.part n = some q → q.turn = some (k, b) →
       (b + s.fld (Fld.schedPart_slice n) ≤ s.beat →
         ∃ t, exec (.turnExpiry n) s = .next t ∧
           { t with sched := { t.sched with parts := [] } } = { s with sched := { s.sched with parts := [] } } ∧
           t.part n = some { q with
             turn := (nextAfter k ((s.running n).filter s.hasReady)).map fun j => (j, s.beat) } ∧
           ∀ m, m ≠ n → t.part m = s.part m) ∧
       (s.beat < b + s.fld (Fld.schedPart_slice n) → exec (.turnExpiry n) s = .next s)) ∧
     (s.serving = true →
       (∀ w k, (s.residents n).length < 4 → (w, k) ∈ s.waiters n → (∀ e ∈ s.waiters n, w < e.1 ∨ e = (w, k)) →
         ∃ t, exec (.contextResident n) s = .next t ∧ t.ctx k = { s.ctx k with resident := true } ∧
           (∀ j, j ≠ k → t.ctx j = s.ctx j) ∧ { t with cores := [], sched := { t.sched with ctxs := [] } } =
             { s with cores := [], sched := { s.sched with ctxs := [] } } ∧
           (∀ p, { t.core p with deliver := [] } = { s.core p with deliver := [] }) ∧
           ∀ i p, i ∈ (s.ctx k).lat → s.physOf i = some p →
             s.joinSeq (s.ctx k) ≤ ((t.core p).cursor (s.ctx k).base).1) ∧
       (4 ≤ (s.residents n).length → exec (.contextResident n) s = .next s)) ∧
     (∀ k, s.swapDue n = true → s.swapChoice n = some k →
       (s.cmdsOf k = [] → ∃ t, exec (.swapDecision n) s = .next t ∧ (t.ctx k).resident = false ∧
         (t.ctx k).waitOrder = s.sched.waitNo ∧ t.cores = s.cores) ∧
       (∀ key c, s.cmdsOf k = [(key, c)] → c.phase = .running →
         (c.pending = true → ∃ t, exec (.swapDecision n) s = .next t ∧ CoresFree s t c ∧ t.cmdAt key = none) ∧
         (c.pending = false → s.killable c = true → ∃ t, exec (.swapDecision n) s = .next t ∧ (t.ctx k).resident = false ∧
           (t.ctx k).rerun = c.again.inOrder (s.ctx k).rerun ∧ CoresFree s t c ∧ t.cmdAt key = none) ∧
         (c.pending = false → s.killable c = false → (∀ v ∈ (s.ctx k).saving, v.cmd ≠ key) →
           ∃ t, exec (.swapDecision n) s = .next t ∧ (∀ p ∈ s.setCores c, (t.core p).saving = true) ∧
             (t.ctx k).saving = (s.ctx k).saving ++ [⟨key, s.beat⟩] ∧ t.cmdAt key = s.cmdAt key))) ∧
     (s.swapDue n = false → exec (.swapDecision n) s = .next s)) ∧
  (∀ (k : Nat) (s : State), k < 256 → s.sys.tclk = true →
     (∀ v c rest, s.saves k = (v, c) :: rest → c.ctx = k →
       (s.saveReady c = true → ∃ t, exec (.saveDone k) s = .next t ∧ t.cmdAt v.cmd = none ∧ CoresFree s t c ∧
         (t.ctx k).saved = (s.ctx k).saved ++ [⟨c, (s.setCores c).map s.core⟩] ∧
         (∀ q, s.part (s.ctx k).part = some q →
           saveBytes * (c.first - q.first + c.count) ≤ 0x200000 * (s.ctx k).saveFrames.length →
           ∀ a, a / 0x200000 ∉ (s.ctx k).saveFrames → t.vault.byte a = s.vault.byte a)) ∧
       (v.bs + 8750 < s.beat → s.killable c = true → s.openRemote c = true → c.phase = .running → c.pending = false →
         ∃ t, exec (.saveRemoteDeadline k) s = .next t ∧ t.cmdAt v.cmd = none ∧ CoresFree s t c ∧
           (t.ctx k).rerun = c.again.inOrder (s.ctx k).rerun ∧ t.vault = s.vault)) ∧
     ((∀ e ∈ s.saves k, s.saveReady e.2 = false) → exec (.saveDone k) s = .next s) ∧
     ((∀ e ∈ s.saves k, s.beat ≤ e.1.bs + 8750) → exec (.saveRemoteDeadline k) s = .next s) ∧
     (∀ v rest p x, (s.ctx k).saved = v :: rest → (s.ctx k).runs = true → s.coresIdle v.cmd = true →
       s.setCores v.cmd = [p] → v.cores = [x] →
       ∃ t, exec (.restore k) s = .next t ∧ t.cmdAt s.sched.nextCmd = some v.cmd ∧ (t.ctx k).saved = rest ∧
         (t.core p).epoch = (s.core p).epoch + 1 ∧ (t.core p).spool = x.spool ∧ (t.core p).phase = x.phase ∧
         (t.core p).fifo = (s.core p).fifo ∧ (∀ i, (t.core p).slot i = x.slot i) ∧
         (∀ u, (t.thread p u).pc = (x.thread u).pc ∧ (t.thread p u).g = (x.thread u).g ∧ (t.thread p u).st = (x.thread u).st) ∧
         ∀ q, q ≠ p → t.core q = s.core q))

/-- 07 R296, 08 R337, R339: ENERGY_INTERVAL at the end of 17,500 beats adds its whole millijoules to the device's energy,
carries the rest, starts the next interval and changes no other counter of an account; STEP_RECORD_WRITE writes the oldest
held record while the ledger ring has room; USE_COUNT_HALVING halves every use count, 2^30 beats after the last time. -/
def Obligations.LedgerRows : Prop :=
  ∀ (s : State), s.sys.tclk = true → s.serving = true →
    (∀ uj, s.ledger.intervalFrom + 17500 ≤ s.beat → (s.ledger.accounts.map (·.1)).Nodup →
      ∃ t, exec (.energyInterval uj) s = .next t ∧ t.ledger.intervalFrom = s.beat ∧
        t.fld Fld.ledgEnergy_energy = min (s.fld Fld.ledgEnergy_energy + (s.ledger.uj + uj) / 1000) (2 ^ 64 - 1) ∧
        t.ledger.uj = (s.ledger.uj + uj) % 1000 ∧ t.fld Fld.ledgInterval_lastUj = min uj 0xFFFFFFFF ∧
        t.fld Fld.ledgInterval_intervals = (s.fld Fld.ledgInterval_intervals + 1) % 2 ^ 32 ∧
        (∀ id a, SMap.get s.ledger.accounts none id = some a → ∃ d, SMap.get t.ledger.accounts none id = some d ∧
          d.inc = [] ∧ ∀ c, c ≠ lEnergy → SMap.get d.counters 0 c = SMap.get a.counters 0 c) ∧
        t.cores = s.cores ∧ t.vault = s.vault ∧ t.sched = s.sched) ∧
    (∀ uj, s.beat < s.ledger.intervalFrom + 17500 → exec (.energyInterval uj) s = .next s) ∧
    (∀ r rs, s.ledger.held = r :: rs → s.ringLive 255 = true →
      (0 < s.ringRoom 255 → ∃ t, exec .stepRecordWrite s = .next t ∧ t.ledger.held = rs ∧
        t.eth.postedSteps = s.eth.postedSteps ++ [(s.fld (Fld.ethRingProd_produced 255), r.bytes)] ∧
        t.fld (Fld.ethRingProd_produced 255) = (s.fld (Fld.ethRingProd_produced 255) + 1) % 2 ^ 64 ∧
        t.cores = s.cores ∧ t.vault = s.vault) ∧
      (s.ringRoom 255 = 0 → exec .stepRecordWrite s = .next s)) ∧
    (s.warp.halvedAt + 2 ^ 30 ≤ s.beat →
      ∃ t, exec .useCountHalving s = .next t ∧ { t with warp := {} } = { s with warp := {} } ∧
        (∀ b, t.base b = { s.base b with use := (s.base b).use / 2 }) ∧
        (∀ w, t.weft w = (s.weft w).map fun (x : Weft) => { x with use := x.use / 2 }) ∧
        t.warp.halvedAt = s.warp.halvedAt + 2 ^ 30) ∧
    (s.beat < s.warp.halvedAt + 2 ^ 30 → exec .useCountHalving s = .next s)

/-! ### Genot commands -/

/-- 00 R7, R10, 10 R386: DEVICE_INFO, DEVICE_STATE and REG_READ complete with register words and change nothing else; REG_WRITE
stores a register's writable bits under its mask, and refuses a misaligned or reserved offset with BAD_ARGUMENT and one outside
the writable blocks with DENIED; SET_MODE writes EXACT while no context is LAUNCHED, is BUSY where it would change EXACT otherwise, and is OK where EXACT has
the value already (00 R8). -/
def Obligations.DeviceCommands : Prop :=
  ∀ (seq : W64) (s : State), Arrives s seq True True True →
    (∃ t, exec (.deviceInfo seq) s = .next t ∧ Kept s t ∧ Completed s t seq .ok 0
      ([0, 8, 16, 0x48000, 0x70008].flatMap fun o => leBytes (s.readReg o).toNat 8)) ∧
    (∃ t, exec (.deviceState seq) s = .next t ∧ Kept s t ∧ Completed s t seq .ok 0
      ([0x18, 0x20, 0xE0000, 0xA0000, 0x70000].flatMap fun o => leBytes (s.readReg o).toNat 8)) ∧
    (∀ (off : W64) (n : W16), off.toNat % 8 = 0 → 1 ≤ n.toNat → n.toNat ≤ 1024 → off.toNat + 8 * n.toNat ≤ 0x1C00000 →
      (∀ i, i < n.toNat → ¬(0xC0000 ≤ off.toNat + 8 * i ∧ off.toNat + 8 * i < 0xD0000)) →
      ∃ t, exec (.regRead seq off n) s = .next t ∧ Kept s t ∧ Completed s t seq .ok 0
        ((List.range n.toNat).flatMap fun i => leBytes (s.readReg (off.toNat + 8 * i)).toNat 8)) ∧
    (∀ (off : W64) (n : W16), off.toNat % 8 ≠ 0 ∨ n.toNat = 0 ∨ 1024 < n.toNat ∨ 0x1C00000 < off.toNat + 8 * n.toNat →
      ∃ t, exec (.regRead seq off n) s = .next t ∧ Refused s t seq .badArgument) ∧
    (∀ (off val mask : W64) (r : RegSpec), off.toNat % 8 = 0 → off.toNat / 0x10000 ∈ [6, 9, 11] → regSpec off.toNat = some r →
      ∃ t, exec (.regWrite seq off val mask) s = .next t ∧ KeptBut s t off.toNat ∧ Completed s t seq .ok 0 [] ∧
        t.raw off.toNat = ((s.raw off.toNat &&& ~~~(r.maskOf [.rw, .rwl] &&& mask)) |||
          (val &&& (r.maskOf [.rw, .rwl] &&& mask))) &&& ~~~(r.maskOf [.rw1c, .rw1cs] &&& mask &&& val)) ∧
    (∀ (off val : W64) (p : Nat), p < 1232 → off.toNat = 0x100008 + 0x1000 * p →
      ∃ t, exec (.regWrite seq off val (BitVec.allOnes 64)) s = .next t ∧ KeptBut s t off.toNat ∧ Completed s t seq .ok 0 [] ∧
        (t.raw off.toNat).toNat % 2 ^ 24 = max 175 (val.toNat % 2 ^ 24)) ∧
    (∀ (off val mask : W64), off.toNat % 8 ≠ 0 ∨ 0x1C00000 ≤ off.toNat ∨
        (off.toNat % 8 = 0 ∧ 0x10000 ≤ off.toNat ∧ off.toNat < 0x1000000 ∧ regSpec off.toNat = none) →
      ∃ t, exec (.regWrite seq off val mask) s = .next t ∧ Refused s t seq .badArgument) ∧
    (∀ (off val mask : W64), off.toNat % 8 = 0 →
        off.toNat < 0x10000 ∨ (0x1000000 ≤ off.toNat ∧ off.toNat < 0x1C00000) →
      ∃ t, exec (.regWrite seq off val mask) s = .next t ∧ Refused s t seq .denied) ∧
    (∀ x : Byte, s.devState ≠ 5 →
      (1 < x.toNat → ∃ t, exec (.setMode seq x) s = .next t ∧ Refused s t seq .badArgument) ∧
      (x.toNat ≤ 1 → s.anyLaunched = false → ∃ t, exec (.setMode seq x) s = .next t ∧ KeptBut s t 0x20 ∧
        Completed s t seq .ok 0 [] ∧ t.exact = decide (x = 1)) ∧
      (x.toNat ≤ 1 → s.exact = decide (x = 1) → ∃ t, exec (.setMode seq x) s = .next t ∧ KeptBut s t 0x20 ∧
        Completed s t seq .ok 0 [] ∧ t.exact = s.exact) ∧
      (x.toNat ≤ 1 → s.anyLaunched = true → s.exact ≠ decide (x = 1) →
        ∃ t, exec (.setMode seq x) s = .next t ∧ Refused s t seq .busy))

/-- 03 R111, R117, 05 R210, 10 R364, R402, 11 R421, R424, 12 R451, 13 R456: the register writes with an effect of their own:
PEAK, REARM_LOST, VALID and ALERT are cleared by a write of 1; a ring is enabled where its configuration keeps R402, with
PRODUCED 0, and disabled; a change of the address to which the host sends moves its queue pairs to ERROR; TEST_LOCK makes a
wipe pending, LOCK holds SEC_CTRL as it is; a claimed trace partition starts at index 0. -/
def Obligations.RegisterCommands : Prop :=
  ∀ (seq val mask : W64) (s : State), Arrives s seq True True True →
    (∀ p, p < 1232 →
      ∃ t, exec (.peakClear seq p val mask) s = .next t ∧ Completed s t seq .ok 0 [] ∧
        Kept { s with cores := [] } { t with cores := [] } ∧ (∀ q, q ≠ p → t.core q = s.core q) ∧
        t.core p = if (val &&& mask).toNat / 2 ^ 16 % 2 ^ 7 = 0 then s.core p
          else { s.core p with tagPeak := (s.core p).tagsHeld }) ∧
    (∀ p n, p < 1232 → n < 32 → (Fld.strStatus_rearmLost 0 0).of (val &&& mask) = 1 →
      ∃ t, exec (.rearmLostClear seq p n val mask) s = .next t ∧ Completed s t seq .ok 0 [] ∧
        Kept { s with cores := [] } { t with cores := [] } ∧ (∀ q, q ≠ p → t.core q = s.core q) ∧
        { t.core p with streams := [] } = { s.core p with streams := [] } ∧
        StreamBecame (s.core p) (t.core p) n { (s.core p).stream n with rearmLost := false }) ∧
    (∀ n w, n < 256 → w = (s.raw (Reg.ethRingCfg n) &&& ~~~(mask &&& 0xFFFFFFFFFFFF0000)) ||| (val &&& (mask &&& 0xFFFFFFFFFFFF0000)) →
      s.flag (Fld.ethRingCfg_enable n) = false → w.getLsbD 31 = true →
      ∃ t, exec (.ringEnable seq n val mask) s = .next t ∧ Kept s t ∧ Completed s t seq .ok 0 [] ∧
        ((6 ≤ w.toNat / 2 ^ 26 % 32 ∧ w.toNat / 2 ^ 26 % 32 ≤ (if n = 255 then 16 else 20) ∧ 2 ≤ w.toNat / 2 ^ 16 % 2 ^ 10 ∧
            (s.raw (Reg.ethRingAddr n)).toNat % 64 = 0 ∧ (s.raw (Reg.ethRingCons n)).toNat % 64 = 0) →
          t.raw (Reg.ethRingCfg n) = w ∧ t.raw (Reg.ethRingProd n) = 0) ∧
        (¬(6 ≤ w.toNat / 2 ^ 26 % 32 ∧ w.toNat / 2 ^ 26 % 32 ≤ (if n = 255 then 16 else 20) ∧ 2 ≤ w.toNat / 2 ^ 16 % 2 ^ 10 ∧
            (s.raw (Reg.ethRingAddr n)).toNat % 64 = 0 ∧ (s.raw (Reg.ethRingCons n)).toNat % 64 = 0) →
          t.flag (Fld.ethRingCfg_enable n) = false)) ∧
    (∀ n, n < 256 → s.flag (Fld.ethRingCfg_enable n) = true → mask.getLsbD 31 = true → val.getLsbD 31 = false →
      ∃ t, exec (.ringDisable seq n val mask) s = .next t ∧ Kept s t ∧ Completed s t seq .ok 0 [] ∧
        t.raw (Reg.ethRingCfg n) = s.raw (Reg.ethRingCfg n) &&& ~~~(0x80000000 : W64)) ∧
    (∀ k, k < 3 → mask = BitVec.allOnes 64 →
      ∃ t, exec (.ethAddressWrite seq k val mask) s = .next t ∧ Kept s t ∧ Completed s t seq .ok 0 [] ∧
        (k = 0 → t.raw Reg.ethIp4 &&& 0x1FFFFFFFF = val &&& 0x1FFFFFFFF) ∧ (k ≠ 0 → t.raw (Reg.ethIp4 + 8 * k) = val) ∧
        (s.eth.devAddr = none → ∀ q, q < 1024 → t.fld (Fld.ethQp_state q) = s.fld (Fld.ethQp_state q)) ∧
        (∀ a, k = 0 → s.eth.devAddr = some (.v4 a) → s.ownIp (.v4 a) = true → val.getLsbD 32 = false →
          ∀ q, q < 1024 → t.fld (Fld.ethQp_state q) =
            if s.fld (Fld.ethQp_state q) = 1 then 2 else s.fld (Fld.ethQp_state q))) ∧
    (s.flag Fld.secCtrl_lock = false → (val &&& mask).getLsbD 1 = true → s.flag Fld.secCtrl_testLock = false →
      ∃ t, exec (.testLock seq val mask) s = .next t ∧ Rest s t ∧ Completed s t seq .ok 0 [] ∧
        t.flag Fld.secCtrl_testLock = true ∧ t.flag Fld.secStatus_wipePending = true ∧
        ∀ off, off ≠ 0x80000 → off ≠ 0x80008 → ¬Mail off → t.raw off = s.raw off) ∧
    (s.flag Fld.secCtrl_lock = false → (val &&& mask).getLsbD 0 = true →
      ∃ t, exec (.lock seq val mask) s = .next t ∧ Rest s t ∧ Completed s t seq .ok 0 [] ∧ t.flag Fld.secCtrl_lock = true) ∧
    (s.flag Fld.secCtrl_lock = true → ∀ i ∈ [Instr.testLock seq val mask, Instr.lock seq val mask],
      ∃ t, exec i s = .next t ∧ Kept s t ∧ Completed s t seq .ok 0 []) ∧
    ((val &&& mask).getLsbD 0 = true →
      ∃ t, exec (.alertClear seq val mask) s = .next t ∧ KeptBut s t 0xB0000 ∧ Completed s t seq .ok 0 [] ∧
        t.flag Fld.errStatus_alert = false ∧ t.fld Fld.errStatus_next = s.fld Fld.errStatus_next) ∧
    (∀ k, k < 16 → (val &&& mask).getLsbD 63 = true →
      ∃ t, exec (.validClear seq k val mask) s = .next t ∧ KeptBut s t (0x60020 + 0x1000 * k) ∧ Completed s t seq .ok 0 [] ∧
        t.raw (0x60020 + 0x1000 * k) = s.raw (0x60020 + 0x1000 * k) &&& ~~~(0x8000000000000000 : W64)) ∧
    (∀ k, k < 8 →
      ((∀ c ∈ s.claims, ¬(c.kind = 2 ∧ c.index = k)) → ∃ t, exec (.traceEnable seq k val mask) s = .next t ∧ Kept s t ∧
        Completed s t seq .ok 0 [] ∧ t.raw (Reg.dbgTraceCfg k) = s.raw (Reg.dbgTraceCfg k)) ∧
      ((∃ c ∈ s.claims, c.kind = 2 ∧ c.index = k) → s.flag (Fld.dbgTraceCfg_enable k) = false → mask = BitVec.allOnes 64 →
        val.getLsbD 0 = true → val.getLsbD 16 = false →
        ∃ t, exec (.traceEnable seq k val mask) s = .next t ∧ Kept s t ∧ Completed s t seq .ok 0 [] ∧
          t.flag (Fld.dbgTraceCfg_enable k) = true ∧ t.fld (Fld.dbgTracePos_index k) = 0 ∧
          t.flag (Fld.dbgTracePos_stopped k) = false))

/-- 10 R394, 12 R431, R434, 13 R470: SET_CLOCK_PLAN puts its plan in force, and completes at once where ACLK already runs at its
point; SET_POWER_PLAN puts in force the entries that it checks, each in the register of its ID, and stops the cores that they
power down; CLAIM_RESOURCE gives a free resource a claim, and RELEASE_RESOURCE ends it. -/
def Obligations.PlanCommands : Prop :=
  ∀ (seq : W64) (s : State), Arrives s seq True True True →
    (s.devState ≠ 5 → ∀ pt fl : Byte,
      (2 < pt.toNat ∨ 1 < fl.toNat →
        ∃ t, exec (.setClockPlan seq [pt, fl, 0, 0, 0, 0, 0, 0]) s = .next t ∧ Refused s t seq .badArgument) ∧
      (pt = 0 → fl.toNat ≤ 1 → s.flag Fld.calStatus_valid = false →
        ∃ t, exec (.setClockPlan seq [pt, fl, 0, 0, 0, 0, 0, 0]) s = .next t ∧ Refused s t seq .calInvalid) ∧
      (pt.toNat ≤ 2 → fl.toNat ≤ 1 → pt ≠ 0 ∨ s.flag Fld.calStatus_valid = true → s.sys.trans = none →
        s.sys.powerActs = [] → s.sys.clockCmds = [] →
        ∃ t, exec (.setClockPlan seq [pt, fl, 0, 0, 0, 0, 0, 0]) s = .next t ∧ t.fld Fld.clkPlan_point = pt.toNat ∧
          t.fld Fld.clkPlan_allowDvfs = fl.toNat ∧
          (s.fld Fld.clkStatus_point = pt.toNat → Completed s t seq .ok 0 [] ∧ KeptBut s t 0x10008) ∧
          (s.fld Fld.clkStatus_point ≠ pt.toNat → RunsOn t seq ∧ t.sys.clockCmds = [seq] ∧ t.cores = s.cores))) ∧
    (s.devState ≠ 5 → ∀ plan,
      (∀ a, s.checkPlan plan = .inl a → ∃ t, exec (.setPowerPlan seq plan) s = .next t ∧ Refused s t seq a.status) ∧
      (∀ es, s.checkPlan plan = .inr es → s.cmap.logical.Nodup →
        ∃ t, exec (.setPowerPlan seq plan) s = .next t ∧ Completed s t seq .ok 0 [] ∧
          (∀ i, i < 64 → t.raw (Reg.pwrEntry i) = ((es.find? fun e => e.id = i + 1).map (·.word)).getD 0) ∧
          (field plan 2 2 ≠ 0 → t.fld Fld.pwrCap_cap = field plan 2 2) ∧
          (∀ n p, s.physOf n = some p → (t.core p).stopped =
            if s.planOff n = offIn es n then (s.core p).stopped else offIn es n) ∧
          t.vault = s.vault ∧ t.sched = s.sched ∧ t.cmap = s.cmap)) ∧
    (∀ (kind function : Byte) (index : W16),
      (claimCount kind.toNat ≤ index.toNat ∨ (kind = 0 ∧ 5 < function.toNat) →
        ∃ t, exec (.claimResource seq kind function index) s = .next t ∧ Refused s t seq .badArgument) ∧
      (index.toNat < claimCount kind.toNat → (kind = 0 → function.toNat ≤ 5) →
        ((∃ c ∈ s.claims, c.kind = kind.toNat ∧ c.index = index.toNat) ∨
            (kind = 3 ∧ s.fld (Fld.xptHolder_holder (index.toNat / 8) (index.toNat % 8)) = 1) →
          ∃ t, exec (.claimResource seq kind function index) s = .next t ∧ Refused s t seq .conflict) ∧
        ((∀ c ∈ s.claims, ¬(c.kind = kind.toNat ∧ c.index = index.toNat)) →
            (kind = 3 → s.fld (Fld.xptHolder_holder (index.toNat / 8) (index.toNat % 8)) ≠ 1) →
          ∃ t n, exec (.claimResource seq kind function index) s = .next t ∧ Completed s t seq .ok (BitVec.ofNat 64 n) [] ∧
            t.claims = s.claims ++ [⟨n, kind.toNat, function.toNat, index.toNat⟩] ∧ (s.nextClaim < 2 ^ 24 → n = s.nextClaim) ∧
            (kind = 3 → t.fld (Fld.xptPort_mode (index.toNat / 8) (index.toNat % 8)) = 3 ∧
              t.fld (Fld.xptHolder_holder (index.toNat / 8) (index.toNat % 8)) = 2) ∧
            t.cores = s.cores ∧ t.vault = s.vault ∧ t.sched = s.sched))) ∧
    (∀ claim : W32,
      (∀ c, s.claims.find? (fun c => c.id = claim.toNat) = some c →
        ∃ t, exec (.releaseResource seq claim) s = .next t ∧ Completed s t seq .ok 0 [] ∧
          t.claims = s.claims.filter (fun x => x.id ≠ claim.toNat) ∧
          (c.kind = 0 → c.index < 8 → (∀ d ∈ s.claims, d.id ≠ c.id → ¬(d.kind = 0 ∧ d.index = c.index)) →
            t.sys.gpioOut.getLsbD c.index = false) ∧
          (c.kind = 3 → c.index < 32 → t.fld (Fld.xptHolder_holder (c.index / 8) (c.index % 8)) = 0) ∧
          t.cores = s.cores ∧ t.vault = s.vault ∧ t.sched = s.sched) ∧
      ((∀ c ∈ s.claims, c.id ≠ claim.toNat) →
        ∃ t, exec (.releaseResource seq claim) s = .next t ∧ Refused s t seq .notFound))

/-- 08 R338, 10 R386, R394, 11 R407 to R413, 12 R441 to R443: ATTEST waits for its signature; ENROL_PUBLISHER and
REVOKE_PUBLISHER are checked by R412 and written to the flash one at a time; CAL_READ answers bytes of the stored set, with
CAL_INVALID where the set is not valid; CAL_WRITE reads its set from the host; LEDGER_READ answers an account's record, and
LEDGER_CLEAR zeroes its counters; with ALL they write every account into the host's region, and run until the host has
acknowledged it (10 R385). -/
def Obligations.StoreCommands : Prop :=
  ∀ (seq : W64) (s : State), Arrives s seq True True True →
    (∀ nonce, ∃ t, exec (.attest seq nonce) s = .next t ∧ RunsOn t seq ∧
      t.sec = { s.sec with quotes := s.sec.quotes ++ [(seq, nonce)] } ∧ Kept { s with sec := {} } { t with sec := {} }) ∧
    (s.devState ≠ 5 → s.sec.changes = [] → (∀ o ∈ s.sec.flash, ∃ p, o = .retire p) → ∀ (slot : Byte) (auth : Bytes),
      (∀ key,
        (∀ st, s.changeRefusal ⟨seq, slot.toNat, some key, auth⟩ = some st →
          ∃ t, exec (.enrolPublisher seq slot key auth) s = .next t ∧ Completed s t seq st 0 [] ∧ KeptBut s t 0x80020) ∧
        (s.changeRefusal ⟨seq, slot.toNat, some key, auth⟩ = none →
          ∃ t, exec (.enrolPublisher seq slot key auth) s = .next t ∧ RunsOn t seq ∧
            t.sec = { s.sec with flash := s.sec.flash ++ [.enrol seq slot.toNat key] } ∧
            Kept { s with sec := {} } { t with sec := {} }) ∧
        ((s.anchor 0).st ≠ .enrolled → slot ≠ 0 → slot.toNat < 64 → keyOk key = true →
          s.changeRefusal ⟨seq, slot.toNat, some key, auth⟩ = some .denied) ∧
        ((s.anchor 0).st ≠ .enrolled → slot = 0 → keyOk key = true → auth = [] → s.sec.enrolCount ≠ 65535 →
          (∀ i, i ≠ 0 → (s.anchor i).st = .empty) → s.changeRefusal ⟨seq, slot.toNat, some key, auth⟩ = none)) ∧
      (∀ st, s.changeRefusal ⟨seq, slot.toNat, none, auth⟩ = some st →
        ∃ t, exec (.revokePublisher seq slot auth) s = .next t ∧ Completed s t seq st 0 [] ∧ KeptBut s t 0x80020) ∧
      (s.changeRefusal ⟨seq, slot.toNat, none, auth⟩ = none →
        ∃ t, exec (.revokePublisher seq slot auth) s = .next t ∧ RunsOn t seq ∧
          t.sec = { s.sec with flash := s.sec.flash ++ [.revoke seq slot.toNat] } ∧
          Kept { s with sec := {} } { t with sec := {} })) ∧
    (∀ off n : W32,
      (n = 0 ∨ 8192 < n.toNat ∨ 262144 < off.toNat + n.toNat →
        ∃ t, exec (.calRead seq off n) s = .next t ∧ Refused s t seq .badArgument) ∧
      (n ≠ 0 → n.toNat ≤ 8192 → off.toNat + n.toNat ≤ 262144 →
        ∃ t, exec (.calRead seq off n) s = .next t ∧ Kept s t ∧
          Completed s t seq (if s.flag Fld.calStatus_valid then .ok else .calInvalid) 0
            ((List.range n.toNat).map fun i => s.calByte (off.toNat + i)))) ∧
    (∀ (g : Region) (confirm : W32), RegionOk s g →
      (g.length.toNat ≠ 262144 ∨ confirm ≠ 0x43414C57 →
        ∃ t, exec (.calWrite seq g confirm) s = .next t ∧ Refused s t seq .badArgument) ∧
      (g.length.toNat = 262144 → confirm = 0x43414C57 →
        (s.anyLaunched = true → ∃ t, exec (.calWrite seq g confirm) s = .next t ∧ Refused s t seq .busy) ∧
        (s.anyLaunched = false → ∃ t, exec (.calWrite seq g confirm) s = .next t ∧ Kept s t ∧ Reads t seq g))) ∧
    (∀ (account : W16) (g : Region),
      (∀ a, SMap.get s.ledger.accounts none account.toNat = some a →
        (∃ t, exec (.ledgerRead seq account false g) s = .next t ∧ Kept s t ∧ Completed s t seq .ok (s.raw Reg.beatCount)
          (accountRecord account.toNat a ++ (List.range 64).flatMap fun b => leBytes (s.base b).use 4)) ∧
        ∃ t, exec (.ledgerClear seq account false g) s = .next t ∧ Kept s t ∧
          Completed s t seq .ok (s.raw Reg.beatCount)
            (accountRecord account.toNat a ++ (List.range 64).flatMap fun b => leBytes (s.base b).use 4) ∧
          (account ≠ 0xFFFF → ∀ b n, SMap.get t.ledger.accounts none account.toNat = some b → SMap.get b.counters 0 n = 0)) ∧
      (SMap.get s.ledger.accounts none account.toNat = none →
        ∀ i ∈ [Instr.ledgerRead seq account false g, Instr.ledgerClear seq account false g],
          ∃ t, exec i s = .next t ∧ Refused s t seq .notFound) ∧
      (∀ bs, RegionOk s g →
        bs = (s.accounts.flatMap fun e => accountRecord e.1 e.2) ++ s.baseCounts ++ s.weftCounts →
        bs.length ≤ g.length.toNat → s.dataPaused = false →
        ∀ i ∈ [Instr.ledgerRead seq account true g, Instr.ledgerClear seq account true g],
          ∃ t x p, exec i s = .next t ∧ Kept s t ∧ x ∈ t.eth.running ∧ x.seq = seq ∧ x.put = some p ∧ p.region = g ∧ p.bytes = bs ∧
            p.value = s.raw Reg.beatCount ∧ p.psn.isSome = true ∧ t.eth.wrote = s.eth.wrote ++ [(g.addr, bs)] ∧
            (t.eth.frames.drop s.eth.frames.length).map (·.body) = s.writePackets g.addr g.rkey bs))

/-- 06 R233, R235, R238, R252, 07 R267, R300, 08 R313: DISCOVER floods every port that is up and runs until the reports are in;
THREAD_LOOM, REPLACE_WARP and LAUNCH at the origin enter the two-phase operations of the loom, the first of which sends its
prepare; BEAT_ALIGN sends the origin's beat down the tree, and is BUSY while a context is launched, here or on another device (log
133); SET_DRAFT reads its draft; LAUNCH on a READY device starts its own DEDICATED contexts, and is NO_RESOURCE where fewer cores
are usable than the lowest grade needs (00 R4); a command of the origin is BAD_ARGUMENT elsewhere (10 R384). -/
def Obligations.LoomCommands : Prop :=
  ∀ (seq : W64) (s : State),
    (Arrives s seq True True True →
      (s.disc.seq.isSome = true → ∃ t, exec (.discover seq) s = .next t ∧ Refused s t seq .busy) ∧
      (s.disc.seq = none → s.upPorts ≠ [] → ∃ t, exec (.discover seq) s = .next t ∧ RunsOn t seq ∧
        t.disc = { origin := some Config.serial, isOrigin := true, waiting := s.upPorts, seq := some seq, beat := s.beat, live := true } ∧
        SentLast s t (s.upPorts.map fun q => .flood q ⟨Config.serial, 0, 0, q⟩) ∧ t.cores = s.cores ∧ t.sched = s.sched)) ∧
    (Arrives s seq True False True → ∀ paths : List ExpressPath,
      (s.disc.isOrigin = true → s.disc.result = some 0 → paths.length ≤ 2000 →
        ∃ t o, exec (.threadLoom seq paths) s = .next t ∧ RunsOn t seq ∧ t.loom.ops = s.loom.ops ++ [o] ∧ o.kind = .thread ∧
          o.seq = seq ∧ o.arg = s.found.nr.toNat ∧ o.arg2 = s.found.nc.toNat ∧ o.replies = [] ∧
          (s.loom.ops = [] → SentLast s t [.prepare .thread o.arg o.arg2 o.data]) ∧ t.cores = s.cores) ∧
      (s.disc.isOrigin = false ∨ s.disc.result ≠ some 0 → s.disc.origin.isSome = true →
        ∃ t, exec (.threadLoom seq paths) s = .next t ∧ Refused s t seq .badArgument)) ∧
    (Arrives s seq False True False →
      (s.isOrigin = false → ∀ g base mode job l, ∀ i ∈ [Instr.beatAlign ⟨seq, l⟩, .setDraft seq g, .replaceWarp seq base mode g, .launch seq job],
        ∃ t, exec i s = .next t ∧ Refused s t seq .badArgument) ∧
      (s.isOrigin = true →
        (∀ l, s.anyLaunched = true ∨ l = true → ∃ t, exec (.beatAlign ⟨seq, l⟩) s = .next t ∧ Refused s t seq .busy) ∧
        (s.anyLaunched = false → ∃ t, exec (.beatAlign ⟨seq, false⟩) s = .next t ∧ Completed s t seq .ok (s.raw Reg.beatCount) [] ∧
          t.flag Fld.beatStatus_aligned = true ∧ t.raw Reg.beatAdjust = 0 ∧ t.beat = s.beat ∧
          SentLast s t (s.alignChildren.map fun q => .beat q (s.beat * 512)) ∧ t.cores = s.cores ∧ t.sched = s.sched) ∧
        (∀ g, RegionOk s g →
          (∃ t, exec (.setDraft seq g) s = .next t ∧ Kept s t ∧ Reads t seq g) ∧
          ∀ base mode : Byte,
            (64 ≤ base.toNat ∨ 1 < mode.toNat →
              ∃ t, exec (.replaceWarp seq base mode g) s = .next t ∧ Refused s t seq .badArgument) ∧
            (base.toNat < 64 → mode.toNat ≤ 1 → ∃ t o, exec (.replaceWarp seq base mode g) s = .next t ∧ RunsOn t seq ∧
              t.loom.ops = s.loom.ops ++ [o] ∧ o.kind = .replace ∧ o.seq = seq ∧ o.arg = base.toNat ∧ o.arg2 = mode.toNat ∧
              (s.loom.ops = [] → SentLast s t [.prepare .replace o.arg o.arg2 o.data]) ∧ t.warp = s.warp)) ∧
        (∀ g base mode, ¬RegionOk s g → ∀ i ∈ [Instr.setDraft seq g, .replaceWarp seq base mode g],
          ∃ t, exec i s = .next t ∧ Refused s t seq .badArgument) ∧
        (s.tooFew = false → ∀ job, ∃ t o, exec (.launch seq job) s = .next t ∧ RunsOn t seq ∧ t.loom.ops = s.loom.ops ++ [o] ∧
          o.kind = .launch ∧ o.seq = seq ∧ o.arg = job.toNat ∧ (s.loom.ops = [] → SentLast s t [.prepare .launch o.arg 0 []]) ∧
          t.sched = s.sched) ∧
        (s.tooFew = true → s.regradeDue = false ∨ s.anyLaunched = true → ∀ job,
          ∃ t, exec (.launch seq job) s = .next t ∧ Refused s t seq .noResource))) ∧
    (Arrives s seq True False False → ∀ job : W16, s.regradeDue = false → s.tooFew = false →
      (s.createdOf job.toNat = [] ∨ (∃ k, (s.ctx k).st ≠ .free ∧ (s.ctx k).job = job.toNat ∧ (s.ctx k).serving = true) →
        ∃ t, exec (.launch seq job) s = .next t ∧ Completed s t seq .notFound 0 [] ∧ t.cores = s.cores ∧
          ∀ k, (t.ctx k).st = (s.ctx k).st) ∧
      (∀ k, s.createdOf job.toNat = [k] →
        (∀ e ∈ s.sched.ctxs, e.2.st ≠ .free → e.2.job = job.toNat → e.2.serving = false) → s.exact = false →
        s.launchCheck k = .ok → (s.jobBarriers job.toNat).length < 64 →
        ∃ t start, exec (.launch seq job) s = .next t ∧ start = s.beat + s.fld Fld.beatCtrl_launchLead ∧
          Completed s t seq .ok (BitVec.ofNat 64 start) [] ∧ (t.ctx k).st = .launched ∧ (t.ctx k).startBeat = some start ∧
          t.cores = s.cores ∧ t.vault = s.vault ∧ ∀ j, j ≠ k → t.ctx j = s.ctx j))

/-- 07 R293 to R299, R304, 11 R417: LOAD_WARP_SHARD, LOAD_WEFT, PAGE_SUPPLY and REPLACE_WEFT from a package read their package
and take a content key, or wait for one; REPLACE_WEFT for a step that began before the command is STALE; EVICT discards a base that
no pass and no replacement uses, pages a weft out, or removes one that no session has, and waits while a command of a context that
maps the weft runs (05 R177, 07 R297). -/
def Obligations.PackageCommands : Prop :=
  ∀ (seq : W64) (s : State),
    (Arrives s seq False True False → ∀ g : Region,
      (RegionOk s g → ∀ i t0,
        ((∃ base : Byte, base.toNat < 64 ∧ i = .loadWarpShard seq base g ∧
            t0 = (if (s.base base.toNat).st = .absent then
              s.setBase base.toNat { s.base base.toNat with st := .loading } else s)) ∨
          (t0 = s ∧
            ((∃ (w client : W16) (base : Byte), base.toNat < 64 ∧ (s.base base.toNat).model.isSome = true ∧
                i = .loadWeft seq w client base g) ∨
              (∃ (w : W16) (page : W32) (x : Weft), s.weft w.toNat = some x ∧ x.pages[page.toNat]? = some none ∧
                i = .pageSupply seq w page g) ∨
              ∃ (w : W16) (step : W64) (x : Weft), s.weft w.toNat = some x ∧
                (step = 0 ∨ (s.base x.base).beganBefore step s.beat = false) ∧ i = .replaceWeft seq w none step g))) →
        ∃ t, exec i s = .next t ∧ Reads t seq g ∧ Kept { t0 with sec := {} } { t with sec := {} } ∧
          (s.sec.keysInUse.length < 16 → t.sec = { s.sec with keysInUse := s.sec.keysInUse ++ [seq] }) ∧
          (16 ≤ s.sec.keysInUse.length → t.sec = { s.sec with keyWait := s.sec.keyWait ++ [seq] })) ∧
      (∀ base : Byte, 64 ≤ base.toNat → ∃ t, exec (.loadWarpShard seq base g) s = .next t ∧ Refused s t seq .badArgument) ∧
      (∀ (w client : W16) (base : Byte), (s.base base.toNat).model = none →
        ∃ t, exec (.loadWeft seq w client base g) s = .next t ∧ Refused s t seq .notFound) ∧
      (∀ (w : W16) (page : W32) (src : Option (Byte × W64)) (step : W64), s.weft w.toNat = none →
        ∀ i ∈ [Instr.pageSupply seq w page g, .replaceWeft seq w src step g],
          ∃ t, exec i s = .next t ∧ Refused s t seq .notFound) ∧
      (∀ (w : W16) (src : Option (Byte × W64)) (step : W64) (x : Weft), s.weft w.toNat = some x → step ≠ 0 →
        (∃ b : Nat, (s.base x.base).begins.find? (fun e => e.1 = step) = some (step, b) ∧ b < s.beat) ∨
          ((∀ e ∈ (s.base x.base).begins, e.1 ≠ step) ∧ step.ult (s.base x.base).step = true) →
        ∃ t, exec (.replaceWeft seq w src step g) s = .next t ∧ Refused s t seq .stale)) ∧
    (Arrives s seq True True False → ∀ id : W16,
      (∀ x, s.base id.toNat = x → id.toNat < 64 → x.model.isSome = true →
        (s.inDraft id.toNat = true ∨ s.replacing id.toNat = true →
          ∃ t, exec (.evict seq 2 id) s = .next t ∧ Refused s t seq .busy) ∧
        (s.inDraft id.toNat = false → s.replacing id.toNat = false →
          ∃ t, exec (.evict seq 2 id) s = .next t ∧ Completed s t seq .ok 0 [] ∧
            t.base id.toNat = { x with st := .absent, model := none } ∧ (∀ b, b ≠ id.toNat → t.base b = s.base b) ∧
            (∀ n, (t.vpage n).now ≠ .shard id.toNat) ∧ t.vault = s.vault ∧ t.cores = s.cores)) ∧
      (∀ x, s.weft id.toNat = some x →
        (x.staged = none → x.old = none → s.sched.cmds = [] →
          ∃ t, exec (.evict seq 0 id) s = .next t ∧ Completed s t seq .ok 0 [] ∧
            t.weft id.toNat = some { x with pages := x.pages.map fun _ => none } ∧
            (∀ w, w ≠ id.toNat → t.weft w = s.weft w) ∧ t.vault = s.vault ∧ t.cores = s.cores) ∧
        (∀ key c j f, x.staged = none → x.old = none → s.cmdAt key = some c → (s.ctx c.ctx).st ≠ .free →
          (s.ctx c.ctx).client = x.client → x.pages[j]? = some (some f) →
          SMap.get (s.ctx c.ctx).pages .unmapped (x.progAddr / pageBytes + j) = .resident f →
          ∃ t, exec (.evict seq 0 id) s = .next t ∧ Kept s t ∧ ∃ r ∈ t.eth.running, r.seq = seq ∧ r.waits = true) ∧
        (s.weftSessions id.toNat = false → x.staged = none → x.old = none → s.sched.cmds = [] →
          ∃ t, exec (.evict seq 1 id) s = .next t ∧ Completed s t seq .ok 0 [] ∧ t.weft id.toNat = none ∧
            (∀ w, w ≠ id.toNat → t.weft w = s.weft w) ∧ (∀ n, (t.vpage n).now ≠ .weft id.toNat) ∧
            t.vault = s.vault ∧ t.cores = s.cores) ∧
        (s.weftSessions id.toNat = true → ∃ t, exec (.evict seq 1 id) s = .next t ∧ Refused s t seq .busy)) ∧
      (s.weft id.toNat = none → ∀ mode : Byte, mode.toNat ≤ 1 →
        ∃ t, exec (.evict seq mode id) s = .next t ∧ Refused s t seq .notFound) ∧
      (∀ mode : Byte, 2 < mode.toNat → ∃ t, exec (.evict seq mode id) s = .next t ∧ Refused s t seq .badArgument))

/-- 08 R308 to R312, R329 to R331: LOAD_PROGRAM and CREATE_CONTEXT read their binary, list or plan; PREEMPT of a LAUNCHED context
stops its command, killed in mode 0 where it may be, saved otherwise, and completes once none of the context runs; a command that is
to end by a fault or by CMD.ABORT ends, and does not run again (04 R164, R168); RESUME makes a PREEMPTED context LAUNCHED, waiting at
the back; DESTROY_CONTEXT frees a context that is not LAUNCHED. -/
def Obligations.ContextCommands : Prop :=
  ∀ (seq : W64) (s : State),
    (Arrives s seq True True False → ∀ g : Region,
      (RegionOk s g → ∃ t, exec (.loadProgram seq g) s = .next t ∧ Kept s t ∧ Reads t seq g) ∧
      (¬RegionOk s g → ∃ t, exec (.loadProgram seq g) s = .next t ∧ Refused s t seq .badArgument) ∧
      ∀ (program partition cls base : Byte) (client job first count : W16) (quota : W32) (n : NewCtx),
        n = ⟨program.toNat, partition.toNat, cls.toNat, base.toNat, client.toNat, job.toNat, first.toNat, count.toNat, quota.toNat⟩ →
        (s.program program.toNat = none →
          ∃ t, exec (.createContext seq program partition cls base client job first count quota g) s = .next t ∧
            Refused s t seq .notFound) ∧
        (∀ x, s.program program.toNat = some x →
          (s.createBad n x g.length.toNat = true →
            ∃ t, exec (.createContext seq program partition cls base client job first count quota g) s = .next t ∧
              Refused s t seq .badArgument) ∧
          (s.createBad n x g.length.toNat = false → RegionOk s g →
            ∃ t, exec (.createContext seq program partition cls base client job first count quota g) s = .next t ∧
              Kept s t ∧ Reads t seq g ∧ ∃ r ∈ t.eth.running, r.seq = seq ∧ r.args = n.list) ∧
          ((n.count = 0 ∨ 1200 < n.first + n.count ∨ 64 ≤ n.part ∨ 1 < n.cls ∨ n.client = 0xFFFF ∨ (n.cls = 1 ∧ x.vm1 = true) ∨
            (n.cls = 0 ∧ g.length.toNat % 640 ≠ 0)) → s.createBad n x g.length.toNat = true))) ∧
    (Arrives s seq True True False → ∀ k mode : Byte,
      ((s.ctx k.toNat).st = .free → ∀ i ∈ [Instr.preempt seq k mode, .resume seq k, .destroyContext seq k],
        ∃ t, exec i s = .next t ∧ Refused s t seq .notFound) ∧
      ((s.ctx k.toNat).st ≠ .free → 1 < mode.toNat →
        ∃ t, exec (.preempt seq k mode) s = .next t ∧ Refused s t seq .badArgument) ∧
      ((s.ctx k.toNat).st ≠ .free → (s.ctx k.toNat).st ≠ .launched → mode.toNat ≤ 1 →
        ∃ t, exec (.preempt seq k mode) s = .next t ∧ Kept s t ∧ Completed s t seq .ok 0 []) ∧
      ((s.ctx k.toNat).st = .launched → mode.toNat ≤ 1 → (s.ctx k.toNat).preempts = [] → (s.ctx k.toNat).swapping = false →
        (s.ctx k.toNat).degraded = false →
        (s.cmdsOf k.toNat = [] → ∃ t, exec (.preempt seq k mode) s = .next t ∧ Completed s t seq .ok 0 [] ∧
          (t.ctx k.toNat).st = .preempted ∧ (t.ctx k.toNat).resident = false ∧ t.cores = s.cores ∧ t.vault = s.vault) ∧
        (∀ key c, s.cmdsOf k.toNat = [(key, c)] → c.phase = .running →
          (c.pending = true → ∃ t, exec (.preempt seq k mode) s = .next t ∧ t.cmdAt key = none ∧
            ∀ r ∈ (t.ctx k.toNat).rerun, r ∈ (s.ctx k.toNat).rerun) ∧
          (mode = 0 → s.killable c = true → c.pending = false →
            ∃ t, exec (.preempt seq k mode) s = .next t ∧ Completed s t seq .ok 0 [] ∧
              (t.ctx k.toNat).st = .preempted ∧ (t.ctx k.toNat).rerun = c.again.inOrder (s.ctx k.toNat).rerun ∧
              t.cmdAt key = none ∧ CoresFree s t c) ∧
          (mode = 1 ∨ s.killable c = false → c.pending = false → (∀ v ∈ (s.ctx k.toNat).saving, v.cmd ≠ key) →
            ∃ t, exec (.preempt seq k mode) s = .next t ∧ RunsOn t seq ∧ (t.ctx k.toNat).preempts = [seq] ∧
              (t.ctx k.toNat).saving = (s.ctx k.toNat).saving ++ [⟨key, s.beat⟩] ∧ t.cmdAt key = s.cmdAt key ∧
              ∀ p ∈ s.setCores c, (t.core p).saving = true))) ∧
      ((s.ctx k.toNat).st = .launched → ∃ t, exec (.resume seq k) s = .next t ∧ Kept s t ∧ Completed s t seq .ok 0 []) ∧
      ((s.ctx k.toNat).st = .preempted → ∃ t, exec (.resume seq k) s = .next t ∧ Completed s t seq .ok 0 [] ∧
        (t.ctx k.toNat).st = .launched ∧ (t.ctx k.toNat).waitOrder = s.sched.waitNo ∧ t.sched.waitNo = s.sched.waitNo + 1 ∧
        t.cores = s.cores ∧ t.vault = s.vault ∧ ∀ j, j ≠ k.toNat → t.ctx j = s.ctx j) ∧
      ((s.ctx k.toNat).st = .created ∨ (s.ctx k.toNat).st = .faulted →
        ∃ t, exec (.resume seq k) s = .next t ∧ Refused s t seq .badArgument)) ∧
    (Arrives s seq True True True → ∀ k : Byte,
      ((s.ctx k.toNat).st = .launched → ∃ t, exec (.destroyContext seq k) s = .next t ∧ Refused s t seq .busy) ∧
      ((s.ctx k.toNat).st ≠ .free → (s.ctx k.toNat).st ≠ .launched → (s.ctx k.toNat).serving = false → s.cmdsOf k.toNat = [] →
        (s.sched.ctxs.map (·.1)).Nodup → ∃ t, exec (.destroyContext seq k) s = .next t ∧ Completed s t seq .ok 0 [] ∧ (t.ctx k.toNat).st = .free ∧
          (∀ n, (t.vpage n).now ≠ .save k.toNat ∧ (t.vpage n).now ≠ .reduction k.toNat) ∧
          ((∀ j, j ≠ k.toNat → (s.ctx j).st ≠ .free → (s.ctx j).part ≠ (s.ctx k.toNat).part) →
            t.part (s.ctx k.toNat).part = none) ∧
          t.cores = s.cores ∧ t.vault = s.vault ∧ ∀ j, j ≠ k.toNat → t.ctx j = s.ctx j))

/-- 01 R12 to R14, R25, R32, 10 R390 to R393: OPEN_SESSION gives a session its id and its memory; FEED_PROMPT queues its tokens at
the committed length with those queued before, and they count from its acceptance; CLOSE_SESSION takes effect at once where no
commit is to come, and otherwise waits; MIGRATE_SESSION sends the session's state, its history and KV with it; the target's
MIGRATE_RX takes it or answers why not, and the source's ends the command. -/
def Obligations.SessionCommands : Prop :=
  ∀ (seq : W64) (s : State),
    (Arrives s seq False True False →
      (∀ (client : W16) (base : Byte) (weft : Option W16) (ring : Byte) (maxCtx : W32) (seed : W64) (params : Bytes),
        (∀ st : Status, s.openRefusal client.toNat base.toNat (weft.map (·.toNat)) ring.toNat maxCtx.toNat params = some st →
          ∃ t : State, exec (.openSession seq client base weft ring maxCtx seed params) s = .next t ∧ Refused s t seq st) ∧
        ((64 ≤ base.toNat ∨ ring = 255 ∨ maxCtx = 0 ∨ 16777215 < maxCtx.toNat ∨ 4096 < params.length) →
          s.openRefusal client.toNat base.toNat (weft.map (·.toNat)) ring.toNat maxCtx.toNat params = some .badArgument) ∧
        (∀ (n k : Nat) (l : SessLayout) (first : Nat), s.openRefusal client.toNat base.toNat (weft.map (·.toNat)) ring.toNat maxCtx.toNat params = none →
          s.freeSessionId = some n → s.servingCtx client.toNat base.toNat = some k → s.cmdsOf k = [] →
          l = sessLayout (s.ctx k) (((s.base base.toNat).model.map (·.layers)).getD 0) maxCtx.toNat params.length →
          freeWindow (s.clientPages (s.ctx k).client) l.frames = some first → s.vpages = [] → RoomFor s k l →
          ∃ (t : State) (x : Session), exec (.openSession seq client base weft ring maxCtx seed params) s = .next t ∧
            Completed s t seq .ok (BitVec.ofNat 64 n) [] ∧ t.session n = some x ∧ x.client = client.toNat ∧
            x.base = base.toNat ∧ x.weft = weft.map (·.toNat) ∧ x.ring = ring.toNat ∧ x.maxCtx = maxCtx.toNat ∧
            x.seed = seed ∧ x.params = params ∧ x.committed = 0 ∧ x.prompt = [] ∧ x.frames = List.range l.frames ∧
            x.dir = first * 0x200000 ∧ (∀ i, i < 32 * l.frames → (t.vpage i).now = .session n) ∧
            ∀ m, m ≠ n → t.session m = s.session m)) ∧
      (∀ (n : W32) (count : W32) (last : Bool) (toks : List W32) (region : Option Region),
        (s.session n.toNat = none → ∃ t : State, exec (.feedPrompt seq n count last toks region) s = .next t ∧ Refused s t seq .notFound) ∧
        (∀ x : Session, s.session n.toNat = some x → x.left_ = none →
          (count = 0 ∨ x.maxCtx < x.committed + x.prompt.length + count.toNat →
            ∃ t : State, exec (.feedPrompt seq n count last toks region) s = .next t ∧ Refused s t seq .badArgument) ∧
          (region = none → count.toNat = toks.length → toks ≠ [] → toks.length ≤ 4092 →
            x.committed + x.prompt.length + toks.length ≤ x.maxCtx →
            ∃ (t : State) (y : Session), exec (.feedPrompt seq n count last toks region) s = .next t ∧
              Completed s t seq .ok (BitVec.ofNat 64 (x.committed + x.prompt.length)) [] ∧ t.session n.toNat = some y ∧
              y.prompt.map (·.tok) = x.prompt.map (·.tok) ++ toks ∧
              (∀ p ∈ y.prompt.drop x.prompt.length, p.beat = s.beat ∧ p.here = true) ∧
              { y with prompt := [], promptOpen := true } = { x with prompt := [], promptOpen := true } ∧
              y.promptOpen = !last ∧ (∀ m, m ≠ n.toNat → t.session m = s.session m) ∧ t.cores = s.cores ∧ t.vault = s.vault) ∧
          (∀ g : Region, region = some g → count ≠ 0 → count.toNat ≤ 16777215 → RegionOk s g → 4 * count.toNat ≤ g.length.toNat →
            x.committed + x.prompt.length + count.toNat ≤ x.maxCtx →
            ∃ (t : State) (y : Session), exec (.feedPrompt seq n count last toks region) s = .next t ∧ Reads t seq g ∧ t.session n.toNat = some y ∧
              y.prompt.length = x.prompt.length + count.toNat ∧ (∀ p ∈ y.prompt.drop x.prompt.length, p.here = false) ∧
              y.prompt.take x.prompt.length = x.prompt))) ∧
      (∀ (n : W32) (row col : Byte),
        (s.session n.toNat = none → ∃ t : State, exec (.migrateSession seq n row col) s = .next t ∧ Refused s t seq .notFound) ∧
        (∀ x : Session, s.session n.toNat = some x → x.closing = none → x.migrating = none →
          (s.loom.nr ≤ row.toNat ∨ s.loom.nc ≤ col.toNat ∨ (row.toNat = s.loom.row ∧ col.toNat = s.loom.col) →
            ∃ t : State, exec (.migrateSession seq n row col) s = .next t ∧ Refused s t seq .badArgument) ∧
          (row.toNat < s.loom.nr → col.toNat < s.loom.nc → ¬(row.toNat = s.loom.row ∧ col.toNat = s.loom.col) →
            ∃ (t : State) (y : Session), exec (.migrateSession seq n row col) s = .next t ∧ RunsOn t seq ∧ t.session n.toNat = some y ∧
              y.migrating = some (seq, row.toNat, col.toNat) ∧
              (s.noCommits x = false → t.loom.out = s.loom.out ∧ y.left_ = x.left_) ∧
              (s.noCommits x = true → y.left_ = some (s.base x.base).step ∧ y.inStep = false ∧
                ∃ m, SentLast s t [.migrate row.toNat col.toNat (.state s.loom.row s.loom.col seq m)] ∧ m.client = x.client ∧
                  m.base = x.base ∧ m.committed = x.committed ∧ m.history = x.history ∧ m.params = x.params ∧ m.seed = x.seed ∧
                  (Healthy s → s.lineErrs = [] → s.sched.unpub = [] → m.kv = x.pages.map fun a => s.vload a 65536)))))) ∧
    (Arrives s seq False True True → ∀ n : W32,
      (s.session n.toNat = none → ∃ t : State, exec (.closeSession seq n) s = .next t ∧ Refused s t seq .notFound) ∧
      (∀ x : Session, s.session n.toNat = some x →
        (x.closing.isSome = true → ∃ t : State, exec (.closeSession seq n) s = .next t ∧ Refused s t seq .notFound) ∧
        (x.closing = none → x.left_ = none → s.noCommits x = true →
          (∀ k, s.servingCtx x.client x.base = some k → s.cmdsOf k = []) →
          ∃ t : State, exec (.closeSession seq n) s = .next t ∧ Completed s t seq .ok (BitVec.ofNat 64 x.committed) [] ∧
            t.session n.toNat = none ∧ (∀ m, m ≠ n.toNat → t.session m = s.session m) ∧
            (∀ i, (t.vpage i).now ≠ .session n.toNat) ∧ t.cores = s.cores ∧ t.vault = s.vault) ∧
        (x.closing = none → x.left_ = none → s.noCommits x = false →
          ∃ t : State, exec (.closeSession seq n) s = .next t ∧ RunsOn t seq ∧
            t.session n.toNat = some { x with closing := some (s.beat, seq) } ∧ t.cores = s.cores ∧ t.vault = s.vault))) ∧
    (Threaded s →
      (∀ (row col : Nat) (m : MigSession) (st : Status), s.migRefusal m = some st → ∃ t : State, exec (.migrateRx (.state row col seq m)) s = .next t ∧
        SentLast s t [.migrate row col (.reply seq st 0)] ∧ LoomOnly s t) ∧
      (∀ (row col : Nat) (m : MigSession), s.migRefusal m = none → s.freeSessionId = none →
        ∃ t : State, exec (.migrateRx (.state row col seq m)) s = .next t ∧
          SentLast s t [.migrate row col (.reply seq .noResource 0)] ∧ LoomOnly s t) ∧
      (∀ (row col : Nat) (m : MigSession) (n k : Nat) (l : SessLayout) (first : Nat), s.migRefusal m = none → s.freeSessionId = some n → s.servingCtx m.client m.base = some k →
        s.cmdsOf k = [] →
        l = sessLayout (s.ctx k) (((s.base m.base).model.map (·.layers)).getD 0) m.maxCtx m.params.length →
        freeWindow (s.clientPages (s.ctx k).client) l.frames = some first → s.vpages = [] → RoomFor s k l →
        ∃ (t : State) (x : Session), exec (.migrateRx (.state row col seq m)) s = .next t ∧ SentLast s t [.migrate row col (.reply seq .ok n)] ∧
          t.session n = some x ∧ x.client = m.client ∧ x.base = m.base ∧ x.weft = m.weft ∧ x.committed = m.committed ∧
          x.history = m.history ∧ x.lastTok = m.lastTok ∧ x.seed = m.seed ∧ x.params = m.params ∧
          x.joinStep = (if (s.base m.base).begun then (s.base m.base).step + 1 else (s.base m.base).step) ∧
          x.prompt.map (fun p => (p.tok, p.last)) = m.prompt ∧ x.frames = List.range l.frames ∧
          (Healthy s → s.lineErrs = [] → m.kv.length = x.pages.length → (∀ b ∈ m.kv, b.length = 65536) →
            ∀ j i, j < x.pages.length → i < 65536 → t.vault.byte (x.pages.getD j 0 + i) = (m.kv.getD j []).getD i 0)) ∧
      (∀ (n : Nat) (x : Session) (row col id : Nat) (st : Status), s.openSessions.find? (fun e => (e.2.migrating.map (·.1)) = some seq) = some (n, x) →
        x.migrating = some (seq, row, col) →
        (st = .ok → (∀ k, s.servingCtx x.client x.base = some k → s.cmdsOf k = []) →
          ∃ t : State, exec (.migrateRx (.reply seq st id)) s = .next t ∧ t.session n = none ∧ Ended t seq) ∧
        (st ≠ .ok → ∃ t : State, exec (.migrateRx (.reply seq st id)) s = .next t ∧ Ended t seq ∧
          t.session n = some { x with migrating := none, left_ := none } ∧ t.vault = s.vault ∧ t.cores = s.cores)))

/-! ### Ethernet -/

/-- 10 R363 to R375: ETH_FRAME_RX counts a frame and its codewords, and drops one with a codeword that cannot be corrected, one that is
too long or not of the device's VLAN, one that is not addressed to it or for which its buffer has no room, and a packet with a bad
ICRC; it answers for its own addresses, sends XOFF for a class of PFC past 192 KiB, and takes the host's acknowledgements and NAKs;
a command message that arrives in order is acknowledged and enters the commands that run. PFC_PAUSE_RX, CNP_RX, RATE_RAISE,
RETRY_TIMEOUT and RNR_NAK_RX follow their rules, a retry sending the oldest unacknowledged request again; ATTACH makes the host's
queue pairs ready, is answered, and restarts the reads. -/
def Obligations.EthernetRows : Prop :=
  ∀ (s : State),
    (s.ethUp = true → ∀ f : EthFrame,
      (f.fecBad ≠ 0 ∨ 9216 < f.length ∨ s.vlanOk f = false →
        ∃ t, exec (.ethFrameRx f) s = .next t ∧ OnlyRegs s t [0x70100, 0x70118, 0x70120] ∧ FrameCounted s t f) ∧
      (f.fecBad = 0 → f.length ≤ 9216 → s.vlanOk f = true → s.frameForUs f = false ∨ s.rxRoom f = false →
        ∃ t, exec (.ethFrameRx f) s = .next t ∧ OnlyRegs s t [0x70100, 0x70110, 0x70118, 0x70120] ∧ FrameCounted s t f ∧
          Counted s t Fld.ethRxDrop_count) ∧
      (∀ n, f.fecBad = 0 → f.length ≤ 9216 → s.vlanOk f = true → s.frameForUs f = true → s.rxRoom f = true →
        n = SMap.get s.eth.rxHeld 0 (frameClass f) + f.length →
        (0x30000 < n → (s.fld Fld.ethCfg_pfcEn).testBit (frameClass f) = true → s.eth.xoff.getLsbD (frameClass f) = false →
          ∃ t fr, exec (.ethFrameRx f) s = .next t ∧ t.eth.xoff.getLsbD (frameClass f) = true ∧ fr ∈ t.eth.frames ∧
            fr.body = .pause (frameClass f) true) ∧
        (n ≤ 0x30000 ∨ (s.fld Fld.ethCfg_pfcEn).testBit (frameClass f) = false →
          (∀ own b, (f.body = .arp own ∧ b = .arp) ∨ (f.body = .neighbour own ∧ b = .neighbour) ∨
              (f.body = .echo ∧ own = f.dstIp ∧ b = .echo) →
            ∃ t fr, exec (.ethFrameRx f) s = .next t ∧
              OnlyRegs s { t with eth := s.eth } [0x70100, 0x70108, 0x70118, 0x70120] ∧
              FrameCounted s t f ∧ t.raw 0x70108 = s.raw 0x70108 + 1 ∧ t.eth = { s.eth with
                rxHeld := SMap.set s.eth.rxHeld 0 (frameClass f) n
                frames := s.eth.frames ++ [fr] } ∧
              fr.dstMac = f.srcMac ∧ fr.dstIp = some f.srcIp ∧ fr.srcIp = some own ∧ fr.body = b) ∧
          (∀ op q psn last ok m, f.body = .roce op q psn last ok m → ok = false ∨ 4096 < m.length →
            ∃ t, exec (.ethFrameRx f) s = .next t ∧
              OnlyRegs s { t with eth := s.eth } [0x70100, 0x70118, 0x70120, 0x70128] ∧
              t.eth = { s.eth with rxHeld := SMap.set s.eth.rxHeld 0 (frameClass f) n } ∧
              (ok = false → Counted s t Fld.ethIcrcErr_count))) ∧
        (∀ q psn last m, f.body = .roce .ack (0x100 + q) psn last true m → m.length ≤ 4096 → q < 1024 → f.ce = false →
          FromHost s f q → (q = 0 → s.putsOn 0 = []) →
          ∃ t, exec (.ethFrameRx f) s = .next t ∧ (t.qp q).retries = 0 ∧ t.cores = s.cores ∧
            (s.putsOn q = [] → t.eth.running = s.eth.running) ∧
            ((s.eth.running.map (·.seq)).Nodup → ∀ r ∈ s.putsOn q, ∀ p x, r.put = some p → p.psn = some x →
              psnLe x psn = true → Answered t r.seq .ok p.value) ∧
            ((psn + 1) % 2 ^ 24 = s.fld (Fld.ethQpPsn_nextSend q) → (t.qp q).sentAt = none ∧ (t.qp q).unacked = [] ∧
              (q = 0 → t.eth.undelivered = []) ∧ (q = 1 → t.eth.evtSent = [])) ∧
            ((psn + 1) % 2 ^ 24 ≠ s.fld (Fld.ethQpPsn_nextSend q) →
              (t.qp q).unacked = (s.qp q).unacked.filter fun g => !psnLe g.psn psn)) ∧
        (∀ q psn last m fr r, f.body = .roce .nak (0x100 + q) psn last true m → m.length ≤ 4096 → q < 1024 → f.ce = false →
          FromHost s f q → ((s.qp q).unacked.find? fun g => g.psn = psn) = some fr → s.askerOf q fr = some r →
          ∃ t, exec (.ethFrameRx f) s = .next t ∧ Answered t r.seq .badArgument 0) ∧
        (∀ q psn last m, f.body = .roce .ack (0x100 + q) psn last true m → m.length ≤ 4096 → q < 1024 → f.ce = true →
          FromHost s f q → s.classPaused (s.fld Fld.ethCfg_cnpPrio) = false →
          (∀ b, (s.qp q).cnpSent = some b → b + s.fld Fld.ethXport_cnpGap ≤ s.beat) →
          ∃ t fr, exec (.ethFrameRx f) s = .next t ∧ Counted s t Fld.ethCnpTx_count ∧ (t.qp q).cnpSent = some (s.beat : Int) ∧
            fr ∈ t.eth.frames ∧ fr.body = .cnp ∧ fr.qpn = s.fld (Fld.ethQp_hostQpn q)) ∧
        (∀ seq psn m m0, f.body = .roce .send 0x100 psn true true m → m.length ≤ 4096 → f.ce = false → FromHost s f 0 →
          psn = s.fld (Fld.ethQpPsn_expected 0) → Arrives s seq True True True →
          (s.eth.msgIn = none ∧ m0 = []) ∨ (∃ p, s.eth.msgIn = some p ∧ p.src = IpBits f.srcIp ∧ p.next = psn ∧ p.bytes = m0) →
          (m0 ++ m).length = 32 → byteAt (m0 ++ m) 0 = 1 → byteAt (m0 ++ m) 1 = 1 → field (m0 ++ m) 2 2 = 1 →
          field (m0 ++ m) 4 4 = 0 → field (m0 ++ m) 8 8 = seq.toNat →
          ∃ t r fr, exec (.ethFrameRx f) s = .next t ∧ t.eth.running = s.eth.running ++ [r] ∧ r.seq = seq ∧ r.code = 1 ∧
            r.fresh = true ∧ r.acceptBeat = s.beat ∧ t.eth.highest = seq ∧ t.eth.msgIn = none ∧
            t.fld (Fld.ethQpPsn_expected 0) = (psn + 1) % 2 ^ 24 ∧ fr ∈ t.eth.frames ∧ fr.body = .ack ∧ fr.psn = psn ∧
            t.cores = s.cores))) ∧
    (s.ethUp = true → ∀ cls pause, cls < 8 →
      ∃ t, exec (.pfcPauseRx cls pause) s = .next t ∧ Counted s t Fld.ethPfcRx_count ∧ t.cores = s.cores ∧
        (∀ c, c < 8 → t.eth.paused.getLsbD c =
          if c = cls ∧ (s.fld Fld.ethCfg_pfcEn).testBit cls = true then pause else s.eth.paused.getLsbD c)) ∧
    (∀ q, q < 1024 →
      (s.ethUp = true → s.fld (Fld.ethQp_state q) = 1 →
        ((∀ b, (s.qp q).lastCut = some b → b + s.fld Fld.ethCc_hold ≤ s.beat) →
          ∃ t, exec (.cnpRx q) s = .next t ∧ Counted s t Fld.ethCnpRx_count ∧ t.fld (Fld.ethQp_rate q) =
              max (s.fld Fld.ethCc_rMin) (s.fld (Fld.ethQp_rate q) - (s.fld (Fld.ethQp_rate q) + 3) / 4) ∧
            (t.qp q).lastCnp = some (s.beat : Int) ∧ (t.qp q).lastCut = some (s.beat : Int) ∧ t.cores = s.cores) ∧
        (∀ b, (s.qp q).lastCut = some b → s.beat < b + s.fld Fld.ethCc_hold →
          ∃ t, exec (.cnpRx q) s = .next t ∧ t.fld (Fld.ethQp_rate q) = s.fld (Fld.ethQp_rate q) ∧
            (t.qp q).lastCnp = some (s.beat : Int) ∧ (t.qp q).lastCut = some b)) ∧
      (s.portRuns = true → s.fld (Fld.ethQp_state q) = 1 → s.fld (Fld.ethQp_rate q) < 256 →
        (∀ b, (s.qp q).lastCnp = some b ∨ (s.qp q).lastRaise = some b → b + s.fld Fld.ethCc_quiet ≤ s.beat) →
        ∃ t, exec (.rateRaise q) s = .next t ∧
          t.fld (Fld.ethQp_rate q) = min 256 (s.fld (Fld.ethQp_rate q) + s.fld Fld.ethCc_step) ∧
          (t.qp q).lastRaise = some (s.beat : Int) ∧ t.cores = s.cores) ∧
      (∀ b, (s.qp q).lastCnp = some b → s.beat < b + s.fld Fld.ethCc_quiet → exec (.rateRaise q) s = .next s) ∧
      (∀ b i, (s.qp q).sentAt = some b → s.fld (Fld.ethQp_state q) = 1 →
        (s.portRuns = true ∧ i = .retryTimeout q ∧ b + s.fld Fld.ethXport_retryTmo < s.beat) ∨
          (s.ethUp = true ∧ i = .rnrNakRx q ∧ 2 ≤ q) →
        ((s.qp q).retries < s.fld Fld.ethXport_retryCnt →
          ∃ t, exec i s = .next t ∧ (t.qp q).retries = (s.qp q).retries + 1 ∧ (t.qp q).sentAt = some (s.beat : Int) ∧
            t.eth.frames = s.eth.frames ++ (s.qp q).unacked.take 1 ∧
            Counted s t Fld.ethRetry_count ∧ t.eth.running = s.eth.running ∧ t.cores = s.cores) ∧
        (s.fld Fld.ethXport_retryCnt ≤ (s.qp q).retries →
          ∃ t, exec i s = .next t ∧ t.fld (Fld.ethQp_state q) = 2 ∧ (q = 0 → t.flag Fld.ethAttach_cmdError = true) ∧
            ∀ r, r ∈ s.readsOn q ∨ r ∈ s.putsOn q → Ended t r.seq)) ∧
      (∀ b, (s.qp q).sentAt = some b → s.beat ≤ b + s.fld Fld.ethXport_retryTmo → exec (.retryTimeout q) s = .next s) ∧
      (∀ b, (s.qp q).sentAt = some b → s.fld (Fld.ethQp_state q) = 1 → s.ethUp = true → q < 2 →
        ∃ t, exec (.rnrNakRx q) s = .next t ∧ (t.qp q).retries = (s.qp q).retries ∧
          (t.qp q).sentAt = some ((s.beat + 175000 : Nat) : Int) ∧ t.eth.frames = s.eth.frames ++ (s.qp q).unacked.take 1 ∧
          t.fld (Fld.ethQp_state q) = 1)) ∧
    (s.ethUp = true → ∀ mac ip dst psn qps,
      (attachOk psn qps = true → s.mayAttach ip = true →
        ∃ t, exec (.attach mac ip dst psn qps) s = .next t ∧ t.flag Fld.ethAttach_attached = true ∧ t.hostIp = IpBits ip ∧
          t.fld Fld.ethHostMac_mac = mac.toNat ∧ t.fld Fld.ethAttach_qpCount = qps.length ∧ t.eth.devAddr = some dst ∧
          (∀ q e, qps[q]? = some e → t.fld (Fld.ethQp_state q) = 1 ∧ t.fld (Fld.ethQp_hostQpn q) = e.hostQpn ∧
            t.fld (Fld.ethQp_rate q) = 256 ∧ (q ≠ 0 → t.fld (Fld.ethQpPsn_expected q) = e.hostPsn ∧
              (s.openWrites = [] → (∀ r ∈ s.eth.running, r.region = none ∧ r.put = none) →
                t.fld (Fld.ethQpPsn_nextSend q) = e.devPsn))) ∧
          (∀ q, qps.length ≤ q → q < 1024 → t.raw (Reg.ethQp q) = resetWord (Reg.ethQp q)) ∧
          (∃ c : Completion, CmdMsg.done c ∈ t.eth.undelivered ++ t.eth.waiting ∧ c.code = 0 ∧ c.seq = 0 ∧ c.status = .ok) ∧
          t.eth.events = s.eth.evtSent ++ s.eth.events ∧ t.eth.evtSent = [] ∧ (∀ r ∈ t.eth.running, r.got = []) ∧
          t.cores = s.cores ∧ t.vault = s.vault) ∧
      (attachOk psn qps = false ∨ s.mayAttach ip = false →
        ∃ t, exec (.attach mac ip dst psn qps) s = .next t ∧ OnlyRegs s t [0x70158] ∧ Counted s t Fld.ethAttachRefused_count)) ∧
    (s.portRuns = true →
      (∀ b, s.eth.anegFrom = some b →
        (b + 87500000 < s.beat → ∃ t, exec .autonegTimeout s = .next t ∧ t.fld Fld.ethStatus_pmd = 3 ∧ t.eth.anegFrom = none ∧
          (s.fld Fld.ethStatus_laneLock = 255 → t.fld Fld.ethStatus_state = 2) ∧ t.cores = s.cores) ∧
        (s.beat ≤ b + 87500000 → exec .autonegTimeout s = .next s)) ∧
      ∀ (lanes : BitVec 8) (partner : Bool), ∃ t, exec (.ethLaneLockChange lanes partner) s = .next t ∧
        t.fld Fld.ethStatus_laneLock = lanes.toNat ∧ t.cores = s.cores ∧ t.vault = s.vault ∧
        (lanes = 255 → s.fld Fld.ethStatus_pmd ≠ 0 ∨ partner = true → t.fld Fld.ethStatus_state = 2) ∧
        (lanes ≠ 255 → t.fld Fld.ethStatus_state = if lanes = 0 ∧ partner = false then 0 else 1) ∧
        (s.fld Fld.ethStatus_pmd = 0 → partner = true → t.fld Fld.ethStatus_pmd = 1 ∨ t.fld Fld.ethStatus_pmd = 2))

/-- 10 R372, R376, R380, R395 to R401: EVENT_SEND sends the oldest held event; TOKEN_POST writes the records that the ring has room
for, in order, and its produced count; RING_CONS_REREAD reads the consumed count of a full ring; ACK_DEADLINE acknowledges a
command once; RDMA_READ_RESPONSE brings the next part of a command's region, does what the command does with the whole of it once
that has come, or ends the command where the host refuses the read. -/
def Obligations.PostingRows : Prop :=
  ∀ (s : State),
    (s.ethUp = true →
      (∀ e es, s.eth.events = e :: es → s.fld (Fld.ethQp_state 1) = 1 → s.dataPaused = false →
        ∃ t, exec .eventSend s = .next t ∧ t.eth.events = es ∧ t.eth.delivered = s.eth.delivered ++ [e] ∧
          t.eth.evtSent = s.eth.evtSent ++ [e] ∧
          (t.eth.frames.drop s.eth.frames.length).map (·.body) = s.sendPackets e.image ∧ t.cores = s.cores ∧
          t.vault = s.vault ∧ t.sched = s.sched) ∧
      (s.eth.events = [] ∨ s.fld (Fld.ethQp_state 1) ≠ 1 ∨ s.dataPaused = true → exec .eventSend s = .next s)) ∧
    (s.portRuns = true → ∀ n,
      (∀ held now k rkey, n < 255 → held = SMap.get s.eth.tokens [] n → now = held.take (s.ringRoom n) → s.ringLive n = true →
        k = s.fld (Fld.ethRingProd_produced n) → rkey = BitVec.ofNat 32 (s.fld (Fld.ethRingCfg_rkey n)) →
        (now ≠ [] → ∃ t, exec (.tokenPost n) s = .next t ∧
          SMap.get t.eth.tokens [] n = held.drop (s.ringRoom n) ∧
          t.eth.posted = s.eth.posted ++ (now.zip (List.range now.length)).map (fun e => (n, k + e.2, e.1)) ∧
          t.fld (Fld.ethRingProd_produced n) = (k + now.length) % 2 ^ 64 ∧
          (k % s.ringSize n + now.length ≤ s.ringSize n →
            (t.eth.frames.drop s.eth.frames.length).map (·.body) =
              s.writePackets (s.raw (Reg.ethRingAddr n) + BitVec.ofNat 64 (k % s.ringSize n * 16)) rkey (now.flatMap TokenRec.image) ++
              s.writePackets (s.raw (Reg.ethRingCons n) + 8) rkey (leBytes (k + now.length) 8)) ∧
          t.cores = s.cores ∧ t.vault = s.vault ∧ t.sessions = s.sessions) ∧
        (now = [] → exec (.tokenPost n) s = .next s)) ∧
      (∀ value, n < 256 → s.ringLive n = true → s.ringRoom n = 0 →
        (SMap.has s.eth.consBeat n = false ∨ SMap.get s.eth.consBeat 0 n + 875 ≤ s.beat →
          ∃ t fr, exec (.ringConsReread n value) s = .next t ∧ SMap.get t.eth.consumed 0 n = value.toNat ∧
            SMap.get t.eth.consBeat 0 n = s.beat ∧ t.eth.frames = s.eth.frames ++ [fr] ∧ fr.body = .read (s.raw (Reg.ethRingCons n))
              (BitVec.ofNat 32 (s.fld (Fld.ethRingCfg_rkey n))) 8 ∧
            t.eth.tokens = s.eth.tokens ∧ t.cores = s.cores) ∧
        (SMap.has s.eth.consBeat n = true → s.beat < SMap.get s.eth.consBeat 0 n + 875 →
          exec (.ringConsReread n value) s = .next s)) ∧
      (∀ seq r, s.running? seq = some r →
        (r.acked = false → ∃ t, exec (.ackDeadline seq) s = .next t ∧ (∀ x ∈ t.eth.running, x.seq = seq → x.acked = true) ∧
          CmdMsg.ack r.code seq s.beat ∈ t.eth.undelivered ++ t.eth.waiting ∧ Kept s t) ∧
        (r.acked = true → exec (.ackDeadline seq) s = .next s))) ∧
    (∀ (seq : W64) (r : Running) (g : Region), s.ethUp = true → s.running? seq = some r → r.region = some g →
      s.fld (Fld.ethQp_state g.qp.toNat) = 1 → seq ∉ s.sec.keyWait →
      (r.asked ≤ r.answered → ∀ data, exec (.rdmaReadResponse seq data) s = .next s) ∧
      (r.answered < r.asked →
        ∃ t, exec (.rdmaReadResponse seq none) s = .next t ∧ Answered t seq .badArgument 0 ∧ t.cores = s.cores) ∧
      (∀ bs : Bytes, bs.length ≠ partLen g r.answered → exec (.rdmaReadResponse seq (some bs)) s = .next s) ∧
      (∀ bs got : Bytes, r.answered < r.asked → bs.length = partLen g r.answered → got = r.got ++ bs →
        (got.length < g.length.toNat → ∃ t, exec (.rdmaReadResponse seq (some bs)) s = .next t ∧ Kept s t ∧
          t.eth.outcomes = s.eth.outcomes ∧ ∃ x ∈ t.eth.running, x.seq = seq ∧ x.region = some g ∧ x.got = got) ∧
        (g.length.toNat ≤ got.length →
        (r.code = 0x45 → ∃ t o, exec (.rdmaReadResponse seq (some bs)) s = .next t ∧ t.loom.ops = s.loom.ops ++ [o] ∧
          o.kind = .draft ∧ o.seq = seq ∧ o.data = got ∧ t.warp = s.warp) ∧
        (r.code = 0x50 →
          (parseBinary got = none → ∃ t, exec (.rdmaReadResponse seq (some bs)) s = .next t ∧ Answered t seq .badArgument 0 ∧
            t.sched = s.sched ∧ t.vault = s.vault) ∧
          (∀ x h, parseBinary got = some x → s.vpages = [] →
            (∀ e ∈ s.sched.programs, ∀ y, e.2 = some y → y.sha ≠ x.sha) →
            firstFrom (fun h => (s.program h).isNone) 0 256 = some h →
            ∃ t, exec (.rdmaReadResponse seq (some bs)) s = .next t ∧ Answered t seq .ok (BitVec.ofNat 64 h) ∧
              t.program h = some { x with codeAddr := 0 } ∧
              (Healthy s → s.lineErrs = [] → ∀ i, i < x.codeSize → t.vault.byte i = got.getD (field got 8 8 + i) 0))) ∧
        (∀ (n : NewCtx) (x : Program) (k : Nat), r.code = 0x51 → r.args = n.list → s.program n.program = some x → n.cls = 0 → n.client ≠ 0xFFFF → n.part < 64 →
          1 ≤ n.count → n.first + n.count ≤ 1200 → n.base = 255 → got.length % 640 = 0 → got.length ≤ 65536 * 640 →
          s.sched.parts = [] → s.vpages = [] → s.freeCtx = some k → s.cmdsOf k = [] → s.noAccount n.client = false →
          n.quota + saveFrameCount n.count ≤ 524288 →
          ∃ t c, exec (.rdmaReadResponse seq (some bs)) s = .next t ∧ Answered t seq .ok (BitVec.ofNat 64 k) ∧ t.ctx k = c ∧
            c.st = .created ∧ c.client = n.client ∧ c.job = n.job ∧ c.part = n.part ∧ c.serving = false ∧ c.program = n.program ∧
            c.plan = got ∧ c.saveFrames = (List.range (saveFrameCount n.count)).map (n.quota + ·) ∧
            (∀ i, SMap.get c.pages .unmapped i =
              if i < n.quota then .resident i else SMap.get (s.weftPages n.client) .unmapped i) ∧
            t.part n.part = some { first := n.first, count := n.count, serving := false } ∧
            (SMap.get t.ledger.accounts none n.client).isSome = true ∧ (∀ j, j ≠ k → t.ctx j = s.ctx j)) ∧
        (∀ n order pos count open_ x, r.code = 0x61 → r.args = [n, order, pos, count, open_] → s.session n = some x →
          ∃ t, exec (.rdmaReadResponse seq (some bs)) s = .next t ∧ Answered t seq .ok (BitVec.ofNat 64 pos) ∧
            t.session n = some { x with prompt := fillPrompt order x.prompt (tokensOf count got) } ∧
            (∀ m, m ≠ n → t.session m = s.session m)) ∧
        (r.code = 0x81 →
          ((headCheck got).isSome = true → ∃ t, exec (.rdmaReadResponse seq (some bs)) s = .next t ∧
            Answered t seq .badArgument 0 ∧ t.sec = s.sec) ∧
          (headCheck got = none → cut got 0xC0 64 ≠ calDigest (got.drop 0x100) →
            ∃ t, exec (.rdmaReadResponse seq (some bs)) s = .next t ∧ Answered t seq .integrity 0 ∧ t.sec = s.sec) ∧
          (headCheck got = none → cut got 0xC0 64 = calDigest (got.drop 0x100) →
            ∃ t, exec (.rdmaReadResponse seq (some bs)) s = .next t ∧
              t.sec = { s.sec with flash := s.sec.flash ++ [.calWrite seq got] } ∧ t.cal = s.cal)))))

/-! ### Bring-up, power and the test port -/

/-- 12 R425 to R429, R441 to R443, 13 R460, 14 R479, R480: POWER_ON and RESET start bring-up at P0 with the straps sampled;
POWER_OFF keeps the strongbox and the calibration set alone, RESET the retired cores too, with their flash writes that are due;
PHASE_DONE ends the phase that runs: a failure of P0 to P2 holds
bring-up, P1 starts TCLK, P2 reads the calibration set, P3 maps the cores, P4 ends the training of the stacks, P5 and P6 lead on,
and P7 ends READY, or FAULTED where a stack has failed. -/
def Obligations.BringUpRows : Prop :=
  ∀ (s : State),
    (∀ origin (pos : BitVec 4),
      (s.devState = 0 → ∃ t, exec (.powerOn origin pos) s = .next t ∧ t.devState = 1 ∧ t.fld Fld.devState_phase = 0 ∧
        t.fld Fld.lnkCoord_boardPos = pos.toNat ∧ t.flag Fld.lnkCoord_originStrap = origin ∧ t.sys.loomOrigin = origin ∧
        t.sys.tclk = false ∧ t.cores = [] ∧ t.vault = [] ∧ t.sched = {} ∧ t.warp = {} ∧ t.sessions = [] ∧ t.cal = s.cal ∧
        t.sec = { minted := s.sec.minted, enrolCount := s.sec.enrolCount, slots := s.sec.slots }) ∧
      (s.devState ≠ 0 → exec (.powerOn origin pos) s = .next s) ∧
      (s.devState = 0 → exec (.reset origin pos) s = .next s) ∧
      (s.devState ≠ 0 → (s.regs.map (·.1)).Nodup → ∃ t, exec (.reset origin pos) s = .next t ∧ t.devState = 1 ∧
        t.fld Fld.devState_phase = 0 ∧ t.fld Fld.lnkCoord_boardPos = pos.toNat ∧ t.flag Fld.lnkCoord_originStrap = origin ∧
        t.sys.tclk = false ∧ t.cores = [] ∧ t.sched = {} ∧ t.warp = {} ∧ t.sessions = [] ∧ t.cal = s.cal ∧
        t.sec = {
          minted := s.sec.minted
          enrolCount := s.sec.enrolCount
          slots := s.sec.slots
          flash := s.sec.flash.filter FlashOp.isRetire } ∧
        t.cmap = { retired := s.cmap.retired ++ s.cmap.fenced } ∧
        (s.sys.vaultLost = false → t.vault = s.vault) ∧ (∀ n, (t.vpage n).now = .free) ∧
        ∀ off r, regSpec off = some r →
          t.raw off &&& r.maskOf [.ros, .rw1cs] = s.raw off &&& r.maskOf [.ros, .rw1cs])) ∧
    (∃ t, exec .powerOff s = .next t ∧ t.devState = 0 ∧ t.sys.rails = false ∧ t.sys.tclk = false ∧ t.cores = [] ∧ t.vault = [] ∧
      t.sessions = [] ∧ t.sec = { minted := s.sec.minted, enrolCount := s.sec.enrolCount, slots := s.sec.slots } ∧
      (s.writingCal = false → t.cal = s.cal) ∧ (s.writingCal = true → t.cal.broken.isSome = true)) ∧
    (∀ b, exec (.vddIoInWindow b) s = .next { s with sys := { s.sys with vddIoOk := b } }) ∧
    (s.sys.bringupHeld = true ∨ s.devState ≠ 1 → ∀ r, exec (.phaseDone r) s = .next s) ∧
    (s.devState = 1 → s.sys.bringupHeld = false → ∀ n, n = s.fld Fld.devState_phase →
      (n ≤ 2 → exec (.phaseDone .fail) s = .next { s with sys := { s.sys with bringupHeld := true } }) ∧
      (n = 0 ∨ n = 6 → ∃ t, exec (.phaseDone .pass) s = .next t ∧ OnlyRegs s t [0x18] ∧ t.devState = 1 ∧
        t.fld Fld.devState_phase = n + 1) ∧
      (n = 1 → ∃ t, exec (.phaseDone .pass) s = .next t ∧ t.sys.tclk = !s.sys.freezeAsked ∧
        t.flag Fld.clkStatus_rootLock = true ∧
        (s.sys.freezeAsked = false → t.devState = 1 ∧ t.fld Fld.devState_phase = 2) ∧
        (s.sys.freezeAsked = true → t.devState = 4 ∧ t.fld Fld.dbgStatus_cause = 1)) ∧
      (n = 2 → ∃ t, exec (.phaseDone .pass) s = .next t ∧
        (Config.romHash ≠ Config.romHashFused → t.sys.bringupHeld = true ∧ t.fld Fld.devState_phase = 2) ∧
        (Config.romHash = Config.romHashFused → t.flag Fld.secStatus_romOk = true ∧ t.fld Fld.devState_phase = 3 ∧
          (s.calCheck = none → t.flag Fld.calStatus_valid = true) ∧
          (s.calCheck.isSome = true → t.flag Fld.calStatus_defaults = true ∧ t.fld Fld.clkPlan_point = 1))) ∧
      (n = 3 → ∀ bad, ∃ t, exec (.phaseDone (.coreFails bad)) s = .next t ∧ t.fld Fld.devState_phase = 4 ∧
        (∀ p, p ∈ t.cmap.retired ↔ p ∈ s.cmap.retired ∨
          (p < 1232 ∧ (p ∈ bad ∨ (s.flag Fld.calStatus_valid = true ∧ p ∈ s.calRetired)))) ∧
        t.cmap.logical = ((List.range 1232).filter fun p => !t.cmap.retired.contains p).take (gradeCores (t.fld Fld.devGrade_grade)) ∧
        t.cores = s.cores ∧ t.vault = s.vault) ∧
      (n = 4 → ∀ bad, ∃ t, exec (.phaseDone (.stackFails bad)) s = .next t ∧ t.fld Fld.devState_phase = 5 ∧
        (∀ k, k < 16 → t.fld (Fld.vltStatus_state k) = if k ∈ bad then 5 else 2) ∧
        t.vault = (if s.flag Fld.secStatus_wipePending then [] else s.vault) ∧ t.flag Fld.secStatus_wipePending = false) ∧
      (n = 5 → ∀ up, ∃ t, exec (.phaseDone (.portsUp up)) s = .next t ∧ t.fld Fld.devState_phase = 6 ∧
        t.eth.anegFrom = some s.beat ∧ t.cores = s.cores ∧ t.vault = s.vault) ∧
      (n = 7 →
        (s.sys.loomOrigin = false → (∀ k, k < 16 → s.fld (Fld.vltStatus_state k) ≠ 5) →
          ∃ t, exec (.phaseDone .pass) s = .next t ∧ t.devState = 2 ∧ t.fld Fld.devState_phase = 15 ∧
            t.fld Fld.clkStatus_point = s.aclkTarget ∧ (∃ e ∈ t.eth.events, e.code = 1) ∧ t.cores = s.cores ∧ t.vault = s.vault) ∧
        ((∃ k, k < 16 ∧ s.fld (Fld.vltStatus_state k) = 5) → s.loom.undo = none →
          ∃ t, exec (.phaseDone .pass) s = .next t ∧ t.devState = 5)))

/-- 12 R432, R433, R436 to R439, R445: FREEZE, a lost root lock and THERM_TRIP stop the device at once and keep its cores and its
vault; the clocks and VDD_CORE follow the plan in the order of R432; POWER_EVALUATION lowers the issue limit, then ACLK, and undoes
its actions; THERMAL_WARN stores a reading and raises its event once, a reading of 115 °C or more stops the device (14 R490), and in
FROZEN only the GPIO follows the dies (12 R440). -/
def Obligations.PowerRows : Prop :=
  ∀ (s : State),
    (∀ i cause, (i = .freeze ∧ cause = 1) ∨ (i = .rootLockLost ∧ cause = 3) ∨ (i = .thermTrip none ∧ cause = 2) →
      (s.devState = 0 ∨ s.devState = 4 → exec i s = .next s) ∧
      (s.devState ≠ 0 → s.devState ≠ 4 → s.flag Fld.clkStatus_rootLock = true →
        ∃ t, exec i s = .next t ∧ t.devState = 4 ∧ t.fld Fld.dbgStatus_cause = cause ∧ t.sys.tclk = false ∧
          (∀ k, k < 16 → t.fld (Fld.vltStatus_state k) =
            if s.fld (Fld.vltStatus_state k) = 2 then 3 else s.fld (Fld.vltStatus_state k)) ∧
          t.fld Fld.ethStatus_state = 0 ∧ { t with regs := [], sys := {} } = { s with regs := [], sys := {} })) ∧
    (s.devState ≠ 0 → s.devState ≠ 4 → s.flag Fld.clkStatus_rootLock = false →
      exec .freeze s = .next { s with sys := { s.sys with freezeN := false, freezeAsked := true } } ∧
      exec .rootLockLost s = .next s) ∧
    (∀ k, k < 16 → s.devState ≠ 0 → s.devState ≠ 4 → ∃ t, exec (.thermTrip (some (.stack k))) s = .next t ∧ t.devState = 4 ∧
      t.fld (Fld.vltStatus_temp k) = 115 ∧ t.sys.thermTripN = false) ∧
    (s.sys.tclk = true → ∀ temp, 115 ≤ temp → temp < 256 → ∀ src, (∃ n, n < 256 ∧ src = .die n) ∨ (∃ k, k < 16 ∧ src = .stack k) →
      ∃ t, exec (.thermalWarn src temp) s = .next t ∧ t.devState = 4 ∧ t.fld Fld.dbgStatus_cause = 2 ∧ t.sys.tclk = false ∧
        t.sys.thermTripN = false ∧ t.cores = s.cores ∧ t.vault = s.vault) ∧
    (s.devState = 4 → s.sys.tclk = false → ∀ temp, temp < 256 →
      (∀ n, n < 256 → ∃ t, exec (.thermalWarn (.die n) temp) s = .next t ∧ SMap.get t.sys.dieTemps 0 n = temp ∧
        { t with sys := {} } = { s with sys := {} } ∧ t.sys.gpioOut = (if s.fld Fld.pwrTherm_warn ≤ t.hottest then
          s.sys.gpioOut ||| s.gpiosFor 5 else s.sys.gpioOut &&& ~~~s.gpiosFor 5)) ∧
      (∀ k, k < 16 → exec (.thermalWarn (.stack k) temp) s = .next s)) ∧
    (s.sys.tclk = true → ∀ temp, temp < 115 →
      (∀ n, n < 256 → ∃ t, exec (.thermalWarn (.die n) temp) s = .next t ∧ SMap.get t.sys.dieTemps 0 n = temp ∧
        t.cores = s.cores ∧ t.vault = s.vault) ∧
      (∀ k, k < 16 → ∃ t, exec (.thermalWarn (.stack k) temp) s = .next t ∧ t.fld (Fld.vltStatus_temp k) = temp ∧
        t.flag (Fld.vltStatus_refresh2x k) = decide (85 < temp) ∧
        (s.fld Fld.pwrTherm_warn ≤ temp → t.sys.warned = true ∧
          (s.sys.warned = false → ∃ e ∈ t.eth.events, e.code = 0x42 ∧ e.value = BitVec.ofNat 64 temp) ∧
          (s.sys.warned = true → t.eth = s.eth)))) ∧
    (s.clocksRun = true →
      (s.sys.trans = none → s.aclkTarget ≠ s.fld Fld.clkStatus_point → ∃ t, exec .aclkTransition s = .next t ∧
        t.sys.trans = some { point := s.aclkTarget, rising := decide (s.aclkTarget < s.fld Fld.clkStatus_point) } ∧
        (s.aclkTarget < s.fld Fld.clkStatus_point → t.flag Fld.clkStatus_ramping = true) ∧
        t.fld Fld.clkStatus_point = s.fld Fld.clkStatus_point ∧ t.cores = s.cores) ∧
      (s.aclkTarget = s.fld Fld.clkStatus_point → exec .aclkTransition s = .next s) ∧
      (∀ x, s.sys.trans = some x → x.point ≤ 2 →
        (s.flag Fld.clkStatus_ramping = true → ∃ t, exec .vddRampDone s = .next t ∧ t.flag Fld.clkStatus_ramping = false ∧
          t.sys.rampEnd = some s.beat ∧ t.sys.trans = (if x.rising then some { x with ramped := true } else none) ∧
          t.sys.coreVid = vidCode (s.cal.volts.getD x.point (800, 850)).1 30 60 ∧
          t.fld Fld.pwrStatus_vddCore = 500 + 5 * t.sys.coreVid ∧ t.fld Fld.clkStatus_point = s.fld Fld.clkStatus_point) ∧
        (s.flag Fld.clkStatus_ramping = false → exec .vddRampDone s = .next s) ∧
        (x.rising = true → x.ramped = true → ∃ t, exec .aclkRestart s = .next t ∧ t.fld Fld.clkStatus_point = x.point ∧
          t.sys.trans = none ∧ Counted s t Fld.clkCount_transitions ∧ t.cores = s.cores) ∧
        (x.rising = false → s.flag Fld.clkStatus_ramping = false → ∃ t, exec .aclkRestart s = .next t ∧
          t.fld Fld.clkStatus_point = x.point ∧ t.flag Fld.clkStatus_ramping = true ∧ t.sys.trans = some x ∧
          Counted s t Fld.clkCount_transitions ∧ t.cores = s.cores))) ∧
    (s.clocksRun = true → s.beat % 1750 = 0 → ∀ watts,
      (s.evaluates = false → ∃ t, exec (.powerEvaluation watts) s = .next t ∧ OnlyRegs s t [0x20000] ∧
        t.fld Fld.pwrStatus_power = min watts 65535) ∧
      (∀ cause, s.evaluates = true → (s.fld Fld.pwrCap_cap < watts ∧ cause = 1) ∨
          (watts ≤ s.fld Fld.pwrCap_cap ∧ s.fld Fld.pwrTherm_throttle ≤ s.hottest ∧ cause = 2) →
        (4 < s.fld Fld.pwrStatus_issueLimit → ∃ t, exec (.powerEvaluation watts) s = .next t ∧
          t.fld Fld.pwrStatus_issueLimit = s.fld Fld.pwrStatus_issueLimit - 1 ∧ t.fld Fld.pwrStatus_cause = cause ∧
          t.sys.powerActs = s.sys.powerActs ++ [.issue] ∧ t.cores = s.cores) ∧
        (s.fld Fld.pwrStatus_issueLimit ≤ 4 → s.flag Fld.clkPlan_allowDvfs = true → s.fld Fld.clkStatus_point < 2 →
          ∃ t, exec (.powerEvaluation watts) s = .next t ∧ t.sys.powerActs = s.sys.powerActs ++ [.aclk] ∧
            t.fld Fld.pwrStatus_cause = cause ∧ t.cores = s.cores) ∧
        (s.fld Fld.pwrStatus_issueLimit ≤ 4 → s.flag Fld.clkPlan_allowDvfs = false ∨ 2 ≤ s.fld Fld.clkStatus_point →
          ∃ t, exec (.powerEvaluation watts) s = .next t ∧ t.flag Fld.pwrStatus_capUnmet = true ∧
            t.sys.powerActs = s.sys.powerActs ∧ t.cores = s.cores)) ∧
      (s.evaluates = true → watts + s.fld Fld.pwrCtrl_hyst ≤ s.fld Fld.pwrCap_cap →
        s.hottest < s.fld Fld.pwrTherm_throttle - s.fld Fld.pwrTherm_release →
        (s.sys.underFrom = none → ∃ t, exec (.powerEvaluation watts) s = .next t ∧ t.sys.underFrom = some s.beat ∧
          t.sys.powerActs = s.sys.powerActs) ∧
        (∀ b, s.sys.underFrom = some b → b + s.fld Fld.pwrCtrl_recover ≤ s.beat → s.sys.powerActs = [.issue] →
          ∃ t, exec (.powerEvaluation watts) s = .next t ∧ t.sys.powerActs = [] ∧
            t.fld Fld.pwrStatus_issueLimit = min 8 (s.fld Fld.pwrStatus_issueLimit + 1) ∧ t.fld Fld.pwrStatus_cause = 0)))

/-- 11 R404, R409, R413, R421, 12 R443, R447 to R449, R451, 13 R457 to R459, 14 R488: the test port's instructions and
instruments, the read-out of a frozen vault, the trace trigger input, the signature of a quote, the end of a flash write, and the
clerks' watchdogs. -/
def Obligations.TestAndStoreRows : Prop :=
  ∀ (s : State),
    (s.sys.rails = true →
      exec .idcode s = .next { s with sys := { s.sys with
        tapIr := 1
        tapDr := BitVec.ofNat 64 (Config.stepMajor.toNat * 2 ^ 28 + 0x2BA3)
        tapData := [] } } ∧
      exec .bypass s = .next { s with sys := { s.sys with tapIr := 0xFF, tapDr := 0, tapData := [] } } ∧
      (∃ t, exec .samplePreload s = .next t ∧ t.sys.tapIr = 2 ∧ t.freeCtr = s.freeCtr + 1 ∧
        { t with freeCtr := 0, sys := {} } = { s with freeCtr := 0, sys := {} }) ∧
      (∀ off, ∃ t, exec (.ijtag (.reg off)) s = .next t ∧ t.sys.tapDr = s.readReg off ∧ { t with sys := {} } = { s with sys := {} }) ∧
      (∀ p off, p < 1232 → s.devState ≠ 4 ∨ s.flag Fld.secCtrl_testLock = true →
        ∃ t, exec (.ijtag (.spool p off)) s = .next t ∧ t.sys.tapDr = 0 ∧ { t with sys := {} } = { s with sys := {} }) ∧
      (∀ p off, p < 1232 → s.devState = 4 → s.flag Fld.secCtrl_testLock = false →
        ∃ t, exec (.ijtag (.spool p off)) s = .next t ∧
          t.sys.tapDr = BitVec.ofNat 64 (leNat ((s.core p).spool.bytes off 8)) ∧ { t with sys := {} } = { s with sys := {} }) ∧
      (s.devState = 4 → ∃ t, exec (.ijtag .vault) s = .next t ∧ { t with regs := [], sys := {} } = { s with regs := [], sys := {} } ∧
        (s.flag Fld.secCtrl_testLock = false → s.fld Fld.dbgStatus_cause ≠ 3 → t.flag Fld.dbgStatus_readout = true ∧
          ∀ k, k < 16 → s.fld (Fld.vltStatus_state k) = 3 → t.fld (Fld.vltStatus_state k) = 4) ∧
        (s.flag Fld.secCtrl_testLock = true ∨ s.fld Fld.dbgStatus_cause = 3 →
          t.flag Fld.dbgStatus_readout = s.flag Fld.dbgStatus_readout))) ∧
    exec .trstN s = .next { s with sys := { s.sys with
      tapIr := 1
      tapDr := BitVec.ofNat 64 (Config.stepMajor.toNat * 2 ^ 28 + 0x2BA3)
      tapData := [] } } ∧
    (s.sys.resetN = false → ∃ t, exec .extest s = .next t ∧ t.sys.tapIr = 3 ∧ t.sys.tapDr = s.sys.tapDr ∧
      { t with sys := {} } = { s with sys := {} }) ∧
    (s.sys.resetN = true → exec .extest s = .next s) ∧
    (∀ addr k, addr % 64 = 0 → addr < 2 ^ 40 → k = stackOf addr → s.devState = 4 → s.flag Fld.dbgStatus_readout = true →
      (s.fld (Fld.vltStatus_state k) ≠ 5 → s.marked k = none → s.sys.vaultLost = false →
        ∃ t, exec (.vaultReadout addr []) s = .next t ∧ t.sys.tapData = s.vload addr 64 ∧ t.sys.tapDr = 0 ∧
          { t with regs := [], sys := {} } = { s with regs := [], sys := {} } ∧
          t.raw (Reg.vltRdBytes k) = s.raw (Reg.vltRdBytes k) + 64 ∧
          ∀ off, off ≠ Reg.vltRdBytes k → t.raw off = s.raw off) ∧
      (s.fld (Fld.vltStatus_state k) = 5 → ∃ t, exec (.vaultReadout addr []) s = .next t ∧ t.sys.tapDr = 2 ∧
        t.freeCtr = s.freeCtr + 64 ∧ t.vault = s.vault ∧ Counted s t (Fld.vltUe_count k))) ∧
    (∀ p off (v : W32), p < 1232 → off % 4 = 0 → off < 0x40000 → v ≠ 0 → s.sys.rails = true → s.devState = 4 →
      ∃ t, exec (.ijtag (.accWrite p off (leBytes v.toNat 4))) s = .next t ∧ (∀ q, q ≠ p → t.core q = s.core q) ∧
        (∀ i, i < 4 → (t.core p).accByte (0x80000 + off + i) = (leBytes v.toNat 4).getD i 0) ∧
        { t with cores := [], sys := {} } = { s with cores := [], sys := {} }) ∧
    (∀ g, g < 8 → s.sys.tclk = true → (∃ c ∈ s.claims, c.kind = 0 ∧ c.function = 1 ∧ c.index = g) →
      ∃ t, exec (.traceTrigIn g) s = .next t ∧ t.cores = s.cores ∧ t.vault = s.vault ∧ t.trace = s.trace ∧
        ∀ i, i < 8 → (t.fld Fld.dbgStatus_triggered).testBit i =
          ((s.fld Fld.dbgStatus_triggered).testBit i || (s.tracing i && s.flag (Fld.dbgTraceCfg_trigExt i)))) ∧
    (∀ seq nonce rest, s.sys.tclk = true → s.sec.quotes = (seq, nonce) :: rest → (s.running? seq).isSome = true →
      ∃ t, exec .quoteSigned s = .next t ∧ t.sec = { s.sec with quotes := rest } ∧ t.raw Reg.secQuotes = s.raw Reg.secQuotes + 1 ∧
        Ended t seq ∧ ∃ c : Completion, CmdMsg.done c ∈ t.eth.undelivered ++ t.eth.waiting ∧ c.seq = seq ∧ c.status = .ok ∧
          c.data.length = 1168 ∧ (nonce.length = 64 → cut c.data 64 64 = nonce)) ∧
    (∀ o rest, s.sec.flash = o :: rest → s.sec.changes = [] →
      (s.sys.tclk = true →
        (∀ seq n key, o = .enrol seq n key → ∃ t, exec .flashWriteDone s = .next t ∧ t.sec.flash = rest ∧ Ended t seq ∧
          t.anchor n = ⟨.enrolled, s.sec.enrolCount + 1, key⟩ ∧ t.sec.enrolCount = s.sec.enrolCount + 1 ∧
          (∀ m, m ≠ n → t.anchor m = s.anchor m) ∧ t.cal = s.cal) ∧
        (∀ seq n, o = .revoke seq n → ∃ t, exec .flashWriteDone s = .next t ∧ t.sec.flash = rest ∧ Ended t seq ∧
          t.sec.enrolCount = s.sec.enrolCount + 1 ∧
          (n ≠ 0 → t.anchor n = { s.anchor n with st := .revoked, count := s.sec.enrolCount + 1 } ∧
            ∀ m, m ≠ n → t.anchor m = s.anchor m) ∧
          (n = 0 → ∀ m, (t.anchor m).st = .empty)) ∧
        (∀ seq bs, o = .calWrite seq bs → ∃ t, exec .flashWriteDone s = .next t ∧ t.sec.flash = rest ∧ Ended t seq ∧
          t.cal.own = true ∧ t.cal.broken = none ∧ t.flag Fld.calStatus_pending = true) ∧
        (∀ p, o = .retire p → ∃ t, exec .flashWriteDone s = .next t ∧ t.sec.flash = rest ∧ t.cal.own = true ∧
          t.eth = s.eth)) ∧
      (s.sys.tclk = false → s.devState = 4 →
        (s.sec.flashStopped = false → ∃ t, exec .flashWriteDone s = .next t ∧ t.sec.flash = rest ∧ t.sec.flashStopped = true ∧
          t.eth = s.eth) ∧
        (s.sec.flashStopped = true → exec .flashWriteDone s = .next s))) ∧
    (∀ c ok, c < 16 → s.sys.tclk = true → (s.fld Fld.errClerks_alive).testBit c = true → s.loom.undo = none →
      ∃ t, exec (.clerkWatchdog c ok) s = .next t ∧ Counted s t Fld.errClerks_restarts ∧
        (ok = false → t.devState = 5) ∧
        (ok = true → (s.clerk c).restarts = [] → (t.clerk c).restarts = [s.beat] ∧ t.devState = s.devState ∧
          t.fld Fld.errClerks_alive = s.fld Fld.errClerks_alive ∧
          t.fld Fld.errStatus_next = (s.fld Fld.errStatus_next + 1) % 2 ^ 32) ∧
        (∀ a b, ok = true → (s.clerk c).restarts = [a, b] → s.beat < a + 175000000 → s.beat < b + 175000000 →
          (t.fld Fld.errClerks_alive).testBit c = false ∧ (t.fld Fld.errClerks_failed).testBit c = true))

/-! ### The whole machine -/

/-- The queue is served first in first out: a step runs the command at its front with the rest of the queue. On an empty queue
one beat passes (log 20, the model's choice): while TCLK runs, BEAT_COUNT grows by 1 (06 R251), the pulses on GPIO lands end, the
voltage targets follow their ramp (14 R480), the receive buffers empty, XON going out where XOFF did (10 R367), and nothing else
changes; while it stands still, nothing does. -/
def Obligations.StepRunsTheFront : Prop :=
  ∀ s : State,
    (∀ c rest, s.pending = c :: rest → step s = exec c { s with pending := rest }) ∧
    (s.pending = [] → ∃ t, step s = .next t ∧
      { t with regs := [], sys := { t.sys with gpioOut := 0, coreVid := 0, sramVid := 0 }, eth := { t.eth with
          frames := [], rxHeld := [], xoff := 0 } } =
        { s with regs := [], sys := { s.sys with gpioOut := 0, coreVid := 0, sramVid := 0 }, eth := { s.eth with
          frames := [], rxHeld := [], xoff := 0 } } ∧
      (∀ off, off ∉ [Reg.beatCount, Reg.ethTxFrames, Reg.pwrStatus] → t.raw off = s.raw off) ∧
      (s.sys.vidRamp = none → t.sys.coreVid = s.sys.coreVid ∧ t.sys.sramVid = s.sys.sramVid ∧
        t.raw Reg.pwrStatus = s.raw Reg.pwrStatus) ∧
      (s.sys.tclk = true → t.eth.rxHeld = [] ∧ t.eth.xoff = 0 ∧ ∀ c, c < 8 → s.eth.xoff.getLsbD c = true →
        ∃ fr ∈ t.eth.frames, fr.body = .pause c false) ∧
      (s.sys.tclk = true → t.raw Reg.beatCount = s.raw Reg.beatCount + 1 ∧ ∀ k, k < 8 →
        t.sys.gpioOut.getLsbD k = true → s.sys.gpioOut.getLsbD k = true) ∧
      (s.sys.tclk = false → t = s))

/-- Every command whose units exist has an effect: `exec` answers a next state in every state. A command that names a unit the
device does not have stops with the fault of that name, and no other command stops. -/
def Obligations.EveryCommandAnswers : Prop :=
  ∀ (i : Instr) (s : State),
    (i.wf = true → ∃ t, exec i s = .next t) ∧ (i.wf = false → exec i s = .fault .noSuchUnit)

/-- 12 R425: after reset the device is in BRINGUP at P0, and its registers have the reset values of their tables; no command
waits and nothing runs. The tables and memories of the reset state have their canonical forms. -/
def Obligations.ResetState : Prop :=
  State.reset.pending = [] ∧ State.reset.devState = 1 ∧ State.reset.fld Fld.devState_phase = 0 ∧
  State.reset.sys.tclk = false ∧ State.reset.beat = 0 ∧ State.reset.eth.running = [] ∧ State.reset.sched.cmds = [] ∧
  (∀ p u, (State.reset.thread p u).st = .idle ∧ (State.reset.core p).phase = .none) ∧
  (∀ p n, ((State.reset.core p).slot n).bound = false) ∧
  (∀ off, State.reset.raw off = resetWord off) ∧
  (State.reset.fld Fld.devId_vendor = 0x5D1A ∧ State.reset.fld Fld.clkPlan_allowDvfs = 1 ∧
    State.reset.fld Fld.pwrCap_cap = 3000 ∧ State.reset.fld Fld.pwrCtrl_recover = 17500 ∧
    State.reset.fld Fld.beatCtrl_launchLead = 17500 ∧ State.reset.fld Fld.ethXport_retryCnt = 7 ∧
    State.reset.fld Fld.ledgCtrl_stepRecords = 1 ∧ State.reset.fld Fld.errClerks_alive = 0xFFFF ∧
    State.reset.fld Fld.warpCtrl_passSlack = 350000) ∧
  Mem.wf State.reset.vault = true ∧ CoreForms State.reset

/-- 12 R445, R446: a FROZEN device, whose clocks stand still, stays FROZEN under every command but RESET and the loss of power,
and everything stands as it was: the cores, the vault, the loom, the contexts, the sessions, the ledger and the Ethernet port.
Only the test port, the strongbox and the calibration set (a write of flash in progress completes), the free values and the
registers of the stacks, of the error log (a line that read-out mode meets, 05 R210), of read-out mode and of the calibration set may
change, and the accumulators that the test port writes (02 R52). -/
def Obligations.FrozenStandsStill : Prop :=
  ∀ (i : Instr) (s t : State), s.devState = 4 → s.sys.tclk = false → (∀ origin pos, i ≠ .reset origin pos) → i ≠ .powerOff →
    exec i s = .next t →
    t.devState = 4 ∧ t.sys.tclk = false ∧
    { t with regs := [], sys := {}, sec := {}, cal := {}, freeCtr := 0, cores := [] } =
      { s with regs := [], sys := {}, sec := {}, cal := {}, freeCtr := 0, cores := [] } ∧
    ((∀ p off bs, i ≠ .ijtag (.accWrite p off bs)) → t.cores = s.cores) ∧
    (∀ p off bs, i = .ijtag (.accWrite p off bs) → (∀ q, q ≠ p → t.core q = s.core q) ∧
      { t.core p with eng0 := {}, eng1 := {} } = { s.core p with eng0 := {}, eng1 := {} }) ∧
    ∀ off, off ∉ [Reg.dbgStatus, Reg.calStatus] → ¬(0x60000 ≤ off ∧ off < 0x70000) → ¬(0xB0000 ≤ off ∧ off < 0xC0000) →
      t.raw off = s.raw off

/-- 04 R126, R127: the words that encode a Poilo instruction decode to that instruction, with every operand as it was, and
words that decode to an instruction are the words that encode it: no bit of an encoding is dropped, and no two instructions
share their words. -/
def Obligations.WordsOfInstructions : Prop :=
  (∀ (i : Instr) (ws : List W64), encodePoilo i = some ws → ∃ p u, decodePoilo p u ws = some i) ∧
  (∀ (p u : Nat) (ws : List W64) (i : Instr), decodePoilo p u ws = some i → encodePoilo i = some ws)

/-- Every step keeps the vault's canonical form: after any command, and after a beat, the addresses listed rise strictly and
no listed byte is the byte that an unlisted address reads as. -/
def Obligations.VaultFormKept : Prop :=
  ∀ s t : State, Mem.wf s.vault = true → step s = .next t → Mem.wf t.vault = true

/-- Every step that runs a scalar, branch, spool, slot or vector instruction (CLASS 0, 1, 2, 3, 6) keeps the canonical forms of
every core's spool and of every thread's registers, and g0 and p0, which are never stored, stay unlisted. -/
def Obligations.CoreFormsKept : Prop :=
  ∀ (s t : State) (c : Instr) (rest : List Instr) (w : W64) (ws : List W64), CoreForms s → s.pending = c :: rest →
    encodePoilo c = some (w :: ws) → (w.extractLsb' 59 4).toNat ∈ [0, 1, 2, 3, 6] → step s = .next t → CoreForms t
end

