-- ==== Sys2Proof/Laws/Maps.lean ====
section
/-!
SUPPORT. Laws of the sparse tables and byte memories: a read after a write, the other keys, and the canonical form that
every memory operation keeps.
-/
namespace Sys2Proof

/-! ### Reading what was written -/

@[simp] theorem SMap.get_nil {α : Type} (d : α) (k : Nat) : SMap.get ([] : SMap α) d k = d := rfl

@[simp] theorem SMap.get_put {α : Type} (m : SMap α) (d : α) (k j : Nat) (v : α) :
    SMap.get (m.put k v) d j = if j = k then v else SMap.get m d j := by
  induction m with
  | nil => by_cases h : j = k <;> simp [SMap.put, SMap.get, h]
  | cons e m ih =>
    obtain ⟨i, x⟩ := e
    simp only [SMap.put]
    split
    · simp only [SMap.get]
    · split
      · rename_i h; subst h; simp only [SMap.get]; split <;> rfl
      · simp only [SMap.get, ih]
        by_cases h : j = k <;> by_cases g : j = i <;> simp_all

@[simp] theorem SMap.get_del {α : Type} (m : SMap α) (d : α) (k j : Nat) :
    SMap.get (m.del k) d j = if j = k then d else SMap.get m d j := by
  induction m with
  | nil => simp [SMap.del]
  | cons e m ih =>
    obtain ⟨i, x⟩ := e
    simp only [SMap.del]
    split
    · rename_i h; subst h; rw [ih]; by_cases g : j = k <;> simp [SMap.get, g]
    · simp only [SMap.get, ih]
      by_cases h : j = k <;> by_cases g : j = i <;> simp_all

@[simp] theorem SMap.get_set {α : Type} [DecidableEq α] (m : SMap α) (d : α) (k j : Nat) (v : α) :
    SMap.get (m.set d k v) d j = if j = k then v else SMap.get m d j := by
  unfold SMap.set
  split <;> simp_all

theorem SMap.get_set_ne {α : Type} [DecidableEq α] (m : SMap α) (d d' : α) (k j : Nat) (v : α) (h : j ≠ k) :
    SMap.get (m.set d k v) d' j = SMap.get m d' j := by
  unfold SMap.set
  split <;> simp [h]

theorem SMap.get_mapVals {α : Type} (m : SMap α) (f : α → α) (d : α) (hd : f d = d) (k : Nat) :
    SMap.get (m.mapVals f) d k = f (SMap.get m d k) := by
  induction m with
  | nil => simp [SMap.mapVals, hd]
  | cons e m ih =>
    obtain ⟨i, x⟩ := e
    simp only [SMap.mapVals, List.map, SMap.get] at *
    split <;> simp_all

/-! ### The canonical form -/

theorem SMap.risingFrom_mono {α : Type} {m : SMap α} {a b : Nat} (h : b ≤ a) (w : SMap.risingFrom a m = true) :
    SMap.risingFrom b m = true := by
  cases m with
  | nil => rfl
  | cons e m =>
    simp only [SMap.risingFrom, Bool.and_eq_true, decide_eq_true_eq] at *
    exact ⟨by omega, w.2⟩

theorem SMap.risingFrom_put {α : Type} {m : SMap α} {a k : Nat} (v : α) (h : a ≤ k) (w : SMap.risingFrom a m = true) :
    SMap.risingFrom a (m.put k v) = true := by
  induction m generalizing a with
  | nil => simp [SMap.put, SMap.risingFrom, h]
  | cons e m ih =>
    simp only [SMap.risingFrom, Bool.and_eq_true, decide_eq_true_eq] at w
    simp only [SMap.put]
    split
    · simp only [SMap.risingFrom, Bool.and_eq_true, decide_eq_true_eq]; exact ⟨h, by omega, w.2⟩
    · split
      · rename_i g; subst g; simp [SMap.risingFrom, h, w.2]
      · simp only [SMap.risingFrom, Bool.and_eq_true, decide_eq_true_eq]
        exact ⟨w.1, ih (by omega) w.2⟩

theorem SMap.risingFrom_del {α : Type} {m : SMap α} {a : Nat} (k : Nat) (w : SMap.risingFrom a m = true) :
    SMap.risingFrom a (m.del k) = true := by
  induction m generalizing a with
  | nil => rfl
  | cons e m ih =>
    simp only [SMap.risingFrom, Bool.and_eq_true, decide_eq_true_eq] at w
    simp only [SMap.del]
    split
    · exact SMap.risingFrom_mono (by omega) (ih w.2)
    · simp [SMap.risingFrom, w.1, ih w.2]

theorem SMap.mem_put {α : Type} {m : SMap α} {k : Nat} {v : α} {e : Nat × α} (h : e ∈ m.put k v) :
    e = (k, v) ∨ e ∈ m := by
  induction m with
  | nil => simpa [SMap.put] using h
  | cons x m ih =>
    simp only [SMap.put] at h
    split at h
    · simpa using h
    · split at h
      · simp only [List.mem_cons] at *; tauto
      · simp only [List.mem_cons] at *; tauto

theorem SMap.mem_del {α : Type} {m : SMap α} {k : Nat} {e : Nat × α} (h : e ∈ m.del k) : e ∈ m := by
  induction m with
  | nil => simp [SMap.del] at h
  | cons x m ih =>
    simp only [SMap.del] at h
    split at h
    · exact List.mem_cons_of_mem _ (ih h)
    · simp only [List.mem_cons] at *; tauto

theorem SMap.wf_set {α : Type} [DecidableEq α] {m : SMap α} {d : α} (k : Nat) (v : α) (w : m.wf d = true) :
    (m.set d k v).wf d = true := by
  simp only [SMap.wf, Bool.and_eq_true, List.all_eq_true, decide_eq_true_eq] at *
  unfold SMap.set
  split
  · exact ⟨SMap.risingFrom_del k w.1, fun e he => w.2 e (SMap.mem_del he)⟩
  · rename_i h
    refine ⟨SMap.risingFrom_put v (Nat.zero_le k) w.1, fun e he => ?_⟩
    rcases SMap.mem_put he with g | g
    · subst g; exact h
    · exact w.2 e g

theorem SMap.risingFrom_filter {α : Type} {m : SMap α} {a : Nat} (p : Nat × α → Bool) (w : SMap.risingFrom a m = true) :
    SMap.risingFrom a (m.filter p) = true := by
  induction m generalizing a with
  | nil => rfl
  | cons e m ih =>
    simp only [SMap.risingFrom, Bool.and_eq_true, decide_eq_true_eq] at w
    rw [List.filter_cons]
    split
    · simp [SMap.risingFrom, w.1, ih w.2]
    · exact SMap.risingFrom_mono (by omega) (ih w.2)

theorem SMap.wf_keep {α : Type} [DecidableEq α] {m : SMap α} {d : α} (p : Nat → Bool) (w : m.wf d = true) :
    (m.keep p).wf d = true := by
  simp only [SMap.wf, Bool.and_eq_true, List.all_eq_true, decide_eq_true_eq] at *
  exact ⟨SMap.risingFrom_filter _ w.1, fun e he => w.2 e (List.mem_filter.mp he).1⟩

/-! ### Byte memories -/

theorem Mem.wf_nil : Mem.wf [] = true := rfl

/-- A store keeps the canonical form. -/
theorem Mem.wf_store {m : Mem} (bs : Bytes) (a : Nat) (w : m.wf = true) : (m.store a bs).wf = true := by
  induction bs generalizing m a with
  | nil => exact w
  | cons b bs ih => exact ih (a + 1) (SMap.wf_set a b w)

/-- Zeroing keeps the canonical form. -/
theorem Mem.wf_zero {m : Mem} (lo hi : Nat) (w : m.wf = true) : (m.zero lo hi).wf = true := SMap.wf_keep _ w

/-- A byte after a store: the byte stored there, or what it was. -/
theorem Mem.byte_store (m : Mem) (a : Nat) (bs : Bytes) (x : Nat) :
    (m.store a bs).byte x = if a ≤ x ∧ x < a + bs.length then bs.getD (x - a) 0 else m.byte x := by
  induction bs generalizing m a with
  | nil => rw [if_neg (by simp)]; rfl
  | cons b bs ih =>
    show Mem.byte (Mem.store (SMap.set m 0 a b) (a + 1) bs) x = _
    rw [ih]
    by_cases h : x = a
    · subst h
      rw [if_neg (by omega), if_pos (by simp)]
      simp [Mem.byte]
    · by_cases g : a + 1 ≤ x ∧ x < a + 1 + bs.length
      · rw [if_pos g, if_pos (by simp; omega)]
        obtain ⟨k, hk⟩ : ∃ k, x - a = k + 1 := ⟨x - a - 1, by omega⟩
        have : x - (a + 1) = k := by omega
        rw [hk, this]; simp
      · rw [if_neg g, if_neg (by simp; omega)]
        simp [Mem.byte, h]

@[simp] theorem Mem.length_bytes (m : Mem) (a n : Nat) : (m.bytes a n).length = n := by
  induction n generalizing a with
  | zero => rfl
  | succ n ih => simp [Mem.bytes, ih]

theorem Mem.getD_bytes (m : Mem) (a n i : Nat) (h : i < n) : (m.bytes a n).getD i 0 = m.byte (a + i) := by
  induction n generalizing a i with
  | zero => omega
  | succ n ih =>
    cases i with
    | zero => simp [Mem.bytes]
    | succ i => rw [Mem.bytes, List.getD_cons_succ, ih _ _ (by omega)]; congr 1; omega

@[simp] theorem length_leBytes (v n : Nat) : (leBytes v n).length = n := by
  induction n generalizing v with
  | zero => rfl
  | succ n ih => simp [leBytes, ih]

/-- A number cut into bytes and read back. -/
theorem leNat_leBytes (v n : Nat) : leNat (leBytes v n) = v % 256 ^ n := by
  induction n generalizing v with
  | zero => simp [leBytes, leNat, Nat.mod_one]
  | succ n ih =>
    rw [leBytes, leNat, ih, Nat.pow_succ, Nat.mul_comm (256 ^ n) 256, Nat.mod_mul]
    simp

end Sys2Proof
end

