-- ==== Sys2Proof/Laws/State.lean ====
section
/-!
SUPPORT. One lemma per field per named update of the state, of a core and of a thread: the field after the update. No
proof about these updates has to unfold a record.
-/
namespace Sys2Proof.Machine

/-! ### Updates of the state -/

@[simp] theorem State.setRaw_pending (s : State) (off : Nat) (w : W64) : (s.setRaw off w).pending = s.pending := rfl
@[simp] theorem State.setRaw_freeCtr (s : State) (off : Nat) (w : W64) : (s.setRaw off w).freeCtr = s.freeCtr := rfl
@[simp] theorem State.setRaw_sys (s : State) (off : Nat) (w : W64) : (s.setRaw off w).sys = s.sys := rfl
@[simp] theorem State.setRaw_cores (s : State) (off : Nat) (w : W64) : (s.setRaw off w).cores = s.cores := rfl
@[simp] theorem State.setRaw_cmap (s : State) (off : Nat) (w : W64) : (s.setRaw off w).cmap = s.cmap := rfl
@[simp] theorem State.setRaw_vault (s : State) (off : Nat) (w : W64) : (s.setRaw off w).vault = s.vault := rfl
@[simp] theorem State.setRaw_vpages (s : State) (off : Nat) (w : W64) : (s.setRaw off w).vpages = s.vpages := rfl
@[simp] theorem State.setRaw_vstacks (s : State) (off : Nat) (w : W64) : (s.setRaw off w).vstacks = s.vstacks := rfl
@[simp] theorem State.setRaw_lineErrs (s : State) (off : Nat) (w : W64) : (s.setRaw off w).lineErrs = s.lineErrs := rfl
@[simp] theorem State.setRaw_parked (s : State) (off : Nat) (w : W64) : (s.setRaw off w).parked = s.parked := rfl
@[simp] theorem State.setRaw_ports (s : State) (off : Nat) (w : W64) : (s.setRaw off w).ports = s.ports := rfl
@[simp] theorem State.setRaw_bundles (s : State) (off : Nat) (w : W64) : (s.setRaw off w).bundles = s.bundles := rfl
@[simp] theorem State.setRaw_loom (s : State) (off : Nat) (w : W64) : (s.setRaw off w).loom = s.loom := rfl
@[simp] theorem State.setRaw_rmt (s : State) (off : Nat) (w : W64) : (s.setRaw off w).rmt = s.rmt := rfl
@[simp] theorem State.setRaw_rmtIn (s : State) (off : Nat) (w : W64) : (s.setRaw off w).rmtIn = s.rmtIn := rfl
@[simp] theorem State.setRaw_warp (s : State) (off : Nat) (w : W64) : (s.setRaw off w).warp = s.warp := rfl
@[simp] theorem State.setRaw_sched (s : State) (off : Nat) (w : W64) : (s.setRaw off w).sched = s.sched := rfl
@[simp] theorem State.setRaw_sessions (s : State) (off : Nat) (w : W64) : (s.setRaw off w).sessions = s.sessions := rfl
@[simp] theorem State.setRaw_ledger (s : State) (off : Nat) (w : W64) : (s.setRaw off w).ledger = s.ledger := rfl
@[simp] theorem State.setRaw_eth (s : State) (off : Nat) (w : W64) : (s.setRaw off w).eth = s.eth := rfl
@[simp] theorem State.setRaw_sec (s : State) (off : Nat) (w : W64) : (s.setRaw off w).sec = s.sec := rfl
@[simp] theorem State.setRaw_cal (s : State) (off : Nat) (w : W64) : (s.setRaw off w).cal = s.cal := rfl
@[simp] theorem State.setRaw_trace (s : State) (off : Nat) (w : W64) : (s.setRaw off w).trace = s.trace := rfl
@[simp] theorem State.setRaw_traceLeft (s : State) (off : Nat) (w : W64) : (s.setRaw off w).traceLeft = s.traceLeft := rfl
@[simp] theorem State.setRaw_clerkSram (s : State) (off : Nat) (w : W64) : (s.setRaw off w).clerkSram = s.clerkSram := rfl
@[simp] theorem State.setRaw_clerks (s : State) (off : Nat) (w : W64) : (s.setRaw off w).clerks = s.clerks := rfl
@[simp] theorem State.setRaw_claims (s : State) (off : Nat) (w : W64) : (s.setRaw off w).claims = s.claims := rfl
@[simp] theorem State.setRaw_nextClaim (s : State) (off : Nat) (w : W64) : (s.setRaw off w).nextClaim = s.nextClaim := rfl

@[simp] theorem State.setFld_pending (s : State) (f : Fld) (v : Nat) : (s.setFld f v).pending = s.pending := rfl
@[simp] theorem State.setFld_freeCtr (s : State) (f : Fld) (v : Nat) : (s.setFld f v).freeCtr = s.freeCtr := rfl
@[simp] theorem State.setFld_sys (s : State) (f : Fld) (v : Nat) : (s.setFld f v).sys = s.sys := rfl
@[simp] theorem State.setFld_cores (s : State) (f : Fld) (v : Nat) : (s.setFld f v).cores = s.cores := rfl
@[simp] theorem State.setFld_cmap (s : State) (f : Fld) (v : Nat) : (s.setFld f v).cmap = s.cmap := rfl
@[simp] theorem State.setFld_vault (s : State) (f : Fld) (v : Nat) : (s.setFld f v).vault = s.vault := rfl
@[simp] theorem State.setFld_vpages (s : State) (f : Fld) (v : Nat) : (s.setFld f v).vpages = s.vpages := rfl
@[simp] theorem State.setFld_vstacks (s : State) (f : Fld) (v : Nat) : (s.setFld f v).vstacks = s.vstacks := rfl
@[simp] theorem State.setFld_lineErrs (s : State) (f : Fld) (v : Nat) : (s.setFld f v).lineErrs = s.lineErrs := rfl
@[simp] theorem State.setFld_parked (s : State) (f : Fld) (v : Nat) : (s.setFld f v).parked = s.parked := rfl
@[simp] theorem State.setFld_ports (s : State) (f : Fld) (v : Nat) : (s.setFld f v).ports = s.ports := rfl
@[simp] theorem State.setFld_bundles (s : State) (f : Fld) (v : Nat) : (s.setFld f v).bundles = s.bundles := rfl
@[simp] theorem State.setFld_loom (s : State) (f : Fld) (v : Nat) : (s.setFld f v).loom = s.loom := rfl
@[simp] theorem State.setFld_rmt (s : State) (f : Fld) (v : Nat) : (s.setFld f v).rmt = s.rmt := rfl
@[simp] theorem State.setFld_rmtIn (s : State) (f : Fld) (v : Nat) : (s.setFld f v).rmtIn = s.rmtIn := rfl
@[simp] theorem State.setFld_warp (s : State) (f : Fld) (v : Nat) : (s.setFld f v).warp = s.warp := rfl
@[simp] theorem State.setFld_sched (s : State) (f : Fld) (v : Nat) : (s.setFld f v).sched = s.sched := rfl
@[simp] theorem State.setFld_sessions (s : State) (f : Fld) (v : Nat) : (s.setFld f v).sessions = s.sessions := rfl
@[simp] theorem State.setFld_ledger (s : State) (f : Fld) (v : Nat) : (s.setFld f v).ledger = s.ledger := rfl
@[simp] theorem State.setFld_eth (s : State) (f : Fld) (v : Nat) : (s.setFld f v).eth = s.eth := rfl
@[simp] theorem State.setFld_sec (s : State) (f : Fld) (v : Nat) : (s.setFld f v).sec = s.sec := rfl
@[simp] theorem State.setFld_cal (s : State) (f : Fld) (v : Nat) : (s.setFld f v).cal = s.cal := rfl
@[simp] theorem State.setFld_trace (s : State) (f : Fld) (v : Nat) : (s.setFld f v).trace = s.trace := rfl
@[simp] theorem State.setFld_traceLeft (s : State) (f : Fld) (v : Nat) : (s.setFld f v).traceLeft = s.traceLeft := rfl
@[simp] theorem State.setFld_clerkSram (s : State) (f : Fld) (v : Nat) : (s.setFld f v).clerkSram = s.clerkSram := rfl
@[simp] theorem State.setFld_clerks (s : State) (f : Fld) (v : Nat) : (s.setFld f v).clerks = s.clerks := rfl
@[simp] theorem State.setFld_claims (s : State) (f : Fld) (v : Nat) : (s.setFld f v).claims = s.claims := rfl
@[simp] theorem State.setFld_nextClaim (s : State) (f : Fld) (v : Nat) : (s.setFld f v).nextClaim = s.nextClaim := rfl

@[simp] theorem State.count_pending (s : State) (f : Fld) (n : Nat) : (s.count f n).pending = s.pending := rfl
@[simp] theorem State.count_freeCtr (s : State) (f : Fld) (n : Nat) : (s.count f n).freeCtr = s.freeCtr := rfl
@[simp] theorem State.count_sys (s : State) (f : Fld) (n : Nat) : (s.count f n).sys = s.sys := rfl
@[simp] theorem State.count_cores (s : State) (f : Fld) (n : Nat) : (s.count f n).cores = s.cores := rfl
@[simp] theorem State.count_cmap (s : State) (f : Fld) (n : Nat) : (s.count f n).cmap = s.cmap := rfl
@[simp] theorem State.count_vault (s : State) (f : Fld) (n : Nat) : (s.count f n).vault = s.vault := rfl
@[simp] theorem State.count_vpages (s : State) (f : Fld) (n : Nat) : (s.count f n).vpages = s.vpages := rfl
@[simp] theorem State.count_vstacks (s : State) (f : Fld) (n : Nat) : (s.count f n).vstacks = s.vstacks := rfl
@[simp] theorem State.count_lineErrs (s : State) (f : Fld) (n : Nat) : (s.count f n).lineErrs = s.lineErrs := rfl
@[simp] theorem State.count_parked (s : State) (f : Fld) (n : Nat) : (s.count f n).parked = s.parked := rfl
@[simp] theorem State.count_ports (s : State) (f : Fld) (n : Nat) : (s.count f n).ports = s.ports := rfl
@[simp] theorem State.count_bundles (s : State) (f : Fld) (n : Nat) : (s.count f n).bundles = s.bundles := rfl
@[simp] theorem State.count_loom (s : State) (f : Fld) (n : Nat) : (s.count f n).loom = s.loom := rfl
@[simp] theorem State.count_rmt (s : State) (f : Fld) (n : Nat) : (s.count f n).rmt = s.rmt := rfl
@[simp] theorem State.count_rmtIn (s : State) (f : Fld) (n : Nat) : (s.count f n).rmtIn = s.rmtIn := rfl
@[simp] theorem State.count_warp (s : State) (f : Fld) (n : Nat) : (s.count f n).warp = s.warp := rfl
@[simp] theorem State.count_sched (s : State) (f : Fld) (n : Nat) : (s.count f n).sched = s.sched := rfl
@[simp] theorem State.count_sessions (s : State) (f : Fld) (n : Nat) : (s.count f n).sessions = s.sessions := rfl
@[simp] theorem State.count_ledger (s : State) (f : Fld) (n : Nat) : (s.count f n).ledger = s.ledger := rfl
@[simp] theorem State.count_eth (s : State) (f : Fld) (n : Nat) : (s.count f n).eth = s.eth := rfl
@[simp] theorem State.count_sec (s : State) (f : Fld) (n : Nat) : (s.count f n).sec = s.sec := rfl
@[simp] theorem State.count_cal (s : State) (f : Fld) (n : Nat) : (s.count f n).cal = s.cal := rfl
@[simp] theorem State.count_trace (s : State) (f : Fld) (n : Nat) : (s.count f n).trace = s.trace := rfl
@[simp] theorem State.count_traceLeft (s : State) (f : Fld) (n : Nat) : (s.count f n).traceLeft = s.traceLeft := rfl
@[simp] theorem State.count_clerkSram (s : State) (f : Fld) (n : Nat) : (s.count f n).clerkSram = s.clerkSram := rfl
@[simp] theorem State.count_clerks (s : State) (f : Fld) (n : Nat) : (s.count f n).clerks = s.clerks := rfl
@[simp] theorem State.count_claims (s : State) (f : Fld) (n : Nat) : (s.count f n).claims = s.claims := rfl
@[simp] theorem State.count_nextClaim (s : State) (f : Fld) (n : Nat) : (s.count f n).nextClaim = s.nextClaim := rfl

@[simp] theorem State.countWrap_pending (s : State) (f : Fld) (n : Nat) : (s.countWrap f n).pending = s.pending := rfl
@[simp] theorem State.countWrap_freeCtr (s : State) (f : Fld) (n : Nat) : (s.countWrap f n).freeCtr = s.freeCtr := rfl
@[simp] theorem State.countWrap_sys (s : State) (f : Fld) (n : Nat) : (s.countWrap f n).sys = s.sys := rfl
@[simp] theorem State.countWrap_cores (s : State) (f : Fld) (n : Nat) : (s.countWrap f n).cores = s.cores := rfl
@[simp] theorem State.countWrap_cmap (s : State) (f : Fld) (n : Nat) : (s.countWrap f n).cmap = s.cmap := rfl
@[simp] theorem State.countWrap_vault (s : State) (f : Fld) (n : Nat) : (s.countWrap f n).vault = s.vault := rfl
@[simp] theorem State.countWrap_vpages (s : State) (f : Fld) (n : Nat) : (s.countWrap f n).vpages = s.vpages := rfl
@[simp] theorem State.countWrap_vstacks (s : State) (f : Fld) (n : Nat) : (s.countWrap f n).vstacks = s.vstacks := rfl
@[simp] theorem State.countWrap_lineErrs (s : State) (f : Fld) (n : Nat) : (s.countWrap f n).lineErrs = s.lineErrs := rfl
@[simp] theorem State.countWrap_parked (s : State) (f : Fld) (n : Nat) : (s.countWrap f n).parked = s.parked := rfl
@[simp] theorem State.countWrap_ports (s : State) (f : Fld) (n : Nat) : (s.countWrap f n).ports = s.ports := rfl
@[simp] theorem State.countWrap_bundles (s : State) (f : Fld) (n : Nat) : (s.countWrap f n).bundles = s.bundles := rfl
@[simp] theorem State.countWrap_loom (s : State) (f : Fld) (n : Nat) : (s.countWrap f n).loom = s.loom := rfl
@[simp] theorem State.countWrap_rmt (s : State) (f : Fld) (n : Nat) : (s.countWrap f n).rmt = s.rmt := rfl
@[simp] theorem State.countWrap_rmtIn (s : State) (f : Fld) (n : Nat) : (s.countWrap f n).rmtIn = s.rmtIn := rfl
@[simp] theorem State.countWrap_warp (s : State) (f : Fld) (n : Nat) : (s.countWrap f n).warp = s.warp := rfl
@[simp] theorem State.countWrap_sched (s : State) (f : Fld) (n : Nat) : (s.countWrap f n).sched = s.sched := rfl
@[simp] theorem State.countWrap_sessions (s : State) (f : Fld) (n : Nat) : (s.countWrap f n).sessions = s.sessions := rfl
@[simp] theorem State.countWrap_ledger (s : State) (f : Fld) (n : Nat) : (s.countWrap f n).ledger = s.ledger := rfl
@[simp] theorem State.countWrap_eth (s : State) (f : Fld) (n : Nat) : (s.countWrap f n).eth = s.eth := rfl
@[simp] theorem State.countWrap_sec (s : State) (f : Fld) (n : Nat) : (s.countWrap f n).sec = s.sec := rfl
@[simp] theorem State.countWrap_cal (s : State) (f : Fld) (n : Nat) : (s.countWrap f n).cal = s.cal := rfl
@[simp] theorem State.countWrap_trace (s : State) (f : Fld) (n : Nat) : (s.countWrap f n).trace = s.trace := rfl
@[simp] theorem State.countWrap_traceLeft (s : State) (f : Fld) (n : Nat) : (s.countWrap f n).traceLeft = s.traceLeft := rfl
@[simp] theorem State.countWrap_clerkSram (s : State) (f : Fld) (n : Nat) : (s.countWrap f n).clerkSram = s.clerkSram := rfl
@[simp] theorem State.countWrap_clerks (s : State) (f : Fld) (n : Nat) : (s.countWrap f n).clerks = s.clerks := rfl
@[simp] theorem State.countWrap_claims (s : State) (f : Fld) (n : Nat) : (s.countWrap f n).claims = s.claims := rfl
@[simp] theorem State.countWrap_nextClaim (s : State) (f : Fld) (n : Nat) : (s.countWrap f n).nextClaim = s.nextClaim := rfl

@[simp] theorem State.setCore_pending (s : State) (p : Nat) (c : Core) : (s.setCore p c).pending = s.pending := rfl
@[simp] theorem State.setCore_freeCtr (s : State) (p : Nat) (c : Core) : (s.setCore p c).freeCtr = s.freeCtr := rfl
@[simp] theorem State.setCore_regs (s : State) (p : Nat) (c : Core) : (s.setCore p c).regs = s.regs := rfl
@[simp] theorem State.setCore_sys (s : State) (p : Nat) (c : Core) : (s.setCore p c).sys = s.sys := rfl
@[simp] theorem State.setCore_cmap (s : State) (p : Nat) (c : Core) : (s.setCore p c).cmap = s.cmap := rfl
@[simp] theorem State.setCore_vault (s : State) (p : Nat) (c : Core) : (s.setCore p c).vault = s.vault := rfl
@[simp] theorem State.setCore_vpages (s : State) (p : Nat) (c : Core) : (s.setCore p c).vpages = s.vpages := rfl
@[simp] theorem State.setCore_vstacks (s : State) (p : Nat) (c : Core) : (s.setCore p c).vstacks = s.vstacks := rfl
@[simp] theorem State.setCore_lineErrs (s : State) (p : Nat) (c : Core) : (s.setCore p c).lineErrs = s.lineErrs := rfl
@[simp] theorem State.setCore_parked (s : State) (p : Nat) (c : Core) : (s.setCore p c).parked = s.parked := rfl
@[simp] theorem State.setCore_ports (s : State) (p : Nat) (c : Core) : (s.setCore p c).ports = s.ports := rfl
@[simp] theorem State.setCore_bundles (s : State) (p : Nat) (c : Core) : (s.setCore p c).bundles = s.bundles := rfl
@[simp] theorem State.setCore_loom (s : State) (p : Nat) (c : Core) : (s.setCore p c).loom = s.loom := rfl
@[simp] theorem State.setCore_rmt (s : State) (p : Nat) (c : Core) : (s.setCore p c).rmt = s.rmt := rfl
@[simp] theorem State.setCore_rmtIn (s : State) (p : Nat) (c : Core) : (s.setCore p c).rmtIn = s.rmtIn := rfl
@[simp] theorem State.setCore_warp (s : State) (p : Nat) (c : Core) : (s.setCore p c).warp = s.warp := rfl
@[simp] theorem State.setCore_sched (s : State) (p : Nat) (c : Core) : (s.setCore p c).sched = s.sched := rfl
@[simp] theorem State.setCore_sessions (s : State) (p : Nat) (c : Core) : (s.setCore p c).sessions = s.sessions := rfl
@[simp] theorem State.setCore_ledger (s : State) (p : Nat) (c : Core) : (s.setCore p c).ledger = s.ledger := rfl
@[simp] theorem State.setCore_eth (s : State) (p : Nat) (c : Core) : (s.setCore p c).eth = s.eth := rfl
@[simp] theorem State.setCore_sec (s : State) (p : Nat) (c : Core) : (s.setCore p c).sec = s.sec := rfl
@[simp] theorem State.setCore_cal (s : State) (p : Nat) (c : Core) : (s.setCore p c).cal = s.cal := rfl
@[simp] theorem State.setCore_trace (s : State) (p : Nat) (c : Core) : (s.setCore p c).trace = s.trace := rfl
@[simp] theorem State.setCore_traceLeft (s : State) (p : Nat) (c : Core) : (s.setCore p c).traceLeft = s.traceLeft := rfl
@[simp] theorem State.setCore_clerkSram (s : State) (p : Nat) (c : Core) : (s.setCore p c).clerkSram = s.clerkSram := rfl
@[simp] theorem State.setCore_clerks (s : State) (p : Nat) (c : Core) : (s.setCore p c).clerks = s.clerks := rfl
@[simp] theorem State.setCore_claims (s : State) (p : Nat) (c : Core) : (s.setCore p c).claims = s.claims := rfl
@[simp] theorem State.setCore_nextClaim (s : State) (p : Nat) (c : Core) : (s.setCore p c).nextClaim = s.nextClaim := rfl

@[simp] theorem State.modCore_pending (s : State) (p : Nat) (f : Core → Core) : (s.modCore p f).pending = s.pending := rfl
@[simp] theorem State.modCore_freeCtr (s : State) (p : Nat) (f : Core → Core) : (s.modCore p f).freeCtr = s.freeCtr := rfl
@[simp] theorem State.modCore_regs (s : State) (p : Nat) (f : Core → Core) : (s.modCore p f).regs = s.regs := rfl
@[simp] theorem State.modCore_sys (s : State) (p : Nat) (f : Core → Core) : (s.modCore p f).sys = s.sys := rfl
@[simp] theorem State.modCore_cmap (s : State) (p : Nat) (f : Core → Core) : (s.modCore p f).cmap = s.cmap := rfl
@[simp] theorem State.modCore_vault (s : State) (p : Nat) (f : Core → Core) : (s.modCore p f).vault = s.vault := rfl
@[simp] theorem State.modCore_vpages (s : State) (p : Nat) (f : Core → Core) : (s.modCore p f).vpages = s.vpages := rfl
@[simp] theorem State.modCore_vstacks (s : State) (p : Nat) (f : Core → Core) : (s.modCore p f).vstacks = s.vstacks := rfl
@[simp] theorem State.modCore_lineErrs (s : State) (p : Nat) (f : Core → Core) : (s.modCore p f).lineErrs = s.lineErrs := rfl
@[simp] theorem State.modCore_parked (s : State) (p : Nat) (f : Core → Core) : (s.modCore p f).parked = s.parked := rfl
@[simp] theorem State.modCore_ports (s : State) (p : Nat) (f : Core → Core) : (s.modCore p f).ports = s.ports := rfl
@[simp] theorem State.modCore_bundles (s : State) (p : Nat) (f : Core → Core) : (s.modCore p f).bundles = s.bundles := rfl
@[simp] theorem State.modCore_loom (s : State) (p : Nat) (f : Core → Core) : (s.modCore p f).loom = s.loom := rfl
@[simp] theorem State.modCore_rmt (s : State) (p : Nat) (f : Core → Core) : (s.modCore p f).rmt = s.rmt := rfl
@[simp] theorem State.modCore_rmtIn (s : State) (p : Nat) (f : Core → Core) : (s.modCore p f).rmtIn = s.rmtIn := rfl
@[simp] theorem State.modCore_warp (s : State) (p : Nat) (f : Core → Core) : (s.modCore p f).warp = s.warp := rfl
@[simp] theorem State.modCore_sched (s : State) (p : Nat) (f : Core → Core) : (s.modCore p f).sched = s.sched := rfl
@[simp] theorem State.modCore_sessions (s : State) (p : Nat) (f : Core → Core) : (s.modCore p f).sessions = s.sessions := rfl
@[simp] theorem State.modCore_ledger (s : State) (p : Nat) (f : Core → Core) : (s.modCore p f).ledger = s.ledger := rfl
@[simp] theorem State.modCore_eth (s : State) (p : Nat) (f : Core → Core) : (s.modCore p f).eth = s.eth := rfl
@[simp] theorem State.modCore_sec (s : State) (p : Nat) (f : Core → Core) : (s.modCore p f).sec = s.sec := rfl
@[simp] theorem State.modCore_cal (s : State) (p : Nat) (f : Core → Core) : (s.modCore p f).cal = s.cal := rfl
@[simp] theorem State.modCore_trace (s : State) (p : Nat) (f : Core → Core) : (s.modCore p f).trace = s.trace := rfl
@[simp] theorem State.modCore_traceLeft (s : State) (p : Nat) (f : Core → Core) : (s.modCore p f).traceLeft = s.traceLeft := rfl
@[simp] theorem State.modCore_clerkSram (s : State) (p : Nat) (f : Core → Core) : (s.modCore p f).clerkSram = s.clerkSram := rfl
@[simp] theorem State.modCore_clerks (s : State) (p : Nat) (f : Core → Core) : (s.modCore p f).clerks = s.clerks := rfl
@[simp] theorem State.modCore_claims (s : State) (p : Nat) (f : Core → Core) : (s.modCore p f).claims = s.claims := rfl
@[simp] theorem State.modCore_nextClaim (s : State) (p : Nat) (f : Core → Core) : (s.modCore p f).nextClaim = s.nextClaim := rfl

@[simp] theorem State.modThread_pending (s : State) (p t : Nat) (f : Thread → Thread) : (s.modThread p t f).pending = s.pending := rfl
@[simp] theorem State.modThread_freeCtr (s : State) (p t : Nat) (f : Thread → Thread) : (s.modThread p t f).freeCtr = s.freeCtr := rfl
@[simp] theorem State.modThread_regs (s : State) (p t : Nat) (f : Thread → Thread) : (s.modThread p t f).regs = s.regs := rfl
@[simp] theorem State.modThread_sys (s : State) (p t : Nat) (f : Thread → Thread) : (s.modThread p t f).sys = s.sys := rfl
@[simp] theorem State.modThread_cmap (s : State) (p t : Nat) (f : Thread → Thread) : (s.modThread p t f).cmap = s.cmap := rfl
@[simp] theorem State.modThread_vault (s : State) (p t : Nat) (f : Thread → Thread) : (s.modThread p t f).vault = s.vault := rfl
@[simp] theorem State.modThread_vpages (s : State) (p t : Nat) (f : Thread → Thread) : (s.modThread p t f).vpages = s.vpages := rfl
@[simp] theorem State.modThread_vstacks (s : State) (p t : Nat) (f : Thread → Thread) : (s.modThread p t f).vstacks = s.vstacks := rfl
@[simp] theorem State.modThread_lineErrs (s : State) (p t : Nat) (f : Thread → Thread) : (s.modThread p t f).lineErrs = s.lineErrs := rfl
@[simp] theorem State.modThread_parked (s : State) (p t : Nat) (f : Thread → Thread) : (s.modThread p t f).parked = s.parked := rfl
@[simp] theorem State.modThread_ports (s : State) (p t : Nat) (f : Thread → Thread) : (s.modThread p t f).ports = s.ports := rfl
@[simp] theorem State.modThread_bundles (s : State) (p t : Nat) (f : Thread → Thread) : (s.modThread p t f).bundles = s.bundles := rfl
@[simp] theorem State.modThread_loom (s : State) (p t : Nat) (f : Thread → Thread) : (s.modThread p t f).loom = s.loom := rfl
@[simp] theorem State.modThread_rmt (s : State) (p t : Nat) (f : Thread → Thread) : (s.modThread p t f).rmt = s.rmt := rfl
@[simp] theorem State.modThread_rmtIn (s : State) (p t : Nat) (f : Thread → Thread) : (s.modThread p t f).rmtIn = s.rmtIn := rfl
@[simp] theorem State.modThread_warp (s : State) (p t : Nat) (f : Thread → Thread) : (s.modThread p t f).warp = s.warp := rfl
@[simp] theorem State.modThread_sched (s : State) (p t : Nat) (f : Thread → Thread) : (s.modThread p t f).sched = s.sched := rfl
@[simp] theorem State.modThread_sessions (s : State) (p t : Nat) (f : Thread → Thread) : (s.modThread p t f).sessions = s.sessions := rfl
@[simp] theorem State.modThread_ledger (s : State) (p t : Nat) (f : Thread → Thread) : (s.modThread p t f).ledger = s.ledger := rfl
@[simp] theorem State.modThread_eth (s : State) (p t : Nat) (f : Thread → Thread) : (s.modThread p t f).eth = s.eth := rfl
@[simp] theorem State.modThread_sec (s : State) (p t : Nat) (f : Thread → Thread) : (s.modThread p t f).sec = s.sec := rfl
@[simp] theorem State.modThread_cal (s : State) (p t : Nat) (f : Thread → Thread) : (s.modThread p t f).cal = s.cal := rfl
@[simp] theorem State.modThread_trace (s : State) (p t : Nat) (f : Thread → Thread) : (s.modThread p t f).trace = s.trace := rfl
@[simp] theorem State.modThread_traceLeft (s : State) (p t : Nat) (f : Thread → Thread) : (s.modThread p t f).traceLeft = s.traceLeft := rfl
@[simp] theorem State.modThread_clerkSram (s : State) (p t : Nat) (f : Thread → Thread) : (s.modThread p t f).clerkSram = s.clerkSram := rfl
@[simp] theorem State.modThread_clerks (s : State) (p t : Nat) (f : Thread → Thread) : (s.modThread p t f).clerks = s.clerks := rfl
@[simp] theorem State.modThread_claims (s : State) (p t : Nat) (f : Thread → Thread) : (s.modThread p t f).claims = s.claims := rfl
@[simp] theorem State.modThread_nextClaim (s : State) (p t : Nat) (f : Thread → Thread) : (s.modThread p t f).nextClaim = s.nextClaim := rfl

@[simp] theorem State.setCmd_pending (s : State) (k : Nat) (c : RunCmd) : (s.setCmd k c).pending = s.pending := rfl
@[simp] theorem State.setCmd_freeCtr (s : State) (k : Nat) (c : RunCmd) : (s.setCmd k c).freeCtr = s.freeCtr := rfl
@[simp] theorem State.setCmd_regs (s : State) (k : Nat) (c : RunCmd) : (s.setCmd k c).regs = s.regs := rfl
@[simp] theorem State.setCmd_sys (s : State) (k : Nat) (c : RunCmd) : (s.setCmd k c).sys = s.sys := rfl
@[simp] theorem State.setCmd_cores (s : State) (k : Nat) (c : RunCmd) : (s.setCmd k c).cores = s.cores := rfl
@[simp] theorem State.setCmd_cmap (s : State) (k : Nat) (c : RunCmd) : (s.setCmd k c).cmap = s.cmap := rfl
@[simp] theorem State.setCmd_vault (s : State) (k : Nat) (c : RunCmd) : (s.setCmd k c).vault = s.vault := rfl
@[simp] theorem State.setCmd_vpages (s : State) (k : Nat) (c : RunCmd) : (s.setCmd k c).vpages = s.vpages := rfl
@[simp] theorem State.setCmd_vstacks (s : State) (k : Nat) (c : RunCmd) : (s.setCmd k c).vstacks = s.vstacks := rfl
@[simp] theorem State.setCmd_lineErrs (s : State) (k : Nat) (c : RunCmd) : (s.setCmd k c).lineErrs = s.lineErrs := rfl
@[simp] theorem State.setCmd_parked (s : State) (k : Nat) (c : RunCmd) : (s.setCmd k c).parked = s.parked := rfl
@[simp] theorem State.setCmd_ports (s : State) (k : Nat) (c : RunCmd) : (s.setCmd k c).ports = s.ports := rfl
@[simp] theorem State.setCmd_bundles (s : State) (k : Nat) (c : RunCmd) : (s.setCmd k c).bundles = s.bundles := rfl
@[simp] theorem State.setCmd_loom (s : State) (k : Nat) (c : RunCmd) : (s.setCmd k c).loom = s.loom := rfl
@[simp] theorem State.setCmd_rmt (s : State) (k : Nat) (c : RunCmd) : (s.setCmd k c).rmt = s.rmt := rfl
@[simp] theorem State.setCmd_rmtIn (s : State) (k : Nat) (c : RunCmd) : (s.setCmd k c).rmtIn = s.rmtIn := rfl
@[simp] theorem State.setCmd_warp (s : State) (k : Nat) (c : RunCmd) : (s.setCmd k c).warp = s.warp := rfl
@[simp] theorem State.setCmd_sessions (s : State) (k : Nat) (c : RunCmd) : (s.setCmd k c).sessions = s.sessions := rfl
@[simp] theorem State.setCmd_ledger (s : State) (k : Nat) (c : RunCmd) : (s.setCmd k c).ledger = s.ledger := rfl
@[simp] theorem State.setCmd_eth (s : State) (k : Nat) (c : RunCmd) : (s.setCmd k c).eth = s.eth := rfl
@[simp] theorem State.setCmd_sec (s : State) (k : Nat) (c : RunCmd) : (s.setCmd k c).sec = s.sec := rfl
@[simp] theorem State.setCmd_cal (s : State) (k : Nat) (c : RunCmd) : (s.setCmd k c).cal = s.cal := rfl
@[simp] theorem State.setCmd_trace (s : State) (k : Nat) (c : RunCmd) : (s.setCmd k c).trace = s.trace := rfl
@[simp] theorem State.setCmd_traceLeft (s : State) (k : Nat) (c : RunCmd) : (s.setCmd k c).traceLeft = s.traceLeft := rfl
@[simp] theorem State.setCmd_clerkSram (s : State) (k : Nat) (c : RunCmd) : (s.setCmd k c).clerkSram = s.clerkSram := rfl
@[simp] theorem State.setCmd_clerks (s : State) (k : Nat) (c : RunCmd) : (s.setCmd k c).clerks = s.clerks := rfl
@[simp] theorem State.setCmd_claims (s : State) (k : Nat) (c : RunCmd) : (s.setCmd k c).claims = s.claims := rfl
@[simp] theorem State.setCmd_nextClaim (s : State) (k : Nat) (c : RunCmd) : (s.setCmd k c).nextClaim = s.nextClaim := rfl

@[simp] theorem State.dropCmd_pending (s : State) (k : Nat) : (s.dropCmd k).pending = s.pending := rfl
@[simp] theorem State.dropCmd_freeCtr (s : State) (k : Nat) : (s.dropCmd k).freeCtr = s.freeCtr := rfl
@[simp] theorem State.dropCmd_regs (s : State) (k : Nat) : (s.dropCmd k).regs = s.regs := rfl
@[simp] theorem State.dropCmd_sys (s : State) (k : Nat) : (s.dropCmd k).sys = s.sys := rfl
@[simp] theorem State.dropCmd_cores (s : State) (k : Nat) : (s.dropCmd k).cores = s.cores := rfl
@[simp] theorem State.dropCmd_cmap (s : State) (k : Nat) : (s.dropCmd k).cmap = s.cmap := rfl
@[simp] theorem State.dropCmd_vault (s : State) (k : Nat) : (s.dropCmd k).vault = s.vault := rfl
@[simp] theorem State.dropCmd_vpages (s : State) (k : Nat) : (s.dropCmd k).vpages = s.vpages := rfl
@[simp] theorem State.dropCmd_vstacks (s : State) (k : Nat) : (s.dropCmd k).vstacks = s.vstacks := rfl
@[simp] theorem State.dropCmd_lineErrs (s : State) (k : Nat) : (s.dropCmd k).lineErrs = s.lineErrs := rfl
@[simp] theorem State.dropCmd_parked (s : State) (k : Nat) : (s.dropCmd k).parked = s.parked := rfl
@[simp] theorem State.dropCmd_ports (s : State) (k : Nat) : (s.dropCmd k).ports = s.ports := rfl
@[simp] theorem State.dropCmd_bundles (s : State) (k : Nat) : (s.dropCmd k).bundles = s.bundles := rfl
@[simp] theorem State.dropCmd_loom (s : State) (k : Nat) : (s.dropCmd k).loom = s.loom := rfl
@[simp] theorem State.dropCmd_rmt (s : State) (k : Nat) : (s.dropCmd k).rmt = s.rmt := rfl
@[simp] theorem State.dropCmd_rmtIn (s : State) (k : Nat) : (s.dropCmd k).rmtIn = s.rmtIn := rfl
@[simp] theorem State.dropCmd_warp (s : State) (k : Nat) : (s.dropCmd k).warp = s.warp := rfl
@[simp] theorem State.dropCmd_sessions (s : State) (k : Nat) : (s.dropCmd k).sessions = s.sessions := rfl
@[simp] theorem State.dropCmd_ledger (s : State) (k : Nat) : (s.dropCmd k).ledger = s.ledger := rfl
@[simp] theorem State.dropCmd_eth (s : State) (k : Nat) : (s.dropCmd k).eth = s.eth := rfl
@[simp] theorem State.dropCmd_sec (s : State) (k : Nat) : (s.dropCmd k).sec = s.sec := rfl
@[simp] theorem State.dropCmd_cal (s : State) (k : Nat) : (s.dropCmd k).cal = s.cal := rfl
@[simp] theorem State.dropCmd_trace (s : State) (k : Nat) : (s.dropCmd k).trace = s.trace := rfl
@[simp] theorem State.dropCmd_traceLeft (s : State) (k : Nat) : (s.dropCmd k).traceLeft = s.traceLeft := rfl
@[simp] theorem State.dropCmd_clerkSram (s : State) (k : Nat) : (s.dropCmd k).clerkSram = s.clerkSram := rfl
@[simp] theorem State.dropCmd_clerks (s : State) (k : Nat) : (s.dropCmd k).clerks = s.clerks := rfl
@[simp] theorem State.dropCmd_claims (s : State) (k : Nat) : (s.dropCmd k).claims = s.claims := rfl
@[simp] theorem State.dropCmd_nextClaim (s : State) (k : Nat) : (s.dropCmd k).nextClaim = s.nextClaim := rfl

/-! ### Updates of a core -/

@[simp] theorem Core.setThread_spool (c : Core) (t : Nat) (x : Thread) : (c.setThread t x).spool = c.spool := rfl
@[simp] theorem Core.setThread_banksOff (c : Core) (t : Nat) (x : Thread) : (c.setThread t x).banksOff = c.banksOff := rfl
@[simp] theorem Core.setThread_settling (c : Core) (t : Nat) (x : Thread) : (c.setThread t x).settling = c.settling := rfl
@[simp] theorem Core.setThread_slots (c : Core) (t : Nat) (x : Thread) : (c.setThread t x).slots = c.slots := rfl
@[simp] theorem Core.setThread_streams (c : Core) (t : Nat) (x : Thread) : (c.setThread t x).streams = c.streams := rfl
@[simp] theorem Core.setThread_lastStream (c : Core) (t : Nat) (x : Thread) : (c.setThread t x).lastStream = c.lastStream := rfl
@[simp] theorem Core.setThread_desc (c : Core) (t : Nat) (x : Thread) : (c.setThread t x).desc = c.desc := rfl
@[simp] theorem Core.setThread_lastThread (c : Core) (t : Nat) (x : Thread) : (c.setThread t x).lastThread = c.lastThread := rfl
@[simp] theorem Core.setThread_stopped (c : Core) (t : Nat) (x : Thread) : (c.setThread t x).stopped = c.stopped := rfl
@[simp] theorem Core.setThread_saving (c : Core) (t : Nat) (x : Thread) : (c.setThread t x).saving = c.saving := rfl
@[simp] theorem Core.setThread_planes (c : Core) (t : Nat) (x : Thread) : (c.setThread t x).planes = c.planes := rfl
@[simp] theorem Core.setThread_eng0 (c : Core) (t : Nat) (x : Thread) : (c.setThread t x).eng0 = c.eng0 := rfl
@[simp] theorem Core.setThread_eng1 (c : Core) (t : Nat) (x : Thread) : (c.setThread t x).eng1 = c.eng1 := rfl
@[simp] theorem Core.setThread_fifo (c : Core) (t : Nat) (x : Thread) : (c.setThread t x).fifo = c.fifo := rfl
@[simp] theorem Core.setThread_merge (c : Core) (t : Nat) (x : Thread) : (c.setThread t x).merge = c.merge := rfl
@[simp] theorem Core.setThread_attn (c : Core) (t : Nat) (x : Thread) : (c.setThread t x).attn = c.attn := rfl
@[simp] theorem Core.setThread_tel (c : Core) (t : Nat) (x : Thread) : (c.setThread t x).tel = c.tel := rfl
@[simp] theorem Core.setThread_tagPeak (c : Core) (t : Nat) (x : Thread) : (c.setThread t x).tagPeak = c.tagPeak := rfl
@[simp] theorem Core.setThread_epoch (c : Core) (t : Nat) (x : Thread) : (c.setThread t x).epoch = c.epoch := rfl
@[simp] theorem Core.setThread_phase (c : Core) (t : Nat) (x : Thread) : (c.setThread t x).phase = c.phase := rfl
@[simp] theorem Core.setThread_cmd (c : Core) (t : Nat) (x : Thread) : (c.setThread t x).cmd = c.cmd := rfl
@[simp] theorem Core.setThread_strict (c : Core) (t : Nat) (x : Thread) : (c.setThread t x).strict = c.strict := rfl
@[simp] theorem Core.setThread_client (c : Core) (t : Nat) (x : Thread) : (c.setThread t x).client = c.client := rfl
@[simp] theorem Core.setThread_ctx (c : Core) (t : Nat) (x : Thread) : (c.setThread t x).ctx = c.ctx := rfl
@[simp] theorem Core.setThread_vm1 (c : Core) (t : Nat) (x : Thread) : (c.setThread t x).vm1 = c.vm1 := rfl
@[simp] theorem Core.setThread_deliver (c : Core) (t : Nat) (x : Thread) : (c.setThread t x).deliver = c.deliver := rfl
@[simp] theorem Core.setThread_experts (c : Core) (t : Nat) (x : Thread) : (c.setThread t x).experts = c.experts := rfl

@[simp] theorem Core.modThread_spool (c : Core) (t : Nat) (f : Thread → Thread) : (c.modThread t f).spool = c.spool := rfl
@[simp] theorem Core.modThread_banksOff (c : Core) (t : Nat) (f : Thread → Thread) : (c.modThread t f).banksOff = c.banksOff := rfl
@[simp] theorem Core.modThread_settling (c : Core) (t : Nat) (f : Thread → Thread) : (c.modThread t f).settling = c.settling := rfl
@[simp] theorem Core.modThread_slots (c : Core) (t : Nat) (f : Thread → Thread) : (c.modThread t f).slots = c.slots := rfl
@[simp] theorem Core.modThread_streams (c : Core) (t : Nat) (f : Thread → Thread) : (c.modThread t f).streams = c.streams := rfl
@[simp] theorem Core.modThread_lastStream (c : Core) (t : Nat) (f : Thread → Thread) : (c.modThread t f).lastStream = c.lastStream := rfl
@[simp] theorem Core.modThread_desc (c : Core) (t : Nat) (f : Thread → Thread) : (c.modThread t f).desc = c.desc := rfl
@[simp] theorem Core.modThread_lastThread (c : Core) (t : Nat) (f : Thread → Thread) : (c.modThread t f).lastThread = c.lastThread := rfl
@[simp] theorem Core.modThread_stopped (c : Core) (t : Nat) (f : Thread → Thread) : (c.modThread t f).stopped = c.stopped := rfl
@[simp] theorem Core.modThread_saving (c : Core) (t : Nat) (f : Thread → Thread) : (c.modThread t f).saving = c.saving := rfl
@[simp] theorem Core.modThread_planes (c : Core) (t : Nat) (f : Thread → Thread) : (c.modThread t f).planes = c.planes := rfl
@[simp] theorem Core.modThread_eng0 (c : Core) (t : Nat) (f : Thread → Thread) : (c.modThread t f).eng0 = c.eng0 := rfl
@[simp] theorem Core.modThread_eng1 (c : Core) (t : Nat) (f : Thread → Thread) : (c.modThread t f).eng1 = c.eng1 := rfl
@[simp] theorem Core.modThread_fifo (c : Core) (t : Nat) (f : Thread → Thread) : (c.modThread t f).fifo = c.fifo := rfl
@[simp] theorem Core.modThread_merge (c : Core) (t : Nat) (f : Thread → Thread) : (c.modThread t f).merge = c.merge := rfl
@[simp] theorem Core.modThread_attn (c : Core) (t : Nat) (f : Thread → Thread) : (c.modThread t f).attn = c.attn := rfl
@[simp] theorem Core.modThread_tel (c : Core) (t : Nat) (f : Thread → Thread) : (c.modThread t f).tel = c.tel := rfl
@[simp] theorem Core.modThread_tagPeak (c : Core) (t : Nat) (f : Thread → Thread) : (c.modThread t f).tagPeak = c.tagPeak := rfl
@[simp] theorem Core.modThread_epoch (c : Core) (t : Nat) (f : Thread → Thread) : (c.modThread t f).epoch = c.epoch := rfl
@[simp] theorem Core.modThread_phase (c : Core) (t : Nat) (f : Thread → Thread) : (c.modThread t f).phase = c.phase := rfl
@[simp] theorem Core.modThread_cmd (c : Core) (t : Nat) (f : Thread → Thread) : (c.modThread t f).cmd = c.cmd := rfl
@[simp] theorem Core.modThread_strict (c : Core) (t : Nat) (f : Thread → Thread) : (c.modThread t f).strict = c.strict := rfl
@[simp] theorem Core.modThread_client (c : Core) (t : Nat) (f : Thread → Thread) : (c.modThread t f).client = c.client := rfl
@[simp] theorem Core.modThread_ctx (c : Core) (t : Nat) (f : Thread → Thread) : (c.modThread t f).ctx = c.ctx := rfl
@[simp] theorem Core.modThread_vm1 (c : Core) (t : Nat) (f : Thread → Thread) : (c.modThread t f).vm1 = c.vm1 := rfl
@[simp] theorem Core.modThread_deliver (c : Core) (t : Nat) (f : Thread → Thread) : (c.modThread t f).deliver = c.deliver := rfl
@[simp] theorem Core.modThread_experts (c : Core) (t : Nat) (f : Thread → Thread) : (c.modThread t f).experts = c.experts := rfl

@[simp] theorem Core.setSlot_spool (c : Core) (n : Nat) (x : Slot) : (c.setSlot n x).spool = c.spool := rfl
@[simp] theorem Core.setSlot_banksOff (c : Core) (n : Nat) (x : Slot) : (c.setSlot n x).banksOff = c.banksOff := rfl
@[simp] theorem Core.setSlot_settling (c : Core) (n : Nat) (x : Slot) : (c.setSlot n x).settling = c.settling := rfl
@[simp] theorem Core.setSlot_streams (c : Core) (n : Nat) (x : Slot) : (c.setSlot n x).streams = c.streams := rfl
@[simp] theorem Core.setSlot_lastStream (c : Core) (n : Nat) (x : Slot) : (c.setSlot n x).lastStream = c.lastStream := rfl
@[simp] theorem Core.setSlot_desc (c : Core) (n : Nat) (x : Slot) : (c.setSlot n x).desc = c.desc := rfl
@[simp] theorem Core.setSlot_threads (c : Core) (n : Nat) (x : Slot) : (c.setSlot n x).threads = c.threads := rfl
@[simp] theorem Core.setSlot_lastThread (c : Core) (n : Nat) (x : Slot) : (c.setSlot n x).lastThread = c.lastThread := rfl
@[simp] theorem Core.setSlot_stopped (c : Core) (n : Nat) (x : Slot) : (c.setSlot n x).stopped = c.stopped := rfl
@[simp] theorem Core.setSlot_saving (c : Core) (n : Nat) (x : Slot) : (c.setSlot n x).saving = c.saving := rfl
@[simp] theorem Core.setSlot_planes (c : Core) (n : Nat) (x : Slot) : (c.setSlot n x).planes = c.planes := rfl
@[simp] theorem Core.setSlot_eng0 (c : Core) (n : Nat) (x : Slot) : (c.setSlot n x).eng0 = c.eng0 := rfl
@[simp] theorem Core.setSlot_eng1 (c : Core) (n : Nat) (x : Slot) : (c.setSlot n x).eng1 = c.eng1 := rfl
@[simp] theorem Core.setSlot_fifo (c : Core) (n : Nat) (x : Slot) : (c.setSlot n x).fifo = c.fifo := rfl
@[simp] theorem Core.setSlot_merge (c : Core) (n : Nat) (x : Slot) : (c.setSlot n x).merge = c.merge := rfl
@[simp] theorem Core.setSlot_attn (c : Core) (n : Nat) (x : Slot) : (c.setSlot n x).attn = c.attn := rfl
@[simp] theorem Core.setSlot_tel (c : Core) (n : Nat) (x : Slot) : (c.setSlot n x).tel = c.tel := rfl
@[simp] theorem Core.setSlot_tagPeak (c : Core) (n : Nat) (x : Slot) : (c.setSlot n x).tagPeak = c.tagPeak := rfl
@[simp] theorem Core.setSlot_epoch (c : Core) (n : Nat) (x : Slot) : (c.setSlot n x).epoch = c.epoch := rfl
@[simp] theorem Core.setSlot_phase (c : Core) (n : Nat) (x : Slot) : (c.setSlot n x).phase = c.phase := rfl
@[simp] theorem Core.setSlot_cmd (c : Core) (n : Nat) (x : Slot) : (c.setSlot n x).cmd = c.cmd := rfl
@[simp] theorem Core.setSlot_strict (c : Core) (n : Nat) (x : Slot) : (c.setSlot n x).strict = c.strict := rfl
@[simp] theorem Core.setSlot_client (c : Core) (n : Nat) (x : Slot) : (c.setSlot n x).client = c.client := rfl
@[simp] theorem Core.setSlot_ctx (c : Core) (n : Nat) (x : Slot) : (c.setSlot n x).ctx = c.ctx := rfl
@[simp] theorem Core.setSlot_vm1 (c : Core) (n : Nat) (x : Slot) : (c.setSlot n x).vm1 = c.vm1 := rfl
@[simp] theorem Core.setSlot_deliver (c : Core) (n : Nat) (x : Slot) : (c.setSlot n x).deliver = c.deliver := rfl
@[simp] theorem Core.setSlot_experts (c : Core) (n : Nat) (x : Slot) : (c.setSlot n x).experts = c.experts := rfl

@[simp] theorem Core.modSlot_spool (c : Core) (n : Nat) (f : Slot → Slot) : (c.modSlot n f).spool = c.spool := rfl
@[simp] theorem Core.modSlot_banksOff (c : Core) (n : Nat) (f : Slot → Slot) : (c.modSlot n f).banksOff = c.banksOff := rfl
@[simp] theorem Core.modSlot_settling (c : Core) (n : Nat) (f : Slot → Slot) : (c.modSlot n f).settling = c.settling := rfl
@[simp] theorem Core.modSlot_streams (c : Core) (n : Nat) (f : Slot → Slot) : (c.modSlot n f).streams = c.streams := rfl
@[simp] theorem Core.modSlot_lastStream (c : Core) (n : Nat) (f : Slot → Slot) : (c.modSlot n f).lastStream = c.lastStream := rfl
@[simp] theorem Core.modSlot_desc (c : Core) (n : Nat) (f : Slot → Slot) : (c.modSlot n f).desc = c.desc := rfl
@[simp] theorem Core.modSlot_threads (c : Core) (n : Nat) (f : Slot → Slot) : (c.modSlot n f).threads = c.threads := rfl
@[simp] theorem Core.modSlot_lastThread (c : Core) (n : Nat) (f : Slot → Slot) : (c.modSlot n f).lastThread = c.lastThread := rfl
@[simp] theorem Core.modSlot_stopped (c : Core) (n : Nat) (f : Slot → Slot) : (c.modSlot n f).stopped = c.stopped := rfl
@[simp] theorem Core.modSlot_saving (c : Core) (n : Nat) (f : Slot → Slot) : (c.modSlot n f).saving = c.saving := rfl
@[simp] theorem Core.modSlot_planes (c : Core) (n : Nat) (f : Slot → Slot) : (c.modSlot n f).planes = c.planes := rfl
@[simp] theorem Core.modSlot_eng0 (c : Core) (n : Nat) (f : Slot → Slot) : (c.modSlot n f).eng0 = c.eng0 := rfl
@[simp] theorem Core.modSlot_eng1 (c : Core) (n : Nat) (f : Slot → Slot) : (c.modSlot n f).eng1 = c.eng1 := rfl
@[simp] theorem Core.modSlot_fifo (c : Core) (n : Nat) (f : Slot → Slot) : (c.modSlot n f).fifo = c.fifo := rfl
@[simp] theorem Core.modSlot_merge (c : Core) (n : Nat) (f : Slot → Slot) : (c.modSlot n f).merge = c.merge := rfl
@[simp] theorem Core.modSlot_attn (c : Core) (n : Nat) (f : Slot → Slot) : (c.modSlot n f).attn = c.attn := rfl
@[simp] theorem Core.modSlot_tel (c : Core) (n : Nat) (f : Slot → Slot) : (c.modSlot n f).tel = c.tel := rfl
@[simp] theorem Core.modSlot_tagPeak (c : Core) (n : Nat) (f : Slot → Slot) : (c.modSlot n f).tagPeak = c.tagPeak := rfl
@[simp] theorem Core.modSlot_epoch (c : Core) (n : Nat) (f : Slot → Slot) : (c.modSlot n f).epoch = c.epoch := rfl
@[simp] theorem Core.modSlot_phase (c : Core) (n : Nat) (f : Slot → Slot) : (c.modSlot n f).phase = c.phase := rfl
@[simp] theorem Core.modSlot_cmd (c : Core) (n : Nat) (f : Slot → Slot) : (c.modSlot n f).cmd = c.cmd := rfl
@[simp] theorem Core.modSlot_strict (c : Core) (n : Nat) (f : Slot → Slot) : (c.modSlot n f).strict = c.strict := rfl
@[simp] theorem Core.modSlot_client (c : Core) (n : Nat) (f : Slot → Slot) : (c.modSlot n f).client = c.client := rfl
@[simp] theorem Core.modSlot_ctx (c : Core) (n : Nat) (f : Slot → Slot) : (c.modSlot n f).ctx = c.ctx := rfl
@[simp] theorem Core.modSlot_vm1 (c : Core) (n : Nat) (f : Slot → Slot) : (c.modSlot n f).vm1 = c.vm1 := rfl
@[simp] theorem Core.modSlot_deliver (c : Core) (n : Nat) (f : Slot → Slot) : (c.modSlot n f).deliver = c.deliver := rfl
@[simp] theorem Core.modSlot_experts (c : Core) (n : Nat) (f : Slot → Slot) : (c.modSlot n f).experts = c.experts := rfl

@[simp] theorem Core.setStream_spool (c : Core) (n : Nat) (x : Stream) : (c.setStream n x).spool = c.spool := rfl
@[simp] theorem Core.setStream_banksOff (c : Core) (n : Nat) (x : Stream) : (c.setStream n x).banksOff = c.banksOff := rfl
@[simp] theorem Core.setStream_settling (c : Core) (n : Nat) (x : Stream) : (c.setStream n x).settling = c.settling := rfl
@[simp] theorem Core.setStream_slots (c : Core) (n : Nat) (x : Stream) : (c.setStream n x).slots = c.slots := rfl
@[simp] theorem Core.setStream_lastStream (c : Core) (n : Nat) (x : Stream) : (c.setStream n x).lastStream = c.lastStream := rfl
@[simp] theorem Core.setStream_desc (c : Core) (n : Nat) (x : Stream) : (c.setStream n x).desc = c.desc := rfl
@[simp] theorem Core.setStream_threads (c : Core) (n : Nat) (x : Stream) : (c.setStream n x).threads = c.threads := rfl
@[simp] theorem Core.setStream_lastThread (c : Core) (n : Nat) (x : Stream) : (c.setStream n x).lastThread = c.lastThread := rfl
@[simp] theorem Core.setStream_stopped (c : Core) (n : Nat) (x : Stream) : (c.setStream n x).stopped = c.stopped := rfl
@[simp] theorem Core.setStream_saving (c : Core) (n : Nat) (x : Stream) : (c.setStream n x).saving = c.saving := rfl
@[simp] theorem Core.setStream_planes (c : Core) (n : Nat) (x : Stream) : (c.setStream n x).planes = c.planes := rfl
@[simp] theorem Core.setStream_eng0 (c : Core) (n : Nat) (x : Stream) : (c.setStream n x).eng0 = c.eng0 := rfl
@[simp] theorem Core.setStream_eng1 (c : Core) (n : Nat) (x : Stream) : (c.setStream n x).eng1 = c.eng1 := rfl
@[simp] theorem Core.setStream_fifo (c : Core) (n : Nat) (x : Stream) : (c.setStream n x).fifo = c.fifo := rfl
@[simp] theorem Core.setStream_merge (c : Core) (n : Nat) (x : Stream) : (c.setStream n x).merge = c.merge := rfl
@[simp] theorem Core.setStream_attn (c : Core) (n : Nat) (x : Stream) : (c.setStream n x).attn = c.attn := rfl
@[simp] theorem Core.setStream_tel (c : Core) (n : Nat) (x : Stream) : (c.setStream n x).tel = c.tel := rfl
@[simp] theorem Core.setStream_tagPeak (c : Core) (n : Nat) (x : Stream) : (c.setStream n x).tagPeak = c.tagPeak := rfl
@[simp] theorem Core.setStream_epoch (c : Core) (n : Nat) (x : Stream) : (c.setStream n x).epoch = c.epoch := rfl
@[simp] theorem Core.setStream_phase (c : Core) (n : Nat) (x : Stream) : (c.setStream n x).phase = c.phase := rfl
@[simp] theorem Core.setStream_cmd (c : Core) (n : Nat) (x : Stream) : (c.setStream n x).cmd = c.cmd := rfl
@[simp] theorem Core.setStream_strict (c : Core) (n : Nat) (x : Stream) : (c.setStream n x).strict = c.strict := rfl
@[simp] theorem Core.setStream_client (c : Core) (n : Nat) (x : Stream) : (c.setStream n x).client = c.client := rfl
@[simp] theorem Core.setStream_ctx (c : Core) (n : Nat) (x : Stream) : (c.setStream n x).ctx = c.ctx := rfl
@[simp] theorem Core.setStream_vm1 (c : Core) (n : Nat) (x : Stream) : (c.setStream n x).vm1 = c.vm1 := rfl
@[simp] theorem Core.setStream_deliver (c : Core) (n : Nat) (x : Stream) : (c.setStream n x).deliver = c.deliver := rfl
@[simp] theorem Core.setStream_experts (c : Core) (n : Nat) (x : Stream) : (c.setStream n x).experts = c.experts := rfl

@[simp] theorem Core.setPlane_spool (c : Core) (n : Nat) (x : Plane) : (c.setPlane n x).spool = c.spool := rfl
@[simp] theorem Core.setPlane_banksOff (c : Core) (n : Nat) (x : Plane) : (c.setPlane n x).banksOff = c.banksOff := rfl
@[simp] theorem Core.setPlane_settling (c : Core) (n : Nat) (x : Plane) : (c.setPlane n x).settling = c.settling := rfl
@[simp] theorem Core.setPlane_slots (c : Core) (n : Nat) (x : Plane) : (c.setPlane n x).slots = c.slots := rfl
@[simp] theorem Core.setPlane_streams (c : Core) (n : Nat) (x : Plane) : (c.setPlane n x).streams = c.streams := rfl
@[simp] theorem Core.setPlane_lastStream (c : Core) (n : Nat) (x : Plane) : (c.setPlane n x).lastStream = c.lastStream := rfl
@[simp] theorem Core.setPlane_desc (c : Core) (n : Nat) (x : Plane) : (c.setPlane n x).desc = c.desc := rfl
@[simp] theorem Core.setPlane_threads (c : Core) (n : Nat) (x : Plane) : (c.setPlane n x).threads = c.threads := rfl
@[simp] theorem Core.setPlane_lastThread (c : Core) (n : Nat) (x : Plane) : (c.setPlane n x).lastThread = c.lastThread := rfl
@[simp] theorem Core.setPlane_stopped (c : Core) (n : Nat) (x : Plane) : (c.setPlane n x).stopped = c.stopped := rfl
@[simp] theorem Core.setPlane_saving (c : Core) (n : Nat) (x : Plane) : (c.setPlane n x).saving = c.saving := rfl
@[simp] theorem Core.setPlane_eng0 (c : Core) (n : Nat) (x : Plane) : (c.setPlane n x).eng0 = c.eng0 := rfl
@[simp] theorem Core.setPlane_eng1 (c : Core) (n : Nat) (x : Plane) : (c.setPlane n x).eng1 = c.eng1 := rfl
@[simp] theorem Core.setPlane_fifo (c : Core) (n : Nat) (x : Plane) : (c.setPlane n x).fifo = c.fifo := rfl
@[simp] theorem Core.setPlane_merge (c : Core) (n : Nat) (x : Plane) : (c.setPlane n x).merge = c.merge := rfl
@[simp] theorem Core.setPlane_attn (c : Core) (n : Nat) (x : Plane) : (c.setPlane n x).attn = c.attn := rfl
@[simp] theorem Core.setPlane_tel (c : Core) (n : Nat) (x : Plane) : (c.setPlane n x).tel = c.tel := rfl
@[simp] theorem Core.setPlane_tagPeak (c : Core) (n : Nat) (x : Plane) : (c.setPlane n x).tagPeak = c.tagPeak := rfl
@[simp] theorem Core.setPlane_epoch (c : Core) (n : Nat) (x : Plane) : (c.setPlane n x).epoch = c.epoch := rfl
@[simp] theorem Core.setPlane_phase (c : Core) (n : Nat) (x : Plane) : (c.setPlane n x).phase = c.phase := rfl
@[simp] theorem Core.setPlane_cmd (c : Core) (n : Nat) (x : Plane) : (c.setPlane n x).cmd = c.cmd := rfl
@[simp] theorem Core.setPlane_strict (c : Core) (n : Nat) (x : Plane) : (c.setPlane n x).strict = c.strict := rfl
@[simp] theorem Core.setPlane_client (c : Core) (n : Nat) (x : Plane) : (c.setPlane n x).client = c.client := rfl
@[simp] theorem Core.setPlane_ctx (c : Core) (n : Nat) (x : Plane) : (c.setPlane n x).ctx = c.ctx := rfl
@[simp] theorem Core.setPlane_vm1 (c : Core) (n : Nat) (x : Plane) : (c.setPlane n x).vm1 = c.vm1 := rfl
@[simp] theorem Core.setPlane_deliver (c : Core) (n : Nat) (x : Plane) : (c.setPlane n x).deliver = c.deliver := rfl
@[simp] theorem Core.setPlane_experts (c : Core) (n : Nat) (x : Plane) : (c.setPlane n x).experts = c.experts := rfl

@[simp] theorem Core.store_banksOff (c : Core) (off : Nat) (bs : Bytes) : (c.store off bs).banksOff = c.banksOff := rfl
@[simp] theorem Core.store_settling (c : Core) (off : Nat) (bs : Bytes) : (c.store off bs).settling = c.settling := rfl
@[simp] theorem Core.store_slots (c : Core) (off : Nat) (bs : Bytes) : (c.store off bs).slots = c.slots := rfl
@[simp] theorem Core.store_streams (c : Core) (off : Nat) (bs : Bytes) : (c.store off bs).streams = c.streams := rfl
@[simp] theorem Core.store_lastStream (c : Core) (off : Nat) (bs : Bytes) : (c.store off bs).lastStream = c.lastStream := rfl
@[simp] theorem Core.store_desc (c : Core) (off : Nat) (bs : Bytes) : (c.store off bs).desc = c.desc := rfl
@[simp] theorem Core.store_threads (c : Core) (off : Nat) (bs : Bytes) : (c.store off bs).threads = c.threads := rfl
@[simp] theorem Core.store_lastThread (c : Core) (off : Nat) (bs : Bytes) : (c.store off bs).lastThread = c.lastThread := rfl
@[simp] theorem Core.store_stopped (c : Core) (off : Nat) (bs : Bytes) : (c.store off bs).stopped = c.stopped := rfl
@[simp] theorem Core.store_saving (c : Core) (off : Nat) (bs : Bytes) : (c.store off bs).saving = c.saving := rfl
@[simp] theorem Core.store_planes (c : Core) (off : Nat) (bs : Bytes) : (c.store off bs).planes = c.planes := rfl
@[simp] theorem Core.store_eng0 (c : Core) (off : Nat) (bs : Bytes) : (c.store off bs).eng0 = c.eng0 := rfl
@[simp] theorem Core.store_eng1 (c : Core) (off : Nat) (bs : Bytes) : (c.store off bs).eng1 = c.eng1 := rfl
@[simp] theorem Core.store_fifo (c : Core) (off : Nat) (bs : Bytes) : (c.store off bs).fifo = c.fifo := rfl
@[simp] theorem Core.store_merge (c : Core) (off : Nat) (bs : Bytes) : (c.store off bs).merge = c.merge := rfl
@[simp] theorem Core.store_attn (c : Core) (off : Nat) (bs : Bytes) : (c.store off bs).attn = c.attn := rfl
@[simp] theorem Core.store_tel (c : Core) (off : Nat) (bs : Bytes) : (c.store off bs).tel = c.tel := rfl
@[simp] theorem Core.store_tagPeak (c : Core) (off : Nat) (bs : Bytes) : (c.store off bs).tagPeak = c.tagPeak := rfl
@[simp] theorem Core.store_epoch (c : Core) (off : Nat) (bs : Bytes) : (c.store off bs).epoch = c.epoch := rfl
@[simp] theorem Core.store_phase (c : Core) (off : Nat) (bs : Bytes) : (c.store off bs).phase = c.phase := rfl
@[simp] theorem Core.store_cmd (c : Core) (off : Nat) (bs : Bytes) : (c.store off bs).cmd = c.cmd := rfl
@[simp] theorem Core.store_strict (c : Core) (off : Nat) (bs : Bytes) : (c.store off bs).strict = c.strict := rfl
@[simp] theorem Core.store_client (c : Core) (off : Nat) (bs : Bytes) : (c.store off bs).client = c.client := rfl
@[simp] theorem Core.store_ctx (c : Core) (off : Nat) (bs : Bytes) : (c.store off bs).ctx = c.ctx := rfl
@[simp] theorem Core.store_vm1 (c : Core) (off : Nat) (bs : Bytes) : (c.store off bs).vm1 = c.vm1 := rfl
@[simp] theorem Core.store_deliver (c : Core) (off : Nat) (bs : Bytes) : (c.store off bs).deliver = c.deliver := rfl
@[simp] theorem Core.store_experts (c : Core) (off : Nat) (bs : Bytes) : (c.store off bs).experts = c.experts := rfl

@[simp] theorem Core.issuedBy_spool (c : Core) (t : Nat) : (c.issuedBy t).spool = c.spool := rfl
@[simp] theorem Core.issuedBy_banksOff (c : Core) (t : Nat) : (c.issuedBy t).banksOff = c.banksOff := rfl
@[simp] theorem Core.issuedBy_settling (c : Core) (t : Nat) : (c.issuedBy t).settling = c.settling := rfl
@[simp] theorem Core.issuedBy_slots (c : Core) (t : Nat) : (c.issuedBy t).slots = c.slots := rfl
@[simp] theorem Core.issuedBy_streams (c : Core) (t : Nat) : (c.issuedBy t).streams = c.streams := rfl
@[simp] theorem Core.issuedBy_lastStream (c : Core) (t : Nat) : (c.issuedBy t).lastStream = c.lastStream := rfl
@[simp] theorem Core.issuedBy_desc (c : Core) (t : Nat) : (c.issuedBy t).desc = c.desc := rfl
@[simp] theorem Core.issuedBy_threads (c : Core) (t : Nat) : (c.issuedBy t).threads = c.threads := rfl
@[simp] theorem Core.issuedBy_stopped (c : Core) (t : Nat) : (c.issuedBy t).stopped = c.stopped := rfl
@[simp] theorem Core.issuedBy_saving (c : Core) (t : Nat) : (c.issuedBy t).saving = c.saving := rfl
@[simp] theorem Core.issuedBy_planes (c : Core) (t : Nat) : (c.issuedBy t).planes = c.planes := rfl
@[simp] theorem Core.issuedBy_eng0 (c : Core) (t : Nat) : (c.issuedBy t).eng0 = c.eng0 := rfl
@[simp] theorem Core.issuedBy_eng1 (c : Core) (t : Nat) : (c.issuedBy t).eng1 = c.eng1 := rfl
@[simp] theorem Core.issuedBy_fifo (c : Core) (t : Nat) : (c.issuedBy t).fifo = c.fifo := rfl
@[simp] theorem Core.issuedBy_merge (c : Core) (t : Nat) : (c.issuedBy t).merge = c.merge := rfl
@[simp] theorem Core.issuedBy_attn (c : Core) (t : Nat) : (c.issuedBy t).attn = c.attn := rfl
@[simp] theorem Core.issuedBy_tel (c : Core) (t : Nat) : (c.issuedBy t).tel = c.tel := rfl
@[simp] theorem Core.issuedBy_tagPeak (c : Core) (t : Nat) : (c.issuedBy t).tagPeak = c.tagPeak := rfl
@[simp] theorem Core.issuedBy_epoch (c : Core) (t : Nat) : (c.issuedBy t).epoch = c.epoch := rfl
@[simp] theorem Core.issuedBy_phase (c : Core) (t : Nat) : (c.issuedBy t).phase = c.phase := rfl
@[simp] theorem Core.issuedBy_cmd (c : Core) (t : Nat) : (c.issuedBy t).cmd = c.cmd := rfl
@[simp] theorem Core.issuedBy_strict (c : Core) (t : Nat) : (c.issuedBy t).strict = c.strict := rfl
@[simp] theorem Core.issuedBy_client (c : Core) (t : Nat) : (c.issuedBy t).client = c.client := rfl
@[simp] theorem Core.issuedBy_ctx (c : Core) (t : Nat) : (c.issuedBy t).ctx = c.ctx := rfl
@[simp] theorem Core.issuedBy_vm1 (c : Core) (t : Nat) : (c.issuedBy t).vm1 = c.vm1 := rfl
@[simp] theorem Core.issuedBy_deliver (c : Core) (t : Nat) : (c.issuedBy t).deliver = c.deliver := rfl
@[simp] theorem Core.issuedBy_experts (c : Core) (t : Nat) : (c.issuedBy t).experts = c.experts := rfl

/-! ### Updates of a thread -/

@[simp] theorem Thread.wg_st (t : Thread) (i : Nat) (v : W64) : (t.wg i v).st = t.st := by unfold Thread.wg; split <;> rfl
@[simp] theorem Thread.wg_pc (t : Thread) (i : Nat) (v : W64) : (t.wg i v).pc = t.pc := by unfold Thread.wg; split <;> rfl
@[simp] theorem Thread.wg_v (t : Thread) (i : Nat) (v : W64) : (t.wg i v).v = t.v := by unfold Thread.wg; split <;> rfl
@[simp] theorem Thread.wg_pr (t : Thread) (i : Nat) (v : W64) : (t.wg i v).pr = t.pr := by unfold Thread.wg; split <;> rfl
@[simp] theorem Thread.wg_sat (t : Thread) (i : Nat) (v : W64) : (t.wg i v).sat = t.sat := by unfold Thread.wg; split <;> rfl
@[simp] theorem Thread.wg_waitBeat (t : Thread) (i : Nat) (v : W64) : (t.wg i v).waitBeat = t.waitBeat := by unfold Thread.wg; split <;> rfl
@[simp] theorem Thread.wg_waitTmo (t : Thread) (i : Nat) (v : W64) : (t.wg i v).waitTmo = t.waitTmo := by unfold Thread.wg; split <;> rfl
@[simp] theorem Thread.wg_fault (t : Thread) (i : Nat) (v : W64) : (t.wg i v).fault = t.fault := by unfold Thread.wg; split <;> rfl

@[simp] theorem Thread.wp_st (t : Thread) (i : Nat) (v : BitVec 128) : (t.wp i v).st = t.st := by unfold Thread.wp; split <;> rfl
@[simp] theorem Thread.wp_pc (t : Thread) (i : Nat) (v : BitVec 128) : (t.wp i v).pc = t.pc := by unfold Thread.wp; split <;> rfl
@[simp] theorem Thread.wp_g (t : Thread) (i : Nat) (v : BitVec 128) : (t.wp i v).g = t.g := by unfold Thread.wp; split <;> rfl
@[simp] theorem Thread.wp_v (t : Thread) (i : Nat) (v : BitVec 128) : (t.wp i v).v = t.v := by unfold Thread.wp; split <;> rfl
@[simp] theorem Thread.wp_sat (t : Thread) (i : Nat) (v : BitVec 128) : (t.wp i v).sat = t.sat := by unfold Thread.wp; split <;> rfl
@[simp] theorem Thread.wp_waitBeat (t : Thread) (i : Nat) (v : BitVec 128) : (t.wp i v).waitBeat = t.waitBeat := by unfold Thread.wp; split <;> rfl
@[simp] theorem Thread.wp_waitTmo (t : Thread) (i : Nat) (v : BitVec 128) : (t.wp i v).waitTmo = t.waitTmo := by unfold Thread.wp; split <;> rfl
@[simp] theorem Thread.wp_fault (t : Thread) (i : Nat) (v : BitVec 128) : (t.wp i v).fault = t.fault := by unfold Thread.wp; split <;> rfl

@[simp] theorem Thread.wLane_st (t : Thread) (i l : Nat) (x : W32) : (t.wLane i l x).st = t.st := rfl
@[simp] theorem Thread.wLane_pc (t : Thread) (i l : Nat) (x : W32) : (t.wLane i l x).pc = t.pc := rfl
@[simp] theorem Thread.wLane_g (t : Thread) (i l : Nat) (x : W32) : (t.wLane i l x).g = t.g := rfl
@[simp] theorem Thread.wLane_pr (t : Thread) (i l : Nat) (x : W32) : (t.wLane i l x).pr = t.pr := rfl
@[simp] theorem Thread.wLane_sat (t : Thread) (i l : Nat) (x : W32) : (t.wLane i l x).sat = t.sat := rfl
@[simp] theorem Thread.wLane_waitBeat (t : Thread) (i l : Nat) (x : W32) : (t.wLane i l x).waitBeat = t.waitBeat := rfl
@[simp] theorem Thread.wLane_waitTmo (t : Thread) (i l : Nat) (x : W32) : (t.wLane i l x).waitTmo = t.waitTmo := rfl
@[simp] theorem Thread.wLane_fault (t : Thread) (i l : Nat) (x : W32) : (t.wLane i l x).fault = t.fault := rfl

@[simp] theorem Thread.pass_st (t : Thread) (n : Nat) : (t.pass n).st = t.st := rfl
@[simp] theorem Thread.pass_g (t : Thread) (n : Nat) : (t.pass n).g = t.g := rfl
@[simp] theorem Thread.pass_v (t : Thread) (n : Nat) : (t.pass n).v = t.v := rfl
@[simp] theorem Thread.pass_pr (t : Thread) (n : Nat) : (t.pass n).pr = t.pr := rfl
@[simp] theorem Thread.pass_sat (t : Thread) (n : Nat) : (t.pass n).sat = t.sat := rfl
@[simp] theorem Thread.pass_waitBeat (t : Thread) (n : Nat) : (t.pass n).waitBeat = t.waitBeat := rfl
@[simp] theorem Thread.pass_waitTmo (t : Thread) (n : Nat) : (t.pass n).waitTmo = t.waitTmo := rfl
@[simp] theorem Thread.pass_fault (t : Thread) (n : Nat) : (t.pass n).fault = t.fault := rfl

/-! ### Reading what an update wrote -/

@[simp] theorem State.core_setCore (s : State) (p q : Nat) (c : Core) :
    (s.setCore p c).core q = if q = p then c else s.core q := SMap.get_put ..

@[simp] theorem State.core_modCore (s : State) (p q : Nat) (f : Core → Core) :
    (s.modCore p f).core q = if q = p then f (s.core p) else s.core q := SMap.get_put ..

@[simp] theorem Core.thread_setThread (c : Core) (t u : Nat) (x : Thread) :
    (c.setThread t x).thread u = if u = t then x else c.thread u := SMap.get_put ..

@[simp] theorem Core.thread_modThread (c : Core) (t u : Nat) (f : Thread → Thread) :
    (c.modThread t f).thread u = if u = t then f (c.thread t) else c.thread u := SMap.get_put ..

@[simp] theorem Core.slot_setSlot (c : Core) (n m : Nat) (x : Slot) :
    (c.setSlot n x).slot m = if m = n then x else c.slot m := SMap.get_put ..

@[simp] theorem Core.stream_setStream (c : Core) (n m : Nat) (x : Stream) :
    (c.setStream n x).stream m = if m = n then x else c.stream m := SMap.get_put ..

@[simp] theorem Core.plane_setPlane (c : Core) (n m : Nat) (x : Plane) :
    (c.setPlane n x).plane m = if m = n then x else c.plane m := SMap.get_put ..

@[simp] theorem Core.slot_setThread (c : Core) (t m : Nat) (x : Thread) : (c.setThread t x).slot m = c.slot m := rfl
@[simp] theorem Core.stream_setThread (c : Core) (t m : Nat) (x : Thread) : (c.setThread t x).stream m = c.stream m := rfl
@[simp] theorem Core.thread_setSlot (c : Core) (n u : Nat) (x : Slot) : (c.setSlot n x).thread u = c.thread u := rfl
@[simp] theorem Core.thread_setStream (c : Core) (n u : Nat) (x : Stream) : (c.setStream n x).thread u = c.thread u := rfl
@[simp] theorem Core.thread_issuedBy (c : Core) (t u : Nat) : (c.issuedBy t).thread u = c.thread u := rfl
@[simp] theorem Core.slot_issuedBy (c : Core) (t n : Nat) : (c.issuedBy t).slot n = c.slot n := rfl
@[simp] theorem Core.stream_issuedBy (c : Core) (t n : Nat) : (c.issuedBy t).stream n = c.stream n := rfl
@[simp] theorem Core.issuedBy_lastThread (c : Core) (t : Nat) : (c.issuedBy t).lastThread = t := rfl
@[simp] theorem Core.store_spool (c : Core) (a : Nat) (bs : Bytes) : (c.store a bs).spool = c.spool.store a bs := rfl
@[simp] theorem Core.slot_store (c : Core) (a n : Nat) (bs : Bytes) : (c.store a bs).slot n = c.slot n := rfl
@[simp] theorem Core.slot_modThread (c : Core) (t n : Nat) (f : Thread → Thread) : (c.modThread t f).slot n = c.slot n := rfl
@[simp] theorem Core.stream_modThread (c : Core) (t n : Nat) (f : Thread → Thread) : (c.modThread t f).stream n = c.stream n := rfl
@[simp] theorem Core.thread_store (c : Core) (a u : Nat) (bs : Bytes) : (c.store a bs).thread u = c.thread u := rfl

@[simp] theorem State.raw_setRaw (s : State) (off r : Nat) (w : W64) :
    (s.setRaw off w).raw r = if r = off then w else s.raw r := by
  simp only [State.raw, State.setRaw]
  by_cases h : r = off
  · subst h; simp
  · simp only [h, if_false, SMap.get_set_ne _ _ _ _ _ _ h]

@[simp] theorem Thread.pass_pc (t : Thread) (n : Nat) : (t.pass n).pc = t.pc + BitVec.ofNat 64 n := rfl
@[simp] theorem Thread.rg_pass (t : Thread) (n i : Nat) : (t.pass n).rg i = t.rg i := rfl
@[simp] theorem Thread.rp_pass (t : Thread) (n i : Nat) : (t.pass n).rp i = t.rp i := rfl
@[simp] theorem Thread.lane_pass (t : Thread) (n i l : Nat) : (t.pass n).lane i l = t.lane i l := rfl

@[simp] theorem State.core_setRaw (s : State) (off p : Nat) (w : W64) : (s.setRaw off w).core p = s.core p := rfl
@[simp] theorem State.core_setFld (s : State) (f : Fld) (v p : Nat) : (s.setFld f v).core p = s.core p := rfl
@[simp] theorem State.core_setCmd (s : State) (k p : Nat) (c : RunCmd) : (s.setCmd k c).core p = s.core p := rfl

@[simp] theorem Thread.rg_zero (t : Thread) : t.rg 0 = 0 := rfl

/-- A register after a write: g0 stays zero. -/
@[simp] theorem Thread.rg_wg (t : Thread) (i j : Nat) (v : W64) :
    (t.wg i v).rg j = if j = i ∧ j ≠ 0 then v else t.rg j := by
  unfold Thread.wg Thread.rg
  by_cases hi : i = 0
  · subst hi; by_cases hj : j = 0 <;> simp [hj]
  · by_cases hj : j = 0
    · simp [hj]
    · by_cases h : j = i <;> simp [hi, hj, h]

/-- A predicate register after a write: p0 stays all ones. -/
@[simp] theorem Thread.rp_wp (t : Thread) (i j : Nat) (v : BitVec 128) :
    (t.wp i v).rp j = if j = i ∧ j ≠ 0 then v else t.rp j := by
  unfold Thread.wp Thread.rp
  by_cases hi : i = 0
  · subst hi; by_cases hj : j = 0 <;> simp [hj]
  · by_cases hj : j = 0
    · simp [hj]
    · by_cases h : j = i <;> simp [hi, hj, h]

end Sys2Proof.Machine
end

