-- ==== Sys2Proof/Laws/Issue.lean ====
section
/-!
SUPPORT. What the issue of a Poilo instruction does: one lemma for each of its three outcomes.
-/
namespace Sys2Proof.Laws
open Sys2Proof.Machine Sys2Proof.Safety

theorem canIssue_of_issues {s : State} {p u n : Nat} (h : Issues s p u n) : s.canIssue p u = true := by
  obtain ⟨-, -, h1, h2, h3, h4, -, -⟩ := h
  simp [State.canIssue, h1, h2, h3, h4]

theorem entryCodes_of_issues {s : State} {p u n : Nat} (h : Issues s p u n) : entryCodes s p u n false = [] := by
  obtain ⟨-, -, -, -, -, -, h5, h6⟩ := h
  have a : ¬((s.core p).phase = .dispatched ∧ u = 0) := fun x => h5 x.1 x.2
  simp only [entryCodes, codeIf, Bool.not_false, Bool.and_true, decide_eq_true_eq, Bool.and_eq_true]
  rw [if_neg a, if_neg (by omega)]
  rfl

/-- An instruction that breaks no rule and need not wait has its effect on the state in which its PC has passed it. -/
theorem issueTo_runs {s : State} {p u n : Nat} (h : Issues s p u n) (eff : State → State) :
    issueTo p u n false [] none eff s = eff (s.passed p u n) := by
  simp [issueTo, canIssue_of_issues h, entryCodes_of_issues h, lowest]

/-- An instruction that breaks a rule faults with its lowest code. -/
theorem issueTo_faults {s : State} {p u n code : Nat} (h : Issues s p u n) {codes : List Nat}
    (hc : lowest codes = some code) (wait : Option Wait) (eff : State → State) :
    issueTo p u n false codes wait eff s = s.faultThread p u code := by
  simp [issueTo, canIssue_of_issues h, entryCodes_of_issues h, hc]

/-- An instruction whose issue condition does not hold waits. -/
theorem issueTo_waits {s : State} {p u n : Nat} (h : Issues s p u n) (w : Wait) (eff : State → State) :
    issueTo p u n false [] (some w) eff s = s.startWait p u w := by
  simp [issueTo, canIssue_of_issues h, entryCodes_of_issues h, lowest]

theorem onUnit_of_issues {s : State} {p u n : Nat} (h : Issues s p u n) (t : State) :
    onUnit (p < nCores && u < 8) t = .next t := by
  have : (p < nCores && u < 8) = true := by
    simp [nCores, h.1, h.2.1]
  simp [onUnit, this]

/-- An S-form instruction that breaks no rule and need not wait. -/
theorem issue_runs {s : State} {p u : Nat} (h : Issues s p u 8) (eff : State → State) :
    issue p u [] none eff s = .next (eff (s.passed p u 8)) := by
  rw [issue, onUnit_of_issues h, issueTo_runs h]

/-- An X-form instruction that breaks no rule and need not wait. -/
theorem issueX_runs {s : State} {p u : Nat} (h : Issues s p u 16) (eff : State → State) :
    issueX p u [] none eff s = .next (eff (s.passed p u 16)) := by
  rw [issueX, onUnit_of_issues h, issueTo_runs h]

/-- An S-form instruction that breaks a rule. -/
theorem issue_faults {s : State} {p u code : Nat} (h : Issues s p u 8) {codes : List Nat}
    (hc : lowest codes = some code) (wait : Option Wait) (eff : State → State) :
    issue p u codes wait eff s = .next (s.faultThread p u code) := by
  rw [issue, onUnit_of_issues h, issueTo_faults h hc]

/-- An S-form instruction that waits. -/
theorem issue_waits {s : State} {p u : Nat} (h : Issues s p u 8) (w : Wait) (eff : State → State) :
    issue p u [] (some w) eff s = .next (s.startWait p u w) := by
  rw [issue, onUnit_of_issues h, issueTo_waits h]

/-! ### The state in which the PC has passed the instruction -/

@[simp] theorem passed_core (s : State) (p u n q : Nat) :
    (s.passed p u n).core q = if q = p then ((s.core p).modThread u (·.pass n)).issuedBy u else s.core q := State.core_modCore ..

/-- A scalar result: only gA of the thread and its PC change. -/
theorem writesG_of_passed (s : State) (p u n : Nat) (r : BitVec 5) (v : W64) :
    WritesG s ((s.passed p u n).wg p u r v) p u n r.toNat v := by
  refine ⟨⟨⟨rfl, fun q hq => ?_⟩, ?_, ?_, fun w hw => ?_⟩, ⟨?_, ?_⟩, fun k => ?_⟩
  · simp [State.wg, State.modThread, hq]
  · simp [State.wg, State.modThread, unthreaded]
  · simp [State.wg, State.modThread]
  · simp [State.wg, State.modThread, State.thread, hw]
  · simp [State.wg, State.modThread, State.thread]
  · simp [State.wg, State.modThread, State.thread]
  · simp [State.wg, State.modThread, State.thread]

end Sys2Proof.Laws
end

