-- ==== Sys2Proof/Laws/PerInstr.lean ====
section
/-!
SUPPORT. The fields of an encoded word; and of every command, as syntax: the words that encode it, where it has any, are one,
or two where bit 63 (X) of the first is 1 (04 R126), they decode to it for the core and the thread that it names, and it is
well-formed exactly when these exist.
-/
namespace Sys2Proof.Laws

theorem high_of_append {n m : Nat} (a : BitVec n) (b : BitVec m) (lo k : Nat) (h : m ≤ lo) :
    (a ++ b).extractLsb' lo k = a.extractLsb' (lo - m) k := by
  ext i hi
  simp [BitVec.getLsbD_append, show ¬ lo + i < m by omega, show lo + i - m = lo - m + i by omega]

theorem low_of_append {n m : Nat} (a : BitVec n) (b : BitVec m) : (a ++ b).extractLsb' 0 m = b := by
  ext i hi
  simp [BitVec.getLsbD_append, hi]

theorem word0_x (x : BitVec 1) (c : BitVec 4) (o : BitVec 6) (w : IWord) : (word0 x c o w).extractLsb' 63 1 = x := by
  unfold word0
  iterate 7 rw [high_of_append _ _ _ _ (by decide)]
  simp

theorem word0_class (x : BitVec 1) (c : BitVec 4) (o : BitVec 6) (w : IWord) : (word0 x c o w).extractLsb' 59 4 = c := by
  unfold word0
  iterate 6 rw [high_of_append _ _ _ _ (by decide)]
  exact low_of_append _ _

theorem word0_op (x : BitVec 1) (c : BitVec 4) (o : BitVec 6) (w : IWord) : (word0 x c o w).extractLsb' 53 6 = o := by
  unfold word0
  iterate 5 rw [high_of_append _ _ _ _ (by decide)]
  exact low_of_append _ _

theorem fieldsOf_word0 (x : BitVec 1) (c : BitVec 4) (o : BitVec 6) (w : IWord) : fieldsOf (word0 x c o w) = w := by
  have ha : (word0 x c o w).extractLsb' 48 5 = w.a := by
    unfold word0
    iterate 4 rw [high_of_append _ _ _ _ (by decide)]
    exact low_of_append _ _
  have hb : (word0 x c o w).extractLsb' 43 5 = w.b := by
    unfold word0
    iterate 3 rw [high_of_append _ _ _ _ (by decide)]
    exact low_of_append _ _
  have hc : (word0 x c o w).extractLsb' 38 5 = w.c := by
    unfold word0
    iterate 2 rw [high_of_append _ _ _ _ (by decide)]
    exact low_of_append _ _
  have hm : (word0 x c o w).extractLsb' 32 6 = w.mod := by
    unfold word0
    rw [high_of_append _ _ _ _ (by decide)]
    exact low_of_append _ _
  have hi : (word0 x c o w).extractLsb' 0 32 = w.imm := low_of_append _ _
  simp only [fieldsOf, ha, hb, hc, hm, hi]

/-- What family `Wf` says of one command. -/
def Wf.Statement (i : Instr) : Prop :=
  ∀ ws, encodePoilo i = some ws →
    ws.length = 1 + ((ws.headD 0).extractLsb' 63 1).toNat ∧
    ∃ p u, decodePoilo p u ws = some i ∧ i.wf = (coreOk p && threadOk u)

theorem Wf.sclAdd : ∀ p t w, Wf.Statement (.sclAdd p t w) := by
  intro p t w ws h
  cases h
  exact ⟨by simp [word0_x], p, t, by
    simp only [decodePoilo, word0_x, word0_class, word0_op]
    exact congrArg (fun w => some (Instr.sclAdd p t w)) (fieldsOf_word0 0 0 0 w), rfl⟩

theorem Wf.sclSub : ∀ p t w, Wf.Statement (.sclSub p t w) := by
  intro p t w ws h
  cases h
  exact ⟨by simp [word0_x], p, t, by
    simp only [decodePoilo, word0_x, word0_class, word0_op]
    exact congrArg (fun w => some (Instr.sclSub p t w)) (fieldsOf_word0 0 0 1 w), rfl⟩

theorem Wf.sclMul : ∀ p t w, Wf.Statement (.sclMul p t w) := by
  intro p t w ws h
  cases h
  exact ⟨by simp [word0_x], p, t, by
    simp only [decodePoilo, word0_x, word0_class, word0_op]
    exact congrArg (fun w => some (Instr.sclMul p t w)) (fieldsOf_word0 0 0 2 w), rfl⟩

theorem Wf.sclMulh : ∀ p t w, Wf.Statement (.sclMulh p t w) := by
  intro p t w ws h
  cases h
  exact ⟨by simp [word0_x], p, t, by
    simp only [decodePoilo, word0_x, word0_class, word0_op]
    exact congrArg (fun w => some (Instr.sclMulh p t w)) (fieldsOf_word0 0 0 3 w), rfl⟩

theorem Wf.sclAnd : ∀ p t w, Wf.Statement (.sclAnd p t w) := by
  intro p t w ws h
  cases h
  exact ⟨by simp [word0_x], p, t, by
    simp only [decodePoilo, word0_x, word0_class, word0_op]
    exact congrArg (fun w => some (Instr.sclAnd p t w)) (fieldsOf_word0 0 0 4 w), rfl⟩

theorem Wf.sclOr : ∀ p t w, Wf.Statement (.sclOr p t w) := by
  intro p t w ws h
  cases h
  exact ⟨by simp [word0_x], p, t, by
    simp only [decodePoilo, word0_x, word0_class, word0_op]
    exact congrArg (fun w => some (Instr.sclOr p t w)) (fieldsOf_word0 0 0 5 w), rfl⟩

theorem Wf.sclXor : ∀ p t w, Wf.Statement (.sclXor p t w) := by
  intro p t w ws h
  cases h
  exact ⟨by simp [word0_x], p, t, by
    simp only [decodePoilo, word0_x, word0_class, word0_op]
    exact congrArg (fun w => some (Instr.sclXor p t w)) (fieldsOf_word0 0 0 6 w), rfl⟩

theorem Wf.sclShl : ∀ p t w, Wf.Statement (.sclShl p t w) := by
  intro p t w ws h
  cases h
  exact ⟨by simp [word0_x], p, t, by
    simp only [decodePoilo, word0_x, word0_class, word0_op]
    exact congrArg (fun w => some (Instr.sclShl p t w)) (fieldsOf_word0 0 0 7 w), rfl⟩

theorem Wf.sclShr : ∀ p t w, Wf.Statement (.sclShr p t w) := by
  intro p t w ws h
  cases h
  exact ⟨by simp [word0_x], p, t, by
    simp only [decodePoilo, word0_x, word0_class, word0_op]
    exact congrArg (fun w => some (Instr.sclShr p t w)) (fieldsOf_word0 0 0 8 w), rfl⟩

theorem Wf.sclSra : ∀ p t w, Wf.Statement (.sclSra p t w) := by
  intro p t w ws h
  cases h
  exact ⟨by simp [word0_x], p, t, by
    simp only [decodePoilo, word0_x, word0_class, word0_op]
    exact congrArg (fun w => some (Instr.sclSra p t w)) (fieldsOf_word0 0 0 9 w), rfl⟩

theorem Wf.sclMin : ∀ p t w, Wf.Statement (.sclMin p t w) := by
  intro p t w ws h
  cases h
  exact ⟨by simp [word0_x], p, t, by
    simp only [decodePoilo, word0_x, word0_class, word0_op]
    exact congrArg (fun w => some (Instr.sclMin p t w)) (fieldsOf_word0 0 0 10 w), rfl⟩

theorem Wf.sclMax : ∀ p t w, Wf.Statement (.sclMax p t w) := by
  intro p t w ws h
  cases h
  exact ⟨by simp [word0_x], p, t, by
    simp only [decodePoilo, word0_x, word0_class, word0_op]
    exact congrArg (fun w => some (Instr.sclMax p t w)) (fieldsOf_word0 0 0 11 w), rfl⟩

theorem Wf.sclMinu : ∀ p t w, Wf.Statement (.sclMinu p t w) := by
  intro p t w ws h
  cases h
  exact ⟨by simp [word0_x], p, t, by
    simp only [decodePoilo, word0_x, word0_class, word0_op]
    exact congrArg (fun w => some (Instr.sclMinu p t w)) (fieldsOf_word0 0 0 12 w), rfl⟩

theorem Wf.sclMaxu : ∀ p t w, Wf.Statement (.sclMaxu p t w) := by
  intro p t w ws h
  cases h
  exact ⟨by simp [word0_x], p, t, by
    simp only [decodePoilo, word0_x, word0_class, word0_op]
    exact congrArg (fun w => some (Instr.sclMaxu p t w)) (fieldsOf_word0 0 0 13 w), rfl⟩

theorem Wf.sclSlt : ∀ p t w, Wf.Statement (.sclSlt p t w) := by
  intro p t w ws h
  cases h
  exact ⟨by simp [word0_x], p, t, by
    simp only [decodePoilo, word0_x, word0_class, word0_op]
    exact congrArg (fun w => some (Instr.sclSlt p t w)) (fieldsOf_word0 0 0 14 w), rfl⟩

theorem Wf.sclSltu : ∀ p t w, Wf.Statement (.sclSltu p t w) := by
  intro p t w ws h
  cases h
  exact ⟨by simp [word0_x], p, t, by
    simp only [decodePoilo, word0_x, word0_class, word0_op]
    exact congrArg (fun w => some (Instr.sclSltu p t w)) (fieldsOf_word0 0 0 15 w), rfl⟩

theorem Wf.sclLi : ∀ p t w y, Wf.Statement (.sclLi p t w y) := by
  intro p t w y ws h
  cases h
  exact ⟨by simp [word0_x], p, t, by
    simp only [decodePoilo, word0_x, word0_class, word0_op]
    exact congrArg (fun w => some (Instr.sclLi p t w y)) (fieldsOf_word0 1 0 16 w), rfl⟩

theorem Wf.brJ : ∀ p t w, Wf.Statement (.brJ p t w) := by
  intro p t w ws h
  cases h
  exact ⟨by simp [word0_x], p, t, by
    simp only [decodePoilo, word0_x, word0_class, word0_op]
    exact congrArg (fun w => some (Instr.brJ p t w)) (fieldsOf_word0 0 1 0 w), rfl⟩

theorem Wf.brBeq : ∀ p t w, Wf.Statement (.brBeq p t w) := by
  intro p t w ws h
  cases h
  exact ⟨by simp [word0_x], p, t, by
    simp only [decodePoilo, word0_x, word0_class, word0_op]
    exact congrArg (fun w => some (Instr.brBeq p t w)) (fieldsOf_word0 0 1 1 w), rfl⟩

theorem Wf.brBne : ∀ p t w, Wf.Statement (.brBne p t w) := by
  intro p t w ws h
  cases h
  exact ⟨by simp [word0_x], p, t, by
    simp only [decodePoilo, word0_x, word0_class, word0_op]
    exact congrArg (fun w => some (Instr.brBne p t w)) (fieldsOf_word0 0 1 2 w), rfl⟩

theorem Wf.brBlt : ∀ p t w, Wf.Statement (.brBlt p t w) := by
  intro p t w ws h
  cases h
  exact ⟨by simp [word0_x], p, t, by
    simp only [decodePoilo, word0_x, word0_class, word0_op]
    exact congrArg (fun w => some (Instr.brBlt p t w)) (fieldsOf_word0 0 1 3 w), rfl⟩

theorem Wf.brBge : ∀ p t w, Wf.Statement (.brBge p t w) := by
  intro p t w ws h
  cases h
  exact ⟨by simp [word0_x], p, t, by
    simp only [decodePoilo, word0_x, word0_class, word0_op]
    exact congrArg (fun w => some (Instr.brBge p t w)) (fieldsOf_word0 0 1 4 w), rfl⟩

theorem Wf.brBltu : ∀ p t w, Wf.Statement (.brBltu p t w) := by
  intro p t w ws h
  cases h
  exact ⟨by simp [word0_x], p, t, by
    simp only [decodePoilo, word0_x, word0_class, word0_op]
    exact congrArg (fun w => some (Instr.brBltu p t w)) (fieldsOf_word0 0 1 5 w), rfl⟩

theorem Wf.brBgeu : ∀ p t w, Wf.Statement (.brBgeu p t w) := by
  intro p t w ws h
  cases h
  exact ⟨by simp [word0_x], p, t, by
    simp only [decodePoilo, word0_x, word0_class, word0_op]
    exact congrArg (fun w => some (Instr.brBgeu p t w)) (fieldsOf_word0 0 1 6 w), rfl⟩

theorem Wf.brCall : ∀ p t w, Wf.Statement (.brCall p t w) := by
  intro p t w ws h
  cases h
  exact ⟨by simp [word0_x], p, t, by
    simp only [decodePoilo, word0_x, word0_class, word0_op]
    exact congrArg (fun w => some (Instr.brCall p t w)) (fieldsOf_word0 0 1 7 w), rfl⟩

theorem Wf.brJr : ∀ p t w, Wf.Statement (.brJr p t w) := by
  intro p t w ws h
  cases h
  exact ⟨by simp [word0_x], p, t, by
    simp only [decodePoilo, word0_x, word0_class, word0_op]
    exact congrArg (fun w => some (Instr.brJr p t w)) (fieldsOf_word0 0 1 8 w), rfl⟩

theorem Wf.splLd : ∀ p t w, Wf.Statement (.splLd p t w) := by
  intro p t w ws h
  cases h
  exact ⟨by simp [word0_x], p, t, by
    simp only [decodePoilo, word0_x, word0_class, word0_op]
    exact congrArg (fun w => some (Instr.splLd p t w)) (fieldsOf_word0 0 2 0 w), rfl⟩

theorem Wf.splLds : ∀ p t w, Wf.Statement (.splLds p t w) := by
  intro p t w ws h
  cases h
  exact ⟨by simp [word0_x], p, t, by
    simp only [decodePoilo, word0_x, word0_class, word0_op]
    exact congrArg (fun w => some (Instr.splLds p t w)) (fieldsOf_word0 0 2 1 w), rfl⟩

theorem Wf.splSt : ∀ p t w, Wf.Statement (.splSt p t w) := by
  intro p t w ws h
  cases h
  exact ⟨by simp [word0_x], p, t, by
    simp only [decodePoilo, word0_x, word0_class, word0_op]
    exact congrArg (fun w => some (Instr.splSt p t w)) (fieldsOf_word0 0 2 2 w), rfl⟩

theorem Wf.splAcc : ∀ p t w, Wf.Statement (.splAcc p t w) := by
  intro p t w ws h
  cases h
  exact ⟨by simp [word0_x], p, t, by
    simp only [decodePoilo, word0_x, word0_class, word0_op]
    exact congrArg (fun w => some (Instr.splAcc p t w)) (fieldsOf_word0 0 2 3 w), rfl⟩

theorem Wf.sltBind : ∀ p t w, Wf.Statement (.sltBind p t w) := by
  intro p t w ws h
  cases h
  exact ⟨by simp [word0_x], p, t, by
    simp only [decodePoilo, word0_x, word0_class, word0_op]
    exact congrArg (fun w => some (Instr.sltBind p t w)) (fieldsOf_word0 0 3 0 w), rfl⟩

theorem Wf.sltUnbind : ∀ p t w, Wf.Statement (.sltUnbind p t w) := by
  intro p t w ws h
  cases h
  exact ⟨by simp [word0_x], p, t, by
    simp only [decodePoilo, word0_x, word0_class, word0_op]
    exact congrArg (fun w => some (Instr.sltUnbind p t w)) (fieldsOf_word0 0 3 1 w), rfl⟩

theorem Wf.sltState : ∀ p t w, Wf.Statement (.sltState p t w) := by
  intro p t w ws h
  cases h
  exact ⟨by simp [word0_x], p, t, by
    simp only [decodePoilo, word0_x, word0_class, word0_op]
    exact congrArg (fun w => some (Instr.sltState p t w)) (fieldsOf_word0 0 3 2 w), rfl⟩

theorem Wf.sltFill : ∀ p t w, Wf.Statement (.sltFill p t w) := by
  intro p t w ws h
  cases h
  exact ⟨by simp [word0_x], p, t, by
    simp only [decodePoilo, word0_x, word0_class, word0_op]
    exact congrArg (fun w => some (Instr.sltFill p t w)) (fieldsOf_word0 0 3 3 w), rfl⟩

theorem Wf.sltRel : ∀ p t w, Wf.Statement (.sltRel p t w) := by
  intro p t w ws h
  cases h
  exact ⟨by simp [word0_x], p, t, by
    simp only [decodePoilo, word0_x, word0_class, word0_op]
    exact congrArg (fun w => some (Instr.sltRel p t w)) (fieldsOf_word0 0 3 4 w), rfl⟩

theorem Wf.strArm : ∀ p t w, Wf.Statement (.strArm p t w) := by
  intro p t w ws h
  cases h
  exact ⟨by simp [word0_x], p, t, by
    simp only [decodePoilo, word0_x, word0_class, word0_op]
    exact congrArg (fun w => some (Instr.strArm p t w)) (fieldsOf_word0 0 4 0 w), rfl⟩

theorem Wf.strCancel : ∀ p t w, Wf.Statement (.strCancel p t w) := by
  intro p t w ws h
  cases h
  exact ⟨by simp [word0_x], p, t, by
    simp only [decodePoilo, word0_x, word0_class, word0_op]
    exact congrArg (fun w => some (Instr.strCancel p t w)) (fieldsOf_word0 0 4 1 w), rfl⟩

theorem Wf.strWait : ∀ p t w, Wf.Statement (.strWait p t w) := by
  intro p t w ws h
  cases h
  exact ⟨by simp [word0_x], p, t, by
    simp only [decodePoilo, word0_x, word0_class, word0_op]
    exact congrArg (fun w => some (Instr.strWait p t w)) (fieldsOf_word0 0 4 2 w), rfl⟩

theorem Wf.strDld : ∀ p t w, Wf.Statement (.strDld p t w) := by
  intro p t w ws h
  cases h
  exact ⟨by simp [word0_x], p, t, by
    simp only [decodePoilo, word0_x, word0_class, word0_op]
    exact congrArg (fun w => some (Instr.strDld p t w)) (fieldsOf_word0 0 4 3 w), rfl⟩

theorem Wf.strDset : ∀ p t w, Wf.Statement (.strDset p t w) := by
  intro p t w ws h
  cases h
  exact ⟨by simp [word0_x], p, t, by
    simp only [decodePoilo, word0_x, word0_class, word0_op]
    exact congrArg (fun w => some (Instr.strDset p t w)) (fieldsOf_word0 0 4 4 w), rfl⟩

theorem Wf.strStatus : ∀ p t w, Wf.Statement (.strStatus p t w) := by
  intro p t w ws h
  cases h
  exact ⟨by simp [word0_x], p, t, by
    simp only [decodePoilo, word0_x, word0_class, word0_op]
    exact congrArg (fun w => some (Instr.strStatus p t w)) (fieldsOf_word0 0 4 5 w), rfl⟩

theorem Wf.engLdw : ∀ p t w, Wf.Statement (.engLdw p t w) := by
  intro p t w ws h
  cases h
  exact ⟨by simp [word0_x], p, t, by
    simp only [decodePoilo, word0_x, word0_class, word0_op]
    exact congrArg (fun w => some (Instr.engLdw p t w)) (fieldsOf_word0 0 5 0 w), rfl⟩

theorem Wf.engMm : ∀ p t w y, Wf.Statement (.engMm p t w y) := by
  intro p t w y ws h
  cases h
  exact ⟨by simp [word0_x], p, t, by
    simp only [decodePoilo, word0_x, word0_class, word0_op]
    exact congrArg (fun w => some (Instr.engMm p t w y)) (fieldsOf_word0 1 5 1 w), rfl⟩

theorem Wf.engConv : ∀ p t w y, Wf.Statement (.engConv p t w y) := by
  intro p t w y ws h
  cases h
  exact ⟨by simp [word0_x], p, t, by
    simp only [decodePoilo, word0_x, word0_class, word0_op]
    exact congrArg (fun w => some (Instr.engConv p t w y)) (fieldsOf_word0 1 5 2 w), rfl⟩

theorem Wf.engDrn : ∀ p t w y, Wf.Statement (.engDrn p t w y) := by
  intro p t w y ws h
  cases h
  exact ⟨by simp [word0_x], p, t, by
    simp only [decodePoilo, word0_x, word0_class, word0_op]
    exact congrArg (fun w => some (Instr.engDrn p t w y)) (fieldsOf_word0 1 5 3 w), rfl⟩

theorem Wf.engFence : ∀ p t w, Wf.Statement (.engFence p t w) := by
  intro p t w ws h
  cases h
  exact ⟨by simp [word0_x], p, t, by
    simp only [decodePoilo, word0_x, word0_class, word0_op]
    exact congrArg (fun w => some (Instr.engFence p t w)) (fieldsOf_word0 0 5 4 w), rfl⟩

theorem Wf.vecLd : ∀ p t w, Wf.Statement (.vecLd p t w) := by
  intro p t w ws h
  cases h
  exact ⟨by simp [word0_x], p, t, by
    simp only [decodePoilo, word0_x, word0_class, word0_op]
    exact congrArg (fun w => some (Instr.vecLd p t w)) (fieldsOf_word0 0 6 0 w), rfl⟩

theorem Wf.vecSt : ∀ p t w, Wf.Statement (.vecSt p t w) := by
  intro p t w ws h
  cases h
  exact ⟨by simp [word0_x], p, t, by
    simp only [decodePoilo, word0_x, word0_class, word0_op]
    exact congrArg (fun w => some (Instr.vecSt p t w)) (fieldsOf_word0 0 6 1 w), rfl⟩

theorem Wf.vecAdd : ∀ p t w, Wf.Statement (.vecAdd p t w) := by
  intro p t w ws h
  cases h
  exact ⟨by simp [word0_x], p, t, by
    simp only [decodePoilo, word0_x, word0_class, word0_op]
    exact congrArg (fun w => some (Instr.vecAdd p t w)) (fieldsOf_word0 0 6 2 w), rfl⟩

theorem Wf.vecSub : ∀ p t w, Wf.Statement (.vecSub p t w) := by
  intro p t w ws h
  cases h
  exact ⟨by simp [word0_x], p, t, by
    simp only [decodePoilo, word0_x, word0_class, word0_op]
    exact congrArg (fun w => some (Instr.vecSub p t w)) (fieldsOf_word0 0 6 3 w), rfl⟩

theorem Wf.vecMul : ∀ p t w, Wf.Statement (.vecMul p t w) := by
  intro p t w ws h
  cases h
  exact ⟨by simp [word0_x], p, t, by
    simp only [decodePoilo, word0_x, word0_class, word0_op]
    exact congrArg (fun w => some (Instr.vecMul p t w)) (fieldsOf_word0 0 6 4 w), rfl⟩

theorem Wf.vecFma : ∀ p t w, Wf.Statement (.vecFma p t w) := by
  intro p t w ws h
  cases h
  exact ⟨by simp [word0_x], p, t, by
    simp only [decodePoilo, word0_x, word0_class, word0_op]
    exact congrArg (fun w => some (Instr.vecFma p t w)) (fieldsOf_word0 0 6 5 w), rfl⟩

theorem Wf.vecMax : ∀ p t w, Wf.Statement (.vecMax p t w) := by
  intro p t w ws h
  cases h
  exact ⟨by simp [word0_x], p, t, by
    simp only [decodePoilo, word0_x, word0_class, word0_op]
    exact congrArg (fun w => some (Instr.vecMax p t w)) (fieldsOf_word0 0 6 6 w), rfl⟩

theorem Wf.vecMin : ∀ p t w, Wf.Statement (.vecMin p t w) := by
  intro p t w ws h
  cases h
  exact ⟨by simp [word0_x], p, t, by
    simp only [decodePoilo, word0_x, word0_class, word0_op]
    exact congrArg (fun w => some (Instr.vecMin p t w)) (fieldsOf_word0 0 6 7 w), rfl⟩

theorem Wf.vecCmp : ∀ p t w, Wf.Statement (.vecCmp p t w) := by
  intro p t w ws h
  cases h
  exact ⟨by simp [word0_x], p, t, by
    simp only [decodePoilo, word0_x, word0_class, word0_op]
    exact congrArg (fun w => some (Instr.vecCmp p t w)) (fieldsOf_word0 0 6 8 w), rfl⟩

theorem Wf.vecSel : ∀ p t w, Wf.Statement (.vecSel p t w) := by
  intro p t w ws h
  cases h
  exact ⟨by simp [word0_x], p, t, by
    simp only [decodePoilo, word0_x, word0_class, word0_op]
    exact congrArg (fun w => some (Instr.vecSel p t w)) (fieldsOf_word0 0 6 9 w), rfl⟩

theorem Wf.vecExp : ∀ p t w, Wf.Statement (.vecExp p t w) := by
  intro p t w ws h
  cases h
  exact ⟨by simp [word0_x], p, t, by
    simp only [decodePoilo, word0_x, word0_class, word0_op]
    exact congrArg (fun w => some (Instr.vecExp p t w)) (fieldsOf_word0 0 6 10 w), rfl⟩

theorem Wf.vecLog : ∀ p t w, Wf.Statement (.vecLog p t w) := by
  intro p t w ws h
  cases h
  exact ⟨by simp [word0_x], p, t, by
    simp only [decodePoilo, word0_x, word0_class, word0_op]
    exact congrArg (fun w => some (Instr.vecLog p t w)) (fieldsOf_word0 0 6 11 w), rfl⟩

theorem Wf.vecRcp : ∀ p t w, Wf.Statement (.vecRcp p t w) := by
  intro p t w ws h
  cases h
  exact ⟨by simp [word0_x], p, t, by
    simp only [decodePoilo, word0_x, word0_class, word0_op]
    exact congrArg (fun w => some (Instr.vecRcp p t w)) (fieldsOf_word0 0 6 12 w), rfl⟩

theorem Wf.vecRsqrt : ∀ p t w, Wf.Statement (.vecRsqrt p t w) := by
  intro p t w ws h
  cases h
  exact ⟨by simp [word0_x], p, t, by
    simp only [decodePoilo, word0_x, word0_class, word0_op]
    exact congrArg (fun w => some (Instr.vecRsqrt p t w)) (fieldsOf_word0 0 6 13 w), rfl⟩

theorem Wf.vecTanh : ∀ p t w, Wf.Statement (.vecTanh p t w) := by
  intro p t w ws h
  cases h
  exact ⟨by simp [word0_x], p, t, by
    simp only [decodePoilo, word0_x, word0_class, word0_op]
    exact congrArg (fun w => some (Instr.vecTanh p t w)) (fieldsOf_word0 0 6 14 w), rfl⟩

theorem Wf.vecSig : ∀ p t w, Wf.Statement (.vecSig p t w) := by
  intro p t w ws h
  cases h
  exact ⟨by simp [word0_x], p, t, by
    simp only [decodePoilo, word0_x, word0_class, word0_op]
    exact congrArg (fun w => some (Instr.vecSig p t w)) (fieldsOf_word0 0 6 15 w), rfl⟩

theorem Wf.vecRsum : ∀ p t w, Wf.Statement (.vecRsum p t w) := by
  intro p t w ws h
  cases h
  exact ⟨by simp [word0_x], p, t, by
    simp only [decodePoilo, word0_x, word0_class, word0_op]
    exact congrArg (fun w => some (Instr.vecRsum p t w)) (fieldsOf_word0 0 6 16 w), rfl⟩

theorem Wf.vecRmax : ∀ p t w, Wf.Statement (.vecRmax p t w) := by
  intro p t w ws h
  cases h
  exact ⟨by simp [word0_x], p, t, by
    simp only [decodePoilo, word0_x, word0_class, word0_op]
    exact congrArg (fun w => some (Instr.vecRmax p t w)) (fieldsOf_word0 0 6 17 w), rfl⟩

theorem Wf.vecBcast : ∀ p t w, Wf.Statement (.vecBcast p t w) := by
  intro p t w ws h
  cases h
  exact ⟨by simp [word0_x], p, t, by
    simp only [decodePoilo, word0_x, word0_class, word0_op]
    exact congrArg (fun w => some (Instr.vecBcast p t w)) (fieldsOf_word0 0 6 18 w), rfl⟩

theorem Wf.vecCvtmx : ∀ p t w, Wf.Statement (.vecCvtmx p t w) := by
  intro p t w ws h
  cases h
  exact ⟨by simp [word0_x], p, t, by
    simp only [decodePoilo, word0_x, word0_class, word0_op]
    exact congrArg (fun w => some (Instr.vecCvtmx p t w)) (fieldsOf_word0 0 6 19 w), rfl⟩

theorem Wf.vecPhilox : ∀ p t w, Wf.Statement (.vecPhilox p t w) := by
  intro p t w ws h
  cases h
  exact ⟨by simp [word0_x], p, t, by
    simp only [decodePoilo, word0_x, word0_class, word0_op]
    exact congrArg (fun w => some (Instr.vecPhilox p t w)) (fieldsOf_word0 0 6 20 w), rfl⟩

theorem Wf.vecI2f : ∀ p t w, Wf.Statement (.vecI2f p t w) := by
  intro p t w ws h
  cases h
  exact ⟨by simp [word0_x], p, t, by
    simp only [decodePoilo, word0_x, word0_class, word0_op]
    exact congrArg (fun w => some (Instr.vecI2f p t w)) (fieldsOf_word0 0 6 22 w), rfl⟩

theorem Wf.vecUnif : ∀ p t w, Wf.Statement (.vecUnif p t w) := by
  intro p t w ws h
  cases h
  exact ⟨by simp [word0_x], p, t, by
    simp only [decodePoilo, word0_x, word0_class, word0_op]
    exact congrArg (fun w => some (Instr.vecUnif p t w)) (fieldsOf_word0 0 6 23 w), rfl⟩

theorem Wf.telAttn : ∀ p t w, Wf.Statement (.telAttn p t w) := by
  intro p t w ws h
  cases h
  exact ⟨by simp [word0_x], p, t, by
    simp only [decodePoilo, word0_x, word0_class, word0_op]
    exact congrArg (fun w => some (Instr.telAttn p t w)) (fieldsOf_word0 0 7 0 w), rfl⟩

theorem Wf.telCmd : ∀ p t w, Wf.Statement (.telCmd p t w) := by
  intro p t w ws h
  cases h
  exact ⟨by simp [word0_x], p, t, by
    simp only [decodePoilo, word0_x, word0_class, word0_op]
    exact congrArg (fun w => some (Instr.telCmd p t w)) (fieldsOf_word0 0 7 1 w), rfl⟩

theorem Wf.telMerge : ∀ p t w, Wf.Statement (.telMerge p t w) := by
  intro p t w ws h
  cases h
  exact ⟨by simp [word0_x], p, t, by
    simp only [decodePoilo, word0_x, word0_class, word0_op]
    exact congrArg (fun w => some (Instr.telMerge p t w)) (fieldsOf_word0 0 7 2 w), rfl⟩

theorem Wf.rmtGet : ∀ p t w, Wf.Statement (.rmtGet p t w) := by
  intro p t w ws h
  cases h
  exact ⟨by simp [word0_x], p, t, by
    simp only [decodePoilo, word0_x, word0_class, word0_op]
    exact congrArg (fun w => some (Instr.rmtGet p t w)) (fieldsOf_word0 0 8 0 w), rfl⟩

theorem Wf.rmtPut : ∀ p t w, Wf.Statement (.rmtPut p t w) := by
  intro p t w ws h
  cases h
  exact ⟨by simp [word0_x], p, t, by
    simp only [decodePoilo, word0_x, word0_class, word0_op]
    exact congrArg (fun w => some (Instr.rmtPut p t w)) (fieldsOf_word0 0 8 1 w), rfl⟩

theorem Wf.rmtAcc : ∀ p t w, Wf.Statement (.rmtAcc p t w) := by
  intro p t w ws h
  cases h
  exact ⟨by simp [word0_x], p, t, by
    simp only [decodePoilo, word0_x, word0_class, word0_op]
    exact congrArg (fun w => some (Instr.rmtAcc p t w)) (fieldsOf_word0 0 8 2 w), rfl⟩

theorem Wf.rmtWait : ∀ p t w, Wf.Statement (.rmtWait p t w) := by
  intro p t w ws h
  cases h
  exact ⟨by simp [word0_x], p, t, by
    simp only [decodePoilo, word0_x, word0_class, word0_op]
    exact congrArg (fun w => some (Instr.rmtWait p t w)) (fieldsOf_word0 0 8 3 w), rfl⟩

theorem Wf.barArrive : ∀ p t w, Wf.Statement (.barArrive p t w) := by
  intro p t w ws h
  cases h
  exact ⟨by simp [word0_x], p, t, by
    simp only [decodePoilo, word0_x, word0_class, word0_op]
    exact congrArg (fun w => some (Instr.barArrive p t w)) (fieldsOf_word0 0 9 0 w), rfl⟩

theorem Wf.barWait : ∀ p t w, Wf.Statement (.barWait p t w) := by
  intro p t w ws h
  cases h
  exact ⟨by simp [word0_x], p, t, by
    simp only [decodePoilo, word0_x, word0_class, word0_op]
    exact congrArg (fun w => some (Instr.barWait p t w)) (fieldsOf_word0 0 9 1 w), rfl⟩

theorem Wf.barSync : ∀ p t w, Wf.Statement (.barSync p t w) := by
  intro p t w ws h
  cases h
  exact ⟨by simp [word0_x], p, t, by
    simp only [decodePoilo, word0_x, word0_class, word0_op]
    exact congrArg (fun w => some (Instr.barSync p t w)) (fieldsOf_word0 0 9 2 w), rfl⟩

theorem Wf.thrStart : ∀ p t w, Wf.Statement (.thrStart p t w) := by
  intro p t w ws h
  cases h
  exact ⟨by simp [word0_x], p, t, by
    simp only [decodePoilo, word0_x, word0_class, word0_op]
    exact congrArg (fun w => some (Instr.thrStart p t w)) (fieldsOf_word0 0 10 0 w), rfl⟩

theorem Wf.thrEnd : ∀ p t w, Wf.Statement (.thrEnd p t w) := by
  intro p t w ws h
  cases h
  exact ⟨by simp [word0_x], p, t, by
    simp only [decodePoilo, word0_x, word0_class, word0_op]
    exact congrArg (fun w => some (Instr.thrEnd p t w)) (fieldsOf_word0 0 10 1 w), rfl⟩

theorem Wf.thrJoin : ∀ p t w, Wf.Statement (.thrJoin p t w) := by
  intro p t w ws h
  cases h
  exact ⟨by simp [word0_x], p, t, by
    simp only [decodePoilo, word0_x, word0_class, word0_op]
    exact congrArg (fun w => some (Instr.thrJoin p t w)) (fieldsOf_word0 0 10 2 w), rfl⟩

theorem Wf.thrRds : ∀ p t w, Wf.Statement (.thrRds p t w) := by
  intro p t w ws h
  cases h
  exact ⟨by simp [word0_x], p, t, by
    simp only [decodePoilo, word0_x, word0_class, word0_op]
    exact congrArg (fun w => some (Instr.thrRds p t w)) (fieldsOf_word0 0 10 3 w), rfl⟩

theorem Wf.cmdBegin : ∀ p t w, Wf.Statement (.cmdBegin p t w) := by
  intro p t w ws h
  cases h
  exact ⟨by simp [word0_x], p, t, by
    simp only [decodePoilo, word0_x, word0_class, word0_op]
    exact congrArg (fun w => some (Instr.cmdBegin p t w)) (fieldsOf_word0 0 11 0 w), rfl⟩

theorem Wf.cmdPub : ∀ p t w, Wf.Statement (.cmdPub p t w) := by
  intro p t w ws h
  cases h
  exact ⟨by simp [word0_x], p, t, by
    simp only [decodePoilo, word0_x, word0_class, word0_op]
    exact congrArg (fun w => some (Instr.cmdPub p t w)) (fieldsOf_word0 0 11 1 w), rfl⟩

theorem Wf.cmdCommit : ∀ p t w, Wf.Statement (.cmdCommit p t w) := by
  intro p t w ws h
  cases h
  exact ⟨by simp [word0_x], p, t, by
    simp only [decodePoilo, word0_x, word0_class, word0_op]
    exact congrArg (fun w => some (Instr.cmdCommit p t w)) (fieldsOf_word0 0 11 2 w), rfl⟩

theorem Wf.cmdAbort : ∀ p t w, Wf.Statement (.cmdAbort p t w) := by
  intro p t w ws h
  cases h
  exact ⟨by simp [word0_x], p, t, by
    simp only [decodePoilo, word0_x, word0_class, word0_op]
    exact congrArg (fun w => some (Instr.cmdAbort p t w)) (fieldsOf_word0 0 11 3 w), rfl⟩

theorem Wf.threadReady : ∀ a0 a1, Wf.Statement (.threadReady a0 a1) := fun _ _ _ h => nomatch h

theorem Wf.cmdBeginComplete : ∀ a0, Wf.Statement (.cmdBeginComplete a0) := fun _ _ h => nomatch h

theorem Wf.coreReport : ∀ a0, Wf.Statement (.coreReport a0) := fun _ _ h => nomatch h

theorem Wf.commitDone : ∀ a0, Wf.Statement (.commitDone a0) := fun _ _ h => nomatch h

theorem Wf.foldDone : ∀ a0, Wf.Statement (.foldDone a0) := fun _ _ h => nomatch h

theorem Wf.commandAbort : ∀ a0, Wf.Statement (.commandAbort a0) := fun _ _ h => nomatch h

theorem Wf.slotTimeout : ∀ a0 a1, Wf.Statement (.slotTimeout a0 a1) := fun _ _ _ h => nomatch h

theorem Wf.accUpdate : ∀ a0 a1, Wf.Statement (.accUpdate a0 a1) := fun _ _ _ h => nomatch h

theorem Wf.frontDone : ∀ a0, Wf.Statement (.frontDone a0) := fun _ _ h => nomatch h

theorem Wf.drainDone : ∀ a0 a1, Wf.Statement (.drainDone a0 a1) := fun _ _ _ h => nomatch h

theorem Wf.engHwFault : ∀ a0 a1 a2, Wf.Statement (.engHwFault a0 a1 a2) := fun _ _ _ _ h => nomatch h

theorem Wf.transferHang : ∀ a0 a1 a2, Wf.Statement (.transferHang a0 a1 a2) := fun _ _ _ _ h => nomatch h

theorem Wf.spareSubstitution : ∀ a0, Wf.Statement (.spareSubstitution a0) := fun _ _ h => nomatch h

theorem Wf.keeperRampStep : ∀ a0 a1, Wf.Statement (.keeperRampStep a0 a1) := fun _ _ _ h => nomatch h

theorem Wf.bankSettled : ∀ a0 a1, Wf.Statement (.bankSettled a0 a1) := fun _ _ _ h => nomatch h

theorem Wf.strTransferIssue : ∀ a0, Wf.Statement (.strTransferIssue a0) := fun _ _ h => nomatch h

theorem Wf.transferReply : ∀ a0 a1 a2, Wf.Statement (.transferReply a0 a1 a2) := fun _ _ _ _ h => nomatch h

theorem Wf.stackRequest : ∀ a0 a1, Wf.Statement (.stackRequest a0 a1) := fun _ _ _ h => nomatch h

theorem Wf.stackHang : ∀ a0, Wf.Statement (.stackHang a0) := fun _ _ h => nomatch h

theorem Wf.refresh : ∀ a0, Wf.Statement (.refresh a0) := fun _ _ h => nomatch h

theorem Wf.stackTempChange : ∀ a0 a1, Wf.Statement (.stackTempChange a0 a1) := fun _ _ _ h => nomatch h

theorem Wf.scrubLine : ∀ a0 a1, Wf.Statement (.scrubLine a0 a1) := fun _ _ _ h => nomatch h

theorem Wf.telStackReply : ∀ a0 a1 a2, Wf.Statement (.telStackReply a0 a1 a2) := fun _ _ _ _ h => nomatch h

theorem Wf.attnPartial : ∀ a0 a1 a2 a3 a4, Wf.Statement (.attnPartial a0 a1 a2 a3 a4) := fun _ _ _ _ _ _ h => nomatch h

theorem Wf.mergeDone : ∀ a0, Wf.Statement (.mergeDone a0) := fun _ _ h => nomatch h

theorem Wf.flitTx : ∀ a0 a1, Wf.Statement (.flitTx a0 a1) := fun _ _ _ h => nomatch h

theorem Wf.flitRx : ∀ a0 a1 a2 a3 a4, Wf.Statement (.flitRx a0 a1 a2 a3 a4) := fun _ _ _ _ _ _ h => nomatch h

theorem Wf.replayTimeout : ∀ a0 a1, Wf.Statement (.replayTimeout a0 a1) := fun _ _ _ h => nomatch h

theorem Wf.retrainDone : ∀ a0 a1 a2, Wf.Statement (.retrainDone a0 a1 a2) := fun _ _ _ _ h => nomatch h

theorem Wf.retrainFail : ∀ a0 a1, Wf.Statement (.retrainFail a0 a1) := fun _ _ _ h => nomatch h

theorem Wf.idleFlitInsert : ∀ a0, Wf.Statement (.idleFlitInsert a0) := fun _ _ h => nomatch h

theorem Wf.laneFailure : ∀ a0 a1, Wf.Statement (.laneFailure a0 a1) := fun _ _ _ h => nomatch h

theorem Wf.linkTrained : ∀ a0 a1, Wf.Statement (.linkTrained a0 a1) := fun _ _ _ h => nomatch h

theorem Wf.hello : ∀ a0 a1, Wf.Statement (.hello a0 a1) := fun _ _ _ h => nomatch h

theorem Wf.portTrainRetry : ∀ a0, Wf.Statement (.portTrainRetry a0) := fun _ _ h => nomatch h

theorem Wf.discFlood : ∀ a0 a1, Wf.Statement (.discFlood a0 a1) := fun _ _ _ h => nomatch h

theorem Wf.discAnswer : ∀ a0 a1 a2, Wf.Statement (.discAnswer a0 a1 a2) := fun _ _ _ _ h => nomatch h

theorem Wf.discReport : ∀ a0 a1 a2, Wf.Statement (.discReport a0 a1 a2) := fun _ _ _ _ h => nomatch h

theorem Wf.discTimeout : ∀ a0, Wf.Statement (.discTimeout a0) := fun _ _ h => nomatch h

theorem Wf.threadPrepare : ∀ a0 a1 a2 a3 a4 a5, Wf.Statement (.threadPrepare a0 a1 a2 a3 a4 a5) := fun _ _ _ _ _ _ _ h => nomatch h

theorem Wf.threadCommit : ∀ a0 a1 a2, Wf.Statement (.threadCommit a0 a1 a2) := fun _ _ _ _ h => nomatch h

theorem Wf.prepareReply : ∀ a0 a1 a2 a3, Wf.Statement (.prepareReply a0 a1 a2 a3) := fun _ _ _ _ _ h => nomatch h

theorem Wf.draftPrepare : ∀ a0, Wf.Statement (.draftPrepare a0) := fun _ _ h => nomatch h

theorem Wf.draftCommit : Wf.Statement .draftCommit := fun _ h => nomatch h

theorem Wf.launchPrepare : ∀ a0, Wf.Statement (.launchPrepare a0) := fun _ _ h => nomatch h

theorem Wf.launchStart : ∀ a0 a1, Wf.Statement (.launchStart a0 a1) := fun _ _ _ h => nomatch h

theorem Wf.replacePrepare : ∀ a0 a1 a2, Wf.Statement (.replacePrepare a0 a1 a2) := fun _ _ _ _ h => nomatch h

theorem Wf.replaceCommit : ∀ a0 a1 a2, Wf.Statement (.replaceCommit a0 a1 a2) := fun _ _ _ _ h => nomatch h

theorem Wf.jobStop : ∀ a0 a1, Wf.Statement (.jobStop a0 a1) := fun _ _ _ h => nomatch h

theorem Wf.faultFlit : ∀ a0 a1, Wf.Statement (.faultFlit a0 a1) := fun _ _ _ h => nomatch h

theorem Wf.barrierArriveRx : ∀ a0 a1 a2 a3, Wf.Statement (.barrierArriveRx a0 a1 a2 a3) := fun _ _ _ _ _ h => nomatch h

theorem Wf.barrierReleaseRx : ∀ a0 a1 a2 a3, Wf.Statement (.barrierReleaseRx a0 a1 a2 a3) := fun _ _ _ _ _ h => nomatch h

theorem Wf.barrierTimeout : ∀ a0, Wf.Statement (.barrierTimeout a0) := fun _ _ h => nomatch h

theorem Wf.beatTimingExchange : ∀ a0 a1 a2 a3, Wf.Statement (.beatTimingExchange a0 a1 a2 a3) := fun _ _ _ _ _ h => nomatch h

theorem Wf.beatValue : ∀ a0, Wf.Statement (.beatValue a0) := fun _ _ h => nomatch h

theorem Wf.startBeatReached : Wf.Statement .startBeatReached := fun _ h => nomatch h

theorem Wf.beatMark : Wf.Statement .beatMark := fun _ h => nomatch h

theorem Wf.routedFlit : ∀ a0 a1 a2 a3, Wf.Statement (.routedFlit a0 a1 a2 a3) := fun _ _ _ _ _ h => nomatch h

theorem Wf.rmtRequestRx : ∀ a0 a1 a2, Wf.Statement (.rmtRequestRx a0 a1 a2) := fun _ _ _ _ h => nomatch h

theorem Wf.rmtResponseRx : ∀ a0 a1, Wf.Statement (.rmtResponseRx a0 a1) := fun _ _ _ h => nomatch h

theorem Wf.rmtTimeout : ∀ a0, Wf.Statement (.rmtTimeout a0) := fun _ _ h => nomatch h

theorem Wf.migrateRx : ∀ a0, Wf.Statement (.migrateRx a0) := fun _ _ h => nomatch h

theorem Wf.passSchedule : Wf.Statement .passSchedule := fun _ h => nomatch h

theorem Wf.passStart : ∀ a0, Wf.Statement (.passStart a0) := fun _ _ h => nomatch h

theorem Wf.passOpen : ∀ a0, Wf.Statement (.passOpen a0) := fun _ _ h => nomatch h

theorem Wf.warpInject : ∀ a0 a1, Wf.Statement (.warpInject a0 a1) := fun _ _ _ h => nomatch h

theorem Wf.warpFlitRx : ∀ a0 a1 a2, Wf.Statement (.warpFlitRx a0 a1 a2) := fun _ _ _ _ h => nomatch h

theorem Wf.passCloseBound : ∀ a0, Wf.Statement (.passCloseBound a0) := fun _ _ h => nomatch h

theorem Wf.imageDelivery : ∀ a0, Wf.Statement (.imageDelivery a0) := fun _ _ h => nomatch h

theorem Wf.recallRequestRx : ∀ a0 a1, Wf.Statement (.recallRequestRx a0 a1) := fun _ _ _ h => nomatch h

theorem Wf.recallDataRx : ∀ a0 a1 a2, Wf.Statement (.recallDataRx a0 a1 a2) := fun _ _ _ _ h => nomatch h

theorem Wf.recallRefusedRx : ∀ a0 a1 a2, Wf.Statement (.recallRefusedRx a0 a1 a2) := fun _ _ _ _ h => nomatch h

theorem Wf.recallBudgetExpiry : ∀ a0 a1, Wf.Statement (.recallBudgetExpiry a0 a1) := fun _ _ _ h => nomatch h

theorem Wf.stepCommit : ∀ a0, Wf.Statement (.stepCommit a0) := fun _ _ h => nomatch h

theorem Wf.commandDispatch : ∀ a0, Wf.Statement (.commandDispatch a0) := fun _ _ h => nomatch h

theorem Wf.turnExpiry : ∀ a0, Wf.Statement (.turnExpiry a0) := fun _ _ h => nomatch h

theorem Wf.swapDecision : ∀ a0, Wf.Statement (.swapDecision a0) := fun _ _ h => nomatch h

theorem Wf.contextResident : ∀ a0, Wf.Statement (.contextResident a0) := fun _ _ h => nomatch h

theorem Wf.saveRemoteDeadline : ∀ a0, Wf.Statement (.saveRemoteDeadline a0) := fun _ _ h => nomatch h

theorem Wf.saveDone : ∀ a0, Wf.Statement (.saveDone a0) := fun _ _ h => nomatch h

theorem Wf.restore : ∀ a0, Wf.Statement (.restore a0) := fun _ _ h => nomatch h

theorem Wf.energyInterval : ∀ a0, Wf.Statement (.energyInterval a0) := fun _ _ h => nomatch h

theorem Wf.stepRecordWrite : Wf.Statement .stepRecordWrite := fun _ h => nomatch h

theorem Wf.useCountHalving : Wf.Statement .useCountHalving := fun _ h => nomatch h

theorem Wf.ethFrameRx : ∀ a0, Wf.Statement (.ethFrameRx a0) := fun _ _ h => nomatch h

theorem Wf.pfcPauseRx : ∀ a0 a1, Wf.Statement (.pfcPauseRx a0 a1) := fun _ _ _ h => nomatch h

theorem Wf.cnpRx : ∀ a0, Wf.Statement (.cnpRx a0) := fun _ _ h => nomatch h

theorem Wf.rateRaise : ∀ a0, Wf.Statement (.rateRaise a0) := fun _ _ h => nomatch h

theorem Wf.retryTimeout : ∀ a0, Wf.Statement (.retryTimeout a0) := fun _ _ h => nomatch h

theorem Wf.rnrNakRx : ∀ a0, Wf.Statement (.rnrNakRx a0) := fun _ _ h => nomatch h

theorem Wf.rdmaReadResponse : ∀ a0 a1, Wf.Statement (.rdmaReadResponse a0 a1) := fun _ _ _ h => nomatch h

theorem Wf.attach : ∀ a0 a1 a2 a3 a4, Wf.Statement (.attach a0 a1 a2 a3 a4) := fun _ _ _ _ _ _ h => nomatch h

theorem Wf.ackDeadline : ∀ a0, Wf.Statement (.ackDeadline a0) := fun _ _ h => nomatch h

theorem Wf.eventSend : Wf.Statement .eventSend := fun _ h => nomatch h

theorem Wf.tokenPost : ∀ a0, Wf.Statement (.tokenPost a0) := fun _ _ h => nomatch h

theorem Wf.ringConsReread : ∀ a0 a1, Wf.Statement (.ringConsReread a0 a1) := fun _ _ _ h => nomatch h

theorem Wf.autonegTimeout : Wf.Statement .autonegTimeout := fun _ h => nomatch h

theorem Wf.deviceInfo : ∀ a0, Wf.Statement (.deviceInfo a0) := fun _ _ h => nomatch h

theorem Wf.deviceState : ∀ a0, Wf.Statement (.deviceState a0) := fun _ _ h => nomatch h

theorem Wf.regRead : ∀ a0 a1 a2, Wf.Statement (.regRead a0 a1 a2) := fun _ _ _ _ h => nomatch h

theorem Wf.regWrite : ∀ a0 a1 a2 a3, Wf.Statement (.regWrite a0 a1 a2 a3) := fun _ _ _ _ _ h => nomatch h

theorem Wf.peakClear : ∀ a0 a1 a2 a3, Wf.Statement (.peakClear a0 a1 a2 a3) := fun _ _ _ _ _ h => nomatch h

theorem Wf.rearmLostClear : ∀ a0 a1 a2 a3 a4, Wf.Statement (.rearmLostClear a0 a1 a2 a3 a4) := fun _ _ _ _ _ _ h => nomatch h

theorem Wf.ringEnable : ∀ a0 a1 a2 a3, Wf.Statement (.ringEnable a0 a1 a2 a3) := fun _ _ _ _ _ h => nomatch h

theorem Wf.ringDisable : ∀ a0 a1 a2 a3, Wf.Statement (.ringDisable a0 a1 a2 a3) := fun _ _ _ _ _ h => nomatch h

theorem Wf.ethAddressWrite : ∀ a0 a1 a2 a3, Wf.Statement (.ethAddressWrite a0 a1 a2 a3) := fun _ _ _ _ _ h => nomatch h

theorem Wf.testLock : ∀ a0 a1 a2, Wf.Statement (.testLock a0 a1 a2) := fun _ _ _ _ h => nomatch h

theorem Wf.lock : ∀ a0 a1 a2, Wf.Statement (.lock a0 a1 a2) := fun _ _ _ _ h => nomatch h

theorem Wf.alertClear : ∀ a0 a1 a2, Wf.Statement (.alertClear a0 a1 a2) := fun _ _ _ _ h => nomatch h

theorem Wf.validClear : ∀ a0 a1 a2 a3, Wf.Statement (.validClear a0 a1 a2 a3) := fun _ _ _ _ _ h => nomatch h

theorem Wf.traceEnable : ∀ a0 a1 a2 a3, Wf.Statement (.traceEnable a0 a1 a2 a3) := fun _ _ _ _ _ h => nomatch h

theorem Wf.attest : ∀ a0 a1, Wf.Statement (.attest a0 a1) := fun _ _ _ h => nomatch h

theorem Wf.enrolPublisher : ∀ a0 a1 a2 a3, Wf.Statement (.enrolPublisher a0 a1 a2 a3) := fun _ _ _ _ _ h => nomatch h

theorem Wf.revokePublisher : ∀ a0 a1 a2, Wf.Statement (.revokePublisher a0 a1 a2) := fun _ _ _ _ h => nomatch h

theorem Wf.discover : ∀ a0, Wf.Statement (.discover a0) := fun _ _ h => nomatch h

theorem Wf.threadLoom : ∀ a0 a1, Wf.Statement (.threadLoom a0 a1) := fun _ _ _ h => nomatch h

theorem Wf.beatAlign : ∀ a0, Wf.Statement (.beatAlign a0) := fun _ _ h => nomatch h

theorem Wf.loadWarpShard : ∀ a0 a1 a2, Wf.Statement (.loadWarpShard a0 a1 a2) := fun _ _ _ _ h => nomatch h

theorem Wf.loadWeft : ∀ a0 a1 a2 a3 a4, Wf.Statement (.loadWeft a0 a1 a2 a3 a4) := fun _ _ _ _ _ _ h => nomatch h

theorem Wf.evict : ∀ a0 a1 a2, Wf.Statement (.evict a0 a1 a2) := fun _ _ _ _ h => nomatch h

theorem Wf.replaceWarp : ∀ a0 a1 a2 a3, Wf.Statement (.replaceWarp a0 a1 a2 a3) := fun _ _ _ _ _ h => nomatch h

theorem Wf.replaceWeft : ∀ a0 a1 a2 a3 a4, Wf.Statement (.replaceWeft a0 a1 a2 a3 a4) := fun _ _ _ _ _ _ h => nomatch h

theorem Wf.setDraft : ∀ a0 a1, Wf.Statement (.setDraft a0 a1) := fun _ _ _ h => nomatch h

theorem Wf.pageSupply : ∀ a0 a1 a2 a3, Wf.Statement (.pageSupply a0 a1 a2 a3) := fun _ _ _ _ _ h => nomatch h

theorem Wf.loadProgram : ∀ a0 a1, Wf.Statement (.loadProgram a0 a1) := fun _ _ _ h => nomatch h

theorem Wf.createContext : ∀ a0 a1 a2 a3 a4 a5 a6 a7 a8 a9 a10, Wf.Statement (.createContext a0 a1 a2 a3 a4 a5 a6 a7 a8 a9 a10) := fun _ _ _ _ _ _ _ _ _ _ _ _ h => nomatch h

theorem Wf.launch : ∀ a0 a1, Wf.Statement (.launch a0 a1) := fun _ _ _ h => nomatch h

theorem Wf.preempt : ∀ a0 a1 a2, Wf.Statement (.preempt a0 a1 a2) := fun _ _ _ _ h => nomatch h

theorem Wf.resume : ∀ a0 a1, Wf.Statement (.resume a0 a1) := fun _ _ _ h => nomatch h

theorem Wf.destroyContext : ∀ a0 a1, Wf.Statement (.destroyContext a0 a1) := fun _ _ _ h => nomatch h

theorem Wf.openSession : ∀ a0 a1 a2 a3 a4 a5 a6 a7, Wf.Statement (.openSession a0 a1 a2 a3 a4 a5 a6 a7) := fun _ _ _ _ _ _ _ _ _ h => nomatch h

theorem Wf.feedPrompt : ∀ a0 a1 a2 a3 a4 a5, Wf.Statement (.feedPrompt a0 a1 a2 a3 a4 a5) := fun _ _ _ _ _ _ _ h => nomatch h

theorem Wf.closeSession : ∀ a0 a1, Wf.Statement (.closeSession a0 a1) := fun _ _ _ h => nomatch h

theorem Wf.migrateSession : ∀ a0 a1 a2 a3, Wf.Statement (.migrateSession a0 a1 a2 a3) := fun _ _ _ _ _ h => nomatch h

theorem Wf.ledgerRead : ∀ a0 a1 a2 a3, Wf.Statement (.ledgerRead a0 a1 a2 a3) := fun _ _ _ _ _ h => nomatch h

theorem Wf.ledgerClear : ∀ a0 a1 a2 a3, Wf.Statement (.ledgerClear a0 a1 a2 a3) := fun _ _ _ _ _ h => nomatch h

theorem Wf.calRead : ∀ a0 a1 a2, Wf.Statement (.calRead a0 a1 a2) := fun _ _ _ _ h => nomatch h

theorem Wf.calWrite : ∀ a0 a1 a2, Wf.Statement (.calWrite a0 a1 a2) := fun _ _ _ _ h => nomatch h

theorem Wf.setMode : ∀ a0 a1, Wf.Statement (.setMode a0 a1) := fun _ _ _ h => nomatch h

theorem Wf.setPowerPlan : ∀ a0 a1, Wf.Statement (.setPowerPlan a0 a1) := fun _ _ _ h => nomatch h

theorem Wf.setClockPlan : ∀ a0 a1, Wf.Statement (.setClockPlan a0 a1) := fun _ _ _ h => nomatch h

theorem Wf.claimResource : ∀ a0 a1 a2 a3, Wf.Statement (.claimResource a0 a1 a2 a3) := fun _ _ _ _ _ h => nomatch h

theorem Wf.releaseResource : ∀ a0 a1, Wf.Statement (.releaseResource a0 a1) := fun _ _ _ h => nomatch h

theorem Wf.powerOn : ∀ a0 a1, Wf.Statement (.powerOn a0 a1) := fun _ _ _ h => nomatch h

theorem Wf.reset : ∀ a0 a1, Wf.Statement (.reset a0 a1) := fun _ _ _ h => nomatch h

theorem Wf.phaseDone : ∀ a0, Wf.Statement (.phaseDone a0) := fun _ _ h => nomatch h

theorem Wf.aclkTransition : Wf.Statement .aclkTransition := fun _ h => nomatch h

theorem Wf.aclkRestart : Wf.Statement .aclkRestart := fun _ h => nomatch h

theorem Wf.vddRampDone : Wf.Statement .vddRampDone := fun _ h => nomatch h

theorem Wf.rootLockLost : Wf.Statement .rootLockLost := fun _ h => nomatch h

theorem Wf.powerEvaluation : ∀ a0, Wf.Statement (.powerEvaluation a0) := fun _ _ h => nomatch h

theorem Wf.thermalWarn : ∀ a0 a1, Wf.Statement (.thermalWarn a0 a1) := fun _ _ _ h => nomatch h

theorem Wf.thermTrip : ∀ a0, Wf.Statement (.thermTrip a0) := fun _ _ h => nomatch h

theorem Wf.freeze : Wf.Statement .freeze := fun _ h => nomatch h

theorem Wf.idcode : Wf.Statement .idcode := fun _ h => nomatch h

theorem Wf.samplePreload : Wf.Statement .samplePreload := fun _ h => nomatch h

theorem Wf.extest : Wf.Statement .extest := fun _ h => nomatch h

theorem Wf.ijtag : ∀ a0, Wf.Statement (.ijtag a0) := fun _ _ h => nomatch h

theorem Wf.bypass : Wf.Statement .bypass := fun _ h => nomatch h

theorem Wf.vaultReadout : ∀ a0 a1, Wf.Statement (.vaultReadout a0 a1) := fun _ _ _ h => nomatch h

theorem Wf.traceTrigIn : ∀ a0, Wf.Statement (.traceTrigIn a0) := fun _ _ h => nomatch h

theorem Wf.clerkWatchdog : ∀ a0 a1, Wf.Statement (.clerkWatchdog a0 a1) := fun _ _ _ h => nomatch h

theorem Wf.prepareAbort : ∀ a0, Wf.Statement (.prepareAbort a0) := fun _ _ h => nomatch h

theorem Wf.lastRead : ∀ a0 a1, Wf.Statement (.lastRead a0 a1) := fun _ _ _ h => nomatch h

theorem Wf.powerOff : Wf.Statement .powerOff := fun _ h => nomatch h

theorem Wf.flashWriteDone : Wf.Statement .flashWriteDone := fun _ h => nomatch h

theorem Wf.quoteSigned : Wf.Statement .quoteSigned := fun _ h => nomatch h

theorem Wf.ethLaneLockChange : ∀ a0 a1, Wf.Statement (.ethLaneLockChange a0 a1) := fun _ _ _ h => nomatch h

theorem Wf.vddIoInWindow : ∀ a0, Wf.Statement (.vddIoInWindow a0) := fun _ _ h => nomatch h

theorem Wf.trstN : Wf.Statement .trstN := fun _ h => nomatch h

end Sys2Proof.Laws
end

