-- ==== Sys2Proof/Laws/Shared.lean ====
section
/-!
SUPPORT. What each shared operation can do: register words, the trace, events, the ledger, messages to the host, the arrival of
a command, and the free values. A proof about a command cites these and unfolds none of them.
-/
namespace Sys2Proof.Laws
open Sys2Proof.Machine Sys2Proof.Safety

/-! ### Register words and fields -/

@[simp] theorem raw_setRaw_self (s : State) (off : Nat) (w : W64) : (s.setRaw off w).raw off = w := by
  simp [State.raw, State.setRaw]

theorem raw_setRaw_ne (s : State) (off j : Nat) (w : W64) (h : j ≠ off) : (s.setRaw off w).raw j = s.raw j :=
  SMap.get_set_ne _ _ _ _ _ _ h

theorem raw_setFld_ne (s : State) (f : Fld) (v j : Nat) (h : j ≠ f.off) : (s.setFld f v).raw j = s.raw j :=
  raw_setRaw_ne _ _ _ _ h

theorem fld_setFld_ne (s : State) (f g : Fld) (v : Nat) (h : g.off ≠ f.off) : (s.setFld f v).fld g = s.fld g := by
  simp [State.fld, raw_setFld_ne _ _ _ _ h]

theorem testBit_insert (f : Fld) (w : W64) (v i : Nat) (h : f.lo + f.width ≤ 64) :
    (f.insert w v).toNat.testBit i =
      if f.lo ≤ i ∧ i < f.lo + f.width then v.testBit (i - f.lo) else w.toNat.testBit i := by
  by_cases hi : i < 64
  · have e : ∀ x : Nat, (x % 2 ^ f.width * 2 ^ f.lo).testBit i =
        (decide (f.lo ≤ i ∧ i < f.lo + f.width) && x.testBit (i - f.lo)) := by
      intro x
      rw [Nat.mul_comm, Nat.testBit_two_pow_mul]
      by_cases hl : f.lo ≤ i
      · by_cases hw : i < f.lo + f.width
        · simp [hl, hw, Nat.testBit_mod_two_pow, show i - f.lo < f.width by omega]
        · simp [hl, hw, Nat.testBit_mod_two_pow, show ¬i - f.lo < f.width by omega]
      · simp [hl]
    have m : ((2 ^ f.width - 1) * 2 ^ f.lo).testBit i = decide (f.lo ≤ i ∧ i < f.lo + f.width) := by
      have := e (2 ^ f.width - 1)
      rw [Nat.mod_eq_of_lt (by have := Nat.two_pow_pos f.width; omega)] at this
      rw [this, Nat.testBit_two_pow_sub_one]
      by_cases hl : f.lo ≤ i ∧ i < f.lo + f.width
      · simp [hl, show i - f.lo < f.width by omega]
      · simp [hl]
    have toB : ∀ x : W64, x.toNat.testBit i = x.getLsbD i := fun x => rfl
    rw [toB, toB]
    simp only [Fld.insert, Fld.mask, BitVec.getLsbD_or, BitVec.getLsbD_and, BitVec.getLsbD_not, BitVec.getLsbD_ofNat, hi, e, m]
    by_cases hl : f.lo ≤ i ∧ i < f.lo + f.width <;> simp [hl]
  · have a : (f.insert w v).toNat.testBit i = false :=
      Nat.testBit_lt_two_pow (Nat.lt_of_lt_of_le (f.insert w v).isLt (Nat.pow_le_pow_right (by decide) (by omega)))
    have b : w.toNat.testBit i = false :=
      Nat.testBit_lt_two_pow (Nat.lt_of_lt_of_le w.isLt (Nat.pow_le_pow_right (by decide) (by omega)))
    rw [a, b, if_neg (by omega)]

/-- A field that has been written reads as what was written, modulo its width. -/
theorem fld_setFld_self (s : State) (f : Fld) (v : Nat) (h : f.lo + f.width ≤ 64) :
    (s.setFld f v).fld f = v % 2 ^ f.width := by
  apply Nat.eq_of_testBit_eq
  intro i
  simp only [State.fld, State.setFld, raw_setRaw_self, Nat.testBit_mod_two_pow, Nat.testBit_div_two_pow,
    testBit_insert _ _ _ _ h]
  by_cases hi : i < f.width
  · simp [hi, show i + f.lo < f.lo + f.width by omega]
  · simp [hi]

/-- A field of the same register that does not overlap the one written keeps its value. -/
theorem fld_setFld_apart (s : State) (f g : Fld) (v : Nat) (h : f.lo + f.width ≤ 64) (ho : g.off = f.off)
    (ha : g.lo + g.width ≤ f.lo ∨ f.lo + f.width ≤ g.lo) : (s.setFld f v).fld g = s.fld g := by
  apply Nat.eq_of_testBit_eq
  intro i
  simp only [State.fld, State.setFld, ho, raw_setRaw_self, Nat.testBit_mod_two_pow, Nat.testBit_div_two_pow,
    testBit_insert _ _ _ _ h]
  by_cases hi : i < g.width
  · rw [if_neg (by omega)]
  · simp [hi]

/-! ### What a message or a trace record may change -/

theorem kept_refl (s : State) : Kept s s := ⟨rfl, fun _ _ => rfl⟩

theorem kept_trans {s t u : State} (h : Kept s t) (k : Kept t u) : Kept s u :=
  ⟨Eq.trans k.1 h.1, fun off ho => (k.2 off ho).trans (h.2 off ho)⟩

theorem kept_foldl {α : Type} (f : State → α → State) (l : List α) (hf : ∀ s, ∀ a ∈ l, Kept s (f s a)) (s : State) :
    Kept s (l.foldl f s) := by
  induction l generalizing s with
  | nil => exact kept_refl s
  | cons a l ih =>
    exact kept_trans (hf s a (by simp)) (ih (fun s b hb => hf s b (by simp [hb])) _)

theorem kept_setRaw (s : State) (off : Nat) (w : W64) (h : Mail off) : Kept s (s.setRaw off w) :=
  ⟨rfl, fun j hj => raw_setRaw_ne s off j w fun e => hj (e ▸ h)⟩

theorem kept_setFld (s : State) (f : Fld) (v : Nat) (h : Mail f.off) : Kept s (s.setFld f v) := kept_setRaw _ _ _ h

theorem kept_fld {s t : State} (h : Kept s t) (f : Fld) (hf : ¬Mail f.off) : t.fld f = s.fld f := by
  simp [State.fld, h.2 _ hf]

theorem kept_beat {s t : State} (h : Kept s t) : t.beat = s.beat := by
  simp [State.beat, h.2 Reg.beatCount (by unfold Mail Reg.beatCount; omega)]

theorem kept_devState {s t : State} (h : Kept s t) : t.devState = s.devState :=
  kept_fld h Fld.devState_state (by simp [Mail, Fld.devState_state, Reg.devState])

/-- A further update that keeps what a message keeps. -/
theorem kept_ite {s a b : State} {c : Prop} [Decidable c] (ha : Kept s a) (hb : Kept s b) : Kept s (if c then a else b) := by
  split
  · exact ha
  · exact hb

theorem kept_then_setFld {s t : State} (h : Kept s t) (f : Fld) (v : Nat) (m : Mail f.off) : Kept s (t.setFld f v) :=
  kept_trans h (kept_setFld t f v m)

theorem kept_then_trace {s t : State} (h : Kept s t) (m : Mem) : Kept s { t with trace := m } :=
  kept_trans h ⟨rfl, fun _ _ => rfl⟩

theorem kept_then_traceLeft {s t : State} (h : Kept s t) (m : SMap Nat) : Kept s { t with traceLeft := m } :=
  kept_trans h ⟨rfl, fun _ _ => rfl⟩

theorem kept_drive (s : State) (f : Nat) (high : Bool) : Kept s (s.drive f high) := ⟨rfl, fun _ _ => rfl⟩

theorem kept_traceTrigger {s t : State} (k : Kept s t) (i ix : Nat) (h : i < 8) : Kept s (t.traceTrigger i ix) := by
  have a : Mail (Fld.dbgTracePos_trigIndex i).off := by
    simp only [Mail, Fld.dbgTracePos_trigIndex, Reg.dbgTracePos]; omega
  have b : Mail Fld.dbgStatus_triggered.off := by simp [Mail, Fld.dbgStatus_triggered, Reg.dbgStatus]
  unfold State.traceTrigger
  refine kept_ite k ?_
  extract_lets s1 s2 s3
  have h3 : Kept s s3 := kept_then_traceLeft (kept_then_setFld (kept_then_setFld k _ _ b) _ _ a) _
  exact kept_ite (kept_trans h3 (kept_drive _ _ _)) h3

theorem kept_traceInto {s t : State} (k : Kept s t) (src : Nat) (rec : Bytes) (i : Nat) (h : i < 8) :
    Kept s (t.traceInto src rec i) := by
  have a : Mail (Fld.dbgTracePos_index i).off := by simp only [Mail, Fld.dbgTracePos_index, Reg.dbgTracePos]; omega
  have b : Mail (Fld.dbgTracePos_wrapped i).off := by simp only [Mail, Fld.dbgTracePos_wrapped, Reg.dbgTracePos]; omega
  have c : Mail (Fld.dbgTracePos_stopped i).off := by simp only [Mail, Fld.dbgTracePos_stopped, Reg.dbgTracePos]; omega
  unfold State.traceInto
  refine kept_ite ?_ k
  extract_lets ix mode trig s1 s2 s3 left s4 stop
  have h2 : Kept s s2 := kept_then_setFld (kept_then_trace k _) _ _ a
  have h3 : Kept s s3 := kept_ite (kept_then_setFld h2 _ _ b) h2
  have h4 : Kept s s4 := kept_ite (kept_then_traceLeft h3 _) (kept_ite (kept_traceTrigger h3 i ix h) h3)
  exact kept_ite (kept_then_setFld h4 _ _ c) h4

theorem kept_traceRec (s : State) (src code core id : Nat) (data : Bytes) : Kept s (s.traceRec src code core id data) := by
  unfold State.traceRec
  extract_lets rec'
  exact kept_foldl (fun s i => s.traceInto src rec' i) (List.range 8)
    (fun s i hi => kept_traceInto (kept_refl s) src rec' i (List.mem_range.1 hi)) s

/-- Raising an event changes only what a message may change. -/
theorem kept_raise (s : State) (code id : Nat) (value : W64) (data : Bytes) (loc : Option (Nat × Nat)) :
    Kept s (s.raise code id value data loc) := by
  have a : Mail Fld.ethEvtDropped_count.off := by simp [Mail, Fld.ethEvtDropped_count, Reg.ethEvtDropped]
  unfold State.raise
  extract_lets e full n eth eth2 s1 s2
  have h1 : Kept s s1 := ⟨rfl, fun _ _ => rfl⟩
  have h2 : Kept s s2 := kept_ite (kept_then_setFld h1 _ _ a) h1
  exact kept_trans h2 (kept_traceRec s2 _ _ _ _ _)

theorem kept_charge (s : State) (acct counter n : Nat) : Kept s (s.charge acct counter n) := by
  unfold State.charge
  split <;> exact ⟨rfl, fun _ _ => rfl⟩

theorem kept_modQp (s : State) (q : Nat) (f : Qp → Qp) : Kept s (s.modQp q f) := ⟨rfl, fun _ _ => rfl⟩

theorem kept_qpRequest (s : State) (q n : Nat) (fs : List SentFrame) (h : q < 1024) : Kept s (s.qpRequest q n fs) := by
  have a : Mail (Fld.ethQpPsn_nextSend q).off := by simp only [Mail, Fld.ethQpPsn_nextSend, Reg.ethQpPsn]; omega
  exact kept_trans (kept_setFld s _ _ a) (kept_modQp _ _ _)

theorem kept_putFrames (s : State) (fs : List SentFrame) : Kept s (s.putFrames fs) := by
  have a : Mail Fld.ethTxFrames_count.off := by simp [Mail, Fld.ethTxFrames_count, Reg.ethTxFrames]
  have h : ∀ e : Eth, Kept s { s with eth := e } := fun _ => ⟨rfl, fun _ _ => rfl⟩
  exact kept_trans (h _) (kept_setFld _ _ _ a)

theorem kept_qpSend (s : State) (q : Nat) (bs : List SentBody) (h : q < 1024) : Kept s (s.qpSend q bs) :=
  kept_trans (kept_putFrames s _) (kept_qpRequest _ _ _ _ h)

/-- An RDMA WRITE changes only what a message may change. -/
theorem kept_qpWrite (s : State) (q : Nat) (addr : W64) (rkey : W32) (bs : Bytes) (h : q < 1024) : Kept s (s.qpWrite q addr rkey bs) :=
  kept_qpSend s q _ h

/-- An RDMA READ request changes only what a message may change. -/
theorem kept_qpRead (s : State) (q : Nat) (addr : W64) (rkey : W32) (n : Nat) (h : q < 1024) : Kept s (s.qpRead q addr rkey n) :=
  kept_trans (kept_putFrames s _) (kept_qpRequest _ _ _ _ h)

theorem kept_transmit (s : State) (m : CmdMsg) : Kept s (s.transmit m) := by
  have h : ∀ e : Eth, Kept s { s with eth := e } := fun _ => ⟨rfl, fun _ _ => rfl⟩
  exact kept_trans (h _) (kept_qpSend _ 0 _ (by decide))

theorem kept_send (s : State) (m : CmdMsg) : Kept s (s.send m) := by
  have h : ∀ e : Eth, Kept s { s with eth := e } := fun _ => ⟨rfl, fun _ _ => rfl⟩
  exact kept_ite (h _) (kept_ite (h _) (kept_transmit s m))

theorem kept_settle (s : State) (seq : W64) (c : Completion) : Kept s (s.settle seq c) := ⟨rfl, fun _ _ => rfl⟩

theorem kept_hold (s : State) (seq : W64) (c : Option Completion) : Kept s (s.hold seq c) := ⟨rfl, fun _ _ => rfl⟩

/-- Completing a command changes only what a message may change. -/
theorem kept_completeAs (s : State) (code : Nat) (seq : W64) (b : Nat) (a : Answer) : Kept s (s.completeAs code seq b a) := by
  unfold State.completeAs
  extract_lets phase c rx s1 eth s2 s3
  have h1 : Kept s s1 := kept_charge s _ _ _
  have h2 : Kept s1 s2 := ⟨rfl, fun _ _ => rfl⟩
  have h3 : Kept s2 s3 := kept_trans (kept_settle s2 seq c) (kept_send (s2.settle seq c) (.done c))
  exact kept_trans h1 (kept_trans h2 (kept_trans h3 (kept_traceRec s3 _ _ _ _ _)))

theorem kept_complete (s : State) (seq : W64) (a : Answer) : Kept s (s.complete seq a) := by
  unfold State.complete
  split
  · exact kept_completeAs _ _ _ _ _
  · exact kept_refl s

theorem kept_takeSeq (s : State) (code : Nat) (seq : W64) : Kept s (s.takeSeq code seq) := by
  unfold State.takeSeq
  extract_lets s1 eth s2
  have h1 : Kept s s1 := kept_hold s seq none
  have h2 : Kept s1 s2 := ⟨rfl, fun _ _ => rfl⟩
  exact kept_trans h1 (kept_trans h2 (kept_traceRec s2 _ _ _ _ _))

theorem kept_enter (s : State) (code : Nat) (seq : W64) (fresh : Bool) : Kept s (s.enter code seq fresh) :=
  ⟨rfl, fun _ _ => rfl⟩

theorem kept_modRunning (s : State) (seq : W64) (f : Running → Running) : Kept s (s.modRunning seq f) :=
  ⟨rfl, fun _ _ => rfl⟩

/-! ### The error log -/

/-- An entry of the error log changes, beside what a message may change, only registers of the ERR block. -/
theorem logError_frame (s : State) (cls unit : Nat) (a b : W64) (hc : cls < 64) :
    Rest s (s.logError cls unit a b) ∧
    ∀ off, ¬Mail off → (off < 0xB0000 ∨ 0xC0000 ≤ off) → (s.logError cls unit a b).raw off = s.raw off := by
  have keep : ∀ (x : State) (f : Fld) (v : Nat), 0xB0000 ≤ f.off ∧ f.off < 0xC0000 →
      (Rest s x ∧ ∀ off, ¬Mail off → (off < 0xB0000 ∨ 0xC0000 ≤ off) → x.raw off = s.raw off) →
      (Rest s (x.setFld f v) ∧ ∀ off, ¬Mail off → (off < 0xB0000 ∨ 0xC0000 ≤ off) → (x.setFld f v).raw off = s.raw off) :=
    fun x f v hf hx => ⟨hx.1, fun off h1 h2 => (raw_setFld_ne x f v off (by omega)).trans (hx.2 off h1 h2)⟩
  have keepRaw : ∀ (x : State) (o : Nat) (v : W64), 0xB0000 ≤ o ∧ o < 0xC0000 →
      (Rest s x ∧ ∀ off, ¬Mail off → (off < 0xB0000 ∨ 0xC0000 ≤ off) → x.raw off = s.raw off) →
      (Rest s (x.setRaw o v) ∧ ∀ off, ¬Mail off → (off < 0xB0000 ∨ 0xC0000 ≤ off) → (x.setRaw o v).raw off = s.raw off) :=
    fun x o v hf hx => ⟨hx.1, fun off h1 h2 => (raw_setRaw_ne x o off v (by omega)).trans (hx.2 off h1 h2)⟩
  have log : ∀ i j, i < 1024 → j < 4 → 0xB0000 ≤ Reg.errLog i j ∧ Reg.errLog i j < 0xC0000 := by
    intro i j hi hj
    unfold Reg.errLog
    omega
  have hn : s.fld Fld.errStatus_next % 1024 < 1024 := Nat.mod_lt _ (by decide)
  have st : ∀ f ∈ [Fld.errStatus_next, Fld.errStatus_overwritten, Fld.errStatus_alert], 0xB0000 ≤ f.off ∧ f.off < 0xC0000 := by
    decide
  unfold State.logError
  extract_lets n full w0 i s1 s2 s3 s4 s5 s6 s7 lvl s8 quiet eth s9
  have h4 := keepRaw s3 _ b (log i 3 hn (by decide)) (keepRaw s2 _ a (log i 2 hn (by decide))
    (keepRaw s1 _ (BitVec.ofNat 64 s1.beat) (log i 1 hn (by decide)) (keepRaw s _ w0 (log i 0 hn (by decide)) ⟨rfl, fun _ _ _ => rfl⟩)))
  have h5 := keep s4 Fld.errStatus_next (s4.fld Fld.errStatus_next + 1) (st _ (by simp)) h4
  have h6 : Rest s s6 ∧ ∀ off, ¬Mail off → (off < 0xB0000 ∨ 0xC0000 ≤ off) → s6.raw off = s.raw off := by
    simp only [s6]
    split
    · exact keep s5 _ _ (st _ (by simp)) h5
    · exact h5
  have h7 := keep s6 (Fld.errCount_count cls) (min (s6.fld (Fld.errCount_count cls) + 1) (2 ^ (Fld.errCount_count cls).width - 1))
    (by simp only [Fld.errCount_count, Reg.errCount]; omega) h6
  have h8 : Rest s s8 ∧ ∀ off, ¬Mail off → (off < 0xB0000 ∨ 0xC0000 ≤ off) → s8.raw off = s.raw off := by
    simp only [s8]
    split
    · exact keep s7 _ _ (st _ (by simp)) h7
    · exact h7
  split
  · exact h8
  · have h9 : Kept s9 (s9.raise 0x0040 0 (BitVec.ofNat 64 n) (leBytes w0.toNat 8 ++ leBytes a.toNat 8)) := kept_raise _ _ _ _ _ _
    have r9 : Rest s8 s9 := rfl
    exact ⟨h9.1.trans (r9.trans h8.1), fun off h1 h2 => (h9.2 off h1).trans (h8.2 off h1 h2)⟩

theorem traceTrigger_eth (s : State) (i ix : Nat) :
    (s.traceTrigger i ix).eth = s.eth ∧ (s.traceTrigger i ix).ledger = s.ledger := by
  unfold State.traceTrigger
  split
  · exact ⟨rfl, rfl⟩
  · dsimp only
    split <;> exact ⟨rfl, rfl⟩

theorem traceInto_eth (s : State) (src : Nat) (rec : Bytes) (i : Nat) :
    (s.traceInto src rec i).eth = s.eth ∧ (s.traceInto src rec i).ledger = s.ledger := by
  unfold State.traceInto
  split
  · extract_lets ix mode trig s1 s2 s3 left s4 stop
    have h3 : s3.eth = s.eth ∧ s3.ledger = s.ledger := by
      simp only [s3]
      split <;> exact ⟨rfl, rfl⟩
    have h4 : s4.eth = s.eth ∧ s4.ledger = s.ledger := by
      simp only [s4]
      split
      · exact h3
      · split
        · exact ⟨(traceTrigger_eth _ _ _).1.trans h3.1, (traceTrigger_eth _ _ _).2.trans h3.2⟩
        · exact h3
    split
    · exact h4
    · exact h4
  · exact ⟨rfl, rfl⟩

/-- A trace record leaves the Ethernet port's record and the accounts alone. -/
theorem traceRec_eth (s : State) (src code core id : Nat) (data : Bytes) :
    (s.traceRec src code core id data).eth = s.eth ∧ (s.traceRec src code core id data).ledger = s.ledger := by
  unfold State.traceRec
  extract_lets rec'
  have step : ∀ (l : List Nat) (x : State), (l.foldl (fun s i => s.traceInto src rec' i) x).eth = x.eth ∧
      (l.foldl (fun s i => s.traceInto src rec' i) x).ledger = x.ledger := by
    intro l
    induction l with
    | nil => exact fun x => ⟨rfl, rfl⟩
    | cons i l ih =>
      intro x
      have h := ih (x.traceInto src rec' i)
      have k := traceInto_eth x src rec' i
      exact ⟨h.1.trans k.1, h.2.trans k.2⟩
  exact step (List.range 8) s

/-! ### The fields that `Rest` keeps -/

theorem rest_pending {s t : State} (h : Rest s t) : t.pending = s.pending := by
  have e := congrArg State.pending h
  exact e

theorem rest_freeCtr {s t : State} (h : Rest s t) : t.freeCtr = s.freeCtr := by
  have e := congrArg State.freeCtr h
  exact e

theorem rest_cores {s t : State} (h : Rest s t) : t.cores = s.cores := by
  have e := congrArg State.cores h
  exact e

theorem rest_cmap {s t : State} (h : Rest s t) : t.cmap = s.cmap := by
  have e := congrArg State.cmap h
  exact e

theorem rest_vault {s t : State} (h : Rest s t) : t.vault = s.vault := by
  have e := congrArg State.vault h
  exact e

theorem rest_vpages {s t : State} (h : Rest s t) : t.vpages = s.vpages := by
  have e := congrArg State.vpages h
  exact e

theorem rest_vstacks {s t : State} (h : Rest s t) : t.vstacks = s.vstacks := by
  have e := congrArg State.vstacks h
  exact e

theorem rest_ports {s t : State} (h : Rest s t) : t.ports = s.ports := by
  have e := congrArg State.ports h
  exact e

theorem rest_bundles {s t : State} (h : Rest s t) : t.bundles = s.bundles := by
  have e := congrArg State.bundles h
  exact e

theorem rest_loom {s t : State} (h : Rest s t) : t.loom = s.loom := by
  have e := congrArg State.loom h
  exact e

theorem rest_rmt {s t : State} (h : Rest s t) : t.rmt = s.rmt := by
  have e := congrArg State.rmt h
  exact e

theorem rest_rmtIn {s t : State} (h : Rest s t) : t.rmtIn = s.rmtIn := by
  have e := congrArg State.rmtIn h
  exact e

theorem rest_warp {s t : State} (h : Rest s t) : t.warp = s.warp := by
  have e := congrArg State.warp h
  exact e

theorem rest_sched {s t : State} (h : Rest s t) : t.sched = s.sched := by
  have e := congrArg State.sched h
  exact e

theorem rest_sessions {s t : State} (h : Rest s t) : t.sessions = s.sessions := by
  have e := congrArg State.sessions h
  exact e

theorem rest_sec {s t : State} (h : Rest s t) : t.sec = s.sec := by
  have e := congrArg State.sec h
  exact e

theorem rest_cal {s t : State} (h : Rest s t) : t.cal = s.cal := by
  have e := congrArg State.cal h
  exact e

theorem rest_clerkSram {s t : State} (h : Rest s t) : t.clerkSram = s.clerkSram := by
  have e := congrArg State.clerkSram h
  exact e

theorem rest_clerks {s t : State} (h : Rest s t) : t.clerks = s.clerks := by
  have e := congrArg State.clerks h
  exact e

theorem rest_claims {s t : State} (h : Rest s t) : t.claims = s.claims := by
  have e := congrArg State.claims h
  exact e

theorem rest_nextClaim {s t : State} (h : Rest s t) : t.nextClaim = s.nextClaim := by
  have e := congrArg State.nextClaim h
  exact e

theorem rest_sys {s t : State} (h : Rest s t) : { t.sys with gpioOut := 0 } = { s.sys with gpioOut := 0 } := by
  have e := congrArg State.sys h
  exact e

/-! ### The arrival of a command -/

theorem kept_stateRefusal {s t : State} (h : Kept s t) (st : States) : t.stateRefusal st = s.stateRefusal st := by
  have hf : t.fld Fld.devState_faultCause = s.fld Fld.devState_faultCause :=
    kept_fld h _ (by simp [Mail, Fld.devState_faultCause, Reg.devState])
  simp only [State.stateRefusal, State.isOrigin, kept_devState h, rest_loom h.1, hf]
  rfl

/-- The state in which a command that may begin at once has its effect: its SEQ is recorded and it runs. -/
def begun (s : State) (code : Nat) (seq : W64) (names : List (Nat × Nat)) : State :=
  ((s.takeSeq code seq).enter code seq true).modRunning seq fun r => { r with fresh := false, names := names }

theorem kept_begun (s : State) (code : Nat) (seq : W64) (names : List (Nat × Nat)) : Kept s (begun s code seq names) :=
  kept_trans (kept_takeSeq s code seq) (kept_trans (kept_enter _ code seq true) (kept_modRunning _ _ _))

theorem holdsUp_last (seq : W64) (names : List (Nat × Nat)) (rs : List Running) (r : Running) (hr : r.seq = seq)
    (h : ∀ q ∈ rs, q.seq ≠ seq ∧ q.fresh = false ∧ q.unsettled = false) :
    holdsUp seq names (rs ++ [r]) = false := by
  induction rs with
  | nil => simp [holdsUp, hr]
  | cons q rs ih =>
    have hq := h q (by simp)
    simp [holdsUp, hq.1, hq.2.1, hq.2.2, ih fun x hx => h x (by simp [hx])]

/-- A list of pages stands as it is. -/
theorem pagesStand_refl (m : SMap PageSt) : pagesStand m m = true := by simp [pagesStand]

/-- What changes no context changes no page that a running command maps. -/
theorem pagesKept_of_ctxs {s t : State} (hc : t.sched.ctxs = s.sched.ctxs) : s.pagesKept t = true := by
  simp only [State.pagesKept, List.all_eq_true]
  intro e _
  split
  · simp only [State.ctx, hc]
    exact pagesStand_refl _
  · rfl

/-- A message, and what takes a command in, changes no page. -/
theorem pagesKept_of_kept {s t : State} (h : Kept s t) : s.pagesKept t = true := pagesKept_of_ctxs (by rw [rest_sched h.1])

/-- Where nothing runs, every page may change. -/
theorem pagesKept_of_idle {s t : State} (h : t.sched.cmds = []) : s.pagesKept t = true := by simp [State.pagesKept, h]

/-- A command that nothing holds up, and that changes no page that a running command maps, has its effect. -/
theorem start_runs {x y : State} {seq : W64} {names : List (Nat × Nat)} {run : State → State}
    (h1 : holdsUp seq names x.eth.running = false)
    (h2 : (x.modRunning seq fun r => { r with fresh := false, waits := false, names := names }) = y)
    (h3 : x.pagesKept (run y) = true) : x.start seq names run = run y := by
  unfold State.start
  rw [h1, h2]
  dsimp only
  rw [h3]
  rfl

/-- A command that arrives and may begin at once has its effect on `begun`, where it changes no page that a running command
maps. -/
theorem genotOn_begins {s : State} {seq : W64} {a b c : Prop} (h : Arrives s seq a b c) (names : List (Nat × Nat)) (code : Nat)
    (st : States) (hs : s.stateRefusal st = none) (run : State → State)
    (hk : s.pagesKept (run (begun s code seq names)) = true) :
    genotOn names code seq st run s = .next (run (begun s code seq names)) := by
  obtain ⟨hp, h0, hh, ho, hr, hl, hd⟩ := h
  have hd' : s.devState ≠ stBringup := by
    unfold stBringup
    rcases hd with h | h | h <;> rw [h.1] <;> decide
  have k := kept_takeSeq s code seq
  have e1 : (s.takeSeq code seq).eth.running = s.eth.running := by
    unfold State.takeSeq
    rw [(traceRec_eth _ _ _ _ _ _).1]
    rfl
  have f1 : s.eth.outcomes.find? (fun e => decide (e.1 = seq)) = none := by
    simpa using ho
  have f2 : s.running? seq = none := by
    simpa [State.running?] using fun r hx => (hr r hx).1
  have n1 : (s.takeSeq code seq).newRefusal st = none := by
    simp only [State.newRefusal, kept_devState k, kept_stateRefusal k, e1, hd', hs]
    simp [Nat.not_le.2 hl]
  have n2 : holdsUp seq names ((s.takeSeq code seq).enter code seq true).eth.running = false := by
    simp only [State.enter, e1]
    exact holdsUp_last _ _ _ _ rfl hr
  have e0 : ∀ x : State, x.eth.running = s.eth.running ++ [{ seq := seq, code := code, acceptBeat := s.beat, fresh := true }] →
      (x.modRunning seq fun r => { r with fresh := false, waits := false, names := names }) =
        x.modRunning seq fun r => { r with fresh := false, names := names } := by
    intro x hx
    have m : (x.eth.running.map fun r => if r.seq = seq then { r with fresh := false, waits := false, names := names } else r) =
        x.eth.running.map fun r => if r.seq = seq then { r with fresh := false, names := names } else r := by
      rw [hx, List.map_append, List.map_append]
      rw [List.map_congr_left (g := fun r => if r.seq = seq then { r with fresh := false, names := names } else r)
        fun r hm => by rw [if_neg (hr r hm).1, if_neg (hr r hm).1]]
      rfl
    exact congrArg (fun l => ({ x with eth := { x.eth with running := l } } : State)) m
  have e2 : ((s.takeSeq code seq).enter code seq true).eth.running =
      s.eth.running ++ [{ seq := seq, code := code, acceptBeat := s.beat, fresh := true }] := by
    simp [State.enter, e1, kept_beat k]
  have pk : ((s.takeSeq code seq).enter code seq true).pagesKept (run (begun s code seq names)) = true := by
    have hc := rest_sched (kept_trans k (kept_enter _ code seq true)).1
    simpa only [State.pagesKept, State.ctx, hc] using hk
  have acc : s.accept code seq st true (fun s => s.start seq names run) = run (begun s code seq names) := by
    have b : (((s.takeSeq code seq).enter code seq true).modRunning seq fun r =>
        { r with fresh := false, waits := false, names := names }) = begun s code seq names := by
      unfold begun
      exact e0 _ e2
    have g := start_runs n2 b pk
    unfold State.accept
    rw [f1]
    dsimp only
    rw [if_neg h0, if_neg (by rw [hh]; decide), n1]
    exact g
  simp only [genotOn, whenDo, hp, if_true, f2, acc]

theorem begun_eth (s : State) (code : Nat) (seq : W64) (names : List (Nat × Nat))
    (hr : ∀ r ∈ s.eth.running, r.seq ≠ seq) :
    (begun s code seq names).eth.running = s.eth.running ++ [{ seq := seq, code := code, acceptBeat := s.beat, names := names }] := by
  have k := kept_takeSeq s code seq
  have e1 : (s.takeSeq code seq).eth.running = s.eth.running := by
    unfold State.takeSeq
    rw [(traceRec_eth _ _ _ _ _ _).1]
    rfl
  have m : s.eth.running.map (fun r => if r.seq = seq then { r with fresh := false, names := names } else r) = s.eth.running := by
    conv => rhs; rw [← List.map_id s.eth.running]
    exact List.map_congr_left fun r hx => if_neg (hr r hx)
  simp [begun, State.modRunning, State.enter, e1, m, kept_beat k]

end Sys2Proof.Laws
end

