-- ==== Sys2Proof/Tests/Slice0.lean ====
section
/-!
SUPPORT. Tests: what the decoder reads from words written out bit by bit, what the well-formedness check refuses, and for every
statement of Obligations.lean a witness: concrete states and operands that meet its hypotheses, clause by clause. The values of
the word tests are worked out by hand from the tables of 04_poilo; those of the state tests from the rules that each cites.
-/
namespace Sys2Proof.Tests
open Sys2Proof.Machine Sys2Proof.Safety

/-! ### Small states -/

def wd (a b c m i : Nat) : IWord :=
  ⟨BitVec.ofNat 5 a, BitVec.ofNat 5 b, BitVec.ofNat 5 c, BitVec.ofNat 6 m, BitVec.ofNat 32 i⟩

def prog : Program :=
  { sha := 0, vm1 := false, codeSize := 64, codeAddr := 0, entries := [0], refCores := 1, split := 1, pins := [] }

def cmd0 : RunCmd := { ctx := 0, seq := 1, first := 0, count := 1, entry := 0, args := [], regions := [] }

/-- The clocks run, and core 0, which is logical core 0, runs a command of context 0. -/
def onCore (c : Core) (k : RunCmd := cmd0) (x : Context := {}) : State :=
  { State.reset with
    sys := { tclk := true }
    cmap := { logical := [0] }
    cores := [(0, { c with phase := if c.phase = .none then .running else c.phase })]
    sched := { programs := [(0, some prog)], ctxs := [(0, { x with st := .launched })], cmds := [(0, some k)] } }

/-- Thread 1 of core 0 is ready at PC 0 with scalar registers `g`. -/
def on1 (g : SMap W64) (c : Core := {}) : State := onCore { c with threads := [(1, { st := .ready, g := g })] }

/-- A device in state `d` at beat `b`; its clocks run. -/
def dev (d : Nat) (b : Nat := 0) : State :=
  ({ State.reset with sys := { tclk := true } }.setFld Fld.devState_state d).setRaw Reg.beatCount (BitVec.ofNat 64 b)

/-! ### Well-formed commands -/

theorem test_wf_core : (Instr.sclAdd 1232 0 (wd 0 0 0 0 0)).wf = false ∧ (Instr.sclAdd 1231 7 (wd 0 0 0 0 0)).wf = true := by decide
theorem test_wf_thread : (Instr.threadReady 0 8).wf = false ∧ (Instr.threadReady 0 7).wf = true := by decide
theorem test_wf_waiter : (Instr.slotTimeout 0 (.stream 32)).wf = false ∧ (Instr.slotTimeout 0 (.thread 8)).wf = false ∧
    (Instr.slotTimeout 0 (.stream 31)).wf = true := by decide
theorem test_wf_slot : (Instr.lastRead 0 32).wf = false ∧ (Instr.lastRead 0 31).wf = true := by decide
theorem test_wf_bank : (Instr.bankSettled 0 8).wf = false ∧ (Instr.bankSettled 0 7).wf = true := by decide
theorem test_wf_stack : (Instr.refresh 16).wf = false ∧ (Instr.refresh 15).wf = true := by decide
theorem test_wf_port : (Instr.flitTx 4 0).wf = false ∧ (Instr.flitTx 3 7).wf = true := by decide
theorem test_wf_bundle : (Instr.flitTx 0 8).wf = false := by decide
theorem test_wf_lane : (Instr.laneFailure 0 ⟨66, .lock⟩).wf = false ∧ (Instr.laneFailure 0 ⟨65, .lock⟩).wf = true := by decide
theorem test_wf_piece : (Instr.attnPartial 0 0 0 16 []).wf = false ∧ (Instr.attnPartial 0 0 0 15 []).wf = true := by decide
theorem test_wf_clerk : (Instr.clerkWatchdog 16 true).wf = false ∧ (Instr.clerkWatchdog 15 true).wf = true := by decide
theorem test_wf_ring : (Instr.ringConsReread 256 0).wf = false ∧ (Instr.ringConsReread 255 0).wf = true := by decide
theorem test_wf_tokenRing : (Instr.tokenPost 255).wf = false ∧ (Instr.tokenPost 254).wf = true := by decide
theorem test_wf_qp : (Instr.rateRaise 1024).wf = false ∧ (Instr.rateRaise 1023).wf = true := by decide
theorem test_wf_part : (Instr.turnExpiry 64).wf = false ∧ (Instr.turnExpiry 63).wf = true := by decide
theorem test_wf_ctx : (Instr.saveDone 256).wf = false ∧ (Instr.saveDone 255).wf = true := by decide
theorem test_wf_base : (Instr.stepCommit 64).wf = false ∧ (Instr.stepCommit 63).wf = true := by decide
theorem test_wf_temp : (Instr.stackTempChange 0 256).wf = false ∧ (Instr.stackTempChange 0 255).wf = true := by decide
theorem test_wf_source : (Instr.thermalWarn (.stack 16) 0).wf = false ∧ (Instr.thermalWarn (.die 256) 0).wf = false ∧
    (Instr.thermalWarn (.die 255) 0).wf = true := by decide
theorem test_wf_instrument : (Instr.ijtag (.spool 1232 0)).wf = false ∧ (Instr.ijtag (.spool 1231 0)).wf = true := by decide
theorem test_wf_line : (Instr.vaultReadout 32 []).wf = false ∧ (Instr.vaultReadout (2 ^ 40) []).wf = false ∧
    (Instr.vaultReadout (2 ^ 40 - 64) []).wf = true := by decide
theorem test_wf_ethReg : (Instr.ethAddressWrite 1 3 0 0).wf = false ∧ (Instr.ethAddressWrite 1 2 0 0).wf = true := by decide

/-! ### Words (04 R126 to R156): X, CLASS, OP, A, B, C, MOD, IMM -/

theorem test_word_sclAdd : decodePoilo 0 1 [0b0_0000_000000_00011_00101_00111_000000_00000000000000000000000000000000] =
    some (.sclAdd 0 1 (wd 3 5 7 0 0)) := by decide
theorem test_word_sclLi : decodePoilo 0 1 [0b1_0000_010000_00011_00000_00000_000000_00000000000000000000000000000000, 9] =
    some (.sclLi 0 1 (wd 3 0 0 0 0) 9) := by decide
theorem test_word_brBeq : decodePoilo 0 1 [0b0_0001_000001_00001_00010_00000_000000_11111111111111111111111111111111] =
    some (.brBeq 0 1 (wd 1 2 0 0 0xFFFFFFFF)) := by decide
theorem test_word_splSt : decodePoilo 0 1 [0b0_0010_000010_00001_00010_00000_000011_00000000000000000000000000001000] =
    some (.splSt 0 1 (wd 1 2 0 3 8)) := by decide
theorem test_word_sltFill : decodePoilo 0 1 [0b0_0011_000011_00001_00000_00000_000000_00000000000000000000000000011111] =
    some (.sltFill 0 1 (wd 1 0 0 0 31)) := by decide
theorem test_word_strDset : decodePoilo 0 1 [0b0_0100_000100_11111_00010_00000_000111_00000000000000000000000000000000] =
    some (.strDset 0 1 (wd 31 2 0 7 0)) := by decide
theorem test_word_engMm : decodePoilo 0 1 [0b1_0101_000001_00001_00010_00011_000000_00000000000000000000000010000000, 1] =
    some (.engMm 0 1 (wd 1 2 3 0 128) 1) := by decide
theorem test_word_vecUnif : decodePoilo 0 1 [0b0_0110_010111_01111_00001_00000_111000_00000000000000000000000000000000] =
    some (.vecUnif 0 1 (wd 15 1 0 56 0)) := by decide
theorem test_word_telMerge : decodePoilo 0 1 [0b0_0111_000010_00001_00010_00000_000001_00000000000000000000000000010000] =
    some (.telMerge 0 1 (wd 1 2 0 1 16)) := by decide
theorem test_word_rmtAcc : decodePoilo 0 1 [0b0_1000_000010_00001_00010_00000_000010_00000000000000000000000000000100] =
    some (.rmtAcc 0 1 (wd 1 2 0 2 4)) := by decide
theorem test_word_barSync : decodePoilo 0 1 [0b0_1001_000010_00000_00000_00000_000001_00000000000000000000000000001111] =
    some (.barSync 0 1 (wd 0 0 0 1 15)) := by decide
theorem test_word_thrRds : decodePoilo 0 1 [0b0_1010_000011_00101_00000_00000_000000_00000000000000000000000000001100] =
    some (.thrRds 0 1 (wd 5 0 0 0 12)) := by decide
theorem test_word_cmdPub : decodePoilo 0 1 [0b0_1011_000001_00101_00000_00000_000000_00000000000000000000000000001111] =
    some (.cmdPub 0 1 (wd 5 0 0 0 15)) := by decide
/-- CLASS 12 to 15, an OP that no table lists, and a form other than the listed one stand for no instruction (R127). -/
theorem test_word_illegal : decodePoilo 0 1 [0b0_1100_000000_00000_00000_00000_000000_00000000000000000000000000000000] = none ∧
    decodePoilo 0 1 [0b0_0110_010101_00000_00000_00000_000000_00000000000000000000000000000000] = none ∧
    decodePoilo 0 1 [0b1_0000_000000_00000_00000_00000_000000_00000000000000000000000000000000, 0] = none ∧
    decodePoilo 0 1 [0b0_0000_010000_00000_00000_00000_000000_00000000000000000000000000000000] = none := by decide

/-! ### Witnesses: scalar, branch, spool, slots and streams -/

/-- R128: register and immediate forms, and g0 as the destination. -/
theorem witness_SclResults : (Issues (on1 [(2, 5)]) 0 1 8 ∧ (wd 0 2 2 0 0).mod.toNat ≤ 1 ∧ (wd 3 2 0 1 0xFFFFFFFF).mod.toNat ≤ 1) ∧
    sclTable.length = 16 := by
  unfold Issues
  decide

/-- Jumps to 56; then a taken branch at both ends of the image, one that is not taken, and bad targets: 64 for a jump, for a taken
branch and for BR.JR, and 12 for BR.JR. -/
theorem witness_JumpsAndBranches : Issues (on1 [(1, 56)]) 0 1 16 ∧ Issues (on1 [(1, 56)]) 0 1 8 ∧
    TargetOk (on1 [(1, 56)]) 0 (((on1 [(1, 56)]).thread 0 1).pc + 8 * (wd 0 0 0 0 7).imm.signExtend 64) ∧
    TargetOk (on1 [(1, 56)]) 0 ((on1 [(1, 56)]).rg 0 1 1) ∧ Issues (on1 [(1, 5)]) 0 1 8 ∧
    (brTable.any fun e => e.2 ((on1 [(1, 5)]).rg 0 1 1) ((on1 [(1, 5)]).rg 0 1 2)) = true ∧
    (brTable.any fun e => !e.2 ((on1 [(1, 5)]).rg 0 1 1) ((on1 [(1, 5)]).rg 0 1 2)) = true ∧
    TargetOk (on1 [(1, 5)]) 0 (((on1 [(1, 5)]).thread 0 1).pc + 8 * (wd 1 2 0 0 7).imm.signExtend 64) ∧
    ¬TargetOk (on1 [(1, 5)]) 0 (((on1 [(1, 5)]).thread 0 1).pc + 8 * (wd 0 0 0 0 8).imm.signExtend 64) ∧
    ¬TargetOk (on1 [(1, 5)]) 0 (((on1 [(1, 5)]).thread 0 1).pc + 8 * (wd 1 2 0 0 8).imm.signExtend 64) ∧
    Issues (on1 [(1, 64)]) 0 1 8 ∧ ¬TargetOk (on1 [(1, 64)]) 0 ((on1 [(1, 64)]).rg 0 1 1) ∧
    Issues (on1 [(1, 12)]) 0 1 8 ∧ ¬TargetOk (on1 [(1, 12)]) 0 ((on1 [(1, 12)]).rg 0 1 1) := by
  unfold Issues TargetOk
  refine ⟨?_, ?_, ?_, ?_, ?_, ?_, ?_, ?_, ?_, ?_, ?_, ?_, ?_, ?_⟩ <;> decide

/-- The last 8 bytes of the spool, and a negative IMM. -/
theorem witness_SpoolLoads : Issues (on1 [(2, 0x7FFF8)]) 0 1 8 ∧ spl (on1 [(2, 0x7FFF8)]) 0 1 (wd 1 2 0 3 0) % 2 ^ 3 = 0 ∧
    SpoolOk ((on1 [(2, 0x7FFF8)]).core 0) (spl (on1 [(2, 0x7FFF8)]) 0 1 (wd 1 2 0 3 0)) (2 ^ 3) ∧
    SpoolOk ((on1 [(2, 4)]).core 0) (spl (on1 [(2, 4)]) 0 1 (wd 1 2 0 2 0xFFFFFFFC)) (2 ^ 2) := by
  unfold Issues SpoolOk
  decide

/-- A store at byte 0; then a misaligned address, one past the end, and a bank that is off. -/
theorem witness_SpoolStore : Issues (on1 []) 0 1 8 ∧ SpoolOk ((on1 []).core 0) (spl (on1 []) 0 1 (wd 1 2 0 0 0)) 1 ∧
    spl (on1 [(2, 1)]) 0 1 (wd 1 2 0 1 0) % 2 ^ 1 ≠ 0 ∧ 0x80000 < spl (on1 [(2, 0x80000)]) 0 1 (wd 1 2 0 3 0) + 2 ^ 3 ∧
    ((on1 [(2, 0xFFF8)] { banksOff := 1 }).core 0).touchesOff (spl (on1 [(2, 0xFFF8)] { banksOff := 1 }) 0 1 (wd 1 2 0 3 0)) (2 ^ 3) = true := by
  unfold Issues SpoolOk
  decide

theorem witness_SpoolAccumulate : Issues (on1 [(2, 0x7FE00)]) 0 1 8 ∧
    spl (on1 [(2, 0x7FE00)]) 0 1 (wd 15 2 7 1 0) % (128 * accSize 1) = 0 ∧
    SpoolOk ((on1 [(2, 0x7FE00)]).core 0) (spl (on1 [(2, 0x7FE00)]) 0 1 (wd 15 2 7 1 0)) (128 * accSize 1) ∧
    spl (on1 [(2, 256)]) 0 1 (wd 0 2 0 2 0) % (128 * accSize 2) = 0 := by
  unfold Issues SpoolOk
  decide

/-- Slot 31 bound at the end of the spool; a slot that thread 1 fills, and one that it drains. -/
theorem witness_SlotInstructions : Issues (on1 [(1, 0x70000), (2, 65536)]) 0 1 8 ∧
    (wd 1 2 0 0 (31 + 256 * 255)).imm.toNat = 31 + 256 * 255 ∧
    ((on1 [(1, 0x70000), (2, 65536)]).rg 0 1 1).toNat + ((on1 [(1, 0x70000), (2, 65536)]).rg 0 1 2).toNat ≤ 0x80000 ∧
    (let s := on1 [(1, 256)] { slots := [(3, { bound := true, len := 256, st := .filling, user := .thread 1 })] };
      ((s.core 0).slot 3).st = .filling ∧ ((s.core 0).slot 3).user = .thread 1 ∧ (s.rg 0 1 1).toNat ≤ ((s.core 0).slot 3).len) ∧
    (let s := on1 [] { slots := [(3, { bound := true, remain := 1, st := .draining, user := .thread 1 })] };
      ((s.core 0).slot 3).st = .draining ∧ ((s.core 0).slot 3).user = .thread 1 ∧ ((s.core 0).slot 3).bound = true ∧
        ((s.core 0).slot 3).st ≠ .empty) := by
  unfold Issues
  decide

/-- A descriptor that reads 64 elements of 4 bytes of the vault into the spool: word 0 of R95 with the direction IN. -/
theorem witness_StreamInstructions : Issues (on1 []) 0 1 8 ∧
    (let s := onCore { threads := [(1, { st := .ready })], desc := [(40, 0x28), (43, 0x400040)] } cmd0 { pages := [(0, .resident 0)] };
      Issues s 0 1 8 ∧ descBad s 0 ((s.core 0).descReg 5) = false ∧ dMcast ((s.core 0).descReg 5) = 0 ∧
      ((s.core 0).stream 31).st = .idle ∧ ((s.core 0).stream 31).pend = none) ∧
    (∀ st ∈ [StreamSt.running, .halted], let s := on1 [] { streams := [(0, { st := st, desc := [] })] };
      ((s.core 0).stream 0).st = st ∧ dMcast ((s.core 0).stream 0).desc = 0 ∧ descBad s 0 ((s.core 0).descReg 5) = true) ∧
    SpoolOk ((on1 []).core 0) (spl (on1 [(2, 0x7FFC0)]) 0 1 (wd 31 2 0 0 0)) 64 ∧ (wd 31 2 0 7 0).mod.toNat < 8 := by
  unfold Issues SpoolOk
  decide




/-! ### Witnesses: vector instructions, engines, tellers -/

theorem witness_VectorLanes : Issues (on1 []) 0 1 8 ∧ ((on1 []).core 0).merge = none ∧ laneTable.length = 13 ∧
    (wd 15 15 15 56 0).mod.toNat % 8 = 0 := by
  unfold Issues
  decide

/-- The highest counter pair g30 and g31, and a row of 68 bytes that ends with bank 0; then misaligned, and across banks 0 and 1. -/
theorem witness_VectorMoves : Issues (on1 []) 0 1 8 ∧ (wd 0 0 30 0 0).c ≠ 31 ∧
    (let s := on1 [(2, 0xFFBC)]; spl s 0 1 (wd 0 2 0 0 0) % 4 = 0 ∧
      spl s 0 1 (wd 0 2 0 0 0) / 0x10000 = (spl s 0 1 (wd 0 2 0 0 0) + 67) / 0x10000 ∧
      SpoolOk (s.core 0) (spl s 0 1 (wd 0 2 0 0 0)) 68) ∧
    spl (on1 [(2, 2)]) 0 1 (wd 0 2 0 0 0) % 4 ≠ 0 ∧
    spl (on1 [(2, 0xFFC0)]) 0 1 (wd 0 2 0 0 0) / 0x10000 ≠ (spl (on1 [(2, 0xFFC0)]) 0 1 (wd 0 2 0 0 0) + 67) / 0x10000 := by
  unfold Issues SpoolOk
  decide

theorem witness_VectorPredicatesAndReductions : Issues (on1 []) 0 1 8 ∧ ((on1 []).core 0).merge = none ∧
    (wd 7 15 15 61 0).a.toNat < 8 ∧ (wd 7 15 15 61 0).mod.toNat % 8 < 6 ∧ (wd 31 15 0 8 0).mod.toNat % 8 = 0 := by
  unfold Issues
  decide

/-- The spool form at the last run of 512 bytes; the slot form on a full slot, on one that the thread drains, on an empty one and
on one that it fills. -/
theorem witness_VectorMemory : Issues (on1 [(2, 0x7FE00)]) 0 1 8 ∧
    (let s := on1 [(2, 0x7FE00)]; vecAddr s 0 1 (wd 0 2 0 0 0) % (128 * vecEsize 0) = 0 ∧
      SpoolOk (s.core 0) (vecAddr s 0 1 (wd 0 2 0 0 0)) (128 * vecEsize 0)) ∧
    (∀ x ∈ [(SlotSt.full, SlotUser.none), (.draining, .thread 1), (.empty, .none), (.filling, .thread 1)],
      let s := on1 [(2, 3)] { slots := [(3, { bound := true, len := 1024, st := x.1, user := x.2 })] };
      (wd 0 2 0 0 (2 ^ 31 + 512)).imm.toNat = 2 ^ 31 + 512 ∧ ((s.core 0).slot 3).bound = true ∧
      (x.1 = .full ∨ x.1 = .empty ∨ HeldBy (s.core 0) 3 1) ∧
      512 + 128 * vecEsize 0 ≤ ((s.core 0).slot 3).len ∧
      (s.core 0).touchesOff (vecAddr s 0 1 (wd 0 2 0 0 (2 ^ 31 + 512))) (128 * vecEsize 0) = false ∧
      (s.core 0).settlingBank (vecAddr s 0 1 (wd 0 2 0 0 (2 ^ 31 + 512))) (128 * vecEsize 0) = none) := by
  unfold Issues SpoolOk HeldBy
  decide

/-- A spool source of E4M3, a full slot, and the head of the warp FIFO. -/
theorem witness_EngineLoadWeights : (∀ x ∈ [(0, on1 []), (4, on1 [(1, 2)] { slots := [(2, { bound := true, len := 16384, st := .full })] }),
      (8, on1 [] { fifo := [{ fmt := .e4m3, passSeq := 0, image := [] }] })],
    Issues x.2 0 1 8 ∧ ldwCodes x.2 0 1 (wd 1 0 0 x.1 0) = [] ∧ ldwWait x.2 0 1 (wd 1 0 0 x.1 0) = none) := by
  unfold Issues
  decide

/-- ENG.MM: one row of E4M3 on engine 0 from a loaded plane, and a logical tile of 1 × 1. ENG.CONV: one output of a 1 × 1 kernel. -/
theorem witness_EngineRuns :
    (let s := on1 [] { planes := [(0, { valid := true })] }; let x : W64 := BitVec.ofNat 64 (2 ^ 54);
      Issues s 0 1 16 ∧ (mmOp s 0 1 (wd 1 0 0 0 0) x).lt = false ∧ mmCodes s 0 1 (wd 1 0 0 0 0) x = [] ∧
        mmWait s 0 1 (wd 1 0 0 0 0) x = none) ∧
    (let s := on1 []; let x : W64 := BitVec.ofNat 64 (2 ^ 54 + 2 ^ 36);
      Issues s 0 1 16 ∧ (mmOp s 0 1 (wd 1 0 2 0 0) x).lt = true ∧ mmCodes s 0 1 (wd 1 0 2 0 0) x = [] ∧
        mmWait s 0 1 (wd 1 0 2 0 0) x = none) ∧
    (let s := on1 [] { planes := [(0, { valid := true })] };
      convCodes s 0 1 (wd 1 0 0 0 0) 0 = [] ∧ convWait s 0 1 (wd 1 0 0 0 0) 0 = none) := by
  unfold Issues
  decide

/-- A drain of one row to the spool, and to an empty slot; fences of each mode on empty queues. -/
theorem witness_EngineDrainsAndFence :
    (let s := on1 []; let x : W64 := BitVec.ofNat 64 (2 ^ 47);
      Issues s 0 1 16 ∧ Issues s 0 1 8 ∧ drnCodes s 0 1 (wd 1 0 0 0 0) x = [] ∧ drnWait s 0 1 (wd 1 0 0 0 0) x = none ∧
      (s.core 0).eng0.queue = [] ∧ (s.core 0).eng1.queue = []) ∧
    (let s := on1 [(1, 4)] { slots := [(4, { bound := true, len := 256 })] }; let x : W64 := BitVec.ofNat 64 (2 ^ 47 + 2 ^ 39);
      drnCodes s 0 1 (wd 1 0 0 0 0) x = [] ∧ drnWait s 0 1 (wd 1 0 0 0 0) x = none) := by
  unfold Issues
  decide

/-- A record at 0 that zeroes 256 bytes of a resident page. -/
def onTel : State :=
  onCore { threads := [(1, { st := .ready, g := [(2, 4096)] })], spool := [(0, 1), (7, 7)] } cmd0 { pages := [(0, .resident 0)] }

/-- A record at 0 of one token, one query head of 32 and BF16 queries, for slot 2. -/
def onAttn : State :=
  onCore { threads := [(1, { st := .ready })], spool := [(6, 4), (7, 1), (16, 1), (32, 64)],
           slots := [(2, { bound := true, base := 4096, len := 3072 })] } cmd0 { pages := [(0, .resident 0)] }

/-- Sixteen partials of one head of 32 from 0 on. -/
def onMerge : State :=
  on1 [(1, 8192)] { spool := (List.range 16).map fun i => (192 * i + 4, 1) }

theorem witness_TellerInstructions : Issues onTel 0 1 8 ∧ telCmdCodes onTel 0 1 (wd 1 2 0 0 0) = [] ∧
    (onTel.core 0).settlingBank 0 64 = none ∧ (onTel.core 0).settlingBank 4096 1024 = none ∧
    (∀ e ∈ telReads (recWords (onTel.core 0) 0), (onTel.core 0).settlingBank e.1 e.2 = none) ∧
    (telStacks (recWords (onTel.core 0) 0) []).length ≤ (onTel.core 0).tagsFree ∧
    telWrites onTel 0 (recWords (onTel.core 0) 0) [] ≠ [] ∧
    Issues onAttn 0 1 8 ∧ attnCodes onAttn 0 1 (wd 1 0 0 0 2) = [] ∧ ((onAttn.core 0).slot 2).st = .empty ∧
    16 ≤ (onAttn.core 0).tagsFree ∧
    Issues onMerge 0 1 8 ∧ mergeCodes onMerge 0 1 (wd 1 2 0 0 16) = [] ∧ mergeWait onMerge 0 1 (wd 1 2 0 0 16) = none ∧
    (onMerge.core 0).settlingBank 0 (16 * mergeIn (onMerge.core 0) 0) = none ∧
    (onMerge.core 0).settlingBank 8192 (mergeOut (onMerge.core 0) 0) = none := by
  unfold Issues
  decide

/-! ### Witnesses: remote operations, barriers, threads and commands -/

/-- A device of a 2 × 2 lattice at (0, 0): position 1 is its neighbour, position 15 has no device. -/
def onRmt : State :=
  let s := on1 [(2, BitVec.ofNat 64 (2 ^ 44)), (3, BitVec.ofNat 64 (15 * 2 ^ 44))];
  { s with loom := { nr := 2, nc := 2 } }.setFld Fld.devState_state 3

theorem witness_RemoteInstructions : Issues onRmt 0 1 8 ∧ onRmt.rmtFree = true ∧ rmtPos (onRmt.rg 0 1 2) ≠ onRmt.ownPos ∧
    (onRmt.boardDevice (rmtPos (onRmt.rg 0 1 2))).isSome = true ∧ onRmt.boardDevice (rmtPos (onRmt.rg 0 1 3)) = none ∧
    SpoolOk (onRmt.core 0) 0 4096 ∧ (wd 1 2 0 0 4096).imm.toNat % 4 = 0 ∧ onRmt.rmtOpen 0 1 = false ∧
    (onRmt.rg 0 1 2).toNat < 2 ^ 48 := by
  unfold Issues SpoolOk
  decide

/-- Before the arrival, after it, and after a generation that has ended. -/
theorem witness_BarrierInstructions : Issues (on1 []) 0 1 8 ∧ (on1 []).hasArrived 0 (wd 0 0 0 1 15) = false ∧
    (on1 []).hasArrived 0 (wd 0 0 0 2 15) = false ∧ (on1 []).lastArrival 0 (wd 0 0 0 1 15) = none ∧
    (on1 []).cmdOf 0 = some cmd0 ∧ ((on1 []).ctx 0).serving = false ∧
    (let s := onCore { threads := [(1, { st := .ready })] } { cmd0 with count := 2, bars := [(3, { cores := [0], arrived := [(0, some 0)] })] };
      s.hasArrived 0 (wd 0 0 0 1 3) = true) ∧
    (let s := onCore { threads := [(1, { st := .ready })] } { cmd0 with bars := [(3, { gen := 1, arrived := [(0, some 0)] })] };
      (s.lastArrival 0 (wd 0 0 0 1 3)).isSome = true ∧ s.waitHolds 0 1 (s.barWaitOf 0 (wd 0 0 0 1 3)) = true) := by
  unfold Issues
  decide

theorem witness_ThreadInstructions : Issues (on1 [(1, 56)]) 0 1 8 ∧ ((on1 [(1, 56)]).thread 0 7).st = .idle ∧
    ((on1 [(1, 56)]).rg 0 1 1).toNat + 8 ≤ (on1 [(1, 56)]).codeSize 0 ∧
    (∀ v, v < 8 → (wd 0 0 0 0 0xFD).imm.getLsbD v = true → ((on1 []).thread 0 v).st = .idle) ∧
    (∀ sel ∈ [0, 4, 5, 8, 12], (wd 1 0 0 0 sel).imm.toNat = sel) ∧ (on1 []).exactOn 0 = false := by
  unfold Issues
  decide

/-- A dispatched core whose command has entry 15: an APPEND entry with a publish word of 3 at 64, and an OUTPUT entry at 256 that
CMD.BEGIN zeroes. -/
def begins : State :=
  let k : RunCmd := { cmd0 with regions := [⟨15, true, false, 0, 4, 64⟩, ⟨3, false, true, 256, 4, 0⟩] };
  { onCore { threads := [(0, { st := .ready })], phase := .dispatched } k { pages := [(0, .resident 0)] } with vault := [(64, 3)] }

/-- CMD.PUB of entry 15, CMD.COMMIT and CMD.ABORT of thread 0, and CMD.BEGIN on a core that has been dispatched: the lead core,
and one that is not. -/
theorem witness_CommandInstructions :
    (let k : RunCmd := { cmd0 with regions := [⟨15, false, false, 0, 64, 0⟩] };
      let s := onCore { threads := [(0, { st := .ready })] } k;
      Issues s 0 0 8 ∧ s.cmdOf 0 = some k ∧ (∃ e ∈ k.regions, e.index = 15) ∧ (s.core 0).vm1 = false ∧
      (∀ v, v < 8 → v ≠ 0 → (s.thread 0 v).st = .idle) ∧ k.phase = .running ∧ k.faulted = none) ∧
    (let s := { onCore {} with cmap := { logical := [1, 0] }, cores := [(0, { phase := .dispatched, threads := [(0, { st := .ready })] })] };
      s.cmdOf 0 = some cmd0 ∧ s.rank 0 = 1 ∧ (s.core 0).phase = .dispatched) := by
  unfold Issues
  decide

/-- An APPEND value at the committed length, and one at LENGTH. -/
theorem witness_CommandInstructions_append :
    ∀ n ∈ [0, 4], let k : RunCmd := { cmd0 with regions := [⟨15, true, false, 0, 4, 0⟩], pubs := [(0, 15, BitVec.ofNat 64 n)] };
      ∀ x ∈ k.pubs, ∀ e ∈ k.regions, x.1 = (onCore {} k).rank 0 → e.index = x.2.1 → e.append = true →
        SMap.get k.cl 0 e.index ≤ x.2.2.toNat ∧ x.2.2.toNat ≤ e.length := by
  decide

theorem witness_CommandInstructions_lead : let s := begins; let c := (s.cmdOf 0).getD cmd0;
    (s.sys.tclk = true ∧ (s.core 0).stopped = false ∧ (s.core 0).saving = false ∧ (s.thread 0 0).st = .ready ∧
      (s.core 0).phase = .dispatched ∧ s.cmdOf 0 = some c ∧ s.rank 0 = 0 ∧ c.strict ≠ some true ∧
      (s.thread 0 0).pc.toNat + 8 ≤ s.codeSize 0) ∧ s.lineErrs = [] ∧ s.sched.unpub = [] ∧ (c.regions.map (·.index)).Nodup := by
  decide

theorem witness_CommandInstructions_regions : let s := begins; let c := (s.cmdOf 0).getD cmd0;
    (∀ e ∈ c.regions, e.base + e.length ≤ 0x10000000000) ∧
    (∀ e ∈ c.regions, e.append = true → (∀ i, i < 8 → s.isAt c.ctx (e.pub + i) = true) ∧ leNat (s.pload c.ctx e.pub 8) ≤ e.length) ∧
    (∀ q ∈ s.setCores c, q ≠ 0 → (s.core q).phase = .dispatched) ∧
    (∃ e ∈ c.regions, e.append = false ∧ e.zero = true ∧ ∀ i, i < e.length → s.writable c.ctx (e.base + i) = true) := by
  decide

theorem witness_Healthy : Healthy begins := by
  unfold Healthy
  decide

/-! ### Witnesses: events of a core -/

def waits (w : Wait) (beat : Nat) (x : Core) : State :=
  (onCore { x with threads := [(1, { st := .waiting w, waitBeat := 10, waitTmo := 175 })] }).setRaw Reg.beatCount (BitVec.ofNat 64 beat)

/-- Stream 0 has waited for slot 3 since beat 5. -/
def slotWaiter : State :=
  onCore {
    threads := [(1, { st := .ready })]
    slots := [(3, { bound := true, len := 256, st := .full })]
    streams := [(0, { st := .running, desc := [0x000E0028, 0, 0, 0x400040], owner := 1, slotWait := some 5, slotTmo := 175,
                      slotLen := 256 })] }

/-- A wait that is over, and one that is not at beat 185 (10 + T) and at 186; a stream that has waited on its slot; a command
that begins. -/
theorem witness_WaitsEnd :
    (let s := waits (.slotFull 3) 11 { slots := [(3, { bound := true, st := .full })] };
      (s.thread 0 1).st = .waiting (.slotFull 3) ∧ s.waitHolds 0 1 (.slotFull 3) = true) ∧
    (∀ b ∈ [185, 186], let s := waits (.slotFull 3) b { slots := [(3, { bound := true })] };
      s.waitHolds 0 1 (.slotFull 3) = false ∧ s.timed 0 (.slotFull 3) = true ∧
      ((s.thread 0 1).waitBeat + (s.thread 0 1).waitTmo < s.beat ↔ b = 186)) ∧
    (∀ b ∈ [180, 181], let s := slotWaiter.setRaw Reg.beatCount (BitVec.ofNat 64 b); let x := (s.core 0).stream 0;
      x.slotWait = some 5 ∧ x.forming = true ∧ (5 + 175 < s.beat ↔ b = 181) ∧
      s.producerHalted 0 (x.slotOf (x.fillOf x.nextElem)) = false ∧ (s.core 0).phase = .running ∧ (s.thread 0 1).st ≠ .idle ∧
      s.slotReady 0 0 x (s.members 0 x.desc) = .wait) ∧
    (let s := onCore { phase := .beginning };
      (s.core 0).phase = .beginning ∧ (s.core 0).stopped = false ∧ (s.core 0).tagsHeld = 0 ∧
      (s.core (s.leadOf 0)).phase ≠ .dispatched) ∧
    (let s := { onCore {} with cmap := { logical := [1, 0] }, sched := { cmds := [(0, some { cmd0 with count := 2 })] },
                               cores := [(0, { phase := .beginning }), (1, { phase := .dispatched })] };
      (s.core 0).phase = .beginning ∧ (s.core (s.leadOf 0)).phase = .dispatched) := by
  decide

/-- A command that has faulted and one that has met CMD.ABORT; a core that may report; the fold and the commit phase. -/
theorem witness_CommandAborts :
    (∀ k ∈ [{ cmd0 with faulted := some (0, 0, 4) }, { cmd0 with ending := some .aborted }, cmd0,
        { cmd0 with phase := .folding }, { cmd0 with phase := .committing }],
      (onCore {} k).sys.tclk = true ∧ (onCore {} k).cmdOf 0 = some k) ∧
    (let s := onCore { phase := .committing };
      (s.core 0).phase = .committing ∧ (s.core 0).stopped = false ∧ cmd0.faulted = none ∧ cmd0.ending = none ∧
      (s.core 0).streams = [] ∧ (s.core 0).eng0.queue = [] ∧ (s.core 0).eng1.queue = [] ∧ s.rmt = []) ∧
    (onCore {} { cmd0 with phase := .committing }).lineErrs = [] ∧
    (let k : RunCmd := { cmd0 with phase := .folding, copies := [(0, { units := [(256, default)] })] };
      ∀ r, r < k.count → ∀ e ∈ (SMap.get k.copies {} r).units, e.1 % 256 = 0) := by
  decide

theorem witness_CommandAborts_healthy : Healthy (onCore {} { cmd0 with phase := .committing }) := by
  unfold Healthy
  decide

/-- A result of row 255 that reads plane 0: alone, behind a front of plane 1, and behind one of plane 0. -/
def row0 : RowRes := ⟨255, false, false, 1, 1, [], [0]⟩

theorem witness_EngineEvents_row : { row0 with cols := List.replicate 128 0 }.cols.length = 128 := List.length_replicate

theorem witness_EngineEvents :
    (let x : Engine := { queue := [.run [row0] []] };
      ((onCore { eng0 := x }).core 0).eng .e0 = x ∧ x.landing [] 0 x.queue = some (0, row0, none)) ∧
    (∀ n ∈ [0, 1], let x : Engine := { queue := [.front 128 [n], .run [row0] []] };
      ((onCore { eng0 := x }).core 0).eng0.queue = .front 128 [n] :: .run [row0] [] :: [] ∧ x.marks = [] ∧
      ((∃ m ∈ row0.planes, m ∈ [n]) ↔ n = 0)) ∧
    (let s := onCore { eng0 := { queue := [.front 128 [0]] }, eng1 := { queue := [.front 128 [0], .run [] []] } };
      (s.core 0).eng0.queue = [.front 128 [0]] ∧ (s.core 0).eng1.queue = [.front 128 [0], .run [] []] ∧
      (s.core 0).eng0.marks = [] ∧ (s.core 0).eng1.marks = []) ∧
    (∀ fs ∈ [[], [⟨some 128, [row0]⟩]],
      let x : Engine := { queue := [.fold true (⟨some 128, [row0]⟩ :: fs) []] }; let y : Engine := { marks := [⟨0, [0]⟩] };
      let s := onCore { eng0 := x, eng1 := y };
      (s.core 0).eng .e0 = x ∧ (s.core 0).eng .e1 = y ∧ x.marks = [] ∧
      ((∀ g ∈ (fs : List FoldStep), g.front = none) ↔ fs = [])) ∧
    (let d : Drain := ⟨0, 1, false, 0, true, 128, 0, 512, 0, 1, none⟩;
      ((onCore { eng0 := { queue := [.drain d] } }).core 0).eng0.queue = [.drain d]) ∧
    (let d : Drain := ⟨0, 1, false, 0, false, 128, 0, 512, 0, 1, some (3, 512)⟩;
      let x : Engine := { queue := [.drain d], rows := [(0, { st := .draining (some 1) })] };
      ((onCore { eng0 := x }).core 0).eng .e0 = x ∧ { x with queue := [] }.drainsTo 3 = false) ∧
    (∀ b ∈ [525, 524], let s := (onCore { eng0 := { keeper := 8, gapFrom := some 0 } }).setRaw Reg.beatCount (BitVec.ofNat 64 b);
      (s.core 0).eng0.gapFrom = some 0 ∧ (0 + 525 + 175 * (8 - (s.core 0).eng0.keeper) ≤ s.beat ↔ b = 525)) ∧
    (∀ u ∈ [SlotUser.engine, .merge], let s := onCore { slots := [(31, { bound := true, st := .draining, user := u, remain := 1 })] };
      ((s.core 0).slot 31).st = .draining ∧ ((s.core 0).slot 31).user = u) := by
  decide

theorem witness_CoreFailures :
    (let s := onCore {};
      s.cmap.retired.contains 0 = false ∧ s.cmap.fenced.contains 0 = false ∧ s.logicalOf 0 = some 0 ∧
      (∃ q qs, s.spares.filter (· ≠ 0) = q :: qs) ∧ s.cmdOf 0 = some cmd0 ∧ cmd0.phase = .running ∧ cmd0.side = false ∧
      cmd0.ending = none ∧ cmd0.faulted = none) ∧
    (let o : Xfer := { start := 0, count := 1, dst := [], far := [], served := some 0 };
      let s := (onCore { streams := [(31, { st := .running, out := [o] })] }).setRaw Reg.beatCount 3501;
      ((s.core 0).stream 31).xfer 0 = some o ∧ o.served = some 0 ∧ 0 + 3500 < s.beat) ∧
    (let s := { onCore {} with cmap := { logical := [0], retired := [0], waiting := [(0, 1231)] } };
      s.cmap.waiting.find? (fun e => e.1 = 0) = some (0, 1231)) ∧
    (let s := (onCore { settling := [(7, 9)] }).setRaw Reg.beatCount 9;
      SMap.has (s.core 0).settling 7 = true ∧ SMap.get (s.core 0).settling 0 7 ≤ s.beat) := by
  refine ⟨⟨rfl, rfl, by decide, List.exists_cons_of_ne_nil (List.ne_nil_of_mem (a := 1) ?_), by decide, rfl, rfl, rfl, rfl⟩, by decide⟩
  exact List.mem_filter.2 ⟨List.mem_filter.2 ⟨List.mem_range.2 (by decide), by decide⟩, by decide⟩

/-- A stream that reads 64 elements of 4 bytes of a resident page into the spool; a reply with data, and one with an error. -/
theorem witness_StreamEvents :
    (let x : Stream := { st := .running, desc := [0x28, 0, 0, 0x400040], owner := 1 };
      let s := onCore { streams := [(0, x)] } cmd0 { pages := [(0, .resident 0)] };
      (s.noteWaits 0).core 0 = s.core 0 ∧ (s.core 0).stream 0 = x ∧ s.nextStream 0 = some 0 ∧ x.take 0 ≠ 0 ∧
      (s.core 0).touchesOff (s.nearOf 0 x 0) (x.take 0 * dEsize x.desc) = false ∧
      s.farSide 0 0 false (dEsize x.desc) (x.fars 0 (x.take 0)) = .vault) ∧
    (∀ r ∈ [XferReply.data [1, 2], .err 12],
      let o : Xfer := { start := 0, count := 64, dst := [(0, 0)], far := [], reply := some r };
      let x : Stream := { st := .running, desc := [0x28, 0, 0, 0x400040], out := [o], nextElem := 64 };
      let s := onCore { streams := [(31, x)] };
      (s.core 0).stream 31 = x ∧ x.xfer 0 = some o ∧ x.out.filter (fun y => y.start ≠ o.start) = [] ∧ dElems x.desc ≤ x.nextElem) := by
  decide


/-! ### Witnesses: links and the loom -/

/-- Port 0 with bundle 0 in service, in port state `st`, at beat `b`. -/
def onPort (x : Bundle) (y : Port := {}) (st : Nat := 2) (b : Nat := 0) : State :=
  let s := { dev 3 b with bundles := [(0, x)], ports := [(0, y)], loom := { nr := 2, nc := 2 } };
  ((s.setFld (Fld.lnkPortStatus_bundleUp 0) 3).setFld (Fld.lnkPortStatus_state 0) st).setFld (Fld.xptPort_mode 0 0) 1

/-- A flit of 248 bytes. -/
def flitHead : Bytes := leBytes (8 * 2 ^ 60 + 4 * 2 ^ 57 + 5 * 2 ^ 47) 8 ++ List.replicate 240 0

/-- A routed flit waits with one credit of its channel, and a LINK flit without any. A flit with 8 symbol errors in a codeword, and
one with 9; a terminating bundle, and a pass bundle. -/
theorem witness_FlitsSentAndReceived :
    (∀ f ∈ [{ type := 8, vc := 4, route := 0, payload := [] }, ({ type := 2, vc := 1, route := 0, payload := [] } : OutFlit)],
      let s := onPort { credits := [(4, 1)], owed := [(7, 3)] } { txq := [f] };
      s.sys.tclk = true ∧ s.sending 0 0 = true ∧ (s.bundle 0 0).resend = 0 ∧ s.nextFlit 0 0 = some f ∧
      ∀ e ∈ (s.bundle 0 0).owed, e.1 < 8) ∧
    (let s := onPort { expected := 5 }; let bytes := flitHead ++ leBytes (linkCrc flitHead).toNat 8;
      s.bundleUp 0 0 = true ∧ s.portState 0 ≠ 6 ∧ s.fld (Fld.xptPort_mode 0 0) = 1 ∧
      (let w := field bytes 0 8;
       hType w ≠ 0 ∧ hType w ≠ 2 ∧ hSeq w = (s.bundle 0 0).expected ∧ typeVc (hType w) = some (hVc w) ∧ hNak w = false)) ∧
    (∀ c ∈ [List.range 8, List.replicate 9 3], c.dedup.length ≤ 8) ∧ (∃ c ∈ [List.range 9], 8 < c.dedup.length) ∧
    (let s := (onPort {}).setFld (Fld.xptPort_mode 0 0) 2; s.bundleUp 0 0 = true ∧ s.fld (Fld.xptPort_mode 0 0) = 2) := by
  decide

theorem witness_FlitsSentAndReceived_crc :
    field (flitHead ++ leBytes (linkCrc flitHead).toNat 8) 248 8 = (linkCrc ((flitHead ++ leBytes (linkCrc flitHead).toNat 8).take 248)).toNat ∧
    field (flitHead ++ leBytes 0 8) 248 8 = 0 := by
  have h : flitHead.length = 248 := by rw [flitHead, List.length_append, length_leBytes, List.length_replicate]
  have e : ∀ n, n < 2 ^ 64 → field (flitHead ++ leBytes n 8) 248 8 = n := by
    intro n hn
    have h8 : (leBytes n 8).length = 8 := length_leBytes n 8
    rw [field, ← h, List.drop_left, List.take_of_length_le (by omega), leNat_leBytes]
    exact Nat.mod_eq_of_lt hn
  refine ⟨?_, e 0 (by decide)⟩
  rw [e _ (BitVec.isLt _), ← h, List.take_left]

theorem witness_ReplayAndRetraining :
    (∀ n ∈ [15, 16], let g : SentFlit := { seq := 0, flit := { type := 2, vc := 1, route := 0, payload := [] }, beat := 0, replays := n };
      let s := onPort { unacked := [g] } {} 2 351;
      (s.bundle 0 0).unacked = g :: [] ∧ (s.bundle 0 0).retrainFrom = none ∧ g.beat + s.fld (Fld.lnkCtrl_replayTmo 0) < s.beat ∧
      (g.replays < 16 ↔ n = 15)) ∧
    (∀ b ∈ [17500, 17501], let s := onPort { retrainFrom := some 0 } {} 4 b;
      (s.bundle 0 0).retrainFrom = some 0 ∧ (s.beat ≤ 0 + 17500 ↔ b = 17500)) ∧
    (let s := (onPort {} {} 4 17501).setBundle 0 1 { retrainFrom := some 0 };
      (s.bundle 0 1).retrainFrom = some 0 ∧ 0 + 17500 < s.beat ∧ s.bundleUp 0 1 = true ∧ s.fld (Fld.xptHolder_holder 0 1) ≠ 1 ∧
      s.fld (Fld.lnkPortStatus_bundleUp 0) ≠ 2 ^ 1) ∧
    (let s := onPort {} { sinceIdle := 65536 };
      65536 ≤ (s.port 0).sinceIdle ∧ ((List.range 8).find? fun b => s.sending 0 b) = some 0) ∧
    (∀ e ∈ [(0, 0), (1, 0), (1, 2)],
      let s := (onPort { fixes := List.replicate e.2 (5, 0) }).setFld (Fld.lnkCtrl_spareThresh 0) e.1;
      (s.port 0).failedLanes.contains 0 = false ∧ (s.port 0).failedLanes.contains 64 = false ∧
      s.flag (Fld.lnkSpare_s64Valid 0) = false ∧ s.portUp 0 = true ∧ s.loom.upAtCommit.contains 0 = false ∧
      (s.fld (Fld.lnkCtrl_spareThresh 0) ≠ 0 ∧ s.fld (Fld.lnkCtrl_spareThresh 0) < s.laneFixes 0 0 ↔ e = (1, 2))) ∧
    (∀ st ∈ [0, 1], (onPort {} {} st).portState 0 = st) ∧ (onPort {} {} 1).fld (Fld.lnkPortStatus_bundleUp 0) ≠ 0 ∧
    (let s := { onPort {} {} 5 175000000 with sys := { tclk := true, retryBeat := some 0 } };
      s.sys.retryBeat = some 0 ∧ s.portState 0 = 5 ∧ 0 + 175000000 * ((s.port 0).tries + 1) ≤ s.beat) := by
  decide

/-- Ports 0 and 1 are UP; a discovery of origin 5 may run. -/
def disco (d : Disc) (b : Nat := 0) : State :=
  let s := { dev 2 b with loom := { disc := d } };
  (s.setFld (Fld.lnkPortStatus_state 0) 2).setFld (Fld.lnkPortStatus_state 1) 2

theorem witness_DiscoveryRows :
    (Meshed (disco {}) ∧ (disco {}).disc.origin = none ∧ (disco {}).disc.isOrigin = false ∧ ∃ q ∈ (disco {}).upPorts, q ≠ 0) ∧
    ((disco { origin := some 5, live := true }).disc.origin = some 5 ∧ (4 : W64).ult 5 = true ∧ (6 : W64).ult 5 = false ∧
      (disco { origin := some 5, live := true }).discOver ⟨6, 0, 0, 0⟩ = false ∧
      (disco { origin := some 5 } 8750001).discOver ⟨6, 0, 0, 0⟩ = true) ∧
    (let d := (disco { origin := some 5, live := true, waiting := [0, 1], children := [0] }).disc;
      d.live = true ∧ d.origin = some 5 ∧ d.waiting.contains 0 = true ∧ (∃ q ∈ d.waiting, q ≠ 0) ∧ d.children.contains 0 = true ∧
      d.reported.contains 0 = false) ∧
    (∀ b ∈ [175000, 175001], ((disco { beat := 0 } b).disc.beat + 175000 < (disco { beat := 0 } b).beat ↔ b = 175001)) := by
  unfold Meshed
  decide

/-- A THREADED device of a 2 × 2 lattice. -/
def mesh (b : Nat := 0) : State := { dev 3 b with loom := { nr := 2, nc := 2 } }

/-- A CREATED program of context 0 in partition 0. -/
def prepd : State :=
  { mesh with sched := { programs := [(0, some prog)], parts := [(0, some ⟨0, 1, false, none⟩)], ctxs := [(0, { st := .created })],
                         prepared := [0] } }

/-- With every core usable, the grade is the one that was ordered. -/
theorem grade_all : gradeOf 1232 = Config.orderedGrade.val := by
  simp only [gradeOf]
  generalize Config.orderedGrade = g
  revert g
  decide

theorem grade_due (s : State) (hf : s.cmap.fenced = []) (hr : s.cmap.retired = []) (hg : s.fld Fld.devGrade_grade = Config.orderedGrade.val) :
    s.regradeDue = false := by
  have hu : s.usableCores = 1232 := by simp [State.usableCores, hf, hr, nCores]
  simp [State.regradeDue, hf, hu, grade_all, hg]

theorem witness_TwoPhaseRows_launch : ∃ g, let s := prepd.setFld Fld.devGrade_grade g;
    s.regradeDue = false ∧ Threaded s ∧ s.sched.prepared = [0] ∧ s.beat ≤ 0 ∧ s.part (s.ctx 0).part = some ⟨0, 1, false, none⟩ ∧
      s.program (s.ctx 0).program = some prog ∧ (s.ctx 0).serving = false ∧ s.sched.cmds = [] := by
  have hg := Config.orderedGrade.isLt
  have e : (prepd.setFld Fld.devGrade_grade Config.orderedGrade.val).fld Fld.devGrade_grade = Config.orderedGrade.val := by
    generalize Config.orderedGrade.val = g at hg
    interval_cases g <;> decide
  refine ⟨Config.orderedGrade.val, grade_due _ rfl rfl e, ?_, rfl, ?_, rfl, rfl, rfl, rfl⟩ <;>
    generalize Config.orderedGrade.val = g at hg <;> interval_cases g <;> (try unfold Threaded) <;> decide

theorem witness_TwoPhaseRows :
    (let s := dev 2;
      Meshed s ∧ s.loom.ops = [] ∧ s.loom.prep = none ∧ s.threadCheck ⟨1, 2, 0, 1, []⟩ = .ok ∧ s.allStaged = []) ∧
    (Meshed mesh ∧ mesh.threadCheck ⟨1, 2, 0, 1, []⟩ ≠ .ok ∧ mesh.loom.prep = none ∧ mesh.loom.ops = []) ∧
    (let s := { dev 2 with loom := { prep := some ⟨1, 2, 0, 1, []⟩, exchanges := 16 } };
      s.loom.prep = some ⟨1, 2, 0, 1, []⟩ ∧ s.allStaged = [] ∧ 16 ≤ s.loom.exchanges) ∧
    (let s := { mesh with warp := { prepared := some ⟨1, []⟩, draft := some ⟨2, [⟨0, false, 0, 0, 1, 0⟩]⟩ } };
      Threaded s ∧ s.isOrigin = false ∧ s.warp.prepared = some ⟨1, []⟩ ∧ s.warp.draft = some ⟨2, [⟨0, false, 0, 0, 1, 0⟩]⟩ ∧
      { s.warp with draft := none }.draft = none) ∧
    (let m : Model := ⟨[], 0, [], 0, 0, 1, [], []⟩;
      let s := { mesh with warp := { bases := [(63, { staged := some m })], draft := some ⟨2, [⟨63, false, 0, 0, 1, 0⟩]⟩ } };
      (s.base 63).staged.isSome = true ∧ s.inDraft 63 = true) ∧
    (let o : LoomOp := { kind := .draft, seq := 9, arg := 0, replies := [(0, 0, .ok)] };
      let s := { mesh with loom := { nr := 2, nc := 2, ops := [o] } };
      s.loom.ops = [o] ∧ o.replies.length + 1 < s.opDevices o ∧ (∃ r ∈ o.replies, r.1 = 0 ∧ r.2.1 = 0) ∧
      ∀ r ∈ o.replies, ¬(r.1 = 1 ∧ r.2.1 = 1)) := by
  unfold Meshed Threaded
  decide

theorem witness_LoomBarriersAndFaults :
    (let s := mesh;
      Threaded s ∧ s.loom.undo = none ∧ s.barGen (.step 0) = 0 ∧ 2 ∈ s.childPorts ∧ 2 ∉ (s.bar (.step 0)).children ∧
      s.arrivedHere (.step 0) = false ∧ 0 ∉ s.childPorts) ∧
    (let s := { mesh with loom := { nr := 2, nc := 2, row := 0, col := 1, stepBars := [(0, { localDone := true })] } };
      s.childPorts = [2] ∧ (s.bar (.step 0)).sentUp = false ∧ s.isRoot = false ∧
      ∀ key ∈ [BarKey.step 0, .job 3 15], s.arrivedHere key = true) ∧
    (let s := { mesh with loom := { nr := 2, nc := 2, row := 1, col := 1, jobBars := [(16 * 3 + 15, { gen := 7, sentUp := true })],
                                    stepBars := [(63, { sentUp := true })] } };
      (s.bar (.job 3 15)).gen = 7 ∧ (s.bar (.job 3 15)).sentUp = true ∧ s.parentPort = 0 ∧ s.jobCores 3 = [] ∧ s.childPorts = [] ∧
      s.isRoot = false ∧ (s.base 63).step = 0 ∧ (s.bar (.step 63)).sentUp = true ∧ (s.base 63).repl = none) ∧
    (let s := { mesh with loom := { nr := 2, nc := 2, row := 0, col := 1, jobBars := [(16 * 3 + 15, { sentUp := true })] } };
      (s.bar (.job 3 15)).sentUp = true ∧ s.childPorts ≠ []) ∧
    (∀ b ∈ [175000000, 175000001],
      let s := { mesh b with loom := { isOrigin := true, stepBars := [(0, { firstBeat := some 0 })] } };
      (s.bar (.step 0)).firstBeat = some 0 ∧ s.isOrigin = true ∧ s.fld Fld.beatBarTmo_timeout ≠ 0 ∧
      (0 + s.fld Fld.beatBarTmo_timeout < s.beat ↔ b = 175000001)) ∧
    (let s := { mesh with sched := { ctxs := [(5, { st := .launched, job := 3 })] } };
      s.jobCtxs 3 = [5] ∧ s.cmdsOf 5 = [] ∧ s.sched.cmds = []) := by
  unfold Threaded
  decide

theorem witness_BeatRows :
    Meshed mesh ∧ (∀ n ∈ [15, 16], let s := { mesh with loom := { nr := 2, nc := 2, exchanges := n, delay := some 3 } };
      Threaded s ∧ s.loom.prep = none ∧ ceilDiv (1024 + s.loom.delay.getD 0 / 2) 512 < 2 ^ 64 ∧
      (16 ≤ s.loom.exchanges ↔ n = 16)) ∧
    (let s := { mesh 7 with loom := { starts := [(3, 7)] }, sched := { ctxs := [(0, { job := 3, startBeat := some 7 })] } };
      s.sys.tclk = true ∧ (3, 7) ∈ s.loom.starts ∧ 7 ≤ s.beat ∧ (s.ctx 0).job = 3 ∧ (s.ctx 0).startBeat = some 7) ∧
    (let s := (mesh 48).setFld Fld.beatCtrl_markShift 4;
      s.fld Fld.beatCtrl_markShift ≠ 0 ∧ s.beat % 2 ^ s.fld Fld.beatCtrl_markShift = 0) := by
  unfold Meshed Threaded
  decide

/-- Core 0 runs a command of job 3 of client 2; remote tag 6 is held by its thread 1 for 8 bytes. -/
def rmtDev (b : Nat := 0) : State :=
  let o : RmtOp := { core := 0, thread := 1, epoch := 0, kind := 0, addr := 64, localOff := 128, len := 8, beat := 0 };
  let s := on1 [];
  let s := { s with loom := { nr := 2, nc := 2 }, rmt := [(6, some o)], sched := { s.sched with
    ctxs := [(0, { st := .launched, job := 3, client := 2, part := 0 })], parts := [(0, some ⟨0, 1, false, none⟩)] } };
  (s.setFld Fld.devState_state 3).setRaw Reg.beatCount (BitVec.ofNat 64 b)

/-- A PUT of 2 bytes, and a reply with 2 bytes. -/
def rmtHead (op : Nat) (a : BitVec 64) : RmtHdr :=
  { addr := a, row := 0, col := 0, tag := 6, epoch := 0, op := op, accType := 0, count := 2, total := 2, refusal := 0, phase := 0,
    job := 3, client := 2 }

theorem witness_RoutedAndRemoteRows :
    (rmtDev.sys.tclk = true ∧ rmtDev.devState = 3 ∧ rmtDev.hopTo 1 1 = some 2 ∧ rmtDev.hopTo 0 1 = some 1) ∧
    rmtDev.rmtIn = [] ∧ (∀ st, (rmtDev.stack st).failNote = none) ∧
    (∀ op ∈ [1, 8, 9, 10], let h := rmtHead op (BitVec.ofNat 64 (2 ^ 41));
      h.count = 2 ∧ h.op ≠ 0 ∧ h.row < 64 ∧ h.col < 128 ∧ h.addr.toNat < 2 ^ 44 ∧ h.tag < 4096 ∧ h.op < 16 ∧ h.accType < 4 ∧
      h.total = 2 ∧ h.refusal < 256 ∧ h.phase < 256 ∧ h.job < 2 ^ 16 ∧ h.client < 2 ^ 16 ∧ h.epoch = 0) ∧
    (∀ o, SMap.get rmtDev.rmt none 6 = some o → o.orphan = false ∧ o.epoch = (rmtDev.core o.core).epoch ∧
      (rmtDev.core o.core).phase = .running ∧ (rmtDev.thread o.core o.thread).st ≠ .idle ∧ rmtDev.replyLate o = false) ∧
    (SMap.get rmtDev.rmt none 6).isSome = true ∧
    (rmtDev 350000).beat ≤ 0 + 350000 ∧ 0 + 350001 ≤ (rmtDev 350001).beat := by
  refine ⟨by decide, rfl, fun st => rfl, by decide, ?_, by decide, by decide, by decide⟩
  intro o h
  cases h
  decide

/-- A reply at b_s + 8,750, and one beat later. -/
theorem witness_RoutedAndRemoteRows_late :
    ∀ b ∈ [8750, 8751], let s := rmtDev b;
      let s := { s with sched := { s.sched with ctxs := [(0, { st := .launched, job := 3, client := 2, saving := [⟨0, 0⟩] })] } };
      ((SMap.get s.rmt none 6).map s.replyLate = some true ↔ b = 8751) ∧ (SMap.get s.rmt none 6).isSome = true := by
  decide

/-- A client without a context of the job is refused; the spool of core 0 is reached. -/
theorem witness_RoutedAndRemoteRows_spots :
    (rmtDev.rmtSpots 4 2 true 0 2 = .error 2) ∧
    rmtDev.rmtSpots 3 2 true (2 ^ 41) 2 = .ok ((List.range 2).map fun i => .spool 0 (0 + i)) := by
  decide


/-! ### Witnesses: vault, tellers and warp circulation -/

/-- Stream 31 of core 0 waits in the queue of stack 0 with a transfer of one element of 4 bytes, direction `d`. -/
def vaultDev (d : W64) (b : Nat := 0) : State :=
  let o : Xfer := { start := 0, count := 1, dst := [], far := [0], pas := [0], bytes := [1, 2, 3, 4] };
  let s := onCore { streams := [(31, { st := .running, desc := [0x28 + d, 0, 0, 0x400040], out := [o] })] };
  { s with vstacks := [(0, { queue := [.xfer 0 31 0] })] }.setRaw Reg.beatCount (BitVec.ofNat 64 b)

theorem witness_VaultRows :
    (∀ d ∈ [0, 1], (vaultDev d).sched.unpub = []) ∧
    (let s := vaultDev 0;
      s.sys.tclk = true ∧ (s.stack 0).queue = [.xfer 0 31 0] ∧ (((s.core 0).stream 31).xfer 0).isSome = true ∧ Healthy s ∧
      dDir ((s.core 0).stream 31).desc = 0) ∧
    (let s := vaultDev 1;
      s.sys.tclk = true ∧ (s.stack 0).queue = [.xfer 0 31 0] ∧ (((s.core 0).stream 31).xfer 0).isSome = true ∧ Healthy s ∧
      dDir ((s.core 0).stream 31).desc = 1) ∧
    (let s := (vaultDev 0).setFld (Fld.vltStatus_state 0) 5;
      (∀ k, k < 16 → (s.stack k).failNote = none ∧ s.marked k = none) ∧ s.fld (Fld.vltStatus_state (stackOf (64 * (0 / 64)))) = 5) ∧
    (∀ b ∈ [3500, 3501], let s := vaultDev 0 b;
      s.fld (Fld.vltStatus_state 0) ≠ 5 ∧ s.loom.undo = none ∧ ((s.stack 0).idleFrom + 3500 < s.beat ↔ b = 3501)) ∧
    (let s := (vaultDev 0).setFld (Fld.vltCtrl_scrubHours 0) 1; Healthy s ∧ s.fld (Fld.vltCtrl_scrubHours 0) ≠ 0) ∧
    (vaultDev 0).fld (Fld.vltCtrl_scrubHours 15) = 24 ∧
    (let s := (vaultDev 0).setFld (Fld.vltScrubPos_line 0) (2 ^ 30 - 1); s.fld (Fld.vltScrubPos_line 0) = 2 ^ 30 - 1) := by
  unfold Healthy
  refine ⟨fun d _ => rfl, ?_, ?_, ⟨?_, ?_⟩, ?_, ⟨?_, ?_⟩, ?_, ?_⟩
  · decide
  · decide
  · decide
  · decide
  · decide
  · decide
  · decide
  · decide
  · decide

/-- Open jobs of core 0: a TEL.CMD of stack 0 alone, one that has faulted on stack 15, a TEL.ATTN of no tokens that stack 15 has
still to compute, and one of which stack 0 has computed a partial and stack 15 has met a fault. -/
def telDev : State :=
  { onCore {
    threads := [(1, { st := .ready })]
    slots := [(3, { bound := true, len := 1024, st := .filling, user := .tel 0 })]
    tel := [(0, { thread := 1, ctx := 0, words := [], indices := [], data := [], dst := 0, slot := some 3, left := [0], replies := [(0, {})] }),
            (1, { thread := 1, ctx := 0, words := [], indices := [], data := [], dst := 0, slot := none, left := [0, 15],
                  replies := [(15, { fault := some 0x0C })] })]
    attn := [(0, { thread := 1, ctx := 0, words := [], queries := [], slot := 2, split := 1, left := [0, 15] }),
             (1, { thread := 1, ctx := 0, words := [], queries := [], slot := 2, split := 1, left := [0, 15],
                   parts := [(0, .part [1, 2, 3, 4, 5, 6, 7, 8]), (15, .err 0x0C)] })]
    merge := some ⟨1, 4096, [1, 2], some 4⟩ } with vstacks := [(15, { queue := [.attn 0 0] })] }

theorem witness_TellerReplies :
    telDev.sys.tclk = true ∧ Healthy telDev ∧
    (∀ j, telJob telDev 0 0 = some j → SMap.get (j.replies.map fun e => (e.1, some e.2)) none 0 = some {} ∧ j.failed = false ∧
      (∀ k ∈ j.left, k = 0) ∧ j.slot = some 3 ∧ ((telDev.core 0).slot 3).st = .filling ∧ ((telDev.core 0).slot 3).user = .tel 0) ∧
    (telJob telDev 0 0).isSome = true ∧
    (∀ j, telJob telDev 0 1 = some j → SMap.get (j.replies.map fun e => (e.1, some e.2)) none 15 = some { fault := some 0x0C } ∧
      j.failed = false ∧ (∃ k ∈ j.left, k ≠ 15) ∧ (telDev.core 0).phase = .running ∧ (telDev.thread 0 j.thread).st ≠ .idle) ∧
    (telJob telDev 0 1).isSome = true ∧
    (∀ j, attnJob telDev 0 0 = some j → j.split = 1 ∧ (telDev.stack 15).queue = .attn 0 0 :: [] ∧
      ({ telDev with lineErrs := [] }.setStack 15 { telDev.stack 15 with
        queue := []
        idleFrom := telDev.beat }).attnHost 0 0 15 = none) ∧
    (attnJob telDev 0 0).isSome = true ∧
    (∀ j, attnJob telDev 0 1 = some j → (∃ m ∈ j.left, m ≠ 0 * j.split + 0) ∧ 0 < j.split ∧ 0 * j.split + 0 ∈ j.left ∧
      15 * j.split + 0 ∈ j.left ∧ SMap.get (j.parts.map fun e => (e.1, some e.2)) none 0 = some (.part [1, 2, 3, 4, 5, 6, 7, 8]) ∧
      SMap.get (j.parts.map fun e => (e.1, some e.2)) none 15 = some (.err 0x0C)) ∧
    (attnJob telDev 0 1).isSome = true ∧ (telDev.core 0).merge = some ⟨1, 4096, [1, 2], some 4⟩ := by
  refine ⟨by decide, by unfold Healthy; decide, ?_, by decide, ?_, by decide, ?_, by decide, ?_, by decide, by decide⟩
  all_goals (intro j h; cases h; decide)

/-- A base of one layer of one 128 × 128 E4M3 image: 71 flits. -/
def model1 : Model := ⟨[], 0, [], 0, 0, 1, [⟨128, 128, none⟩], []⟩
def ent1 : DraftEntry := ⟨0, false, 0, 0, 1, 0⟩
/-- A pass of it, with PASS_SEQ 8 and start beat 100. -/
def pass1 (st : PassSt) : Pass := { msg := ⟨0, 8, 1, 100, 0, 0, 0, 0⟩, ent := ent1, total := 71, expected := 36, st := st }

/-- A device of a 1 × `nc` lattice at position 0 with a draft of one entry and passes `xs`. -/
def warpDev (xs : List Pass) (b : Nat := 0) (nc : Nat := 2) (w : Warp := {}) : State :=
  { dev 3 b with loom := { nr := 1, nc := nc, aOut := 1, bOut := 3, isOrigin := true },
                 warp := { w with draft := some ⟨1, [ent1]⟩, bases := [(0, { st := .loaded, model := some model1, begun := true,
                                                                               passesLeft := 2 })], passes := xs } }

theorem witness_PassStartRows :
    (let s := warpDev [];
      Threaded s ∧ s.isOrigin = true ∧ s.warp.waiting = none ∧ s.warp.draft = some ⟨1, [ent1]⟩ ∧
      (⟨1, [ent1]⟩ : Draft).entries[s.warp.nextEntry]? = some ent1 ∧ ent1.transposed = false ∧ s.stepFor ent1 = some 0 ∧
      s.passAt 7 = none ∧ s.passAt 8 = none) ∧
    (let s := warpDev [] 0 2 { waiting := some ⟨2, []⟩ }; s.warp.waiting = some ⟨2, []⟩ ∧ s.warp.nextEntry = 0) ∧
    (∀ b ∈ [100, 99], let s := warpDev [pass1 .scheduled] b;
      s.passAt 8 = some (pass1 .scheduled) ∧ ((pass1 .scheduled).msg.start ≤ s.beat ↔ b = 100) ∧
      (pass1 .scheduled).expected ≠ 0 ∧ ent1.first = 0 ∧ (pass1 .scheduled).msg.step = (s.base 0).step) := by
  unfold Threaded
  decide

theorem witness_WarpFlitRows :
    (let s := warpDev [pass1 .open_]; let x := pass1 .open_;
      Threaded s ∧ s.halfAt 1 = some false ∧ s.halfAt 3 = some true ∧ (∀ f ∈ (s.port 1).txq, f.type ≠ 1) ∧ s.warp.passes = x :: [] ∧
      x.st ≠ .scheduled ∧ s.ownNext x false (x.injected false) = some 0 ∧ Healthy s ∧ s.sched.unpub = [] ∧
      s.stackBefore (s.flitPas x 0) = none ∧
      s.openPasses.find? (fun y => y.msg.seq % 8 = (70 : BitVec 27).toNat / 2 ^ 22 % 8) = some x ∧
      70 < x.total ∧ s.ownIndex x 70 = false ∧ (70 : BitVec 27).getLsbD 25 = false ∧ (70 : BitVec 27).getLsbD 26 = false ∧
      s.passAt x.msg.seq = some x ∧ SMap.has x.flits 70 = false ∧
      (∀ y ∈ s.openPasses, y.msg.seq % 8 ≠ (BitVec.ofNat 27 (2 ^ 22)).toNat / 2 ^ 22 % 8)) ∧
    (∀ b ∈ [350102, 350103], let s := warpDev [pass1 .open_] b; let x := pass1 .open_;
      (x.msg.start + ceilDiv x.total 45 + s.slackOf x < s.beat ↔ b = 350103) ∧ x.lastBeat + s.slackOf x < s.beat) ∧
    (let s := warpDev [pass1 .open_]; s.missing (pass1 .open_) ≠ []) ∧
    (let s := warpDev [pass1 .open_] 0 1; s.missing (pass1 .open_) = []) := by
  unfold Threaded Healthy
  decide

/-- Every pass and index has a payload that passes the end-to-end check, and one that fails it. -/
theorem witness_WarpFlitRows_crc (x : Pass) (i : Nat) :
    (∃ payload, field payload 232 8 = (x.crc i (payload.take 232)).toNat) ∧
    ∃ payload, field payload 232 8 ≠ (x.crc i (payload.take 232)).toNat := by
  have h : (List.replicate 232 (0 : Byte)).length = 232 := List.length_replicate
  have e : ∀ n, n < 2 ^ 64 → field (List.replicate 232 (0 : Byte) ++ leBytes n 8) 232 8 = n := by
    intro n hn
    have h8 : (leBytes n 8).length = 8 := length_leBytes n 8
    rw [field, List.drop_left' h, List.take_of_length_le (by omega), leNat_leBytes]
    exact Nat.mod_eq_of_lt hn
  have k : ∀ n, (List.replicate 232 (0 : Byte) ++ leBytes n 8).take 232 = List.replicate 232 0 := fun n => List.take_left' h
  refine ⟨⟨List.replicate 232 0 ++ leBytes (x.crc i (List.replicate 232 0)).toNat 8, ?_⟩,
    ⟨List.replicate 232 0 ++ leBytes (((x.crc i (List.replicate 232 0)).toNat + 1) % 2 ^ 64) 8, ?_⟩⟩
  · rw [e _ (BitVec.isLt _), k]
  · rw [e _ (Nat.mod_lt _ (by decide)), k]
    have := (x.crc i (List.replicate 232 0)).isLt
    omega

theorem witness_RecallRows :
    (let s := warpDev [pass1 .open_]; let x := pass1 .open_;
      Threaded s ∧ Healthy s ∧ s.sched.unpub = [] ∧ s.recentPasses.find? (fun x => x.msg.seq = 8) = some x ∧
      s.recentPasses.find? (fun x => x.msg.seq = 9) = none ∧ s.stackBefore ((recallIndices ⟨8, 0, 1, 0, 0⟩).flatMap (s.flitPas x)) = none ∧
      (∀ i, i < 35 → 0 + i < x.total ∧ s.ownIndex x (0 + i) = true) ∧ s.ownIndex x 35 = false) ∧
    (let x := { pass1 .closing with recalls := [⟨70, 500⟩] };
      (∀ b ∈ [500, 501], let s := warpDev [x] b;
        s.passAt 8 = some x ∧ x.recalls.find? (fun r => r.index = 70) = some ⟨70, 500⟩ ∧ (s.beat ≤ 500 ↔ b = 500)) ∧
      (let s := warpDev [x]; (s.base 0).begun = true ∧ x.msg.step = (s.base 0).step ∧ (s.base 0).skip = none ∧
        1 < (s.base 0).passesLeft ∧ s.sched.cmds = [])) := by
  unfold Threaded Healthy
  decide

/-- Core 0 is the one core of a lattice of 1 × 1, on a device that is the whole loom. -/
def bandDev (fifo : List WarpTile := []) : State :=
  let s := warpDev [pass1 .open_] 0 1;
  { s with cmap := { logical := [0] }, cores := [(0, { fifo := fifo })],
           sched := { parts := [(0, some ⟨0, 1, false, none⟩)],
                      ctxs := [(0, { st := .launched, resident := true, latW := 1, latS := 1, lat := [0] })] } }

theorem lattice_one : ({ st := .launched, resident := true, latW := 1, latS := 1, lat := [0] } : Context).latPlace 0 = some (0, 0) := by
  simp [Context.latPlace, latticePlace]

def band1 : BandImage := { lay := 0, mat := 0, img := 0, first := 0, count := 128 }

theorem mapM_some {α β : Type} (f : α → Option β) : ∀ l : List α, (∀ a ∈ l, (f a).isSome = true) → ∃ ys, l.mapM f = some ys
  | [], _ => ⟨[], rfl⟩
  | a :: l, h => by
    obtain ⟨y, hy⟩ := Option.isSome_iff_exists.1 (h a (by simp))
    obtain ⟨ys, hys⟩ := mapM_some f l (fun b hb => h b (by simp [hb]))
    exact ⟨y :: ys, by simp [List.mapM_cons, hy, hys]⟩

theorem witness_RecallRows_images (f : List WarpTile) :
    (bandDev f).nextImage 0 = some (pass1 .open_, [band1], 0) ∧ [band1][0]? = some band1 ∧
    (bandDev f).expertRule ((bandDev f).core 0) (pass1 .open_) band1 = some ((bandDev f).core 0, true) ∧
    ∃ bs, (bandDev f).bandImage (pass1 .open_) band1 = some bs ∧ bs.length ≤ 65536 := by
  have hc : (bandDev f).imageCtx 0 0 = some (1, 0) := by
    have : (bandDev f).imageCtx 0 0 = (({ st := .launched, resident := true, latW := 1, latS := 1, lat := [0] } : Context).latPlace 0).map
      fun g => (1, g.1) := by
      simp only [State.imageCtx]
      rfl
    rw [this, lattice_one]
    rfl
  have hd : (bandDev f).delivers (pass1 .open_) = true := rfl
  have hp : (bandDev f).warp.passes = [pass1 .open_] := rfl
  have hk : ((bandDev f).core 0).cursor 0 = (0, 0) := rfl
  have hb : (pass1 .open_).ent.base = 0 := rfl
  have hs : (pass1 .open_).msg.seq = 8 := rfl
  have hm : (bandDev f).geo 0 = model1 := rfl
  have hg : passBand ((bandDev f).geo 0) (pass1 .open_).ent 1 0 = [band1] := by rw [hm]; decide
  refine ⟨?_, rfl, rfl, ?_⟩
  · simp only [State.nextImage, State.toDeliver, hp, hk, List.findSome?_cons, List.findSome?_nil, hd, hb, hs, hc, hg]
    rfl
  · have h : ∃ ys, (bandDev f).passImage (pass1 .open_) band1.lay band1.img = some ys ∧ ys.length ≤ 65536 := by
      obtain ⟨xs, hx⟩ := mapM_some (fun i => (bandDev f).flitBytes (pass1 .open_) i) (List.range 71) (by
        intro i hi
        have := List.mem_range.1 hi
        have ho : (bandDev f).ownIndex (pass1 .open_) i = true := by
          have hr : runAt ((bandDev f).geo (pass1 .open_).ent.base) (bandDev f).nDev (pass1 .open_).ent.transposed
              (bandDev f).loom.pos = (0, 71) := by
            rw [hb, hm]
            show runAt model1 1 false 0 = (0, 71)
            decide
          have hl : ((pass1 .open_).place i).2 = i % 71 := rfl
          simp only [State.ownIndex, hr, hl]
          simp
          omega
        simp only [State.flitBytes, ho, if_true, Option.isSome_some])
      have hl : imgLen model1 = 16384 := by decide
      have h1 : (pass1 .open_).ent.transposed = false := rfl
      have h2 : band1.img = 0 := rfl
      have h3 : band1.lay = 0 := rfl
      refine ⟨xs.flatten.take 16384, ?_, ?_⟩
      · simp only [State.passImage, hb, hm, hl, h1, h2, h3, flitLen]
        norm_num
        rw [hx]
      · simp only [List.length_take]
        omega
    obtain ⟨ys, h1, h2⟩ := h
    exact ⟨ys, by simp only [State.bandImage]; rw [h1]; rfl, h2⟩


/-! ### Witnesses: steps, dispatch, swaps and the ledger -/

def sess1 : Session :=
  { client := 0, base := 0, weft := none, ring := 0, maxCtx := 1, seed := 0, params := [], paramsAddr := 0, group := 0, pages := [], dir := 0,
    inStep := true }

/-- Session 5 has a decode row at position 0 in the step of base 0, whose passes have closed and whose outputs are there. -/
def stepDev (left : Nat := 0) : State :=
  let s := warpDev [];
  { s with warp := { s.warp with bases := [(0, { st := .loaded, model := some model1, begun := true, passed := true, passesLeft := left })] },
           sched := { ctxs := [(0, { st := .launched, serving := true, resident := true, stepDone := true, rows := [(5, 0, 0, 0)] })] },
           sessions := [(5, some sess1)] }

theorem witness_StepCommits :
    (let s := stepDev;
      Threaded s ∧ s.canCommit 0 = true ∧ (∃ c ∈ s.childPorts, c ∉ (s.bar (.step 0)).children) ∧ s.servingNow 0 = [0] ∧
      (s.ctx 0).rows = [(5, 0, 0, 0)] ∧ s.session 5 = some sess1 ∧ sess1.base = 0 ∧
      (∀ e ∈ s.sessionsOn 0, s.closeTaken e.1 = none ∧ e.2.migrating = none)) ∧
    (stepDev 1).canCommit 0 = false := by
  unfold Threaded
  decide

/-- Context 0 of DEDICATED partition 0 on logical core 0, which is physical core 0. -/
def dispDev (x : Context) (d : Nat := 3) : State :=
  { dev d with cmap := { logical := [0] },
               sched := { programs := [(0, some prog)], parts := [(0, some ⟨0, 1, false, none⟩)],
                          ctxs := [(0, { x with st := .launched, resident := true })] } }

theorem witness_CommandDispatches :
    (let s := dispDev { rerun := [cmd0] };
      s.sys.tclk = true ∧ s.serving = true ∧ s.part (s.ctx 0).part = some ⟨0, 1, false, none⟩ ∧ (s.ctx 0).serving = false ∧
      (s.ctx 0).runs = true ∧ cmd0.ctx = 0 ∧ s.fenceMet 0 cmd0 = true ∧ s.coresIdle cmd0 = true) ∧
    (dispDev {}).hasReady 0 = false := by
  decide

theorem witness_CommandDispatches_next :
    (let s := dispDev { rerun := [cmd0] }; s.nextOf 0 = some (.cmd cmd0 { s.ctx 0 with rerun := [] })) ∧
    (let s := (dispDev { rerun := [cmd0] }).setRaw (Reg.pwrEntry 0)
        (Fld.insert (Fld.pwrEntry_coreOff 0) (Fld.insert (Fld.pwrEntry_valid 0) (Fld.insert (Fld.pwrEntry_coreCount 0) 0 1) 1) 1);
      s.nextOf 0 = some (.refuse 1)) := by
  refine ⟨?_, ?_⟩
  · have h : (dispDev { rerun := [cmd0] }).setOff 0 1 = false := by decide
    simp only [State.nextOf]
    show (if (dispDev { rerun := [cmd0] }).setOff 0 1 = true then _ else _) = _
    rw [h]
    rfl
  · simp only [State.nextOf]
    show (if State.setOff _ 0 1 = true then _ else _) = _
    rw [if_pos (by decide)]
    rfl

/-- A device at beat `b` whose partition 0 has contexts `xs`, and which runs `ks`. -/
def swapDev (xs : List (Nat × Context)) (ks : List (Nat × Option RunCmd)) (b : Nat := 0) : State :=
  { dev 3 b with cmap := { logical := [0] }, cores := [(0, { threads := [(0, { st := .waiting (.slotFull 3) })], phase := .running })],
                 sched := { parts := [(0, some ⟨0, 1, false, some (0, 0)⟩)], ctxs := xs, cmds := ks } }

def res : Context := { st := .launched, resident := true }
def waiter : Context := { st := .launched, rerun := [{ cmd0 with ctx := 4 }], waitOrder := 1 }
def five : List (Nat × Context) := [(0, res), (1, res), (2, res), (3, res), (4, waiter)]
def cmd3 (side : Bool) : RunCmd := { cmd0 with ctx := 3, side := side }
def folds (k : Nat) : Nat × Option RunCmd := (k, some { cmd0 with ctx := k, phase := .folding })

theorem witness_TurnsAndSwaps :
    (∀ b ∈ [10, 9], let s := (swapDev [] [] b).setFld (Fld.schedPart_slice 0) 10;
      s.part 0 = some ⟨0, 1, false, some (0, 0)⟩ ∧ (0 + s.fld (Fld.schedPart_slice 0) ≤ s.beat ↔ b = 10)) ∧
    (let s := swapDev [(0, res), (1, res), (2, res), (4, waiter)] [];
      s.sys.tclk = true ∧ s.serving = true ∧ (s.residents 0).length < 4 ∧ (1, 4) ∈ s.waiters 0 ∧
      (∀ e ∈ s.waiters 0, 1 < e.1 ∨ e = (1, 4))) ∧
    (let s := swapDev five [];
      4 ≤ (s.residents 0).length ∧ s.swapDue 0 = true ∧ s.swapChoice 0 = some 3 ∧ s.cmdsOf 3 = []) ∧
    (∀ side ∈ [true, false], let s := swapDev five [folds 0, folds 1, folds 2, (3, some (cmd3 side))];
      s.swapDue 0 = true ∧ s.swapChoice 0 = some 3 ∧ s.cmdsOf 3 = [(3, cmd3 side)] ∧ (cmd3 side).phase = .running ∧
      (cmd3 side).pending = false ∧
      s.killable (cmd3 side) = !side ∧ (∀ v ∈ (s.ctx 3).saving, v.cmd ≠ 3)) ∧
    (let c := { cmd3 false with faulted := some (0, 0, 4) }; let s := swapDev five [folds 0, folds 1, folds 2, (3, some c)];
      s.swapDue 0 = true ∧ s.swapChoice 0 = some 3 ∧ s.cmdsOf 3 = [(3, c)] ∧ c.phase = .running ∧ c.pending = true) ∧
    (swapDev [] []).swapDue 0 = false := by
  decide

theorem witness_TurnsAndSwaps_saves :
    (let s := swapDev [(0, { res with saving := [⟨0, 0⟩] })] [(0, some cmd0)];
      s.saves 0 = (⟨0, 0⟩, cmd0) :: [] ∧ cmd0.ctx = 0 ∧ s.saveReady cmd0 = true) ∧
    (∀ b ∈ [8750, 8751],
      let s := { swapDev [(0, { res with saving := [⟨0, 0⟩] })] [(0, some cmd0)] b with
        rmt := [(0, some { core := 0, thread := 0, epoch := 0, kind := 0, addr := 0, localOff := 0, len := 1, beat := 0 })] };
      s.saves 0 = (⟨0, 0⟩, cmd0) :: [] ∧ (0 + 8750 < s.beat ↔ b = 8751) ∧ s.killable cmd0 = true ∧ s.openRemote cmd0 = true ∧
      cmd0.phase = .running ∧ s.saveReady cmd0 = false) ∧
    (let s := dispDev { saved := [⟨cmd0, [{}]⟩] };
      (s.ctx 0).saved = ⟨cmd0, [{}]⟩ :: [] ∧ (s.ctx 0).runs = true ∧ s.coresIdle cmd0 = true ∧ s.setCores cmd0 = [0]) := by
  decide

/-- Ring `n` with 2^6 entries and queue pair 2, which is ready, on a port that is up; `k` records produced. -/
def ringDev (n k : Nat) (b : Nat := 0) (e : Eth := {}) : State :=
  let s := { dev 3 b with eth := e };
  let s := (s.setFld Fld.ethStatus_state 2).setFld (Fld.ethQp_state 2) 1;
  let s := (s.setFld (Fld.ethRingCfg_enable n) 1).setFld (Fld.ethRingCfg_qp n) 2;
  (s.setFld (Fld.ethRingCfg_log2Entries n) 6).setRaw (Reg.ethRingProd n) (BitVec.ofNat 64 k)

def rec0 : StepRec := ⟨0, 0, 0, 0, 0, 0, 0, 0, 0, 0, 0, 0⟩

theorem witness_LedgerRows :
    (∀ b ∈ [17500, 17499], let s := dev 3 b;
      s.sys.tclk = true ∧ s.serving = true ∧ (s.ledger.intervalFrom + 17500 ≤ s.beat ↔ b = 17500) ∧
      (s.ledger.accounts.map (·.1)).Nodup) ∧
    (let s := { ringDev 255 63 with ledger := { held := [rec0] } };
      s.ledger.held = rec0 :: [] ∧ s.ringLive 255 = true ∧ 0 < s.ringRoom 255) ∧
    (ringDev 255 64).ringRoom 255 = 0 ∧
    (∀ b ∈ [2 ^ 30, 2 ^ 30 - 1], let s := dev 3 b; (s.warp.halvedAt + 2 ^ 30 ≤ s.beat ↔ b = 2 ^ 30)) := by
  decide

/-! ### Witnesses: Genot commands -/

/-- The attached host's port of a device is up, and data queue pairs 2 and 1023 are ready. -/
def hosted (s : State) : State :=
  ((((s.setFld Fld.ethStatus_state 2).setFld Fld.ethAttach_attached 1).setFld (Fld.ethQp_state 0) 1).setFld (Fld.ethQp_state 2) 1).setFld
    (Fld.ethQp_state 1023) 1

def host (d : Nat) (b : Nat := 0) : State := hosted (dev d b)

/-- A command with a new SEQ arrives at a READY, a THREADED and a FAULTED device, and its region may be named. -/
theorem witness_arrives : Arrives (host 2) 1 True False False ∧ Arrives (host 3) 1 False True False ∧ Arrives (host 5) 1 False False True ∧
    RegionOk (host 3) ⟨0, 0, 0, 2⟩ ∧ RegionOk (host 3) ⟨0, 0, 0, 1023⟩ ∧ ¬RegionOk (host 3) ⟨0, 0, 0, 1⟩ := by
  unfold Arrives RegionOk
  decide

theorem witness_DeviceCommands : Arrives (host 3) 1 True True True ∧ (host 3).devState ≠ 5 ∧ (host 3).anyLaunched = false ∧
    (0x1BFFFF8 : W64).toNat % 8 = 0 ∧ (0x1BFFFF8 : W64).toNat + 8 * 1 ≤ 0x1C00000 ∧ (regSpec 0x60000).isSome = true ∧
    0x60000 / 0x10000 ∈ [6, 9, 11] ∧ (0x1004CF008 : W64).toNat ≠ 0 ∧ (BitVec.ofNat 64 (0x100008 + 0x1000 * 1231)).toNat = 0x100008 + 0x1000 * 1231 ∧
    regSpec 0xFF0000 = none ∧
    (let s := hosted (dispDev {}); s.anyLaunched = true ∧ s.exact ≠ decide ((1 : Byte) = 1) ∧ s.exact = decide ((0 : Byte) = 1)) := by
  unfold Arrives
  decide

theorem witness_RegisterCommands : Arrives (host 3) 1 True True True ∧
    (Fld.strStatus_rearmLost 0 0).of (BitVec.allOnes 64 &&& BitVec.allOnes 64) = 1 ∧
    ((host 3).flag (Fld.ethRingCfg_enable 255) = false ∧ (BitVec.ofNat 64 (2 ^ 31 + 16 * 2 ^ 26 + 2 * 2 ^ 16)).getLsbD 31 = true) ∧
    (let s := hosted (ringDev 0 0); s.flag (Fld.ethRingCfg_enable 0) = true) ∧ (BitVec.allOnes 64).getLsbD 31 = true ∧ (0 : W64).getLsbD 31 = false ∧
    (host 3).eth.devAddr = none ∧
    (let s := hosted { dev 3 with eth := { devAddr := some (.v4 9) } };
      let s := s.setRaw Reg.ethIp4 (BitVec.ofNat 64 (2 ^ 32 + 9));
      s.eth.devAddr = some (.v4 9) ∧ s.ownIp (.v4 9) = true) ∧
    ((host 3).flag Fld.secCtrl_lock = false ∧ (3 &&& BitVec.allOnes 64 : W64).getLsbD 1 = true ∧ (host 3).flag Fld.secCtrl_testLock = false ∧
      (3 &&& BitVec.allOnes 64 : W64).getLsbD 0 = true) ∧
    ((host 3).setFld Fld.secCtrl_lock 1).flag Fld.secCtrl_lock = true ∧ (BitVec.allOnes 64 &&& BitVec.allOnes 64).getLsbD 63 = true ∧
    (host 3).claims = [] ∧
    (let s := hosted { dev 3 with claims := [⟨1, 2, 0, 7⟩] };
      (∃ c ∈ s.claims, c.kind = 2 ∧ c.index = 7) ∧ s.flag (Fld.dbgTraceCfg_enable 7) = false ∧ (1 : W64).getLsbD 0 = true ∧
      (1 : W64).getLsbD 16 = false) := by
  unfold Arrives
  decide

theorem witness_PlanCommands : Arrives (host 3) 1 True True True ∧
    (let s := host 3;
      s.devState ≠ 5 ∧ s.sys.trans = none ∧ s.sys.powerActs = [] ∧ s.sys.clockCmds = [] ∧ s.flag Fld.calStatus_valid = false ∧
      s.fld Fld.clkStatus_point = (2 : Byte).toNat ∧ s.fld Fld.clkStatus_point ≠ (1 : Byte).toNat) ∧
    ((host 3).setFld Fld.calStatus_valid 1).flag Fld.calStatus_valid = true ∧
    (∃ a, (host 3).checkPlan [] = .inl a) ∧ (∃ es, (host 3).checkPlan [0, 0, 0, 0, 0, 0, 0, 0] = .inr es) ∧ (host 3).cmap.logical.Nodup ∧
    claimCount 4 ≤ 0 ∧ 7 < claimCount 0 ∧ 31 < claimCount 1 ∧ 7 < claimCount 2 ∧ 31 < claimCount 3 ∧
    (∀ c ∈ (host 3).claims, ¬(c.kind = 3 ∧ c.index = 31)) ∧ (host 3).fld (Fld.xptHolder_holder (31 / 8) (31 % 8)) ≠ 1 ∧ (host 3).nextClaim < 2 ^ 24 ∧
    (let s := hosted { dev 3 with claims := [⟨5, 0, 0, 7⟩, ⟨6, 3, 0, 31⟩] };
      s.claims.find? (fun c => c.id = (5 : W32).toNat) = some ⟨5, 0, 0, 7⟩ ∧
      s.claims.find? (fun c => c.id = (6 : W32).toNat) = some ⟨6, 3, 0, 31⟩ ∧ (∀ c ∈ s.claims, c.id ≠ (7 : W32).toNat) ∧
      (∀ d ∈ s.claims, d.id ≠ 5 → ¬(d.kind = 0 ∧ d.index = 7))) := by
  unfold Arrives
  refine ⟨?_, ?_, ?_, ⟨_, rfl⟩, ⟨_, rfl⟩, ?_⟩ <;> decide

/-- An enrolment in the empty slot 0 of a strongbox as shipped, by any key that the model of the curve takes for a point; an
enrolment elsewhere before that, and a slot past the last. -/
theorem witness_StoreCommands_enrol (key : Bytes) (h : keyOk key = true) :
    (host 3).changeRefusal ⟨1, 0, some key, []⟩ = none ∧ (host 3).changeRefusal ⟨1, 63, some key, []⟩ = some .denied ∧
    (host 3).changeRefusal ⟨1, 64, some key, []⟩ = some .badArgument ∧ (host 3).changeRefusal ⟨1, 63, none, []⟩ = some .denied := by
  have a : (host 3).anchorTaken 0 key = false := by
    apply List.any_eq_false.2
    intro i hi
    have e : (host 3).anchor i = {} := rfl
    simp [e]
  have o : (host 3).owned = false := rfl
  have e : ∀ i, (host 3).anchor i = {} := fun i => rfl
  have c : (host 3).sec.enrolCount = 0 := rfl
  refine ⟨?_, ?_, ?_, ?_⟩ <;> simp [State.changeRefusal, h, o, a, e, c]

theorem witness_StoreCommands : Arrives (host 3) 1 True True True ∧ (host 3).devState ≠ 5 ∧ (host 3).sec.changes = [] ∧
    (∀ o ∈ (host 3).sec.flash, ∃ p, o = .retire p) ∧
    (let g : Region := ⟨0, 262144, 0, 2⟩; RegionOk (host 3) g ∧ g.length.toNat = 262144 ∧ (host 3).anyLaunched = false) ∧
    ((262144 - 8192 : W32).toNat + (8192 : W32).toNat ≤ 262144 ∧ 262144 < (262144 : W32).toNat + (1 : W32).toNat) ∧
    (SMap.get (host 3).ledger.accounts none 0xFFFF).isSome = true ∧ SMap.get (host 3).ledger.accounts none 0 = none ∧
    (let bs := ((host 3).accounts.flatMap fun e => accountRecord e.1 e.2) ++ (host 3).baseCounts ++ (host 3).weftCounts;
      bs.length ≤ (⟨0, 262144, 0, 2⟩ : Region).length.toNat) := by
  unfold Arrives RegionOk
  refine ⟨by decide, by decide, rfl, ?_, by decide, by decide, by decide, by decide, ?_⟩
  rotate_left
  · have a : (host 3).accounts = [(0xFFFF, {})] := rfl
    have w : (host 3).weftCounts = [] := rfl
    have l : ((⟨0, 262144, 0, 2⟩ : Region).length).toNat = 262144 := by decide
    rw [a, w, l]
    simp [State.baseCounts, accountRecord, List.length_flatMap]
  intro o h
  cases h


def hostMesh (b : Nat := 0) (w : Warp := {}) : State := hosted (warpDev [] b 2 w)

/-- A READY device whose current grade is its best, with one CREATED context of job 3. -/
def gradeDev (g : Nat) : State :=
  (hosted (({ dev 2 with cmap := { logical := [0] },
                         sched := { programs := [(0, some prog)], parts := [(0, some ⟨0, 1, false, none⟩)],
                                    ctxs := [(0, { st := .created, job := 3 })] } }.setFld Fld.devGrade_logicalCores 1088).setFld
                                      Fld.devGrade_grade g))

theorem witness_LoomCommands_launch : ∃ g, g < 3 ∧ Arrives (gradeDev g) 1 True False False ∧ (gradeDev g).regradeDue = false ∧
    (gradeDev g).tooFew = false ∧ (gradeDev g).createdOf 3 = [0] ∧
    (∀ e ∈ (gradeDev g).sched.ctxs, e.2.st ≠ .free → e.2.job = 3 → e.2.serving = false) ∧ (gradeDev g).exact = false ∧
    (gradeDev g).launchCheck 0 = .ok ∧ ((gradeDev g).jobBarriers 3).length < 64 ∧ (gradeDev g).createdOf 4 = [] := by
  have hg := Config.orderedGrade.isLt
  have few : ∀ g, gradeOf 1232 < 3 → (gradeDev g).tooFew = false := by
    intro g he
    have ht : (gradeDev g).tooFew = decide (gradeOf 1232 = 3) := rfl
    rw [ht, decide_eq_false (by omega)]
  have f : ∀ g, g < 3 → gradeOf 1232 < 3 → (gradeDev g).launchCheck 0 = .ok := by
    intro g hl he
    have hp : (gradeDev g).part ((gradeDev g).ctx 0).part = some ⟨0, 1, false, none⟩ := rfl
    have hq : (gradeDev g).program ((gradeDev g).ctx 0).program = some prog := rfl
    simp only [State.launchCheck, hp, hq, few g he]
    interval_cases g <;> decide
  have e : (gradeDev Config.orderedGrade.val).fld Fld.devGrade_grade = Config.orderedGrade.val := by
    generalize Config.orderedGrade.val = g at hg
    interval_cases g <;> decide
  refine ⟨Config.orderedGrade.val, hg, ?_, grade_due _ rfl rfl e, few _ (grade_all ▸ hg), ?_, ?_, ?_, f _ hg (grade_all ▸ hg), ?_, ?_⟩ <;>
    generalize Config.orderedGrade.val = g at hg <;> interval_cases g <;> (try unfold Arrives) <;> decide

/-- With 145 retired cores too few are usable. -/
theorem witness_LoomCommands_tooFew :
    (let s := { hostMesh with cmap := { retired := List.replicate 145 0 }, sched := { ctxs := [(0, { st := .launched })] } };
      Arrives s 1 False True False ∧ s.isOrigin = true ∧ s.tooFew = true ∧ s.anyLaunched = true) ∧
    Arrives hostMesh 1 False True False ∧ hostMesh.tooFew = false := by
  have h : ∀ s : State, s.cmap = { retired := List.replicate 145 0 } → s.tooFew = true := by
    intro s hs
    have hu : s.usableCores = 1087 := by simp [State.usableCores, hs, nCores]
    have hg : gradeOf 1087 = 3 := by
      simp only [gradeOf]
      generalize Config.orderedGrade = g
      revert g
      decide
    rw [State.tooFew, hu, hg]
    rfl
  have f : hostMesh.tooFew = false := by
    have ht : hostMesh.tooFew = decide (gradeOf 1232 = 3) := rfl
    have hg := Config.orderedGrade.isLt
    rw [ht, grade_all, decide_eq_false (by omega)]
  refine ⟨⟨?_, ?_, h _ rfl, ?_⟩, ?_, f⟩ <;> (try unfold Arrives) <;> decide

theorem witness_LoomCommands :
    (let s := hosted (disco {}); Arrives s 1 True True True ∧ s.disc.seq = none ∧ s.upPorts ≠ []) ∧
    (hosted (disco { seq := some 9 })).disc.seq.isSome = true ∧
    (let s := hosted (disco { isOrigin := true, origin := some 5, result := some 0 });
      Arrives s 1 True False True ∧ s.disc.isOrigin = true ∧ s.disc.result = some 0 ∧ s.loom.ops = [] ∧ s.disc.origin.isSome = true) ∧
    (Arrives (host 3) 1 False True False ∧ (host 3).isOrigin = false) ∧
    (let s := hostMesh;
      Arrives s 1 False True False ∧ s.isOrigin = true ∧ s.anyLaunched = false ∧ RegionOk s ⟨0, 0, 0, 2⟩ ∧ s.loom.ops = [] ∧
      ¬RegionOk s ⟨0, 0, 0, 1⟩) ∧
    (let s := { hostMesh with sched := { ctxs := [(0, { st := .launched })] } }; s.anyLaunched = true) := by
  unfold Arrives RegionOk
  refine ⟨?_, ?_, ?_, ?_, ?_, ?_⟩
  · decide
  · decide
  · decide
  · decide
  · decide
  · decide

def weft1 : Weft :=
  { client := 0, base := 0, modelId := [], version := 0, anchor := [], total := 0, pages := [none], progAddr := 0 }

/-- A threaded device whose base 0 is loaded and at step 5, and which knows weft 7. -/
def packDev : State :=
  let s := hosted (dev 3);
  { s with warp := { bases := [(0, { st := .loaded, model := some model1, step := 5 })], wefts := [(7, some weft1)] } }

theorem witness_PackageCommands : Arrives packDev 1 False True False ∧ RegionOk packDev ⟨0, 0, 0, 2⟩ ∧ packDev.sec.keysInUse.length < 16 ∧
    (packDev.base 63).st = .absent ∧ (packDev.base 0).model.isSome = true ∧ packDev.weft 7 = some weft1 ∧ weft1.pages[0]? = some none ∧
    (packDev.base 0).beganBefore 5 packDev.beat = false ∧ (4 : W64).ult (packDev.base 0).step = true ∧ (packDev.base 1).model = none ∧
    packDev.weft 0 = none ∧ packDev.inDraft 0 = false ∧ packDev.replacing 0 = false ∧ weft1.staged = none ∧ weft1.old = none ∧
    packDev.sched.cmds = [] ∧ (packDev.base 0).begins.find? (fun e => e.1 = 4) = none ∧
    (let s := { packDev with warp := { packDev.warp with bases := [(0, { begins := [(5, 3)] })] } };
      (s.base weft1.base).begins.find? (fun e => e.1 = 5) = some (5, 3)) ∧
    packDev.weftSessions 7 = false ∧ hostMesh.inDraft 0 = true ∧
    { packDev with sessions := [(5, some { sess1 with weft := some 7 })] }.weftSessions 7 = true := by
  unfold Arrives RegionOk
  decide

/-- A command of a context of the client runs while weft 7 has its page in frame 9 and is mapped at page 3. -/
theorem witness_PackageCommands_maps :
    let x : Weft := { weft1 with pages := [some 9], progAddr := 3 * 0x200000 };
    let k : Sched := { cmds := [(0, some cmd0)], ctxs := [(0, { st := .launched, pages := [(3, .resident 9)] })] };
    let s := { packDev with warp := { wefts := [(7, some x)] }, sched := k };
    Arrives s 1 True True False ∧ s.weft 7 = some x ∧ x.staged = none ∧ x.old = none ∧ s.cmdAt 0 = some cmd0 ∧
      (s.ctx cmd0.ctx).st ≠ .free ∧ (s.ctx cmd0.ctx).client = x.client ∧ x.pages[0]? = some (some 9) ∧
      SMap.get (s.ctx cmd0.ctx).pages .unmapped (x.progAddr / pageBytes + 0) = .resident 9 := by
  unfold Arrives
  decide

/-- A threaded device with context 255 as `x` and program 0. -/
def ctxDev (x : Context) (ks : List (Nat × Option RunCmd) := []) : State :=
  let s := hosted (dev 3);
  { s with cmap := { logical := [0] }, sched := { programs := [(0, some prog)], ctxs := [(255, x)], cmds := ks } }

theorem witness_ContextCommands :
    (let s := ctxDev {};
      Arrives s 1 True True False ∧ RegionOk s ⟨0, 640, 0, 2⟩ ∧ ¬RegionOk s ⟨0, 0, 0, 0⟩ ∧ (s.ctx 0).st = .free ∧
      s.createBad ⟨0, 63, 0, 255, 0, 0, 1199, 1, 0⟩ prog 640 = false ∧ s.createBad ⟨0, 63, 0, 255, 0, 0, 1200, 1, 0⟩ prog 640 = true) ∧
    (∀ st ∈ [CtxSt.created, .launched, .preempted, .faulted], ((ctxDev { st := st }).ctx 255).st = st ∧
      ((ctxDev { st := st }).ctx 255).preempts = [] ∧ ((ctxDev { st := st }).ctx 255).swapping = false ∧
      ((ctxDev { st := st }).ctx 255).degraded = false ∧ (ctxDev { st := st }).cmdsOf 255 = [] ∧ ((ctxDev { st := st }).ctx 255).serving = false ∧
      ((ctxDev { st := st }).sched.ctxs.map (·.1)).Nodup) ∧
    (∀ side ∈ [true, false], let c := { cmd0 with ctx := 255, side := side }; let s := ctxDev { st := .launched } [(0, some c)];
      s.cmdsOf 255 = [(0, c)] ∧ c.phase = .running ∧ c.pending = false ∧ s.killable c = !side ∧ (∀ v ∈ (s.ctx 255).saving, v.cmd ≠ 0)) ∧
    (∀ c ∈ [{ cmd0 with faulted := some (0, 0, 4) }, { cmd0 with ending := some .aborted }], c.phase = .running ∧ c.pending = true) := by
  unfold Arrives RegionOk
  decide

theorem witness_ContextCommands_program : (ctxDev {}).program 0 = some prog ∧ (ctxDev {}).program 255 = none := ⟨rfl, rfl⟩

/-- A threaded device with a base in its draft, a SERVING context 0 and ring 0 enabled; session 5 is `x`. -/
def sessDev (x : Option Session) (st : CtxSt := .created) : State :=
  let s := (hosted (warpDev [])).setFld (Fld.ethRingCfg_enable 0) 1;
  { s with sched := { ctxs := [(0, { st := st, serving := true })] }, sessions := [(5, x)] }

theorem witness_SessionCommands :
    (let s := sessDev none; let l := sessLayout (s.ctx 0) (((s.base 0).model.map (·.layers)).getD 0) 4096 0;
      Arrives s 1 False True False ∧ s.openRefusal 0 0 none 0 4096 [] = none ∧ s.openRefusal 0 64 none 0 4096 [] = some .badArgument ∧
      s.freeSessionId = some 0 ∧ s.servingCtx 0 0 = some 0 ∧ s.cmdsOf 0 = [] ∧
      (freeWindow (s.clientPages (s.ctx 0).client) l.frames).isSome = true ∧ s.vpages = [] ∧ RoomFor s 0 l ∧ s.session 5 = none) ∧
    (let x := { sess1 with maxCtx := 3, committed := 1, prompt := [⟨7, false, 0, 0, true⟩] }; let s := sessDev (some x);
      s.session 5 = some x ∧ x.left_ = none ∧ x.closing = none ∧ x.migrating = none ∧
      x.committed + x.prompt.length + [(9 : W32)].length ≤ x.maxCtx ∧ x.maxCtx < x.committed + x.prompt.length + (2 : W32).toNat ∧
      RegionOk s ⟨0, 4, 0, 2⟩ ∧ s.loom.nr = 1 ∧ s.loom.nc = 2 ∧ s.loom.row = 0 ∧ s.loom.col = 0 ∧ s.noCommits x = true) ∧
    (let s := sessDev (some sess1) .launched; s.noCommits sess1 = false) ∧
    (let m : MigSession := { client := 0, base := 0, weft := none, ring := 0, maxCtx := 4096, seed := 0, params := [], committed := 1,
                             history := [3], lastTok := 0, prompt := [], promptOpen := true, kv := [] };
      let s := sessDev none; let l := sessLayout (s.ctx 0) (((s.base 0).model.map (·.layers)).getD 0) 4096 0;
      Threaded s ∧ s.migRefusal m = none ∧ s.migRefusal { m with client := 9 } = some .notFound ∧ s.servingCtx m.client m.base = some 0 ∧
      (freeWindow (s.clientPages (s.ctx 0).client) l.frames).isSome = true ∧ RoomFor s 0 l) ∧
    (let x := { sess1 with migrating := some (4, 0, 1) }; let s := sessDev (some x);
      s.openSessions.find? (fun e => (e.2.migrating.map (·.1)) = some 4) = some (5, x)) := by
  unfold Arrives RegionOk Threaded RoomFor
  decide

theorem witness_SessionCommands_ids : (sessDev none).lineErrs = [] ∧ (sessDev none).sched.unpub = [] := ⟨rfl, rfl⟩

/-! ### Witnesses: Ethernet, posting, bring-up, power and the test port -/

def frame (len : Nat) (v : Option (BitVec 12 × BitVec 3)) (d : IpAddr) (b : FrameBody) : EthFrame :=
  { dstMac := macOf Config.serial, srcMac := 0, srcIp := .v4 7, dstIp := d, vlan := v, dscp := 0, ce := false, length := len, body := b }

/-- The device has address 9, and its attached host address 7. -/
def ethDev (x : Qp := {}) (b : Nat := 0) (r : Nat := 256) : State :=
  let s := { host 3 b with eth := { qps := [(0, x), (2, x)] } };
  let s := (s.setRaw Reg.ethIp4 (BitVec.ofNat 64 (2 ^ 32 + 9))).setFld (Fld.ethQp_rate 2) r;
  (s.setRaw Reg.ethHostIpLo (BitVec.ofNat 64 (0xFFFF * 2 ^ 32 + 7))).setRaw Reg.ethHostIpHi 0

theorem witness_EthernetRows :
    (ethDev.ethUp = true ∧ ethDev.portRuns = true) ∧
    (∀ n ∈ [9216, 9217], (9216 < (frame n none (.v4 9) .echo).length ↔ n = 9217) ∧ ethDev.vlanOk (frame n none (.v4 9) .echo) = true) ∧
    ethDev.vlanOk (frame 64 (some (5, 0)) (.v4 9) .echo) = false ∧
    ethDev.frameForUs (frame 64 none (.v4 9) (.arp (.v4 9))) = true ∧ ethDev.frameForUs (frame 64 none (.v4 9) (.arp (.v4 8))) = false ∧
    (2 ^ 24 - 1 + 1) % 2 ^ 24 = ethDev.fld (Fld.ethQpPsn_nextSend 0) ∧ ethDev.fld (Fld.ethQpPsn_expected 0) = 0 ∧ ethDev.eth.msgIn = none ∧
    ethDev.putsOn 0 = [] ∧
    Arrives ethDev 1 True True True ∧ ethDev.classPaused (ethDev.fld Fld.ethCfg_cnpPrio) = false ∧ (ethDev.qp 2).cnpSent = none ∧
    (ethDev.fld (Fld.ethQp_state 2) = 1 ∧ (ethDev.qp 2).lastCut = none ∧ (ethDev {} 0 255).fld (Fld.ethQp_rate 2) < 256) ∧
    (∀ b ∈ [8750, 8749], let s := ethDev { lastCut := some 0, lastCnp := some 0 } b;
      (s.qp 2).lastCut = some 0 ∧ (0 + s.fld Fld.ethCc_hold ≤ s.beat ↔ b = 8750) ∧ (0 + s.fld Fld.ethCc_quiet ≤ s.beat ↔ b = 8750)) ∧
    (∀ n ∈ [6, 7], ∀ b ∈ [1750001, 1750000], let s := ethDev { sentAt := some 0, retries := n } b;
      (s.qp 2).sentAt = some 0 ∧ ((s.qp 2).retries < s.fld Fld.ethXport_retryCnt ↔ n = 6) ∧
      (0 + s.fld Fld.ethXport_retryTmo < s.beat ↔ b = 1750001)) ∧
    (attachOk 5 [⟨1, 5, 0⟩, ⟨2, 0, 0⟩] = true ∧ attachOk 5 [⟨1, 5, 0⟩] = false ∧ (dev 3).mayAttach (.v4 7) = true ∧ ethDev.mayAttach (.v4 6) = false) ∧
    (∀ b ∈ [87500001, 87500000], let s := { host 3 b with eth := { anegFrom := some 0 } };
      s.portRuns = true ∧ s.eth.anegFrom = some 0 ∧ (0 + 87500000 < s.beat ↔ b = 87500001)) := by
  unfold Arrives
  decide

/-- A class whose buffer is full, and one past 192 KiB; a NAK of a read and an acknowledgement of a write; a message in parts. -/
theorem witness_EthernetRows_buffers :
    (∀ n ∈ [0x40000 - 64, 0x40000 - 63], let s := { ethDev with eth := { ethDev.eth with rxHeld := [(0, n)] } };
      (s.rxRoom (frame 64 none (.v4 9) .echo) = true ↔ n = 0x40000 - 64)) ∧
    (∀ n ∈ [0x30000 - 64, 0x30000 - 63],
      let s := { ethDev.setFld Fld.ethCfg_pfcEn 1 with eth := { ethDev.eth with rxHeld := [(0, n)] } };
      (0x30000 < SMap.get s.eth.rxHeld 0 0 + 64 ↔ n = 0x30000 - 63) ∧ (s.fld Fld.ethCfg_pfcEn).testBit 0 = true ∧
      s.eth.xoff.getLsbD 0 = false ∧ s.rxRoom (frame 64 none (.v4 9) .echo) = true) ∧
    (let g : Region := ⟨4096, 64, 0, 2⟩;
      let fr : SentFrame := { dstMac := 0, srcMac := 0, dstIp := none, srcIp := none, psn := 5, body := .read 4096 0 64 };
      let r : Running := { seq := 7, code := 0x45, acceptBeat := 0, region := some g, asked := 1 };
      let s := { ethDev { unacked := [fr] } with eth := { qps := [(2, { unacked := [fr] })], running := [r] } };
      ((s.qp 2).unacked.find? fun g => g.psn = 5) = some fr ∧ s.askerOf 2 fr = some r) ∧
    (let p : HostPut := { region := ⟨4096, 64, 0, 2⟩, bytes := [1], value := 3, psn := some 4 };
      let r : Running := { seq := 7, code := 0x12, acceptBeat := 0, put := some p };
      let s := { ethDev with eth := { ethDev.eth with running := [r] } };
      s.putsOn 2 = [r] ∧ (s.eth.running.map (·.seq)).Nodup ∧ psnLe 4 4 = true ∧ psnLe 4 (2 ^ 24 - 1) = false) ∧
    (let m : PartMsg := { src := IpBits (.v4 7), first := 4, next := 5, bytes := [1, 1] };
      { ethDev with eth := { ethDev.eth with msgIn := some m } }.eth.msgIn = some m) := by
  decide

/-- Frames of RoCEv2 to the device's address, and from its host. -/
theorem witness_EthernetRows_roce (op : RoceOp) (q psn : Nat) (m : Bytes) (c : Bool) :
    let f := { frame 64 none (.v4 9) (.roce op q psn true true m) with ce := c };
    ethDev.frameForUs f = true ∧ FromHost ethDev f 0 ∧ FromHost ethDev f 2 := by
  have h : ethDev.ownIp (.v4 9) = true := by decide
  have e : ethDev.hostIp = IpBits (.v4 7) := by decide
  have a : ethDev.fld (Fld.ethQp_state 0) = 1 ∧ ethDev.fld (Fld.ethQp_state 2) = 1 := by decide
  refine ⟨?_, ⟨a.1, e.symm⟩, a.2, e.symm⟩
  show (decide (macOf Config.serial = macOf Config.serial) && ethDev.ownIp (.v4 9)) = true
  rw [h, decide_eq_true rfl]
  rfl

theorem witness_EthernetRows_message :
    let m : Bytes := [1, 1, 1, 0, 0, 0, 0, 0] ++ leBytes 1 8 ++ List.replicate 16 0;
    (m.take 2 ++ m.drop 2).length = 32 ∧ byteAt m 0 = 1 ∧ byteAt m 1 = 1 ∧ field m 2 2 = 1 ∧ field m 4 4 = 0 ∧
      field m 8 8 = (1 : W64).toNat := by
  decide

def tok0 : TokenRec := ⟨0, 5, 0, 0, 0, 0, 0⟩

/-- A program binary of one instruction word and one entry. -/
def binary : Bytes :=
  leBytes 0x504C4F32 4 ++ leBytes 1 2 ++ [0, 0] ++ leBytes 64 8 ++ leBytes 8 8 ++ leBytes 1 8 ++ leBytes 72 8 ++ List.replicate 24 0 ++
    leBytes 0 8 ++ leBytes 0 8

/-- Command `code` runs and reads a region of `n` bytes, of which it has asked for `k` parts. -/
def reading (code n : Nat) (args : List Nat := []) (k : Nat := 1) : State :=
  let s := host 3;
  let r : Running := { seq := 1, code := code, acceptBeat := 0, args := args, region := some ⟨0, BitVec.ofNat 64 n, 0, 2⟩, asked := k };
  { s with eth := { running := [r] } }

theorem witness_PostingRows :
    (let s := ((hosted { dev 3 with eth := { events := [⟨1, 1, 0, 0, 0, [], none⟩] } })).setFld (Fld.ethQp_state 1) 1;
      s.ethUp = true ∧ s.eth.events = ⟨1, 1, 0, 0, 0, [], none⟩ :: [] ∧ s.fld (Fld.ethQp_state 1) = 1 ∧ s.dataPaused = false) ∧
    (host 3).eth.events = [] ∧
    (let s := ringDev 254 63 0 { tokens := [(254, [tok0])] };
      s.portRuns = true ∧ s.ringLive 254 = true ∧ SMap.get s.eth.tokens [] 254 ≠ [] ∧ 0 < s.ringRoom 254) ∧
    (∀ b ∈ [875, 874], let s := ringDev 255 64 b { consBeat := [(255, 0)] };
      s.ringLive 255 = true ∧ s.ringRoom 255 = 0 ∧ SMap.has s.eth.consBeat 255 = true ∧ (SMap.get s.eth.consBeat 0 255 + 875 ≤ s.beat ↔ b = 875)) ∧
    (∀ a ∈ [true, false], let r : Running := { seq := 1, code := 0x45, acceptBeat := 0, acked := a };
      let s := { host 3 with eth := { running := [r] } }; s.portRuns = true ∧ s.running? 1 = some r ∧ r.acked = a) ∧
    (let s := reading 0x45 3;
      s.ethUp = true ∧ (s.running? 1).isSome = true ∧ s.fld (Fld.ethQp_state 2) = 1 ∧ 1 ∉ s.sec.keyWait) ∧
    (∀ k ∈ [0, 1], (reading 0x45 0x100001 [] k).running? 1 = (reading 0x45 0x100001 [] k).eth.running.head? ∧
      (∀ r ∈ (reading 0x45 0x100001 [] k).eth.running, r.asked = k ∧ r.answered = 0)) ∧
    partLen ⟨0, 0x100001, 0, 2⟩ 0 = 0x100000 ∧ partLen ⟨0, 0x100001, 0, 2⟩ 1 = 1 ∧ partLen ⟨0, 3, 0, 2⟩ 0 = 3 ∧
    (let s := reading 0x50 80;
      (parseBinary binary).isSome = true ∧ binary.length = 80 ∧ s.vpages = [] ∧ s.sched.programs = [] ∧
      firstFrom (fun h => (s.program h).isNone) 0 256 = some 0 ∧ (parseBinary []).isNone = true) ∧
    (let n : NewCtx := ⟨0, 63, 0, 255, 5, 0, 1199, 1, 0⟩; let s := reading 0x51 640 n.list;
      s.sched.parts = [] ∧ s.freeCtx = some 0 ∧ s.cmdsOf 0 = [] ∧ s.noAccount n.client = false ∧ n.quota + saveFrameCount n.count ≤ 524288) ∧
    (let s := { reading 0x61 4 [5, 0, 0, 1, 1] with sessions := [(5, some sess1)] }; s.session 5 = some sess1) ∧
    (headCheck []).isSome = true := by
  decide

/-- A calibration set whose head and digest are right, and one whose digest is wrong, for any digest of its tail. -/
theorem witness_PostingRows_set : ∃ bs : Bytes, headCheck bs = none ∧ cut bs 0xC0 64 = calDigest (bs.drop 0x100) := by
  obtain ⟨pad, hp⟩ : ∃ pad : Bytes, pad.length = 176 := ⟨List.replicate 176 0, List.length_replicate⟩
  have hd : ∀ n, (digestBytes n).length = 64 := fun n => by simp [digestBytes]
  have hf : (leBytes 0x4C414356 4 ++ leBytes 1 4 ++ leBytes Config.serial.toNat 8 ++ pad).length = 0xC0 := by simp [hp]
  refine ⟨(leBytes 0x4C414356 4 ++ leBytes 1 4 ++ leBytes Config.serial.toNat 8 ++ pad) ++ calDigest [], ?_, ?_⟩
  · have h0 : ∀ x : Bytes, field (leBytes 0x4C414356 4 ++ leBytes 1 4 ++ x) 0 4 = 0x4C414356 ∧
        field (leBytes 0x4C414356 4 ++ leBytes 1 4 ++ x) 4 2 = 1 := by
      intro x
      constructor
      · rw [field, List.drop_zero, List.append_assoc, List.take_left' (by simp), leNat_leBytes]
        exact Nat.mod_eq_of_lt (by decide)
      · rw [field, List.append_assoc, List.drop_left' (by simp)]
        rfl
    have h8 : ∀ x : Bytes, field (leBytes 0x4C414356 4 ++ leBytes 1 4 ++ (leBytes Config.serial.toNat 8 ++ x)) 8 8 =
        Config.serial.toNat := by
      intro x
      rw [field, List.drop_left' (by simp), List.take_left' (by simp), leNat_leBytes]
      exact Nat.mod_eq_of_lt Config.serial.isLt
    have e : ∀ x : Bytes, (leBytes 0x4C414356 4 ++ leBytes 1 4 ++ leBytes Config.serial.toNat 8 ++ pad) ++ x =
        leBytes 0x4C414356 4 ++ leBytes 1 4 ++ (leBytes Config.serial.toNat 8 ++ (pad ++ x)) := by
      intro x
      simp only [List.append_assoc]
    rw [e]
    unfold headCheck
    rw [(h0 _).1, (h0 _).2, h8]
    simp
  · have hc : (calDigest []).length = 64 := hd _
    rw [cut, List.drop_left' hf, List.take_of_length_le (by omega), List.drop_of_length_le (by rw [List.length_append, hf, hc])]

/-- In bring-up at phase `n`, TCLK as it runs there. -/
def booting (n : Nat) (y : Sys := {}) : State := { State.reset with sys := { y with tclk := decide (2 ≤ n) } }.setFld Fld.devState_phase n

theorem witness_BringUpRows :
    ((dev 0).devState = 0 ∧ (dev 3).devState ≠ 0 ∧ ((dev 3).regs.map (·.1)).Nodup ∧ (dev 3).sys.vaultLost = false ∧ (dev 3).writingCal = false) ∧
    ({ dev 3 with sec := { flash := [.retire 1231] } }.writingCal = true ∧ (booting 0 { bringupHeld := true }).sys.bringupHeld = true) ∧
    (∀ n, n < 8 → (booting n).devState = 1 ∧ (booting n).sys.bringupHeld = false ∧ (booting n).fld Fld.devState_phase = n) ∧
    (∀ a ∈ [true, false], (booting 1 { freezeAsked := a }).sys.freezeAsked = a) ∧
    ((booting 7).sys.loomOrigin = false ∧ (∀ k, k < 16 → (booting 7).fld (Fld.vltStatus_state k) ≠ 5)) ∧
    (let s := (booting 7).setFld (Fld.vltStatus_state 15) 5;
      (∃ k, k < 16 ∧ s.fld (Fld.vltStatus_state k) = 5) ∧ s.loom.undo = none) := by
  decide

/-- A threaded device at ACLK point `pt` under a plan of POINT `plan`, at an evaluation beat. -/
def powDev (plan pt : Nat) (y : Sys := {}) (b : Nat := 1750) : State :=
  ({ dev 3 b with sys := { y with tclk := true } }.setFld Fld.clkPlan_point plan).setFld Fld.clkStatus_point pt

theorem witness_PowerRows :
    ((dev 0).devState = 0 ∧ (dev 4).devState = 4 ∧ (dev 3).devState ≠ 0 ∧ (dev 3).devState ≠ 4 ∧ (dev 3).flag Fld.clkStatus_rootLock = false ∧
      ((dev 3).setFld Fld.clkStatus_rootLock 1).flag Fld.clkStatus_rootLock = true) ∧
    (∀ t ∈ [94, 95], ((dev 3).fld Fld.pwrTherm_warn ≤ t ↔ t = 95)) ∧
    (let s := { dev 4 with sys := { tclk := false } }; s.devState = 4 ∧ s.sys.tclk = false) ∧
    (let s := powDev 0 2; s.clocksRun = true ∧ s.sys.trans = none ∧ s.aclkTarget < s.fld Fld.clkStatus_point) ∧
    (powDev 2 2).aclkTarget = (powDev 2 2).fld Fld.clkStatus_point ∧
    (∀ r ∈ [true, false], let s := powDev 0 2 { trans := some { point := 0, rising := r, ramped := r } };
      s.sys.trans = some { point := 0, rising := r, ramped := r } ∧ s.flag Fld.clkStatus_ramping = false ∧
      (s.setFld Fld.clkStatus_ramping 1).flag Fld.clkStatus_ramping = true) ∧
    (let s := powDev 2 2;
      s.clocksRun = true ∧ s.beat % 1750 = 0 ∧ s.evaluates = true ∧ s.fld Fld.pwrCap_cap < 3001 ∧ 4 < s.fld Fld.pwrStatus_issueLimit ∧
      s.sys.underFrom = none ∧ 0 + s.fld Fld.pwrCtrl_hyst ≤ s.fld Fld.pwrCap_cap ∧
      s.hottest < s.fld Fld.pwrTherm_throttle - s.fld Fld.pwrTherm_release) ∧
    (powDev 0 2).evaluates = false ∧
    (let s := powDev 2 2 { dieTemps := [(255, 105)] }; s.fld Fld.pwrTherm_throttle ≤ s.hottest) ∧
    (let s := (powDev 0 0).setFld Fld.pwrStatus_issueLimit 4;
      s.fld Fld.pwrStatus_issueLimit ≤ 4 ∧ s.flag Fld.clkPlan_allowDvfs = true ∧ s.fld Fld.clkStatus_point < 2 ∧ s.evaluates = true) ∧
    (let s := (powDev 2 2).setFld Fld.pwrStatus_issueLimit 4; s.evaluates = true ∧ 2 ≤ s.fld Fld.clkStatus_point) ∧
    (let s := powDev 2 2 { underFrom := some 0, powerActs := [.issue] } 17500;
      s.sys.underFrom = some 0 ∧ 0 + s.fld Fld.pwrCtrl_recover ≤ s.beat ∧ s.sys.powerActs = [.issue] ∧ s.evaluates = true ∧ s.beat % 1750 = 0) := by
  decide

theorem witness_TestAndStoreRows :
    ((dev 3).sys.rails = true ∧ (dev 4).devState = 4 ∧ (dev 4).flag Fld.secCtrl_testLock = false ∧ (dev 4).fld Fld.dbgStatus_cause ≠ 3 ∧
      (dev 3).sys.resetN = true ∧ { dev 3 with sys := { resetN := false } }.sys.resetN = false) ∧
    (let s := (dev 4).setFld Fld.dbgStatus_readout 1;
      (2 ^ 40 - 64) % 64 = 0 ∧ 2 ^ 40 - 64 < 2 ^ 40 ∧ s.devState = 4 ∧ s.flag Fld.dbgStatus_readout = true ∧
      s.fld (Fld.vltStatus_state (stackOf (2 ^ 40 - 64))) ≠ 5 ∧ s.marked (stackOf (2 ^ 40 - 64)) = none ∧ s.sys.vaultLost = false ∧
      (s.setFld (Fld.vltStatus_state 0) 5).fld (Fld.vltStatus_state (stackOf 0)) = 5) ∧
    (let s := { dev 3 with claims := [⟨1, 0, 1, 7⟩] }; ∃ c ∈ s.claims, c.kind = 0 ∧ c.function = 1 ∧ c.index = 7) ∧
    (let s := { dev 3 with eth := { running := [{ seq := 1, code := 0x70, acceptBeat := 0 }] }, sec := { quotes := [(1, [])] } };
      s.sec.quotes = (1, []) :: [] ∧ (s.running? 1).isSome = true) ∧
    (∀ o ∈ [FlashOp.enrol 1 0 [], .revoke 1 63, .calWrite 1 [], .retire 1231], let s := { dev 3 with sec := { flash := [o] } };
      s.sec.flash = o :: [] ∧ s.sec.changes = []) ∧
    ((dev 4).sys.tclk = true ∧ State.reset.sys.tclk = false) ∧
    (∀ x ∈ [true, false], let s := { dev 4 with sys := { tclk := false }, sec := { flash := [.retire 1], flashStopped := x } };
      s.sys.tclk = false ∧ s.devState = 4 ∧ s.sec.flash = .retire 1 :: [] ∧ s.sec.flashStopped = x) ∧
    ((0x3FFFC % 4 = 0 ∧ 0x3FFFC < 0x40000) ∧ (1 : W32) ≠ 0) ∧
    (∀ l ∈ [[], [0, 1]], let s := { dev 3 with clerks := [(15, { restarts := l })] };
      (s.fld Fld.errClerks_alive).testBit 15 = true ∧ s.loom.undo = none ∧ (s.clerk 15).restarts = l ∧ s.beat < 0 + 175000000) := by
  decide

/-! ### Witnesses: the whole machine -/

def add1 : Instr := .sclAdd 0 1 (wd 3 5 7 0 0)

/-- A command at the front; a beat while TCLK stands still, and one while it runs, with an XOFF sent. -/
theorem witness_StepRunsTheFront : { on1 [] with pending := [add1] }.pending = add1 :: [] ∧ State.reset.pending = [] ∧
    State.reset.sys.tclk = false ∧
    (let s := { dev 3 with eth := { xoff := 0x80 } };
      s.pending = [] ∧ s.sys.tclk = true ∧ s.sys.vidRamp = none ∧ s.eth.xoff.getLsbD 7 = true) := ⟨rfl, rfl, rfl, by decide⟩

theorem witness_EveryCommandAnswers : add1.wf = true ∧ (Instr.sclAdd 1232 0 (wd 0 0 0 0 0)).wf = false := by decide

theorem witness_WordsOfInstructions : (encodePoilo add1).isSome = true ∧
    (decodePoilo 0 1 [0b0_0000_000000_00011_00101_00111_000000_00000000000000000000000000000000]).isSome = true := by decide

/-- A frozen device that is asked for its identity code. -/
theorem witness_FrozenStandsStill :
    (let s : State := { dev 4 with sys := { tclk := false } }; s.devState = 4 ∧ s.sys.tclk = false) ∧
    (∃ t, exec .idcode { dev 4 with sys := { tclk := false } } = .next t) ∧
    ∃ t, exec (.ijtag (.accWrite 0 0 [1, 0, 0, 0])) { dev 4 with sys := { tclk := false } } = .next t :=
  ⟨by decide, ⟨_, rfl⟩, _, by simp only [exec, execIjtag]; exact if_pos (by decide)⟩

theorem witness_VaultFormKept : Mem.wf (on1 []).vault = true ∧ ∃ t, step { on1 [] with pending := [add1] } = .next t :=
  ⟨by decide, _, rfl⟩

theorem witness_CoreFormsKept : CoreForms { on1 [] with pending := [add1] } ∧
    (∃ w ws, encodePoilo add1 = some (w :: ws) ∧ (w.extractLsb' 59 4).toNat ∈ [0, 1, 2, 3, 6]) ∧
    ∃ t, step { on1 [] with pending := [add1] } = .next t := by
  refine ⟨?_, ⟨_, _, rfl, by decide⟩, _, rfl⟩
  intro p
  have hu : ∀ u, ThreadForms (SMap.get (on1 []).cores {} p |>.thread u) := by
    intro u
    rcases p with _ | p
    · by_cases h : u = 1
      · subst h
        unfold ThreadForms
        decide
      · have e : (SMap.get (on1 []).cores {} 0).thread u = {} := by simp [on1, onCore, SMap.get, Core.thread, h]
        rw [e]
        unfold ThreadForms
        decide
    · have e : SMap.get (on1 []).cores {} (p + 1) = {} := by simp [on1, onCore, SMap.get]
      rw [e]
      show ThreadForms {}
      unfold ThreadForms
      decide
  refine ⟨?_, hu⟩
  rcases p with _ | p
  · decide
  · have e : SMap.get (on1 []).cores {} (p + 1) = {} := by simp [on1, onCore, SMap.get]
    show Mem.wf (SMap.get (on1 []).cores {} (p + 1)).spool = true
    rw [e]
    decide

/-! ### Acceptance order -/

/-- 10 R382: a RESUME of context 0 waits for an earlier PREEMPT of it that still runs, and one of context 1 does not. -/
theorem test_resume_waits_for_preempt :
    let rs : List Running := [{ seq := 1, code := 0x53, acceptBeat := 0, names := [(4, 0)] }]
    holdsUp 2 [(4, 0)] rs = true ∧ holdsUp 2 [(4, 1)] rs = false := by
  decide

/-! ### Reset -/

theorem test_reset_state : State.reset.devState = 1 ∧ State.reset.fld Fld.devState_phase = 0 ∧ State.reset.fld Fld.devId_vendor = 0x5D1A := by
  decide

theorem test_reset_idle : State.reset.pending = [] ∧ step State.reset = .next State.reset := ⟨rfl, rfl⟩

end Sys2Proof.Tests
end

section
/-!
Proofs: what the begin and the completion of a Genot command leave behind (10 R379 to R385), what a register word that is read in
between shows, and the device commands (00 R7, R8, R10; 10 R386).
-/
namespace Sys2Proof.Proofs
open Sys2Proof.Machine Sys2Proof.Safety Sys2Proof.Laws

/-! ### A command that runs, and its completion -/

/-- In `x` the command with `seq`, accepted at the beat of `s`, still runs at that beat, and an outcome of its SEQ is kept. -/
def Awaits (s x : State) (seq : W64) : Prop :=
  (∃ r, x.running? seq = some r ∧ r.acceptBeat = s.beat) ∧ (∃ o, (seq, o) ∈ x.eth.outcomes) ∧ x.beat = s.beat

/-- An update that leaves the Ethernet port's record and BEAT_COUNT alone leaves the command running. -/
theorem Awaits.of_eth {s x y : State} {seq : W64} (h : Awaits s x seq) (he : y.eth = x.eth) (hb : y.beat = x.beat) :
    Awaits s y seq := by
  unfold Awaits State.running? at *
  rwa [he, hb]

theorem takeSeq_eth (s : State) (code : Nat) (seq : W64) :
    (s.takeSeq code seq).eth = { (s.hold seq none).eth with highest := seq } := (traceRec_eth _ _ _ _ _ _).1

theorem begun_outcomes (s : State) (code : Nat) (seq : W64) (names : List (Nat × Nat)) :
    (begun s code seq names).eth.outcomes = (s.hold seq none).eth.outcomes := by
  simp [begun, State.modRunning, State.enter, takeSeq_eth]

theorem mem_outcomes_hold (s : State) (seq : W64) (c : Option Completion) : (seq, c) ∈ (s.hold seq c).eth.outcomes := by
  simp [State.hold]

theorem running?_begun (s : State) (code : Nat) (seq : W64) (names : List (Nat × Nat)) (hr : ∀ r ∈ s.eth.running, r.seq ≠ seq) :
    (begun s code seq names).running? seq = some { seq := seq, code := code, acceptBeat := s.beat, names := names } := by
  have f : s.eth.running.find? (fun r => decide (r.seq = seq)) = none := by simpa using hr
  simp [State.running?, begun_eth s code seq names hr, List.find?_append, f]

/-- A command that has begun runs. -/
theorem awaits_begun {s : State} {seq : W64} {a b c : Prop} (h : Arrives s seq a b c) (code : Nat) (names : List (Nat × Nat)) :
    Awaits s (begun s code seq names) seq := by
  obtain ⟨-, -, -, -, hr, -, -⟩ := h
  refine ⟨⟨_, running?_begun s code seq names fun r hx => (hr r hx).1, rfl⟩, ⟨none, ?_⟩, kept_beat (kept_begun ..)⟩
  rw [begun_outcomes]
  exact mem_outcomes_hold s seq none

theorem charge_eth (s : State) (acct counter n : Nat) : (s.charge acct counter n).eth = s.eth := by
  unfold State.charge
  split <;> rfl

/-- A message sent leaves the running commands and their outcomes alone, and is on its way or held. -/
theorem send_eth (s : State) (m : CmdMsg) :
    (s.send m).eth.running = s.eth.running ∧ (s.send m).eth.outcomes = s.eth.outcomes ∧
      m ∈ (s.send m).eth.undelivered ++ (s.send m).eth.waiting := by
  unfold State.send
  split
  · simp
  · split
    · simp
    · simp [State.transmit, State.qpSend, State.qpRequest, State.modQp, State.putFrames, State.countWrap]

theorem mem_outcomes_settle {x : State} {seq : W64} {o : Option Completion} (h : (seq, o) ∈ x.eth.outcomes) (c : Completion) :
    (seq, some c) ∈ (x.settle seq c).eth.outcomes := List.mem_map.2 ⟨_, h, if_pos rfl⟩

/-- The completion of a command that runs (10 R380, R381, R385). -/
theorem completed_complete {s x : State} {seq : W64} (h : Awaits s x seq) (a : Answer) :
    Completed s (x.complete seq a) seq a.status a.value a.data := by
  obtain ⟨⟨r, hr, hacc⟩, ⟨o, ho⟩, hb⟩ := h
  simp only [State.complete, hr]
  unfold State.completeAs
  extract_lets phase c rx s1 eth s2 s3
  have e1 : s1.eth = x.eth := charge_eth ..
  obtain ⟨hrun, hout, hmsg⟩ := send_eth (s2.settle seq c) (.done c)
  have e2 : s3.eth.running = x.eth.running.filter fun r => r.seq ≠ seq := by
    rw [hrun]
    show s1.eth.running.filter _ = _
    rw [e1]
  have m2 : (seq, o) ∈ s2.eth.outcomes := by
    show _ ∈ s1.eth.outcomes
    rwa [e1]
  unfold Completed Ended
  rw [(traceRec_eth _ _ _ _ _ _).1]
  refine ⟨?_, c, ?_, hmsg, rfl, rfl, rfl, rfl, hacc, hb⟩
  · rw [e2]
    intro q hq
    simpa using (List.mem_filter.1 hq).2
  · rw [hout]
    exact mem_outcomes_settle m2 c

/-! ### A command that completes at once -/

section AtOnce
variable {s x : State} {seq : W64} {a b c : Prop} {code : Nat} {st : States} {run : State → State} {ans : Answer}

theorem stateRefusal_anyState (h : Arrives s seq a b c) : s.stateRefusal anyState = none := by
  obtain ⟨-, -, -, -, -, -, ⟨hd, -⟩ | ⟨hd, -⟩ | ⟨hd, -⟩⟩ := h <;>
    simp [State.stateRefusal, hd, anyState, stFaulted, stThreaded, stReady]

theorem stateRefusal_rdyThr (h : Arrives s seq a b c) (hf : s.devState ≠ 5) : s.stateRefusal rdyThr = none := by
  obtain ⟨-, -, -, -, -, -, ⟨hd, -⟩ | ⟨hd, -⟩ | ⟨hd, -⟩⟩ := h
  · simp [State.stateRefusal, hd, rdyThr, stFaulted, stThreaded, stReady]
  · simp [State.stateRefusal, hd, rdyThr, stFaulted, stThreaded]
  · exact absurd hd hf

/-- A command that answers in a state `x` which differs from that of its begin only in registers: what it leaves is `x` with
what a message changes, and its completion. -/
theorem genot_completes (h : Arrives s seq a b c) (hs : s.stateRefusal st = none)
    (e : run (begun s code seq []) = x.complete seq ans) (hx : Rest s x) (hw : Awaits s x seq) :
    ∃ t, genot code seq st run s = .next t ∧ Kept x t ∧ Completed s t seq ans.status ans.value ans.data := by
  have k := kept_complete x seq ans
  have hk : s.pagesKept (run (begun s code seq [])) = true := by
    rw [e]
    exact pagesKept_of_ctxs (by rw [rest_sched k.1, rest_sched hx])
  refine ⟨x.complete seq ans, ?_, k, completed_complete hw ans⟩
  rw [genot, genotOn_begins h [] code st hs run hk, e]

/-- A command that answers and has no other effect. -/
theorem genot_answers (h : Arrives s seq a b c) (hs : s.stateRefusal st = none)
    (e : run (begun s code seq []) = (begun s code seq []).complete seq ans) :
    ∃ t, genot code seq st run s = .next t ∧ Kept s t ∧ Completed s t seq ans.status ans.value ans.data := by
  have kb := kept_begun s code seq []
  obtain ⟨t, ht, k, hc⟩ := genot_completes h hs e kb.1 (awaits_begun h code [])
  exact ⟨t, ht, kept_trans kb k, hc⟩

/-- A command that stores the register word at `o` and completes. -/
theorem genot_stores (h : Arrives s seq a b c) (hs : s.stateRefusal st = none) {o : Nat} {w : W64} (ho : ¬Mail o)
    (hb : o ≠ Reg.beatCount)
    (e : run (begun s code seq []) = ((begun s code seq []).setRaw o w).complete seq ans) :
    ∃ t, genot code seq st run s = .next t ∧ KeptBut s t o ∧ Completed s t seq ans.status ans.value ans.data ∧ t.raw o = w := by
  have kb := kept_begun s code seq []
  have hw : Awaits s ((begun s code seq []).setRaw o w) seq :=
    (awaits_begun h code []).of_eth rfl (by simp [State.beat, hb.symm])
  obtain ⟨t, ht, k, hc⟩ := genot_completes h hs e kb.1 hw
  refine ⟨t, ht, ⟨k.1.trans kb.1, fun off hne hm => ?_⟩, hc, ?_⟩
  · rw [k.2 off hm, raw_setRaw_ne _ _ _ _ hne, kb.2 off hm]
  · rw [k.2 o ho, raw_setRaw_self]

end AtOnce

/-! ### What a trace record may change among the registers -/

/-- The registers outside the DBG block. -/
def OutsideDbg (off : Nat) : Prop := off < 0xC0000 ∨ 0xD0000 ≤ off

theorem raw_traceLeft (s : State) (m : SMap Nat) (off : Nat) : ({ s with traceLeft := m } : State).raw off = s.raw off := rfl
theorem raw_drive (s : State) (f : Nat) (high : Bool) (off : Nat) : (s.drive f high).raw off = s.raw off := rfl

theorem raw_setFld_dbg (s : State) {f : Fld} (v : Nat) {off : Nat} (hf : 0xC0000 ≤ f.off ∧ f.off < 0xD0000)
    (ho : OutsideDbg off) : (s.setFld f v).raw off = s.raw off :=
  raw_setFld_ne s f v off (by unfold OutsideDbg at ho; omega)

theorem dbgTracePos_inDbg {i : Nat} (hi : i < 8) : 0xC0000 ≤ Reg.dbgTracePos i ∧ Reg.dbgTracePos i < 0xD0000 := by
  unfold Reg.dbgTracePos
  omega

theorem raw_traceTrigger (s : State) {i : Nat} (ix : Nat) (hi : i < 8) {off : Nat} (ho : OutsideDbg off) :
    (s.traceTrigger i ix).raw off = s.raw off := by
  unfold State.traceTrigger
  split
  · rfl
  · extract_lets s1 s2 s3
    have h1 : s1.raw off = s.raw off := raw_setFld_dbg s _ (by decide) ho
    have h2 : s2.raw off = s1.raw off := raw_setFld_dbg s1 _ (dbgTracePos_inDbg hi) ho
    have h3 : s3.raw off = s.raw off := (raw_traceLeft s2 _ off).trans (h2.trans h1)
    split
    · exact (raw_drive s3 2 true off).trans h3
    · exact h3

theorem raw_traceInto (s : State) (src : Nat) (rec : Bytes) {i : Nat} (hi : i < 8) {off : Nat} (ho : OutsideDbg off) :
    (s.traceInto src rec i).raw off = s.raw off := by
  have pos : ∀ (x : State) (lo n v : Nat), (x.setFld ⟨Reg.dbgTracePos i, lo, n⟩ v).raw off = x.raw off :=
    fun x lo n v => raw_setFld_dbg x v (dbgTracePos_inDbg hi) ho
  unfold State.traceInto
  split
  · extract_lets ix mode trig s1 s2 s3 left s4 stop
    have h2 : s2.raw off = s.raw off := pos s1 _ _ _
    have h3 : s3.raw off = s.raw off := by
      simp only [s3]
      split
      · exact (pos s2 _ _ _).trans h2
      · exact h2
    have h4 : s4.raw off = s.raw off := by
      simp only [s4]
      split
      · exact h3
      · split
        · exact (raw_traceTrigger s3 ix hi ho).trans h3
        · exact h3
    split
    · exact (pos s4 _ _ _).trans h4
    · exact h4
  · rfl

theorem raw_traceRec (s : State) (src code core id : Nat) (data : Bytes) {off : Nat} (ho : OutsideDbg off) :
    (s.traceRec src code core id data).raw off = s.raw off := by
  unfold State.traceRec
  extract_lets rec'
  have step : ∀ (l : List Nat) (x : State), (∀ i ∈ l, i < 8) → (l.foldl (fun s i => s.traceInto src rec' i) x).raw off = x.raw off := by
    intro l
    induction l with
    | nil => exact fun x _ => rfl
    | cons i l ih =>
      intro x hl
      have hi := hl i (by simp)
      exact (ih (x.traceInto src rec' i) fun j hj => hl j (by simp [hj])).trans (raw_traceInto x src rec' hi ho)
  exact step (List.range 8) s fun i hi => List.mem_range.1 hi

/-! ### Register words that a command reads as it begins -/

/-- The states differ in nothing that a register outside the DBG block shows. -/
structure SameView (s t : State) : Prop where
  rest : Rest s t
  ledger : t.ledger = s.ledger
  raw : ∀ off, OutsideDbg off → t.raw off = s.raw off

theorem takeSeq_ledger (s : State) (code : Nat) (seq : W64) : (s.takeSeq code seq).ledger = s.ledger :=
  (traceRec_eth _ _ _ _ _ _).2

theorem raw_takeSeq (s : State) (code : Nat) (seq : W64) {off : Nat} (ho : OutsideDbg off) :
    (s.takeSeq code seq).raw off = s.raw off := raw_traceRec _ _ _ _ _ _ ho

theorem begun_ledger (s : State) (code : Nat) (seq : W64) (names : List (Nat × Nat)) :
    (begun s code seq names).ledger = s.ledger := by
  unfold begun State.modRunning State.enter
  exact takeSeq_ledger s code seq

theorem raw_begun (s : State) (code : Nat) (seq : W64) (names : List (Nat × Nat)) {off : Nat} (ho : OutsideDbg off) :
    (begun s code seq names).raw off = s.raw off := by
  unfold begun State.modRunning State.enter
  exact raw_takeSeq s code seq ho

theorem sameView_begun (s : State) (code : Nat) (seq : W64) (names : List (Nat × Nat)) : SameView s (begun s code seq names) :=
  ⟨(kept_begun s code seq names).1, begun_ledger s code seq names, fun _ ho => raw_begun s code seq names ho⟩

/-- A state that `Rest` relates to `s` is `s` with other registers, messages, accounts, trace and GPIO levels. -/
theorem eq_of_rest {s t : State} (h : Rest s t) :
    t = { s with regs := t.regs, eth := t.eth, ledger := t.ledger, trace := t.trace, traceLeft := t.traceLeft,
                 sys := { s.sys with gpioOut := t.sys.gpioOut } } :=
  congrArg (fun x : State => { x with regs := t.regs, eth := t.eth, ledger := t.ledger, trace := t.trace,
                                      traceLeft := t.traceLeft, sys := { x.sys with gpioOut := t.sys.gpioOut } }) h

section Views
variable {s t : State}

theorem SameView.fld (h : SameView s t) {f : Fld} (hf : OutsideDbg f.off) : t.fld f = s.fld f := by
  simp only [State.fld, h.raw _ hf]

/-! Views that read no register depend only on what `Rest` keeps. -/

theorem threadWord_of_rest (h : Rest s t) (p u : Nat) : t.threadWord p u = s.threadWord p u := by
  rw [eq_of_rest h]
  rfl

theorem ctxOnWord_of_rest (h : Rest s t) (p : Nat) : t.ctxOnWord p = s.ctxOnWord p := by
  rw [eq_of_rest h]
  rfl

theorem ctxWait_of_rest (h : Rest s t) (k : Nat) : t.ctxWait k = s.ctxWait k := by
  rw [eq_of_rest h]
  rfl

theorem core_of_rest (h : Rest s t) (p : Nat) : t.core p = s.core p := by simp only [State.core, rest_cores h]

theorem ctx_of_rest (h : Rest s t) (k : Nat) : t.ctx k = s.ctx k := by simp only [State.ctx, rest_sched h]

theorem base_of_rest (h : Rest s t) (b : Nat) : t.base b = s.base b := by simp only [State.base, rest_warp h]

theorem anchor_of_rest (h : Rest s t) (n : Nat) : t.anchor n = s.anchor n := by simp only [State.anchor, rest_sec h]

theorem baseWord_of_rest (h : Rest s t) (b : Nat) : t.baseWord b = s.baseWord b := by
  rw [eq_of_rest h]
  rfl

theorem weftsWord_of_rest (h : Rest s t) : t.weftsWord = s.weftsWord := by simp only [State.weftsWord, rest_warp h]

theorem schedStatusWord_of_rest (h : Rest s t) : t.schedStatusWord = s.schedStatusWord := by
  simp only [State.schedStatusWord, State.liveCtxs, rest_sched h]

theorem dieTemps_of_rest (h : Rest s t) : t.sys.dieTemps = s.sys.dieTemps := by
  have e := congrArg Sys.dieTemps (rest_sys h)
  exact e

theorem cmdsOf_of_rest (h : Rest s t) (k : Nat) : t.cmdsOf k = s.cmdsOf k := by
  rw [eq_of_rest h]
  rfl

theorem SameView.coreMapWord (h : SameView s t) (p : Nat) : t.coreMapWord p = s.coreMapWord p := by
  have hp : t.fld Fld.devState_phase = s.fld Fld.devState_phase := h.fld (.inl (by decide))
  simp only [State.coreMapWord, State.logicalOf, ctxOnWord_of_rest h.rest, rest_cmap h.rest, hp]

theorem SameView.coreWord (h : SameView s t) (p o : Nat) : t.coreWord p o = s.coreWord p o := by
  have hr : t.raw (0x100000 + p * 0x1000 + o) = s.raw (0x100000 + p * 0x1000 + o) := h.raw _ (.inr (by omega))
  simp only [State.coreWord, core_of_rest h.rest, h.coreMapWord, threadWord_of_rest h.rest, hr]

theorem SameView.devModeWord (h : SameView s t) : t.devModeWord = s.devModeWord := by
  simp only [State.devModeWord, rest_sched h.rest, h.raw Reg.devMode (.inl (by decide))]

theorem SameView.hottest (h : SameView s t) : t.hottest = s.hottest := by
  have ht : ∀ st ∈ List.range nStacks, t.fld (Fld.vltStatus_temp st) = s.fld (Fld.vltStatus_temp st) :=
    fun st hs => h.fld (.inl (by
      have : st < 16 := List.mem_range.1 hs
      simp only [Fld.vltStatus_temp, Reg.vltStatus]
      omega))
  unfold State.hottest
  rw [dieTemps_of_rest h.rest]
  exact List.foldl_ext _ _ _ fun a st hs => by rw [ht st hs]

theorem SameView.partWord (h : SameView s t) {n : Nat} (hn : n < 64) : t.partWord n = s.partWord n := by
  have hf : t.fld (Fld.schedPart_slice n) = s.fld (Fld.schedPart_slice n) :=
    h.fld (.inl (by simp only [Fld.schedPart_slice, Reg.schedPart]; omega))
  simp only [State.partWord, State.part, State.liveCtxs, rest_sched h.rest, hf]

theorem SameView.ctxWord (h : SameView s t) {k : Nat} (hk : k < 256) : t.ctxWord k = s.ctxWord k := by
  have hf : t.fld (Fld.schedCtx_prefillRows k) = s.fld (Fld.schedCtx_prefillRows k) :=
    h.fld (.inl (by simp only [Fld.schedCtx_prefillRows, Reg.schedCtx]; omega))
  simp only [State.ctxWord, cmdsOf_of_rest h.rest, ctx_of_rest h.rest, ctxWait_of_rest h.rest, hf]

theorem SameView.ledgStatusWord (h : SameView s t) : t.ledgStatusWord = s.ledgStatusWord := by
  simp only [State.ledgStatusWord, h.ledger, h.fld (f := Fld.ledgStatus_dropped) (.inl (by decide))]

theorem SameView.holdsWarp (h : SameView s t) {p : Nat} (hp : p < nPorts) : t.holdsWarp p = s.holdsWarp p := by
  have hr : t.fld (Fld.lnkPortStatus_role p) = s.fld (Fld.lnkPortStatus_role p) :=
    h.fld (.inl (by unfold nPorts at hp; simp only [Fld.lnkPortStatus_role, Reg.lnkPortStatus]; omega))
  simp only [State.holdsWarp, State.ringPort, State.port, State.throughPort, rest_ports h.rest, rest_loom h.rest, hr]
  rfl

theorem SameView.warpStatusWord (h : SameView s t) : t.warpStatusWord = s.warpStatusWord := by
  have hh : (List.range nPorts).any t.holdsWarp = (List.range nPorts).any s.holdsWarp := by
    rw [Bool.eq_iff_iff, List.any_eq_true, List.any_eq_true]
    exact exists_congr fun p => and_congr_right fun hp => by rw [h.holdsWarp (List.mem_range.1 hp)]
  simp only [State.warpStatusWord, hh, rest_warp h.rest, h.fld (f := Fld.warpStatus_lateStart) (.inr (by decide))]

theorem SameView.secStatusWord (h : SameView s t) : t.secStatusWord = s.secStatusWord := by
  simp only [State.secStatusWord, State.slotsIn, anchor_of_rest h.rest, rest_sec h.rest,
    h.fld (f := Fld.secStatus_wipePending) (.inl (by decide)), h.fld (f := Fld.secStatus_romOk) (.inl (by decide))]

theorem SameView.pwrStatusWord (h : SameView s t) : t.pwrStatusWord = s.pwrStatusWord := by
  simp only [State.pwrStatusWord, h.hottest, h.raw Reg.pwrStatus (.inl (by decide))]

theorem SameView.pwrCoresWord (h : SameView s t) : t.pwrCoresWord = s.pwrCoresWord := by
  simp only [State.pwrCoresWord, State.banksOff, rest_cores h.rest, h.raw Reg.pwrCores (.inl (by decide))]

theorem SameView.devIdWord (h : SameView s t) : t.devIdWord = s.devIdWord := by
  simp only [State.devIdWord, h.raw Reg.devId (.inl (by decide))]

theorem SameView.devGradeWord (h : SameView s t) : t.devGradeWord = s.devGradeWord := by
  simp only [State.devGradeWord, h.raw Reg.devGrade (.inl (by decide))]

/-- A register outside the DBG block reads the same (00 R6). -/
theorem SameView.readReg (h : SameView s t) {off : Nat} (ho : OutsideDbg off) : t.readReg off = s.readReg off := by
  have hpart : Reg.schedPart 0 ≤ off ∧ off < Reg.schedPart 64 →
      t.partWord ((off - Reg.schedPart 0) / 8) = s.partWord ((off - Reg.schedPart 0) / 8) := fun hc =>
    h.partWord (by simp only [Reg.schedPart] at hc ⊢; omega)
  have hctx : Reg.schedCtx 0 ≤ off ∧ off < Reg.schedCtx 256 →
      t.ctxWord ((off - Reg.schedCtx 0) / 16) = s.ctxWord ((off - Reg.schedCtx 0) / 16) := fun hc =>
    h.ctxWord (by simp only [Reg.schedCtx] at hc ⊢; omega)
  simp only [State.readReg, rest_clerkSram h.rest, rest_sec h.rest, h.coreWord, h.devIdWord, h.devGradeWord, h.devModeWord,
    h.pwrStatusWord, h.pwrCoresWord, schedStatusWord_of_rest h.rest, h.ledgStatusWord, h.warpStatusWord, weftsWord_of_rest h.rest,
    h.secStatusWord, baseWord_of_rest h.rest, base_of_rest h.rest, ctx_of_rest h.rest, anchor_of_rest h.rest, h.raw off ho]
  -- Both sides are the same chain of cases now; the words of a context and of a partition still need their number's range.
  iterate 18 refine if_congr Iff.rfl rfl ?_
  refine ite_congr rfl hpart fun _ => ?_
  refine ite_congr rfl (fun hc => ?_) fun _ => rfl
  rw [hctx hc]

end Views

/-! ### The register table -/

/-- An offset past the last register of a table. -/
def pastLast (r : RegSpec) : Nat :=
  r.first + if r.stride = 0 then (if r.stride2 = 0 then 1 else r.count2 * r.stride2) else r.count * r.stride

theorem lt_pastLast_of_has {r : RegSpec} {off : Nat} (h : r.has off = true) : off < pastLast r := by
  simp only [RegSpec.has, Bool.and_eq_true, decide_eq_true_eq] at h
  obtain ⟨⟨⟨hf, hi⟩, hj⟩, -⟩ := h
  unfold pastLast
  by_cases h1 : r.stride = 0
  · by_cases h2 : r.stride2 = 0
    · simp only [h1, h2, if_true, decide_eq_true_eq] at hj ⊢
      omega
    · simp only [h1, h2, if_true, if_false, decide_eq_true_eq] at hj ⊢
      have := (Nat.div_lt_iff_lt_mul (Nat.pos_of_ne_zero h2)).1 hj
      omega
  · simp only [h1, if_false] at hi ⊢
    have := (Nat.div_lt_iff_lt_mul (Nat.pos_of_ne_zero h1)).1 hi
    omega

/-- The tables of the blocks below the cores. -/
def regTableLow : List RegSpec :=
  regTableDev ++ regTableClk ++ regTablePwr ++ regTableBeat ++ regTableLnk ++ regTableXpt ++ regTableVlt ++ regTableEth ++
    regTableSec ++ regTableLedg ++ regTableSched ++ regTableErr ++ regTableDbg ++ regTableCal ++ regTableWarp

theorem regTable_eq : regTable = regTableLow ++ regTableCore := rfl

theorem pastLast_regTableLow : ∀ r ∈ regTableLow, pastLast r ≤ 0x100000 := by decide

/-- A register of a core stands in the tables of the CORE blocks. -/
theorem regSpec_core {off : Nat} (h : 0x100000 ≤ off) : regSpec off = regTableCore.find? (·.has off) := by
  have low : regTableLow.find? (·.has off) = none := by
    rw [List.find?_eq_none]
    intro r hr hh
    have := pastLast_regTableLow r hr
    have := lt_pastLast_of_has hh
    omega
  rw [regSpec, regTable_eq, List.find?_append, low, Option.none_or]

/-- The table of CORE_SLOT_TMO (03 R117). -/
def slotTmoSpec : RegSpec := ⟨0x100008, 0x1000, 1232, 0x0, 1, [⟨0, 24, .rw, 0x2ab98⟩]⟩

theorem regSpec_slotTmo {p : Nat} (hp : p < 1232) : regSpec (0x100008 + 0x1000 * p) = some slotTmoSpec := by
  rw [regSpec_core (by omega)]
  simp [regTableCore, List.find?, RegSpec.has, slotTmoSpec, hp, show 0x100008 + 0x1000 * p - 0x100000 = 8 + 0x1000 * p by omega]

/-! ### REG_WRITE -/

theorem regWriteRun_badArgument {s : State} {seq : W64} {off : Nat} {val mask : W64}
    (h : off % 8 ≠ 0 ∨ 0x1C00000 ≤ off ∨ (off % 8 = 0 ∧ 0x10000 ≤ off ∧ off < 0x1000000 ∧ regSpec off = none)) :
    s.regWriteRun seq off val mask = s.complete seq (.fail .badArgument) := by
  unfold State.regWriteRun
  rcases h with h | h | ⟨h8, hlo, hhi, hn⟩
  · rw [if_pos (.inl h)]
  · rw [if_pos (.inr h)]
  · rw [if_neg (by unfold readEnd; omega), if_neg (by unfold romBase; omega), hn]
    rfl

theorem regWriteRun_denied {s : State} {seq : W64} {off : Nat} {val mask : W64} (h8 : off % 8 = 0)
    (h : off < 0x10000 ∨ (0x1000000 ≤ off ∧ off < 0x1C00000)) :
    s.regWriteRun seq off val mask = s.complete seq (.fail .denied) := by
  unfold State.regWriteRun
  rw [if_neg (by unfold readEnd; omega), if_pos (by unfold romBase; omega)]

theorem regWriteRun_writes {s : State} {seq : W64} {off : Nat} {val mask : W64} {r : RegSpec} (h8 : off % 8 = 0)
    (hlo : 0x10000 ≤ off) (hhi : off < 0x1000000) (hr : regSpec off = some r) :
    s.regWriteRun seq off val mask = (s.writeReg off val mask).complete seq {} := by
  unfold State.regWriteRun
  rw [if_neg (by unfold readEnd; omega), if_neg (by unfold romBase; omega), hr]
  rfl

/-- The offsets of the VLT, LEDG and ERR blocks. -/
def PlainBlock (off : Nat) : Prop :=
  (0x60000 ≤ off ∧ off < 0x70000) ∨ (0x90000 ≤ off ∧ off < 0xA0000) ∨ (0xB0000 ≤ off ∧ off < 0xC0000)

theorem plainBlock_of_block {off : Nat} (h : off / 0x10000 ∈ [6, 9, 11]) : PlainBlock off := by
  simp only [List.mem_cons, List.not_mem_nil, or_false] at h
  unfold PlainBlock
  omega

theorem clampWord_plain {off : Nat} (h : PlainBlock off) (mask w : W64) : clampWord off mask w = w := by
  unfold PlainBlock at h
  unfold clampWord
  rw [if_neg (by omega)]
  iterate 10 rw [if_neg (by
    simp only [Reg.schedPart, Reg.warpCtrl, Reg.lnkCtrl, Reg.beatCtrl, Reg.ethCfg, Reg.ethCc, Reg.ethXport, Reg.pwrCtrl,
      Reg.pwrTherm, Reg.dbgTraceCfg]
    omega)]

theorem writeReg_plain {off : Nat} (h : PlainBlock off) (s : State) (val mask : W64) :
    s.writeReg off val mask = s.storeReg off val mask := by
  unfold PlainBlock at h
  unfold State.writeReg
  rw [if_neg (by omega)]
  iterate 6 rw [if_neg (by
    simp only [Reg.ethRingAddr, Reg.ethIp4, Reg.ethIp6Hi, Reg.ethIp6Lo, Reg.ethCfg, Reg.secCtrl, Reg.pwrTherm, Reg.dbgTraceCfg]
    omega)]

/-- A register of these blocks stores its writable bits (00 R10). -/
theorem storeReg_plain {off : Nat} (h : PlainBlock off) {r : RegSpec} (hr : regSpec off = some r) (s : State) (val mask : W64) :
    s.storeReg off val mask = s.setRaw off (r.written (s.raw off) val mask false) := by
  have hne : off ≠ Reg.secCtrl := by
    unfold PlainBlock at h
    unfold Reg.secCtrl
    omega
  simp only [State.storeReg, hr, clampWord_plain h, hne, decide_false, Bool.false_and]

/-- A write of CORE_SLOT_TMO (03 R117). -/
theorem writeReg_slotTmo {p : Nat} (hp : p < 1232) (s : State) (val mask : W64) :
    s.writeReg (0x100008 + 0x1000 * p) val mask = s.setRaw (0x100008 + 0x1000 * p) ((Fld.coreSlotTmo_timeout 0).fixup mask
      (slotTmoSpec.written (s.raw (0x100008 + 0x1000 * p)) val mask false) (max 175)) := by
  have hi : (0x100008 + 0x1000 * p - 0x100000) / 0x1000 = p := by omega
  have ho : (0x100008 + 0x1000 * p) % 0x1000 = 8 := by omega
  have hr : Reg.coreMap p + 8 = 0x100008 + 0x1000 * p := by unfold Reg.coreMap; omega
  have hne : 0x100008 + 0x1000 * p ≠ Reg.secCtrl := by unfold Reg.secCtrl; omega
  unfold State.writeReg
  rw [if_pos (by omega), hi, ho]
  show s.storeReg (Reg.coreMap p + 8) val mask = _
  rw [hr]
  simp only [State.storeReg, regSpec_slotTmo hp, hne, decide_false, Bool.false_and]
  rw [clampWord, if_pos (by omega), if_pos ho]

/-- A field written into a word reads as what was written, modulo its width. -/
theorem of_insert (f : Fld) (w : W64) (v : Nat) (h : f.lo + f.width ≤ 64) : f.of (f.insert w v) = v % 2 ^ f.width := by
  simpa [State.fld, State.setFld, Fld.of] using fld_setFld_self (State.reset.setRaw f.off w) f v h

theorem slotTmo_written (old val : W64) :
    (slotTmoSpec.written old val (BitVec.allOnes 64) false).toNat % 2 ^ 24 = val.toNat % 2 ^ 24 := by
  have hrw : slotTmoSpec.maskOf [.rw, .rwl] = 0xFFFFFF := by decide
  have hw1c : slotTmoSpec.maskOf [.rw1c, .rw1cs] = 0 := by decide
  have low : (slotTmoSpec.written old val (BitVec.allOnes 64) false).setWidth 24 = val.setWidth 24 := by
    have hones : ∀ v : BitVec 24, v &&& 0xFFFFFF#24 = v := fun _ => BitVec.and_allOnes
    simp [RegSpec.written, hrw, hw1c, BitVec.setWidth_and, BitVec.setWidth_or, hones]
  simpa using congrArg BitVec.toNat low

/-- CORE_SLOT_TMO holds the value written, and 175 where that is less (03 R117). -/
theorem slotTmo_of_written (old val : W64) :
    ((Fld.coreSlotTmo_timeout 0).fixup (BitVec.allOnes 64) (slotTmoSpec.written old val (BitVec.allOnes 64) false)
      (max 175)).toNat % 2 ^ 24 = max 175 (val.toNat % 2 ^ 24) := by
  have hm : (Fld.coreSlotTmo_timeout 0).mask &&& BitVec.allOnes 64 ≠ 0 := by decide
  have hi := of_insert (Fld.coreSlotTmo_timeout 0) (slotTmoSpec.written old val (BitVec.allOnes 64) false)
    (max 175 (val.toNat % 2 ^ 24)) (by decide)
  rw [Fld.fixup, if_neg hm]
  simp only [Fld.of, Fld.coreSlotTmo_timeout, pow_zero, Nat.div_one, slotTmo_written] at hi ⊢
  rw [hi, Nat.mod_eq_of_lt (by omega)]

/-! ### The device commands (00 R7, R8; 10 R386) -/

section Commands
variable {s : State} {seq : W64}

theorem keptBut_of_kept {t : State} (h : Kept s t) (o : Nat) : KeptBut s t o := ⟨h.1, fun off _ hm => h.2 off hm⟩

theorem regBytes_begun (code : Nat) (names : List (Nat × Nat)) (offs : List Nat) (h : ∀ o ∈ offs, OutsideDbg o) :
    (begun s code seq names).regBytes offs = s.regBytes offs := by
  have v := sameView_begun s code seq names
  unfold State.regBytes
  exact List.flatMap_congr fun o ho => by rw [v.readReg (h o ho)]

/-- A command that answers with registers outside the DBG block. -/
theorem genot_reads (h : Arrives s seq True True True) {code : Nat} {run : State → State} {offs : List Nat}
    (ho : ∀ o ∈ offs, OutsideDbg o) (e : ∀ x : State, run x = x.complete seq { data := x.regBytes offs }) :
    ∃ t, genot code seq anyState run s = .next t ∧ Kept s t ∧ Completed s t seq .ok 0 (s.regBytes offs) := by
  rw [← regBytes_begun code [] offs ho (seq := seq)]
  exact genot_answers h (stateRefusal_anyState h) (e _)

theorem deviceInfo_completes (h : Arrives s seq True True True) :
    ∃ t, exec (.deviceInfo seq) s = .next t ∧ Kept s t ∧ Completed s t seq .ok 0 (s.regBytes [0, 8, 16, 0x48000, 0x70008]) :=
  genot_reads h (by unfold OutsideDbg; decide) fun _ => rfl

theorem deviceState_completes (h : Arrives s seq True True True) :
    ∃ t, exec (.deviceState seq) s = .next t ∧ Kept s t ∧
      Completed s t seq .ok 0 (s.regBytes [0x18, 0x20, 0xE0000, 0xA0000, 0x70000]) :=
  genot_reads h (by unfold OutsideDbg; decide) fun _ => rfl

theorem regRead_completes (h : Arrives s seq True True True) {off : W64} {n : W16} (h8 : off.toNat % 8 = 0) (h1 : 1 ≤ n.toNat)
    (hn : n.toNat ≤ 1024) (he : off.toNat + 8 * n.toNat ≤ 0x1C00000)
    (hd : ∀ i, i < n.toNat → ¬(0xC0000 ≤ off.toNat + 8 * i ∧ off.toNat + 8 * i < 0xD0000)) :
    ∃ t, exec (.regRead seq off n) s = .next t ∧ Kept s t ∧
      Completed s t seq .ok 0 (s.regBytes ((List.range n.toNat).map fun i => off.toNat + 8 * i)) := by
  refine genot_reads h (code := 0x10) (run := fun x => x.regReadRun seq off.toNat n.toNat) ?_ fun x => ?_
  · intro o ho
    obtain ⟨i, hi, rfl⟩ := List.mem_map.1 ho
    have := hd i (List.mem_range.1 hi)
    unfold OutsideDbg
    omega
  · simp [State.regReadRun, h8, h1, hn, he, readEnd]

theorem regRead_refused (h : Arrives s seq True True True) {off : W64} {n : W16}
    (hb : off.toNat % 8 ≠ 0 ∨ n.toNat = 0 ∨ 1024 < n.toNat ∨ 0x1C00000 < off.toNat + 8 * n.toNat) :
    ∃ t, exec (.regRead seq off n) s = .next t ∧ Refused s t seq .badArgument := by
  refine genot_answers h (stateRefusal_anyState h) (ans := .fail .badArgument) ?_
  have : ¬(((off.toNat % 8 = 0 ∧ 1 ≤ n.toNat) ∧ n.toNat ≤ 1024) ∧ off.toNat + 8 * n.toNat ≤ readEnd) := by
    unfold readEnd
    omega
  simp [State.regReadRun, this]

theorem regWrite_stores (h : Arrives s seq True True True) {off val mask w : W64} (hm : ¬Mail off.toNat)
    (hb : off.toNat ≠ Reg.beatCount)
    (e : ∀ x : State, x.raw off.toNat = s.raw off.toNat → x.regWriteRun seq off.toNat val mask = (x.setRaw off.toNat w).complete seq {}) :
    ∃ t, exec (.regWrite seq off val mask) s = .next t ∧ KeptBut s t off.toNat ∧ Completed s t seq .ok 0 [] ∧
      t.raw off.toNat = w :=
  genot_stores h (stateRefusal_anyState h) (ans := {}) hm hb (e _ ((kept_begun s 0x11 seq []).2 _ hm))

/-- A REG_WRITE in the VLT, LEDG and ERR blocks. -/
theorem regWrite_plain (h : Arrives s seq True True True) (val mask : W64) {off : W64} {r : RegSpec} (h8 : off.toNat % 8 = 0)
    (hk : PlainBlock off.toNat) (hr : regSpec off.toNat = some r) :
    ∃ t, exec (.regWrite seq off val mask) s = .next t ∧ KeptBut s t off.toNat ∧ Completed s t seq .ok 0 [] ∧
      t.raw off.toNat = r.written (s.raw off.toNat) val mask false := by
  have hk' := hk
  unfold PlainBlock at hk'
  refine regWrite_stores h (by unfold Mail; omega) (by unfold Reg.beatCount; omega) fun x hx => ?_
  rw [regWriteRun_writes h8 (by omega) (by omega) hr, writeReg_plain hk, storeReg_plain hk hr, hx]

/-- A REG_WRITE of CORE_SLOT_TMO. -/
theorem regWrite_slotTmo (h : Arrives s seq True True True) {off : W64} {p : Nat} (hp : p < 1232)
    (ho : off.toNat = 0x100008 + 0x1000 * p) (val : W64) :
    ∃ t, exec (.regWrite seq off val (BitVec.allOnes 64)) s = .next t ∧ KeptBut s t off.toNat ∧ Completed s t seq .ok 0 [] ∧
      (t.raw off.toNat).toNat % 2 ^ 24 = max 175 (val.toNat % 2 ^ 24) := by
  obtain ⟨t, ht, hk, hc, hw⟩ := regWrite_stores h (off := off) (val := val) (mask := BitVec.allOnes 64)
    (by unfold Mail; omega) (by unfold Reg.beatCount; omega) fun x hx => by
      rw [ho] at hx ⊢
      rw [regWriteRun_writes (by omega) (by omega) (by omega) (regSpec_slotTmo hp), writeReg_slotTmo hp, hx]
  exact ⟨t, ht, hk, hc, by rw [hw, slotTmo_of_written]⟩

theorem regWrite_refused (h : Arrives s seq True True True) {off val mask : W64} {st : Status}
    (e : ∀ x : State, x.regWriteRun seq off.toNat val mask = x.complete seq (.fail st)) :
    ∃ t, exec (.regWrite seq off val mask) s = .next t ∧ Refused s t seq st :=
  genot_answers h (stateRefusal_anyState h) (ans := .fail st) (e _)

/-! ### SET_MODE -/

/-- EXACT as a truth value and as the operand of SET_MODE. -/
theorem exact_eq_iff (s : State) {x : Byte} (hx : x.toNat ≤ 1) :
    s.exact = decide (x = 1) ↔ s.fld Fld.devMode_exact = x.toNat := by
  have hf : s.fld Fld.devMode_exact < 2 := Nat.mod_lt _ (by decide)
  have h1 : x = 1 ↔ x.toNat = 1 := BitVec.toNat_inj.symm
  simp only [State.exact, State.flag, h1]
  rw [decide_eq_decide]
  omega

theorem kept_fld_exact {t : State} (h : Kept s t) : t.fld Fld.devMode_exact = s.fld Fld.devMode_exact :=
  kept_fld h _ (by unfold Mail; decide)

theorem anyLaunched_of_rest {t : State} (h : Rest s t) : t.anyLaunched = s.anyLaunched := by
  simp only [State.anyLaunched, rest_sched h]

theorem setMode_refused (h : Arrives s seq True True True) (hs : s.devState ≠ 5) {x : Byte} {st : Status}
    (e : (begun s 0xA0 seq []).setModeRun seq x.toNat = (begun s 0xA0 seq []).complete seq (.fail st)) :
    ∃ t, exec (.setMode seq x) s = .next t ∧ Refused s t seq st :=
  genot_answers h (stateRefusal_rdyThr h hs) (ans := .fail st) e

theorem setMode_past_one (h : Arrives s seq True True True) (hs : s.devState ≠ 5) {x : Byte} (hx : 1 < x.toNat) :
    ∃ t, exec (.setMode seq x) s = .next t ∧ Refused s t seq .badArgument :=
  setMode_refused h hs (by rw [State.setModeRun, if_pos hx])

theorem setMode_busy (h : Arrives s seq True True True) (hs : s.devState ≠ 5) {x : Byte} (hx : x.toNat ≤ 1)
    (hl : s.anyLaunched = true) (hn : s.exact ≠ decide (x = 1)) :
    ∃ t, exec (.setMode seq x) s = .next t ∧ Refused s t seq .busy := by
  have kb := kept_begun s 0xA0 seq []
  refine setMode_refused h hs ?_
  rw [State.setModeRun, if_neg (by omega), if_neg, anyLaunched_of_rest kb.1, if_pos hl]
  rwa [kept_fld_exact kb, ← exact_eq_iff s hx]

/-- EXACT has the value already. -/
theorem setMode_same (h : Arrives s seq True True True) (hs : s.devState ≠ 5) {x : Byte} (hx : x.toNat ≤ 1)
    (he : s.exact = decide (x = 1)) :
    ∃ t, exec (.setMode seq x) s = .next t ∧ KeptBut s t 0x20 ∧ Completed s t seq .ok 0 [] ∧ t.exact = s.exact := by
  have kb := kept_begun s 0xA0 seq []
  have hf : (begun s 0xA0 seq []).fld Fld.devMode_exact = x.toNat := by
    rwa [kept_fld_exact kb, ← exact_eq_iff s hx]
  obtain ⟨t, ht, k, hc⟩ := genot_answers h (stateRefusal_rdyThr h hs) (code := 0xA0)
    (run := fun y => y.setModeRun seq x.toNat) (ans := {}) (by rw [State.setModeRun, if_neg (by omega), if_pos hf])
  exact ⟨t, ht, keptBut_of_kept k _, hc, by simp only [State.exact, State.flag, kept_fld_exact k]⟩

/-- SET_MODE writes EXACT. -/
theorem setMode_writes (h : Arrives s seq True True True) (hs : s.devState ≠ 5) {x : Byte} (hx : x.toNat ≤ 1)
    (hl : s.anyLaunched = false) :
    ∃ t, exec (.setMode seq x) s = .next t ∧ KeptBut s t 0x20 ∧ Completed s t seq .ok 0 [] ∧ t.exact = decide (x = 1) := by
  by_cases he : s.exact = decide (x = 1)
  · obtain ⟨t, ht, k, hc, hx'⟩ := setMode_same h hs hx he
    exact ⟨t, ht, k, hc, hx'.trans he⟩
  · have kb := kept_begun s 0xA0 seq []
    have hf : (begun s 0xA0 seq []).fld Fld.devMode_exact ≠ x.toNat := by
      rwa [kept_fld_exact kb, Ne, ← exact_eq_iff s hx]
    obtain ⟨t, ht, k, hc, hw⟩ := genot_stores h (stateRefusal_rdyThr h hs) (code := 0xA0)
      (run := fun y => y.setModeRun seq x.toNat) (ans := {}) (o := 0x20) (by unfold Mail; decide) (by decide)
      (by
        rw [State.setModeRun, if_neg (by omega), if_neg hf, anyLaunched_of_rest kb.1, if_neg (by simp [hl])]
        rfl)
    refine ⟨t, ht, k, hc, (exact_eq_iff t hx).2 ?_⟩
    have hv := of_insert Fld.devMode_exact ((begun s 0xA0 seq []).raw 0x20) x.toNat (by decide)
    have hw' : t.raw 0x20 = Fld.devMode_exact.insert ((begun s 0xA0 seq []).raw 0x20) x.toNat := hw
    rw [← hw', Nat.mod_eq_of_lt (by show x.toNat < 2; omega)] at hv
    exact hv

end Commands

/-- Settles O41: each command begins at once and answers in the state of its begin, whose registers outside the DBG block read as
on arrival. -/
theorem deviceCommands : Obligations.DeviceCommands := by
  intro seq s h
  refine ⟨deviceInfo_completes h, deviceState_completes h, ?_, ?_, ?_, ?_, ?_, ?_, ?_⟩
  · intro off n h8 h1 hn he hd
    have := regRead_completes h h8 h1 hn he hd
    simpa only [State.regBytes, List.flatMap_map] using this
  · exact fun off n hb => regRead_refused h hb
  · exact fun off val mask r h8 hk hr => regWrite_plain h val mask h8 (plainBlock_of_block hk) hr
  · exact fun off val p hp ho => regWrite_slotTmo h hp ho val
  · exact fun off val mask hb => regWrite_refused h fun _ => regWriteRun_badArgument hb
  · exact fun off val mask h8 hb => regWrite_refused h fun _ => regWriteRun_denied h8 hb
  · intro x hs
    exact ⟨setMode_past_one h hs, setMode_writes h hs, setMode_same h hs, setMode_busy h hs⟩

end Sys2Proof.Proofs
end

section
/-!
Proofs: what the clerks' accesses to the vault, and what the device records of them, leave alone (05 R179 to R187, R209, R210).
-/
namespace Sys2Proof.Proofs
open Sys2Proof.Machine Sys2Proof.Safety Sys2Proof.Laws

/-! ### What the record-keeping of a clerk's work leaves alone -/

/-- What every turn of a loop keeps, the loop keeps. -/
theorem foldl_keeps {α : Type} {R : State → State → Prop} (refl : ∀ s, R s s) (trans : ∀ {s t u}, R s t → R t u → R s u)
    (f : State → α → State) (hf : ∀ s a, R s (f s a)) (l : List α) (s : State) : R s (l.foldl f s) := by
  induction l generalizing s with
  | nil => exact refl s
  | cons a l ih => exact trans (hf s a) (ih _)

/-- What a step rests on outside the vault is as it was: contexts and commands, sessions, the warp and the loom, the tokens held for the
rings, the commands of the host that run, and the registers below the VLT block, among them DEV_STATE and BEAT_COUNT. -/
structure Untouched (s t : State) : Prop where
  sched : t.sched = s.sched
  sessions : t.sessions = s.sessions
  warp : t.warp = s.warp
  loom : t.loom = s.loom
  tokens : t.eth.tokens = s.eth.tokens
  running : t.eth.running = s.eth.running
  raw : ∀ off, off < 0x60000 → t.raw off = s.raw off

namespace Untouched

theorem refl (s : State) : Untouched s s := ⟨rfl, rfl, rfl, rfl, rfl, rfl, fun _ _ => rfl⟩

theorem trans {s t u : State} (h : Untouched s t) (k : Untouched t u) : Untouched s u where
  sched := k.sched.trans h.sched
  sessions := k.sessions.trans h.sessions
  warp := k.warp.trans h.warp
  loom := k.loom.trans h.loom
  tokens := k.tokens.trans h.tokens
  running := k.running.trans h.running
  raw off ho := (k.raw off ho).trans (h.raw off ho)

theorem ite {s a b : State} {c : Prop} [Decidable c] (ha : Untouched s a) (hb : Untouched s b) :
    Untouched s (if c then a else b) := by
  split
  · exact ha
  · exact hb

theorem foldl {α : Type} (f : State → α → State) (hf : ∀ s a, Untouched s (f s a)) (l : List α) (s : State) :
    Untouched s (l.foldl f s) := foldl_keeps refl trans f hf l s

theorem of_kept {s t : State} (h : Kept s t) (ht : t.eth.tokens = s.eth.tokens) (hr : t.eth.running = s.eth.running) :
    Untouched s t :=
  ⟨rest_sched h.1, rest_sessions h.1, rest_warp h.1, rest_loom h.1, ht, hr, fun off ho => h.2 off (by unfold Mail; omega)⟩

theorem beat {s t : State} (h : Untouched s t) : t.beat = s.beat := by
  simp only [State.beat, h.raw Reg.beatCount (by decide)]

theorem devState {s t : State} (h : Untouched s t) : t.devState = s.devState := by
  simp only [State.devState, State.fld, h.raw Fld.devState_state.off (by decide)]

end Untouched

theorem untouched_setRaw (s : State) {off : Nat} (w : W64) (h : 0x60000 ≤ off) : Untouched s (s.setRaw off w) :=
  ⟨rfl, rfl, rfl, rfl, rfl, rfl, fun j hj => raw_setRaw_ne s off j w (by omega)⟩

theorem untouched_setFld (s : State) {f : Fld} (v : Nat) (h : 0x60000 ≤ f.off) : Untouched s (s.setFld f v) :=
  untouched_setRaw s _ h

theorem untouched_count (s : State) {f : Fld} (n : Nat) (h : 0x60000 ≤ f.off) : Untouched s (s.count f n) :=
  untouched_setFld s _ h

theorem untouched_countWrap (s : State) {f : Fld} (n : Nat) (h : 0x60000 ≤ f.off) : Untouched s (s.countWrap f n) :=
  untouched_setFld s _ h

theorem untouched_traceRec (s : State) (src code core id : Nat) (data : Bytes) : Untouched s (s.traceRec src code core id data) := by
  have e := (traceRec_eth s src code core id data).1
  exact .of_kept (kept_traceRec s src code core id data) (by rw [e]) (by rw [e])

theorem untouched_charge (s : State) (acct counter n : Nat) : Untouched s (s.charge acct counter n) := by
  have e := charge_eth s acct counter n
  exact .of_kept (kept_charge s acct counter n) (by rw [e]) (by rw [e])

theorem untouched_raise (s : State) (code id : Nat) (value : W64) (data : Bytes) (loc : Option (Nat × Nat)) :
    Untouched s (s.raise code id value data loc) := by
  unfold State.raise
  extract_lets e full n eth eth' s1 s2
  have h1 : Untouched s s1 := ⟨rfl, rfl, rfl, rfl, rfl, rfl, fun _ _ => rfl⟩
  have h2 : Untouched s s2 := .ite (h1.trans (untouched_count s1 1 (by decide))) h1
  exact h2.trans (untouched_traceRec s2 _ _ _ _ _)

theorem untouched_logError (s : State) (cls unit : Nat) (a b : W64) : Untouched s (s.logError cls unit a b) := by
  have log : ∀ i j, 0x60000 ≤ Reg.errLog i j := fun i j => by
    unfold Reg.errLog
    omega
  have cnt : 0x60000 ≤ (Fld.errCount_count cls).off := by
    show 0x60000 ≤ 0xb0100 + 0x8 * cls
    omega
  unfold State.logError
  extract_lets n full w0 i s1 s2 s3 s4 s5 s6 s7 lvl s8 quiet eth s9
  have h4 : Untouched s s4 := (((untouched_setRaw s _ (log i 0)).trans (untouched_setRaw s1 _ (log i 1))).trans
    (untouched_setRaw s2 _ (log i 2))).trans (untouched_setRaw s3 _ (log i 3))
  have h5 : Untouched s s5 := h4.trans (untouched_countWrap s4 1 (by decide))
  have h6 : Untouched s s6 := .ite (h5.trans (untouched_count s5 1 (by decide))) h5
  have h7 : Untouched s s7 := h6.trans (untouched_count s6 1 cnt)
  have h8 : Untouched s s8 := .ite (h7.trans (untouched_setFld s7 1 (by decide))) h7
  have h9 : Untouched s8 s9 := ⟨rfl, rfl, rfl, rfl, rfl, rfl, fun _ _ => rfl⟩
  exact .ite h8 (h8.trans (h9.trans (untouched_raise s9 _ _ _ _ _)))

/-! ### Lines of the vault (05 R179 to R183, R209, R210) -/

theorem vlt_le (k st : Nat) : 0x60000 ≤ 0x60000 + k + 0x1000 * st := by omega

theorem untouched_setStack (s : State) (st : Nat) (x : Stack) : Untouched s (s.setStack st x) :=
  ⟨rfl, rfl, rfl, rfl, rfl, rfl, fun _ _ => rfl⟩

theorem untouched_recordErr (s : State) (st kind addr : Nat) : Untouched s (s.recordErr st kind addr) := by
  unfold State.recordErr
  refine .ite (.refl s) ?_
  extract_lets s1 s2 s3
  exact (((untouched_setFld s kind (vlt_le 0x20 st)).trans (untouched_setFld s1 addr (vlt_le 0x20 st))).trans
    (untouched_setFld s2 1 (vlt_le 0x20 st))).trans (untouched_setRaw s3 _ (vlt_le 0x28 st))

theorem untouched_failStack (s : State) (st cause addr : Nat) : Untouched s (s.failStack st cause addr) := by
  unfold State.failStack
  extract_lets s1 s2 n die s3
  exact (((untouched_setFld s stkFailed (vlt_le 0 st)).trans (untouched_recordErr s1 st 5 addr)).trans
    (untouched_logError s2 _ _ _ _)).trans (untouched_setStack s3 _ _)

theorem untouched_countDie (s : State) (st pa d : Nat) : Untouched s (s.countDie st pa d) := by
  have hi : 0x60000 ≤ (Fld.vltInner_outerSym st d).off := by
    show 0x60000 ≤ 0x60100 + 0x1000 * st + 0x8 * d
    omega
  unfold State.countDie
  extract_lets s1 limit reached s2
  have h1 : Untouched s s1 := untouched_count s 1 hi
  have h2 : Untouched s s2 := h1.trans (untouched_setFld s1 _ (vlt_le 0 st))
  split
  · split
    · exact h2.trans (untouched_logError s2 _ _ _ _)
    · exact .ite (h1.trans (untouched_failStack s1 _ _ _)) h1
  · exact h1

theorem untouched_badLine (s : State) (st pa kind : Nat) (who : Asker) : Untouched s (s.badLine st pa kind who) := by
  unfold State.badLine
  extract_lets failed kind s1 s2 core
  exact ((untouched_count s 1 (vlt_le 0x18 st)).trans (untouched_recordErr s1 _ _ _)).trans (untouched_logError s2 _ _ _ _)

theorem untouched_decodeLine (s : State) (line : Nat) (errs : List LineErr) (who : Asker) :
    Untouched s (s.decodeLine line errs who).1 := by
  unfold State.decodeLine
  extract_lets pa st e s1 r s2
  have h1 : Untouched s s1 := .foldl _ (fun s d => untouched_count s 1 (by
    show 0x60000 ≤ 0x60100 + 0x1000 * st + 0x8 * d
    omega)) _ s
  split
  · exact untouched_badLine s _ _ _ _
  · clear_value r
    split
    · exact h1.trans (untouched_badLine s1 _ _ _ _)
    · exact h1
    · exact (h1.trans (untouched_count s1 1 (vlt_le 0x10 st))).trans (.foldl _ (fun s d => untouched_countDie s _ _ _) _ _)

theorem untouched_readLine (s : State) (line : Nat) (errs : List LineErr) (who : Asker) :
    Untouched s (s.readLine line errs who).1 := by
  have h := untouched_decodeLine s line errs who
  unfold State.readLine
  split <;> simp_all

theorem untouched_readLines (s : State) (errs : List LineErr) (who : Asker) (ls : List Nat) :
    Untouched s (s.readLines errs who ls).1 := by
  induction ls generalizing s with
  | nil => exact .refl s
  | cons l ls ih => exact (untouched_readLine s l errs who).trans (ih _)

theorem untouched_completed (s : State) (st : Nat) : Untouched s (s.completed st) :=
  .ite (.refl s) (untouched_setStack s _ _)

theorem untouched_countBytes (s : State) (pas : List Nat) (write : Bool) : Untouched s (s.countBytes pas write) := by
  refine .foldl _ (fun s st => ?_) _ s
  extract_lets n
  have hr : Untouched s (s.countRead st n) := untouched_countWrap s n (vlt_le 0x40 st)
  have hw : Untouched s (s.countWrite st n) := untouched_countWrap s n (vlt_le 0x48 st)
  exact .ite (.refl s) ((Untouched.ite hw hr).trans (untouched_completed _ _))

theorem untouched_freeByte (s : State) : Untouched s s.freeByte.2 := ⟨rfl, rfl, rfl, rfl, rfl, rfl, fun _ _ => rfl⟩

theorem untouched_freeBytes (s : State) (n : Nat) : Untouched s (s.freeBytes n).2 := by
  induction n with
  | zero => exact .refl s
  | succ n ih => exact ih.trans (untouched_freeByte _)

theorem untouched_freeHidden (s : State) (who : Asker) (as : List Nat) (bs : Bytes) : Untouched s (s.freeHidden who as bs).1 := by
  induction as generalizing bs with
  | nil => exact .refl s
  | cons a as ih =>
    cases bs with
    | nil => exact .refl s
    | cons b bs =>
      unfold State.freeHidden
      extract_lets r f
      have h : Untouched s r.1 := ih bs
      split
      · exact h.trans (untouched_freeByte _)
      · exact h

theorem untouched_readBytes (s : State) (pas : List Nat) (errs : List LineErr) (who : Asker) :
    Untouched s (s.readBytes pas errs who).1 := by
  unfold State.readBytes
  extract_lets r s1
  have h1 : Untouched s s1 := (untouched_readLines s errs who _).trans (untouched_countBytes _ _ _)
  split
  · split
    · exact h1
    · exact h1.trans (untouched_freeHidden s1 _ _ _)
  · exact h1

theorem untouched_vault (s : State) (m : Mem) : Untouched s { s with vault := m } := ⟨rfl, rfl, rfl, rfl, rfl, rfl, fun _ _ => rfl⟩

theorem untouched_writeBytes (s : State) (es : List (Nat × Byte)) (errs : List LineErr) (who : Asker) :
    Untouched s (s.writeBytes es errs who).1 := by
  unfold State.writeBytes
  extract_lets pas part r bad put m s1 s2
  have h1 : Untouched s s1 := untouched_readLines s errs who part
  have h2 : Untouched s1 s2 := untouched_vault s1 m
  exact (h1.trans h2).trans (untouched_countBytes s2 _ _)

/-! ### A clerk's accesses (05 R187) -/

theorem untouched_clerkRead (s : State) (pas : List Nat) : Untouched s (s.clerkRead pas).1 := by
  unfold State.clerkRead
  extract_lets r
  have h : Untouched s r.1 := untouched_readBytes s pas _ _
  split
  · exact h
  · exact h.trans (untouched_freeBytes _ _)

theorem untouched_clerkGet (s : State) (k a n : Nat) : Untouched s (s.clerkGet k a n).1 := untouched_clerkRead s _

theorem untouched_clerkLoad (s : State) (pa n : Nat) : Untouched s (s.clerkLoad pa n).1 := untouched_clerkRead s _

theorem untouched_clerkStore (s : State) (pa : Nat) (bs : Bytes) : Untouched s (s.clerkStore pa bs) :=
  untouched_writeBytes s _ _ _

end Sys2Proof.Proofs
end

section
/-!
Proofs: two relations that go through the commit of a step: what its barrier rests on, which no part of a commit changes before the
arrival, and the sessions with the tokens held for their rings, which the barrier leaves alone (06 R247, R248; 10 R399).
-/
namespace Sys2Proof.Proofs
open Sys2Proof.Machine Sys2Proof.Safety Sys2Proof.Laws

/-! ### What a step barrier rests on -/

/-- The step barrier of base `b`, the ports of its children and the running step are as they were. -/
structure BarrierKept (b : Nat) (s t : State) : Prop where
  bar : t.bar (.step b) = s.bar (.step b)
  ports : t.childPorts = s.childPorts
  step : (t.base b).step = (s.base b).step

namespace BarrierKept
variable {b : Nat} {s t u : State}

theorem refl (s : State) : BarrierKept b s s := ⟨rfl, rfl, rfl⟩

theorem trans (h : BarrierKept b s t) (k : BarrierKept b t u) : BarrierKept b s u :=
  ⟨k.bar.trans h.bar, k.ports.trans h.ports, k.step.trans h.step⟩

theorem foldl {α : Type} (f : State → α → State) (hf : ∀ s a, BarrierKept b s (f s a)) (l : List α) (s : State) :
    BarrierKept b s (l.foldl f s) := foldl_keeps refl trans f hf l s

theorem of_eq (hl : t.loom = s.loom) (hd : t.devState = s.devState) (hw : (t.base b).step = (s.base b).step) :
    BarrierKept b s t :=
  ⟨by simp only [State.bar, hl], by simp only [State.childPorts, hl, hd], hw⟩

theorem of_kept (h : Kept s t) : BarrierKept b s t := of_eq (rest_loom h.1) (kept_devState h) (by rw [base_of_rest h.1])

end BarrierKept

theorem Untouched.barrierKept {s t : State} (h : Untouched s t) (b : Nat) : BarrierKept b s t :=
  .of_eq h.loom h.devState (by simp only [State.base, h.warp])

/-- The sessions and the token records held for the rings are as they were. -/
structure Posted (s t : State) : Prop where
  sessions : t.sessions = s.sessions
  tokens : t.eth.tokens = s.eth.tokens

namespace Posted
variable {s t u : State}

theorem refl (s : State) : Posted s s := ⟨rfl, rfl⟩

theorem trans (h : Posted s t) (k : Posted t u) : Posted s u := ⟨k.sessions.trans h.sessions, k.tokens.trans h.tokens⟩

theorem foldl {α : Type} (f : State → α → State) (hf : ∀ s a, Posted s (f s a)) (l : List α) (s : State) :
    Posted s (l.foldl f s) := foldl_keeps refl trans f hf l s

end Posted

theorem Untouched.posted {s t : State} (h : Untouched s t) : Posted s t := ⟨h.sessions, h.tokens⟩

/-! ### Messages -/

theorem send_tokens (s : State) (m : CmdMsg) : (s.send m).eth.tokens = s.eth.tokens := by
  unfold State.send
  split
  · rfl
  · split
    · rfl
    · simp [State.transmit, State.qpSend, State.qpRequest, State.modQp, State.putFrames, State.countWrap]

theorem posted_complete (s : State) (seq : W64) (a : Answer) : Posted s (s.complete seq a) := by
  refine ⟨rest_sessions (kept_complete s seq a).1, ?_⟩
  unfold State.complete
  split
  · unfold State.completeAs
    extract_lets phase c rx s1 eth s2 s3
    rw [(traceRec_eth _ _ _ _ _ _).1, send_tokens]
    show s1.eth.tokens = _
    rw [charge_eth]
  · rfl

/-- Queueing flits changes the ports alone. -/
theorem queueFlits_eq (fs : List (Nat × OutFlit)) (s : State) : ∃ ps, s.queueFlits fs = { s with ports := ps } := by
  induction fs generalizing s with
  | nil => exact ⟨s.ports, rfl⟩
  | cons e fs ih => exact ih (s.setPort e.1 _)

/-- A loom message changes the ports and what has been sent, and is charged for. -/
theorem loomSend_untouched (s : State) (m : LoomMsg) :
    ∃ ps, Untouched { s with ports := ps, loom := { s.loom with out := s.loom.out ++ [m] } } (s.loomSend m) := by
  obtain ⟨ps, hp⟩ := queueFlits_eq (s.flitsOf m) s
  refine ⟨ps, ?_⟩
  rw [State.loomSend, hp]
  exact .ite (untouched_charge _ _ _ _) (.refl _)

theorem barrierKept_loomSend (b : Nat) (s : State) (m : LoomMsg) : BarrierKept b s (s.loomSend m) := by
  obtain ⟨ps, h⟩ := loomSend_untouched s m
  have k := h.barrierKept b
  exact ⟨k.bar, k.ports, k.step⟩

theorem posted_loomSend (s : State) (m : LoomMsg) : Posted s (s.loomSend m) := by
  obtain ⟨ps, h⟩ := loomSend_untouched s m
  exact ⟨h.sessions, h.tokens⟩

/-! ### The step barrier (06 R248) -/

theorem bar_setBar (s : State) (b : Nat) (x : LoomBar) : (s.setBar (.step b) x).bar (.step b) = x := by
  simp [State.bar, State.setBar]

/-- A device arrives at a step barrier and waits there while a child has not arrived. -/
theorem stepArrive_waits {s : State} {b : Nat} (flags : BitVec 8)
    (h : ∃ c ∈ s.childPorts, c ∉ (s.bar (.step b)).children) :
    ((s.stepArrive b flags).bar (.step b)).localDone = true ∧ ((s.stepArrive b flags).base b).step = (s.base b).step := by
  obtain ⟨c, hc, hm⟩ := h
  unfold State.stepArrive
  extract_lets x
  have hall : s.childPorts.all x.children.contains = false := by
    rw [List.all_eq_false]
    exact ⟨c, hc, by simpa [x, LoomBar.seen] using hm⟩
  rw [State.barAdvance, if_neg (by
    rw [bar_setBar]
    show ¬((_ && _ && s.childPorts.all x.children.contains) = true)
    simp [hall]), bar_setBar]
  exact ⟨rfl, rfl⟩

theorem posted_setBar (s : State) (b : Nat) (x : LoomBar) : Posted s (s.setBar (.step b) x) := ⟨rfl, rfl⟩

theorem posted_freeOld (s : State) (b : Nat) (step : W64) : Posted s (s.freeOld b step) := by
  unfold State.freeOld
  extract_lets x s1 s2 s3
  have h3 : Posted s s3 := ⟨rfl, rfl⟩
  exact h3.trans (untouched_raise s3 _ _ _ _ _).posted

theorem posted_stepOver (s : State) (b : Nat) : Posted s (s.stepOver b) := by
  unfold State.stepOver
  extract_lets x now s1 w s2
  have h1 : Posted s s1 := ⟨rfl, rfl⟩
  have h2 : Posted s s2 := by
    simp only [s2]
    split
    · exact ⟨rfl, rfl⟩
    · exact h1
  split
  · exact h2.trans (posted_freeOld s2 b now)
  · exact h2

theorem posted_barRelease (s : State) (b : Nat) (flags : BitVec 8) : Posted s (s.barRelease (.step b) flags) := by
  have hd : ∀ s : State, Posted s (s.barDone (.step b)) := fun s =>
    ((untouched_traceRec s _ _ _ _ _).posted.trans (posted_setBar _ b _)).trans (posted_stepOver _ b)
  exact (Posted.foldl _ (fun s p => posted_loomSend s _) _ s).trans (hd _)

theorem posted_barAdvance (s : State) (b : Nat) : Posted s (s.barAdvance (.step b)) := by
  unfold State.barAdvance
  extract_lets x
  split
  · split
    · exact posted_barRelease s b _
    · exact ((posted_setBar s b _).trans (untouched_traceRec _ _ _ _ _ _).posted).trans (posted_loomSend _ _)
  · exact .refl s

theorem posted_stepArrive (s : State) (b : Nat) (flags : BitVec 8) : Posted s (s.stepArrive b flags) :=
  (posted_setBar s b _).trans (posted_barAdvance _ b)

end Sys2Proof.Proofs
end

section
/-!
Proofs: the parts of a commit leave the barrier of the step alone (01 R26, R32; 07 R304; 08 R322, R333, R339).
-/
namespace Sys2Proof.Proofs
open Sys2Proof.Machine Sys2Proof.Safety Sys2Proof.Laws

/-! ### The parts of a commit and the step barrier -/

theorem barrierKept_setBase (s : State) (b c : Nat) (x : Base) (h : x.step = (s.base c).step) :
    BarrierKept b s (s.setBase c x) := by
  refine .of_eq rfl rfl ?_
  by_cases hc : b = c
  · subst hc
    simp [State.base, State.setBase, h]
  · simp [State.base, State.setBase, hc]

theorem barrierKept_setCtx (b : Nat) (s : State) (k : Nat) (c : Context) : BarrierKept b s (s.setCtx k c) := ⟨rfl, rfl, rfl⟩

theorem barrierKept_setSession (b : Nat) (s : State) (n : Nat) (x : Session) : BarrierKept b s (s.setSession n x) :=
  ⟨rfl, rfl, rfl⟩

theorem barrierKept_setWeft (b : Nat) (s : State) (w : Nat) (x : Weft) : BarrierKept b s (s.setWeft w x) := ⟨rfl, rfl, rfl⟩

theorem untouched_chargeAttempt (s : State) (c : RunCmd) (acct : Nat) : Untouched s (s.chargeAttempt c acct) :=
  (untouched_charge s _ _ _).trans (untouched_charge _ _ _ _)

theorem untouched_copyLayer (s : State) (c : Context) (x : Session) (l t : Nat) (row : Bytes) :
    Untouched s (s.copyLayer c x l t row) :=
  .foldl _ (fun s _ => (untouched_clerkStore s _ _).trans (untouched_clerkStore _ _ _)) _ s

theorem untouched_copyRow (s : State) (k i : Nat) (r : Row) : Untouched s (s.copyRow k i r) := by
  unfold State.copyRow
  extract_lets c layers
  split
  · exact .refl s
  · exact (Untouched.foldl _ (fun s l => (untouched_clerkGet s k _ _).trans (untouched_copyLayer _ _ _ _ _ _)) _ s).trans
      (untouched_charge _ _ _ _)

theorem kept_holdToken (s : State) (ring : Nat) (t : TokenRec) : Kept s (s.holdToken ring t) := by
  unfold State.holdToken
  extract_lets held eth s1 eth' s2
  have h1 : Kept s s1 := ⟨rfl, fun _ _ => rfl⟩
  have h2 : Kept s1 s2 := ⟨rfl, fun _ _ => rfl⟩
  exact kept_ite (kept_trans (kept_trans h1 h2) (kept_raise s2 _ _ _ _ _)) h1

theorem barrierKept_countUse (b : Nat) (s : State) (x : Session) : BarrierKept b s (s.countUse x) := by
  unfold State.countUse
  extract_lets y s1
  have h1 : BarrierKept b s s1 := barrierKept_setBase s b x.base _ rfl
  split
  · split
    · exact h1.trans (barrierKept_setWeft b s1 _ _)
    · exact h1
  · exact h1

theorem barrierKept_commitRow (b : Nat) (s : State) (k i : Nat) (r : Row) : BarrierKept b s (s.commitRow k i r) := by
  have h1 := (untouched_copyRow s k i r).barrierKept b
  unfold State.commitRow
  extract_lets s1
  split
  · exact h1
  · split
    · exact (((h1.trans ((untouched_clerkGet s1 k _ _).barrierKept b)).trans (barrierKept_setSession b _ _ _)).trans
        (barrierKept_countUse b _ _)).trans (.of_kept (kept_holdToken _ _ _))
    · exact h1.trans (barrierKept_setSession b s1 _ _)

theorem barrierKept_commitRows (b : Nat) (s : State) (k : Nat) : BarrierKept b s (s.commitRows k) :=
  .foldl _ (fun s (e : Row × Nat) => barrierKept_commitRow b s k e.2 e.1) _ s

theorem barrierKept_dropSaved (b : Nat) (s : State) (k : Nat) (p : RunCmd → Bool) : BarrierKept b s (s.dropSaved k p) :=
  ((Untouched.foldl _ (fun s _ => untouched_chargeAttempt s _ _) _ s).barrierKept b).trans (barrierKept_setCtx b _ k _)

theorem barrierKept_leaveOut (b : Nat) (s : State) (c : Nat) : BarrierKept b s (s.leaveOut c) := by
  unfold State.leaveOut
  extract_lets s1 now out
  have h1 : BarrierKept b s s1 := ⟨rfl, rfl, rfl⟩
  exact h1.trans (.foldl _ (fun s k => (barrierKept_dropSaved b s k _).trans (barrierKept_setCtx b _ k _)) _ s1)

theorem barrierKept_freeSession (b : Nat) (s : State) (n : Nat) : BarrierKept b s (s.freeSession n) := by
  unfold State.freeSession
  split
  · exact .refl s
  · extract_lets s1 s2
    have h2 : BarrierKept b s s2 := by
      simp only [s2]
      split
      · exact ⟨rfl, rfl, rfl⟩
      · exact ⟨rfl, rfl, rfl⟩
    exact h2.trans ⟨rfl, rfl, rfl⟩

theorem barrierKept_closeNow (b : Nat) (s : State) (n : Nat) (seq : W64) : BarrierKept b s (s.closeNow n seq) := by
  unfold State.closeNow
  split
  · exact (barrierKept_freeSession b s n).trans (.of_kept (kept_complete _ _ _))
  · exact .of_kept (kept_complete _ _ _)

/-- Reading runs of `n` bytes one after the other. -/
theorem untouched_loads (n : Nat) (pages : List Nat) (r : State × List Bytes) :
    Untouched r.1 (pages.foldl (fun (r : State × List Bytes) a =>
      let y := r.1.clerkLoad a n
      (y.1, r.2 ++ [y.2])) r).1 := by
  induction pages generalizing r with
  | nil => exact .refl _
  | cons a pages ih => exact (untouched_clerkLoad r.1 a n).trans (ih ((r.1.clerkLoad a n).1, r.2 ++ [(r.1.clerkLoad a n).2]))

theorem barrierKept_takeMigration (b : Nat) (s : State) (n : Nat) (step : W64) : BarrierKept b s (s.takeMigration n step) := by
  unfold State.takeMigration
  split
  · exact .refl s
  · split
    · exact .refl s
    · extract_lets kv m s1 s2
      have hk : Untouched s kv.1 := untouched_loads 65536 _ (s, [])
      have h1 : BarrierKept b s s1 := (hk.trans (untouched_charge kv.1 _ _ _)).barrierKept b
      exact (h1.trans (barrierKept_setSession b s1 n _)).trans (barrierKept_loomSend b s2 _)

theorem barrierKept_takeLeavers (b : Nat) (s : State) (c : Nat) (step : W64) : BarrierKept b s (s.takeLeavers c step) := by
  refine .foldl _ (fun s e => ?_) _ s
  split
  · exact barrierKept_closeNow b s _ _
  · split
    · exact barrierKept_takeMigration b s _ _
    · exact .refl s

theorem untouched_holdStep (s : State) (r : StepRec) : Untouched s (s.holdStep r) := by
  unfold State.holdStep
  split
  · extract_lets full held ledger s1
    have h1 : Untouched s s1 := ⟨rfl, rfl, rfl, rfl, rfl, rfl, fun _ _ => rfl⟩
    exact .ite (h1.trans (untouched_count s1 1 (by decide))) h1
  · exact .refl s

theorem untouched_freePage (s : State) (n : Nat) : Untouched s (s.freePage n) := ⟨rfl, rfl, rfl, rfl, rfl, rfl, fun _ _ => rfl⟩

theorem untouched_freeFrames (s : State) (frames : List Nat) : Untouched s (s.freeFrames frames) :=
  .foldl _ (fun s _ => .foldl _ (fun s _ => untouched_freePage s _) _ s) _ s

theorem posted_setWeft (s : State) (w : Nat) (x : Weft) : Posted s (s.setWeft w x) := ⟨rfl, rfl⟩

/-- The old contents of wefts are freed, and the commands that replaced them complete (07 R304). -/
theorem settleWefts_keeps (b : Nat) (s : State) (c : Nat) :
    BarrierKept b s (s.settleWefts c) ∧ Posted s (s.settleWefts c) := by
  have same : ∀ s : State, BarrierKept b s s ∧ Posted s s := fun s => ⟨.refl s, .refl s⟩
  refine foldl_keeps (R := fun s t => BarrierKept b s t ∧ Posted s t) same (fun h k => ⟨h.1.trans k.1, h.2.trans k.2⟩) _
    (fun s e => ?_) _ s
  split
  · split
    · split
      · next w _ frames seq _ _ =>
        extract_lets s1 s2
        have h0 := untouched_freeFrames s frames
        have h2 : Untouched s1 s2 := untouched_raise s1 _ _ _ _ _
        exact ⟨((h0.barrierKept b).trans (barrierKept_setWeft b _ e.1 _)).trans
            ((h2.barrierKept b).trans (.of_kept (kept_complete s2 _ _))),
          (h0.posted.trans (posted_setWeft _ e.1 _)).trans (h2.posted.trans (posted_complete s2 _ _))⟩
      · exact same s
    · exact same s
  · exact same s

theorem barrierKept_endStep (b : Nat) (s : State) (c : Nat) : BarrierKept b s (s.endStep c) := by
  unfold State.endStep
  extract_lets sched s1 x s2
  have h1 : BarrierKept b s s1 := ⟨rfl, rfl, rfl⟩
  have h2 : BarrierKept b s1 s2 := barrierKept_setBase s1 b c _ rfl
  exact (h1.trans h2).trans ⟨rfl, rfl, rfl⟩

end Sys2Proof.Proofs
end

section
/-!
Proofs: STEP_COMMIT (01 R23 to R26; 08 R322, R333; 10 R399).
-/
namespace Sys2Proof.Proofs
open Sys2Proof.Machine Sys2Proof.Safety Sys2Proof.Laws

/-! ### STEP_COMMIT -/

theorem exec_stepCommit {s : State} {b : Nat} (hb : b < 64) (h : Threaded s) :
    exec (.stepCommit b) s = .next (if s.canCommit b then s.commitStep b else s) := by
  obtain ⟨hc, hd⟩ := h
  show onUnit _ (whenDo _ s _) = _
  simp [onUnit, whenDo, hb, hc, hd, stThreaded]

/-- The state in which the rows of the running step of base `b` have committed. -/
def rowsCommitted (s : State) (b : Nat) : State := ((s.leaveOut b).servingNow b).foldl State.commitRows (s.leaveOut b)

/-- A step commits its rows, counts the sessions that were not served, takes its leavers, holds its record, settles the wefts and
arrives at the barrier. -/
theorem commitStep_eq (s : State) (b : Nat) : ∃ (left : List (Nat × Session)) (r : StepRec) (flags : BitVec 8),
    s.commitStep b = (((((left.foldl (fun (s : State) (e : Nat × Session) => s.charge e.2.client lUnserved 1)
      (rowsCommitted s b)).takeLeavers b (s.base b).step).holdStep r).settleWefts b).endStep b).stepArrive b flags :=
  ⟨_, _, _, rfl⟩

theorem untouched_charges (n : Nat) (es : List (Nat × Session)) (s : State) :
    Untouched s (es.foldl (fun (s : State) (e : Nat × Session) => s.charge e.2.client n 1) s) :=
  .foldl _ (fun s e => untouched_charge s e.2.client n 1) es s

/-- Up to its arrival, a commit leaves the barrier of its step alone. -/
theorem commitStep_arrives (s : State) (b : Nat) : ∃ (u : State) (flags : BitVec 8),
    s.commitStep b = u.stepArrive b flags ∧ BarrierKept b s u := by
  obtain ⟨left, r, flags, e⟩ := commitStep_eq s b
  have rows : BarrierKept b s (rowsCommitted s b) :=
    (barrierKept_leaveOut b s b).trans (.foldl _ (fun s k => barrierKept_commitRows b s k) _ _)
  have taken := ((rows.trans ((untouched_charges lUnserved left _).barrierKept b)).trans
    (barrierKept_takeLeavers b _ b (s.base b).step)).trans ((untouched_holdStep _ r).barrierKept b)
  exact ⟨_, flags, e, (taken.trans (settleWefts_keeps b _ b).1).trans (barrierKept_endStep b _ b)⟩

/-! ### The contexts that commit (08 R333) -/

/-- A SERVING context of base `b` whose sessions take part. -/
def servesNow (b : Nat) (c : Context) : Bool :=
  c.st = .launched && c.serving && c.base = b && c.resident && c.startBeat.isNone

theorem servingNow_eq (s : State) (b : Nat) :
    s.servingNow b = s.sched.ctxs.filterMap fun e => if servesNow b e.2 then some e.1 else none := rfl

/-- A table answers its default or a value that it lists. -/
theorem get_eq_or_mem {α : Type} (m : SMap α) (d : α) (k : Nat) : SMap.get m d k = d ∨ (k, SMap.get m d k) ∈ m := by
  induction m with
  | nil => exact .inl rfl
  | cons e m ih =>
    obtain ⟨i, v⟩ := e
    by_cases h : k = i
    · exact .inr (by simp [SMap.get, h])
    · simp only [SMap.get, if_neg h]
      exact ih.imp_right (List.mem_cons_of_mem _)

/-- Listing a value that is filtered out, in the place of others that are, leaves the selection alone. -/
theorem filterMap_put {α β : Type} (m : SMap α) (f : Nat × α → Option β) (k : Nat) (v : α) (hv : f (k, v) = none)
    (hm : ∀ e ∈ m, e.1 = k → f e = none) : (m.put k v).filterMap f = m.filterMap f := by
  induction m with
  | nil => simp [SMap.put, hv]
  | cons e m ih =>
    obtain ⟨i, x⟩ := e
    simp only [SMap.put]
    split
    · simp [hv]
    · split
      · next h =>
        subst h
        simp [hv, hm (k, x) (by simp) rfl]
      · simp only [List.filterMap_cons, ih fun e he => hm e (List.mem_cons_of_mem _ he)]

theorem not_servesNow_of_mem {s : State} {b : Nat} {e : Nat × Context} (h : e.1 ∉ s.servingNow b) (he : e ∈ s.sched.ctxs) :
    servesNow b e.2 = false := by
  by_contra hs
  have hs : servesNow b e.2 = true := by simpa using hs
  exact h (by
    rw [servingNow_eq]
    exact List.mem_filterMap.2 ⟨e, he, if_pos hs⟩)

theorem not_servesNow_ctx {s : State} {b k : Nat} (h : k ∉ s.servingNow b) : servesNow b (s.ctx k) = false := by
  rcases get_eq_or_mem s.sched.ctxs {} k with hk | hk
  · rw [State.ctx, hk]
    rfl
  · exact not_servesNow_of_mem (e := (k, s.ctx k)) h hk

/-- What happens to a context whose sessions take no part changes neither those that do nor their contexts. -/
theorem servingNow_setCtx {s : State} {b k : Nat} {c : Context} (h : k ∉ s.servingNow b)
    (hc : servesNow b c = servesNow b (s.ctx k)) : (s.setCtx k c).servingNow b = s.servingNow b := by
  rw [not_servesNow_ctx h] at hc
  rw [servingNow_eq, servingNow_eq]
  refine filterMap_put _ _ k c (if_neg (by simp [hc])) fun e he hk => if_neg ?_
  subst hk
  simp [not_servesNow_of_mem h he]

theorem servingNow_modCtx {s : State} {b k : Nat} {f : Context → Context} (h : k ∉ s.servingNow b)
    (hf : ∀ c, servesNow b (f c) = servesNow b c) : (s.modCtx k f).servingNow b = s.servingNow b := servingNow_setCtx h (hf _)

theorem ctx_modCtx_ne (s : State) {k j : Nat} (f : Context → Context) (h : j ≠ k) : (s.modCtx k f).ctx j = s.ctx j := by
  simp [State.ctx, State.modCtx, State.setCtx, h]

/-- A context that is left out of the step loses its commands of it (08 R333). -/
def leftOut (s : State) (k : Nat) : State :=
  (s.dropSaved k fun _ => true).modCtx k fun c => { c with rerun := [], rows := [] }

/-- A session of base `b` whose context is left out of the step takes no part in it. -/
def stayOut (s : State) (b : Nat) (y : Session) : Session :=
  if y.base = b && y.inStep && !s.served y then { y with inStep := false } else y

theorem leaveOut_eq (s : State) (b : Nat) : ∃ out : List Nat, (∀ k ∈ out, k ∉ s.servingNow b) ∧
    s.leaveOut b = out.foldl leftOut { s with sessions := s.sessions.mapVals fun x => x.map (stayOut s b) } := by
  refine ⟨_, fun k hk => ?_, rfl⟩
  obtain ⟨e, -, he⟩ := List.mem_filterMap.1 hk
  split at he
  · next h =>
    cases he
    have hn : (!(s.servingNow b).contains e.1) = true := (Bool.and_eq_true_iff.1 h).2
    simpa using hn
  · cases he

theorem Untouched.with_sched {s t : State} (h : Untouched s t) (x : Sched) :
    Untouched { s with sched := x } { t with sched := x } :=
  ⟨rfl, h.sessions, h.warp, h.loom, h.tokens, h.running, h.raw⟩

theorem Untouched.with_modCtx {s t : State} {x : Sched} (h : Untouched { s with sched := x } t) (k : Nat) (f : Context → Context) :
    Untouched { s with sched := (t.modCtx k f).sched } (t.modCtx k f) :=
  ⟨rfl, h.sessions, h.warp, h.loom, h.tokens, h.running, h.raw⟩

theorem leftOut_keeps {s : State} {b k : Nat} (h : k ∉ s.servingNow b) :
    Untouched { s with sched := (leftOut s k).sched } (leftOut s k) ∧ (leftOut s k).servingNow b = s.servingNow b ∧
      ∀ j ∈ s.servingNow b, (leftOut s k).ctx j = s.ctx j := by
  unfold leftOut State.dropSaved
  extract_lets c u
  have hu : Untouched s u := .foldl _ (fun s (v : SavedCmd) => untouched_chargeAttempt s v.cmd c.client) _ s
  have hs : u.servingNow b = s.servingNow b := by simp only [State.servingNow, hu.sched]
  have h1 : ∀ f, (∀ c, servesNow b (f c) = servesNow b c) → (u.modCtx k f).servingNow b = s.servingNow b :=
    fun f hf => (servingNow_modCtx (hs ▸ h) hf).trans hs
  have hk : ∀ f, (∀ c, servesNow b (f c) = servesNow b c) → k ∉ (u.modCtx k f).servingNow b := fun f hf => by
    rw [h1 f hf]
    exact h
  refine ⟨(Untouched.with_modCtx (x := s.sched) hu k _).with_modCtx k _, ?_, fun j hj => ?_⟩
  · refine (servingNow_modCtx (hk _ ?_) ?_).trans (h1 _ ?_) <;> exact fun _ => rfl
  · have hjk : j ≠ k := fun e => h (e ▸ hj)
    rw [ctx_modCtx_ne _ _ hjk, ctx_modCtx_ne _ _ hjk]
    simp only [State.ctx, hu.sched]

theorem foldl_leftOut_keeps {b : Nat} (out : List Nat) (s : State) (h : ∀ k ∈ out, k ∉ s.servingNow b) :
    Untouched { s with sched := (out.foldl leftOut s).sched } (out.foldl leftOut s) ∧
      (out.foldl leftOut s).servingNow b = s.servingNow b ∧ ∀ j ∈ s.servingNow b, (out.foldl leftOut s).ctx j = s.ctx j := by
  induction out generalizing s with
  | nil => exact ⟨.refl s, rfl, fun _ _ => rfl⟩
  | cons k out ih =>
    obtain ⟨h1, hn, hc⟩ := leftOut_keeps (h k (by simp))
    obtain ⟨h2, hn', hc'⟩ := ih (leftOut s k) fun j hj => hn ▸ h j (by simp [hj])
    exact ⟨(h1.with_sched _).trans h2, hn'.trans hn, fun j hj => (hc' j (hn ▸ hj)).trans (hc j hj)⟩

/-- Contexts that are left out of a step leave the others, and all but who takes part, alone. -/
theorem leaveOut_keeps (s : State) (b : Nat) :
    Untouched { s with
      sched := (s.leaveOut b).sched
      sessions := s.sessions.mapVals fun x => x.map (stayOut s b) } (s.leaveOut b) ∧
    (s.leaveOut b).servingNow b = s.servingNow b ∧ ∀ j ∈ s.servingNow b, (s.leaveOut b).ctx j = s.ctx j := by
  obtain ⟨out, ho, e⟩ := leaveOut_eq s b
  rw [e]
  exact foldl_leftOut_keeps out { s with sessions := s.sessions.mapVals fun x => x.map (stayOut s b) } ho

/-! ### The leavers of a step (01 R26, R32) -/

/-- No session of base `b` leaves at the commit of the running step. -/
def NoLeavers (s : State) (b : Nat) : Prop := ∀ e ∈ s.sessionsOn b, s.closeTaken e.1 = none ∧ e.2.migrating = none

theorem mem_sessionsOn {s : State} {b : Nat} {e : Nat × Session} :
    e ∈ s.sessionsOn b ↔ (e.1, some e.2) ∈ s.sessions ∧ e.2.base = b := by
  obtain ⟨n, x⟩ := e
  simp [State.sessionsOn, State.openSessions]

theorem mem_sessions {s : State} {n : Nat} {x : Session} (h : s.session n = some x) : (n, some x) ∈ s.sessions := by
  rcases get_eq_or_mem s.sessions none n with hg | hg
  · rw [State.session, hg] at h
    cases h
  · rwa [← State.session, h] at hg

/-- The CLOSE_SESSION that a commit takes rests on the session's own, the commands that run and the beat. -/
theorem closeTaken_congr {s t : State} {n : Nat} (hs : (t.session n).map (·.closing) = (s.session n).map (·.closing))
    (hr : t.eth.running = s.eth.running) (hb : t.beat = s.beat) : t.closeTaken n = s.closeTaken n := by
  unfold State.closeTaken
  rw [hr, hb]
  cases h : s.session n with
  | none =>
    rw [h] at hs
    rw [Option.map_eq_none_iff.1 hs]
  | some x =>
    rw [h] at hs
    obtain ⟨y, hy, hc⟩ := Option.map_eq_some_iff.1 hs
    rw [hy]
    simp only [hc]

/-- Where each session of the base was there before, and neither closes nor migrates otherwise, none leaves if none did. -/
theorem NoLeavers.of_sessions {s t : State} {b : Nat} (h : NoLeavers s b)
    (hs : ∀ n, (t.session n).map (·.closing) = (s.session n).map (·.closing))
    (hm : ∀ e ∈ t.sessionsOn b, ∃ x, (e.1, x) ∈ s.sessionsOn b ∧ e.2.migrating = x.migrating)
    (hr : t.eth.running = s.eth.running) (hb : t.beat = s.beat) : NoLeavers t b := by
  intro e he
  obtain ⟨x, hx, hmig⟩ := hm e he
  obtain ⟨hc, hn⟩ := h _ hx
  exact ⟨(closeTaken_congr (hs e.1) hr hb).trans hc, hmig.trans hn⟩

theorem NoLeavers.congr {s t : State} {b : Nat} (h : NoLeavers s b) (hs : t.sessions = s.sessions)
    (hr : t.eth.running = s.eth.running) (hb : t.beat = s.beat) : NoLeavers t b :=
  h.of_sessions (fun n => by rw [State.session, hs]; rfl)
    (fun e he => ⟨e.2, by rw [State.sessionsOn, State.openSessions, hs] at he; exact he, rfl⟩) hr hb

/-- A loop none of whose turns changes anything changes nothing. -/
theorem foldl_eq_self {α : Type} {f : State → α → State} {s : State} (l : List α) (h : ∀ a ∈ l, f s a = s) :
    l.foldl f s = s := by
  induction l with
  | nil => rfl
  | cons a l ih => rw [List.foldl_cons, h a (by simp), ih fun c hc => h c (by simp [hc])]

theorem takeLeavers_eq_self {s : State} {b : Nat} (h : NoLeavers s b) (step : W64) : s.takeLeavers b step = s := by
  refine foldl_eq_self _ fun e he => ?_
  obtain ⟨hc, hm⟩ := h e he
  simp only [hc, hm, Option.isSome_none, Bool.false_and, Bool.false_eq_true, if_false]

/-- Replacing a session by one that closes and migrates as it did lets none leave. -/
theorem NoLeavers.setSession {s : State} {b n : Nat} {x y : Session} (h : NoLeavers s b) (hx : s.session n = some x)
    (hb : y.base = x.base) (hc : y.closing = x.closing) (hm : y.migrating = x.migrating) : NoLeavers (s.setSession n y) b := by
  refine h.of_sessions (fun j => ?_) (fun e he => ?_) rfl rfl
  · by_cases hj : j = n
    · subst hj
      rw [hx]
      simp [State.session, State.setSession, hc]
    · simp [State.session, State.setSession, hj]
  · obtain ⟨hmem, hbase⟩ := mem_sessionsOn.1 he
    rcases SMap.mem_put hmem with heq | hold
    · obtain ⟨n', y'⟩ := e
      cases heq
      exact ⟨x, mem_sessionsOn.2 ⟨mem_sessions hx, hb ▸ hbase⟩, hm⟩
    · exact ⟨e.2, mem_sessionsOn.2 ⟨hold, hbase⟩, rfl⟩

theorem stayOut_eq (s : State) (b : Nat) (y : Session) : ∃ i, stayOut s b y = { y with inStep := i } := by
  unfold stayOut
  split
  · exact ⟨false, rfl⟩
  · exact ⟨y.inStep, rfl⟩

theorem session_leaveOut (s : State) (b n : Nat) : (s.leaveOut b).session n = (s.session n).map (stayOut s b) := by
  rw [State.session, (leaveOut_keeps s b).1.sessions]
  exact SMap.get_mapVals s.sessions (fun x => x.map (stayOut s b)) none rfl n

theorem NoLeavers.leaveOut {s : State} {b : Nat} (h : NoLeavers s b) : NoLeavers (s.leaveOut b) b := by
  have k := (leaveOut_keeps s b).1
  refine h.of_sessions (fun n => ?_) (fun e he => ?_) k.running k.beat
  · rw [session_leaveOut]
    cases s.session n with
    | none => rfl
    | some x =>
      obtain ⟨i, hi⟩ := stayOut_eq s b x
      simp [hi]
  · obtain ⟨hmem, hbase⟩ := mem_sessionsOn.1 he
    rw [k.sessions] at hmem
    obtain ⟨⟨n, o⟩, hz, heq⟩ := List.mem_map.1 hmem
    cases o with
    | none => cases heq
    | some z =>
      obtain ⟨i, hi⟩ := stayOut_eq s b z
      simp only [Option.map_some, Prod.mk.injEq, Option.some.injEq, hi] at heq
      obtain ⟨rfl, h2⟩ := heq
      rw [← h2] at hbase ⊢
      exact ⟨z, mem_sessionsOn.2 ⟨hz, hbase⟩, rfl⟩

/-! ### A decode row commits (08 R322; 10 R399) -/

/-- A session one token longer. -/
def tokenAdded (x : Session) (tok : W32) : Session :=
  { x with
    committed := x.committed + 1
    ended := decide (x.maxCtx ≤ x.committed + 1)
    history := x.history ++ [tok]
    lastTok := tok }

theorem countUse_eq (s : State) (x : Session) : ∃ w, s.countUse x = { s with warp := w } := by
  unfold State.countUse
  extract_lets y s1
  split
  · split
    · exact ⟨_, rfl⟩
    · exact ⟨_, rfl⟩
  · exact ⟨_, rfl⟩

/-- A record is held behind those of its ring. -/
theorem holdToken_untouched (s : State) (ring : Nat) (t : TokenRec) :
    Untouched { s with eth := { s.eth with tokens := SMap.put s.eth.tokens ring (SMap.get s.eth.tokens [] ring ++ [t]) } }
      (s.holdToken ring t) := by
  unfold State.holdToken
  extract_lets held eth s1 eth' s2
  have h2 : Untouched s1 s2 := ⟨rfl, rfl, rfl, rfl, rfl, rfl, fun _ _ => rfl⟩
  exact .ite (h2.trans (untouched_raise s2 _ _ _ _ _)) (.refl s1)

/-- A decode row adds the token that its command has left in the token array. -/
theorem commitRow_decode {s : State} {k i : Nat} {r : Row} {x : Session} (hx : s.session r.1 = some x) (hr : r.2.1 = 0) :
    ∃ (u : State) (tok : W32) (flags : Nat), Untouched s u ∧
      s.commitRow k i r = ((u.setSession r.1 (tokenAdded x tok)).countUse (x.advance r)).holdToken x.ring
        ⟨x.client, r.1, r.2.2.1 + 1, tok, x.base, flags, (s.base x.base).step⟩ := by
  have h1 := untouched_copyRow s k i r
  have h2 := h1.trans (untouched_clerkGet (s.copyRow k i r) k (tokenArrayAddr + 4 * i) 4)
  have hx1 : (s.copyRow k i r).session r.1 = some x := by rw [State.session, h1.sessions]; exact hx
  have ha : x.advance r = { x with committed := x.committed + 1, ended := decide (x.maxCtx ≤ x.committed + 1) } := by
    simp [Session.advance, hr]
  have hstep : (((s.copyRow k i r).clerkGet k (tokenArrayAddr + 4 * i) 4).1.base x.base).step = (s.base x.base).step := by
    simp only [State.base, h2.warp]
  have hs : Row.samples r = true := by simp [Row.samples, hr]
  refine ⟨_, BitVec.ofNat 32 (leNat ((s.copyRow k i r).clerkGet k (tokenArrayAddr + 4 * i) 4).2),
    tokenFlags (x.advance r).ended (((s.copyRow k i r).clerkGet k (tokenArrayAddr + 4 * i) 4).1.closeTaken r.1).isSome (r.2.1 = 2),
    h2, ?_⟩
  unfold State.commitRow
  simp only [hx1, hs, if_true, ha, ← hstep]
  rfl

/-- What is left after the only row of a context, a decode row, has committed. -/
theorem commitRow_decode_keeps {s : State} {k i : Nat} {r : Row} {x : Session} (hx : s.session r.1 = some x) (hr : r.2.1 = 0) :
    ∃ (tok : W32) (flags : Nat), (s.commitRow k i r).sessions = SMap.put s.sessions r.1 (some (tokenAdded x tok)) ∧
      (s.commitRow k i r).eth.tokens = SMap.put s.eth.tokens x.ring (SMap.get s.eth.tokens [] x.ring ++
        [⟨x.client, r.1, r.2.2.1 + 1, tok, x.base, flags, (s.base x.base).step⟩]) ∧
      (s.commitRow k i r).eth.running = s.eth.running ∧ (s.commitRow k i r).beat = s.beat := by
  obtain ⟨u, tok, flags, hu, e⟩ := commitRow_decode (k := k) (i := i) hx hr
  obtain ⟨w, hw⟩ := countUse_eq (u.setSession r.1 (tokenAdded x tok)) (x.advance r)
  have h := holdToken_untouched ((u.setSession r.1 (tokenAdded x tok)).countUse (x.advance r)) x.ring
    ⟨x.client, r.1, r.2.2.1 + 1, tok, x.base, flags, (s.base x.base).step⟩
  rw [e, h.sessions, h.tokens, h.running, h.beat, hw]
  exact ⟨tok, flags, congrArg (SMap.put · r.1 _) hu.sessions, by simp only [State.setSession, hu.tokens], hu.running, hu.beat⟩

/-- The end of a step: no session of the base takes part any longer, and what the clerks record beside it changes no session. -/
theorem commitStep_tail {s : State} {b : Nat} (h : NoLeavers (rowsCommitted s b) b) :
    (s.commitStep b).sessions =
      (rowsCommitted s b).sessions.mapVals (fun x => x.map fun x => if x.base = b then { x with inStep := false } else x) ∧
    (s.commitStep b).eth.tokens = (rowsCommitted s b).eth.tokens := by
  obtain ⟨left, r, flags, e⟩ := commitStep_eq s b
  have hc := untouched_charges lUnserved left (rowsCommitted s b)
  rw [takeLeavers_eq_self (h.congr hc.sessions hc.running hc.beat)] at e
  have hp := (hc.posted.trans (untouched_holdStep _ r).posted).trans (settleWefts_keeps b _ b).2
  rw [e]
  exact ⟨(posted_stepArrive _ b flags).sessions.trans (congrArg (SMap.mapVals · _) hp.sessions),
    (posted_stepArrive _ b flags).tokens.trans hp.tokens⟩

/-- A decode row that commits alone makes its session one token longer, and its token is held for the session's ring. -/
theorem commitStep_decode {s : State} {b k : Nat} {r : Row} {x : Session} (hs : s.servingNow b = [k]) (hr : (s.ctx k).rows = [r])
    (hd : r.2.1 = 0) (hx : s.session r.1 = some x) (hb : x.base = b) (hl : NoLeavers s b) : ∃ (tok : W32) (flags : Nat),
    (s.commitStep b).session r.1 = some { tokenAdded x tok with inStep := false } ∧
    SMap.get (s.commitStep b).eth.tokens [] x.ring = SMap.get s.eth.tokens [] x.ring ++
      [⟨x.client, r.1, r.2.2.1 + 1, tok, b, flags, (s.base b).step⟩] := by
  obtain ⟨ho, hn, hc⟩ := leaveOut_keeps s b
  obtain ⟨i, hi⟩ := stayOut_eq s b x
  have hx' : (s.leaveOut b).session r.1 = some { x with inStep := i } := by rw [session_leaveOut, hx, Option.map_some, hi]
  have hrows : rowsCommitted s b = (s.leaveOut b).commitRow k 0 r := by
    rw [rowsCommitted, hn, hs, List.foldl_cons, List.foldl_nil, State.commitRows, hc k (by simp [hs]), hr]
    rfl
  obtain ⟨tok, flags, hses, htok, hrun, hbeat⟩ := commitRow_decode_keeps (k := k) (i := 0) hx' hd
  rw [← hrows] at hses htok hrun hbeat
  have hleave : NoLeavers (rowsCommitted s b) b :=
    (hl.leaveOut.setSession (y := tokenAdded { x with inStep := i } tok) hx' rfl rfl rfl).congr hses hrun hbeat
  obtain ⟨hS, hT⟩ := commitStep_tail hleave
  have hbase : (s.leaveOut b).base x.base = s.base b := by simp only [State.base, ho.warp, hb]
  refine ⟨tok, flags, ?_, ?_⟩
  · rw [State.session, hS, SMap.get_mapVals _ _ _ rfl, hses, SMap.get_put, if_pos rfl]
    simp [tokenAdded, hb]
  · rw [hT, htok, SMap.get_put, if_pos rfl, hbase, hb, ho.tokens]

/-- Settles O37: up to its arrival a commit leaves its barrier alone; the one row commits in a state that differs from the first only
in who takes part, and the leavers, the record and the wefts that follow change no session. -/
theorem stepCommits : Obligations.StepCommits := by
  intro b s hb ht
  refine ⟨fun hcan hchild => ?_, fun k r x hcan hs hr hd hx hxb hl => ?_, fun hcan => ?_⟩
  · obtain ⟨u, flags, e, hk⟩ := commitStep_arrives s b
    obtain ⟨hdone, hstep⟩ := stepArrive_waits (s := u) (b := b) flags (by rw [hk.ports, hk.bar]; exact hchild)
    refine ⟨_, by rw [exec_stepCommit hb ht, if_pos hcan, e], hdone, hstep.trans hk.step⟩
  · obtain ⟨tok, flags, hses, htok⟩ := commitStep_decode hs hr hd hx hxb hl
    exact ⟨_, _, _, by rw [exec_stepCommit hb ht, if_pos hcan], hses, rfl, rfl, rfl, rfl, rfl, htok, rfl, rfl, rfl, rfl, rfl, rfl⟩
  · rw [exec_stepCommit hb ht, if_neg (by simp [hcan])]

end Sys2Proof.Proofs
end

section
/-!
Proofs: the source of a migration takes its target's answer (01 R32; 10 R393; 05 R177). The answer is sought among all listed sessions,
and the session to free is looked up by id: the two agree where an id is listed once. A state that lists one twice refutes O48.
-/
namespace Sys2Proof.Proofs
open Sys2Proof.Machine Sys2Proof.Safety Sys2Proof.Laws

/-! ### MIGRATE_RX with an answer -/

theorem exec_migrateRx_reply {s : State} (h : Threaded s) (seq : W64) (st : Status) (id : Nat) :
    exec (.migrateRx (.reply seq st id)) s = .next (s.betweenCommands fun s => s.migBack seq st id) := by
  obtain ⟨hc, hd⟩ := h
  show Host.Outcome.next (whenDo _ s _) = _
  rw [whenDo, if_pos (by simp [hc, hd, stThreaded])]

/-- What would change a page that a running command maps has no effect yet (05 R177). -/
theorem betweenCommands_waits {s : State} {f : State → State} (h : s.pagesKept (f s) = false) : s.betweenCommands f = s :=
  if_neg (by simp [h])

theorem betweenCommands_runs {s : State} {f : State → State} (h : s.pagesKept (f s) = true) : s.betweenCommands f = f s := if_pos h

theorem migBack_ok {s : State} {seq : W64} {n : Nat} {x : Session} (id : Nat)
    (h : s.openSessions.find? (fun e => (e.2.migrating.map (·.1)) = some seq) = some (n, x)) :
    s.migBack seq .ok id =
      (s.freeSession n).complete seq { value := BitVec.ofNat 64 id, data := leBytes ((x.left_.getD 0).toNat) 8 } := by
  unfold State.migBack
  rw [h]
  rfl

/-! ### Where the id is listed once -/

theorem ended_complete (s : State) (seq : W64) (a : Answer) : Ended (s.complete seq a) seq := by
  unfold State.complete
  split
  · unfold State.completeAs Ended
    extract_lets phase c rx s1 eth s2 s3
    rw [(traceRec_eth _ _ _ _ _ _).1, (send_eth _ _).1]
    exact fun q hq => by simpa using (List.mem_filter.1 hq).2
  · next h => exact fun r hr e => by simpa [e] using List.find?_eq_none.1 h r hr

/-- Pages of a context without a running command may change. -/
theorem pagesKept_of_idle_ctx {s t : State} {k : Nat} (hk : s.cmdsOf k = []) (hc : t.sched.cmds = s.sched.cmds)
    (h : ∀ j, j ≠ k → t.ctx j = s.ctx j) : s.pagesKept t = true := by
  simp only [State.pagesKept, hc, List.all_eq_true]
  intro e he
  split
  · next c hc =>
    have hck : c.ctx ≠ k := fun hck => by
      have hm : (e.1, c) ∈ s.cmdsOf k := List.mem_filterMap.2 ⟨e, he, by rw [hc]; exact if_pos hck⟩
      rw [hk] at hm
      cases hm
    rw [h _ hck]
    exact pagesStand_refl _
  · rfl

/-- A session that leaves the device gives up its id and, in its SERVING context alone, its pages. -/
theorem freeSession_keeps {s : State} {n : Nat} {x : Session} (hx : s.session n = some x)
    (hk : ∀ k, s.servingCtx x.client x.base = some k → s.cmdsOf k = []) :
    (s.freeSession n).session n = none ∧ s.pagesKept (s.freeSession n) = true := by
  unfold State.freeSession
  rw [hx]
  dsimp only
  refine ⟨by simp [State.session], ?_⟩
  split
  · next k hs =>
    have hctx := fun j hj => ctx_modCtx_ne (s.freeHeld (.session n)) (k := k) (j := j)
      (fun c => { c with pages := unmapPages c.pages (x.dir / pageBytes) x.frames.length }) hj
    exact pagesKept_of_idle_ctx (hk k hs) rfl hctx
  · exact pagesKept_of_ctxs rfl

/-- The target has taken the session: it leaves the source, and the command ends. -/
theorem migrateRx_ok_of_session {s : State} {seq : W64} {n : Nat} {x : Session} (ht : Threaded s) (id : Nat)
    (h : s.openSessions.find? (fun e => (e.2.migrating.map (·.1)) = some seq) = some (n, x)) (hx : s.session n = some x)
    (hk : ∀ k, s.servingCtx x.client x.base = some k → s.cmdsOf k = []) :
    ∃ t, exec (.migrateRx (.reply seq .ok id)) s = .next t ∧ t.session n = none ∧ Ended t seq := by
  obtain ⟨hn, hp⟩ := freeSession_keeps hx hk
  have hc := kept_complete (s.freeSession n) seq { value := BitVec.ofNat 64 id, data := leBytes ((x.left_.getD 0).toNat) 8 }
  have hp' : s.pagesKept (s.migBack seq .ok id) = true := by
    rw [migBack_ok id h]
    simpa only [State.pagesKept, State.ctx, rest_sched hc.1] using hp
  refine ⟨_, by rw [exec_migrateRx_reply ht, betweenCommands_runs (f := fun s => s.migBack seq .ok id) hp'], ?_, ?_⟩
  · rw [migBack_ok id h, State.session, rest_sessions hc.1]
    exact hn
  · rw [migBack_ok id h]
    exact ended_complete _ seq _

/-! ### Where it is listed twice -/

/-- The session that an id finds: its SERVING context is context 0, where page 5 is its frame. -/
def foundSession : Session :=
  { client := 0, base := 0, weft := none, ring := 0, maxCtx := 1, seed := 0, params := [], paramsAddr := 0, group := 0, pages := [],
    dir := 5 * pageBytes, frames := [0] }

/-- A second session listed with the same id, of a base without a SERVING context: it is the one that migrates. -/
def migratingSession : Session := { foundSession with base := 1, migrating := some (1, 0, 0) }

/-- A command of context 0. -/
def mappingCmd : RunCmd := { ctx := 0, seq := 1, first := 0, count := 1, entry := 0, args := [], regions := [] }

/-- A THREADED device that lists session 0 twice. -/
def listedTwice : State :=
  { State.reset with
    regs := [(Reg.devState, 3)]
    sys := { tclk := true }
    sched := { ctxs := [(0, { st := .launched, serving := true, pages := [(5, .hostBacked)] })], cmds := [(0, some mappingCmd)] }
    sessions := [(0, some foundSession), (0, some migratingSession)] }

theorem threaded_listedTwice : Threaded listedTwice := ⟨rfl, by decide⟩

/-- The answer would unmap page 5 of the session that the id finds, which the running command maps. -/
theorem migBack_listedTwice : listedTwice.pagesKept (listedTwice.migBack 1 .ok 0) = false := by decide

theorem exec_listedTwice : exec (.migrateRx (.reply 1 .ok 0)) listedTwice = .next listedTwice := by
  rw [exec_migrateRx_reply threaded_listedTwice, betweenCommands_waits (f := fun s => s.migBack 1 .ok 0) migBack_listedTwice]

/-- Refutes O48: no command runs on a SERVING context of the session that migrates, yet its answer has no effect, since the session
that the id finds is another one, whose pages a running command maps. `migrateRx_ok_of_session` is the clause where the two are
one. -/
theorem not_sessionCommands : ¬ Obligations.SessionCommands := by
  unfold Obligations.SessionCommands
  intro h
  obtain ⟨-, -, hrx⟩ := h 1 listedTwice
  obtain ⟨-, -, -, hback⟩ := hrx threaded_listedTwice
  obtain ⟨hok, -⟩ := hback 0 migratingSession 0 0 0 .ok rfl rfl
  have hidle : listedTwice.servingCtx migratingSession.client migratingSession.base = none := by decide
  obtain ⟨t, ht, hnone, -⟩ := hok rfl fun k hk => by simp [hidle] at hk
  rw [exec_listedTwice] at ht
  cases ht
  exact absurd hnone (by decide)

end Sys2Proof.Proofs
end

section
/-!
Proofs: what the operations on the engines, planes and slots of a core change and what they leave alone (02 R53 to R59, R69 to
R72; 04 R138).
-/
namespace Sys2Proof.Proofs
open Sys2Proof.Machine Sys2Proof.Safety Sys2Proof.Laws

/-! ### The two engines of a core -/

@[simp] theorem eng_setEng (c : Core) (e f : Eng) (x : Engine) : (c.setEng e x).eng f = if f = e then x else c.eng f := by
  cases e <;> cases f <;> rfl

/-- Outside its two engines, core `d` is as core `c`. -/
def OnlyEngines (c d : Core) : Prop := { d with eng0 := {}, eng1 := {} } = { c with eng0 := {}, eng1 := {} }

namespace OnlyEngines
variable {c d : Core}

theorem refl (c : Core) : OnlyEngines c c := rfl

theorem trans {b : Core} (h : OnlyEngines b c) (k : OnlyEngines c d) : OnlyEngines b d := Eq.trans k h

theorem slot (h : OnlyEngines c d) (n : Nat) : d.slot n = c.slot n := (congrArg (fun x : Core => x.slot n) h :)

theorem plane (h : OnlyEngines c d) (n : Nat) : d.plane n = c.plane n := (congrArg (fun x : Core => x.plane n) h :)

theorem fifo (h : OnlyEngines c d) : d.fifo = c.fifo := (congrArg (fun x : Core => x.fifo) h :)

end OnlyEngines

theorem onlyEngines_setEng (c : Core) (e : Eng) (x : Engine) : OnlyEngines c (c.setEng e x) := by
  cases e <;> rfl

/-! ### The keeper (02 R72) -/

section Keep
variable (x : Engine) (beat : Nat) (had : Bool)

theorem keep_eq : ∃ k g, x.keep beat had = { x with keeper := k, gapFrom := g } := by
  unfold Engine.keep
  split
  · exact ⟨_, _, rfl⟩
  · split <;> exact ⟨_, _, rfl⟩

@[simp] theorem keep_queue : (x.keep beat had).queue = x.queue := by
  obtain ⟨k, g, h⟩ := keep_eq x beat had
  rw [h]

@[simp] theorem keep_marks : (x.keep beat had).marks = x.marks := by
  obtain ⟨k, g, h⟩ := keep_eq x beat had
  rw [h]

@[simp] theorem keep_rows : (x.keep beat had).rows = x.rows := by
  obtain ⟨k, g, h⟩ := keep_eq x beat had
  rw [h]

@[simp] theorem keep_acc : (x.keep beat had).acc = x.acc := by
  obtain ⟨k, g, h⟩ := keep_eq x beat had
  rw [h]

/-- Real rows end the keeper's gap. -/
theorem keep_of_hasRows (h : x.hasRows = true) : x.keep beat had = { x with gapFrom := none, keeper := 0 } := if_pos h

end Keep

/-! ### Rows of an engine (02 R53) -/

/-- Narrow row `r` through `g`. -/
def modRow (g : AccRow → AccRow) (x : Engine) (r : Nat) : Engine :=
  { x with rows := SMap.put x.rows r (g (SMap.get x.rows {} r)) }

theorem foldl_modRow_eq (g : AccRow → AccRow) (rows : List Nat) (x : Engine) :
    ∃ m, rows.foldl (modRow g) x = { x with rows := m } := by
  induction rows generalizing x with
  | nil => exact ⟨_, rfl⟩
  | cons a rows ih => exact ih (modRow g x a)

/-- Every row of a list through `g`, where none is listed twice or twice is as once. -/
theorem get_foldl_modRow {g : AccRow → AccRow} {rows : List Nat} (h : rows.Nodup ∨ ∀ a, g (g a) = g a) (x : Engine)
    (r : Nat) : SMap.get (rows.foldl (modRow g) x).rows {} r =
      if r ∈ rows then g (SMap.get x.rows {} r) else SMap.get x.rows {} r := by
  induction rows generalizing x with
  | nil => rfl
  | cons a rows ih =>
    have one : SMap.get (modRow g x a).rows {} r = if r = a then g (SMap.get x.rows {} r) else SMap.get x.rows {} r := by
      by_cases e : r = a <;> simp [modRow, e]
    rw [List.foldl_cons, ih (h.imp_left fun n => (List.nodup_cons.1 n).2), one]
    by_cases e : r = a
    · subst e
      by_cases hr : r ∈ rows
      · simp [hr, h.resolve_left fun n => (List.nodup_cons.1 n).1 hr]
      · simp [hr]
    · simp [e]

/-- Rows that become active, owned by thread `u`: their owner is all that changes. -/
theorem rowsOwned_foldl_own (u : Nat) (rows : List Nat) (x : Engine) :
    RowsOwned x (rows.foldl (fun y r => y.own u r) x) rows u := by
  refine ⟨?_, get_foldl_modRow (g := fun a => { a with st := .active u }) (.inr fun _ => rfl) x⟩
  obtain ⟨m, h⟩ := foldl_modRow_eq (fun a => { a with st := .active u }) rows x
  exact (congrArg Engine.acc h :)

theorem foldl_own_queue (u : Nat) (rows : List Nat) (x : Engine) :
    (rows.foldl (fun y r => y.own u r) x).queue = x.queue ∧ (rows.foldl (fun y r => y.own u r) x).marks = x.marks := by
  obtain ⟨m, h⟩ := foldl_modRow_eq (fun a => { a with st := .active u }) rows x
  exact ⟨(congrArg Engine.queue h :), (congrArg Engine.marks h :)⟩

/-! ### Work at the end of a queue (02 R69) -/

theorem eng_enqueue (c : Core) (beat : Nat) (e f : Eng) (o : EngOp) : (c.enqueue beat e o).eng f =
    if f = e then { c.eng e with queue := (c.eng e).queue ++ [o] }.keep beat (c.eng e).hasRows else c.eng f :=
  eng_setEng ..

theorem onlyEngines_enqueue (c : Core) (beat : Nat) (e : Eng) (o : EngOp) : OnlyEngines c (c.enqueue beat e o) :=
  onlyEngines_setEng ..

theorem hasRows_append (x : Engine) (o : EngOp) (h : Engine.hasRows { queue := [o] } = true) :
    Engine.hasRows { x with queue := x.queue ++ [o] } = true := by
  simp only [Engine.hasRows, List.any_append, Bool.or_eq_true] at *
  exact .inr h

theorem eng_ownRows (c : Core) (u : Nat) (e f : Eng) (rows : List Nat) : (c.ownRows u e rows).eng f =
    if f = e then rows.foldl (fun y r => y.own u r) (c.eng e) else c.eng f := eng_setEng ..

/-- Work with rows is queued behind all that the engine's queue holds, and its rows become active. -/
theorem workQueued_enqueue (c : Core) (beat u : Nat) (e : Eng) (rows : List Nat) {o : EngOp}
    (ho : Engine.hasRows { queue := [o] } = true) :
    WorkQueued (c.eng e) (((c.ownRows u e rows).enqueue beat e o).eng e) o rows u := by
  obtain ⟨hqueue, hmarks⟩ := foldl_own_queue u rows (c.eng e)
  rw [eng_enqueue, if_pos rfl, eng_ownRows, if_pos rfl, keep_of_hasRows _ _ _ (hasRows_append _ _ ho)]
  exact ⟨by simp [hqueue], rfl, rfl, hmarks, rowsOwned_foldl_own ..⟩

theorem eng_workQueued_ne (c : Core) (beat u : Nat) {e f : Eng} (h : f ≠ e) (rows : List Nat) (o : EngOp) :
    ((c.ownRows u e rows).enqueue beat e o).eng f = c.eng f := by
  rw [eng_enqueue, if_neg h, eng_ownRows, if_neg h]

theorem onlyEngines_workQueued (c : Core) (beat u : Nat) (e : Eng) (rows : List Nat) (o : EngOp) :
    OnlyEngines c ((c.ownRows u e rows).enqueue beat e o) :=
  (onlyEngines_setEng ..).trans (onlyEngines_enqueue ..)

/-! ### Slots and planes of an engine instruction (02 R58, R59; 04 R138) -/

theorem slot_useSlot (c : Core) (b : Bool) (r : W64) (n : Nat) : (c.useSlot b r).slot n =
    if b = true ∧ n = refSlot r then { c.slot n with st := .draining, user := .engine } else c.slot n := by
  cases b
  · rfl
  · by_cases h : n = refSlot r <;> simp [Core.useSlot, Core.modSlot, Slot.startUse, h]

theorem engineUses_of_slot {c d : Core} {b : Bool} {r : W64} (h : ∀ n, d.slot n =
    if b = true ∧ n = refSlot r then { c.slot n with st := .draining, user := .engine } else c.slot n) :
    EngineUses c d b r := by
  cases b
  · exact fun n => by rw [h n]; rfl
  · exact ⟨by rw [h]; simp, fun m hm => by rw [h]; simp [hm]⟩

@[simp] theorem plane_useSlot (c : Core) (b : Bool) (r : W64) (n : Nat) : (c.useSlot b r).plane n = c.plane n := by
  cases b <;> rfl

@[simp] theorem fifo_useSlot (c : Core) (b : Bool) (r : W64) : (c.useSlot b r).fifo = c.fifo := by
  cases b <;> rfl

@[simp] theorem eng_useSlot (c : Core) (b : Bool) (r : W64) (e : Eng) : (c.useSlot b r).eng e = c.eng e := by
  cases b <;> cases e <;> rfl

@[simp] theorem slot_loadPlane (c : Core) (n : Nat) (f : EFmt) (image : Bytes) (src : PlaneSrc) (m : Nat) :
    (c.loadPlane n f image src).slot m = c.slot m := by
  unfold Core.loadPlane
  split <;> rfl

@[simp] theorem fifo_loadPlane (c : Core) (n : Nat) (f : EFmt) (image : Bytes) (src : PlaneSrc) :
    (c.loadPlane n f image src).fifo = c.fifo := by
  unfold Core.loadPlane
  split <;> rfl

@[simp] theorem eng_loadPlane (c : Core) (n : Nat) (f : EFmt) (image : Bytes) (src : PlaneSrc) (e : Eng) :
    (c.loadPlane n f image src).eng e = c.eng e := by
  unfold Core.loadPlane
  split <;> cases e <;> rfl

theorem planesLoaded_loadPlane (c : Core) (n : Nat) (f : EFmt) (image : Bytes) (src : PlaneSrc) :
    PlanesLoaded c (c.loadPlane n f image src) n f image src := by
  intro m
  unfold Core.loadPlane
  by_cases hf : f = .bf16
  · by_cases h : m = n <;> simp [hf, h]
  · simp [hf]

theorem planesLoaded_congr {c c' d d' : Core} {n : Nat} {f : EFmt} {image : Bytes} {src : PlaneSrc}
    (h : PlanesLoaded c d n f image src) (hc : ∀ m, c'.plane m = c.plane m) (hd : ∀ m, d'.plane m = d.plane m) :
    PlanesLoaded c' d' n f image src := by
  intro m
  rw [hd, hc]
  exact h m

/-! ### What an engine instruction leaves alone -/

/-- Outside its slots, planes, warp FIFO and engines, core `d` is as core `c`. -/
def EngineWork (c d : Core) : Prop :=
  { d with slots := [], planes := [], fifo := [], eng0 := {}, eng1 := {} } =
    { c with slots := [], planes := [], fifo := [], eng0 := {}, eng1 := {} }

namespace EngineWork
variable {c d : Core}

theorem trans {b : Core} (h : EngineWork b c) (k : EngineWork c d) : EngineWork b d := Eq.trans k h

theorem of_onlyEngines (h : OnlyEngines c d) : EngineWork c d :=
  (congrArg (fun x : Core => { x with slots := [], planes := [], fifo := [] }) h :)

theorem rest (h : EngineWork c d) : EngineRest c d := (congrArg unthreaded h :)

theorem thread (h : EngineWork c d) (u : Nat) : d.thread u = c.thread u := (congrArg (fun x : Core => x.thread u) h :)

theorem lastThread (h : EngineWork c d) : d.lastThread = c.lastThread := (congrArg (fun x : Core => x.lastThread) h :)

end EngineWork

theorem engineWork_useSlot (c : Core) (b : Bool) (r : W64) : EngineWork c (c.useSlot b r) := by
  cases b <;> rfl

theorem engineWork_loadPlane (c : Core) (n : Nat) (f : EFmt) (image : Bytes) (src : PlaneSrc) :
    EngineWork c (c.loadPlane n f image src) := by
  unfold Core.loadPlane
  split <;> rfl

/-- An engine instruction passes its thread's PC and has its effect on the core; nothing else of the device changes. -/
theorem ranOn_engineWork {s : State} {p u n : Nat} {f : Core → Core}
    (h : EngineWork ((s.passed p u n).core p) (f ((s.passed p u n).core p))) :
    RanOn s ((s.passed p u n).modCore p f) p u n ∧ EngineRest (s.core p) (((s.passed p u n).modCore p f).core p) := by
  have core : ((s.passed p u n).modCore p f).core p = f ((s.passed p u n).core p) := by simp
  refine ⟨⟨⟨rfl, fun q hq => by simp [hq]⟩, ⟨?_, fun v hv => ?_⟩, ?_⟩, ?_⟩
  · rw [core, h.lastThread, passed_core, if_pos rfl, Core.issuedBy_lastThread]
  · rw [State.thread, core, h.thread]
    simp [hv, State.thread]
  · rw [Passed, State.thread, core, h.thread]
    simp [State.thread, Thread.pass]
  · rw [core]
    refine h.rest.trans ?_
    rw [passed_core, if_pos rfl]
    rfl

section Passed
variable (s : State) (p u n : Nat)

theorem passed_slot (m : Nat) : ((s.passed p u n).core p).slot m = (s.core p).slot m := by simp

theorem passed_plane (m : Nat) : ((s.passed p u n).core p).plane m = (s.core p).plane m := by
  rw [passed_core, if_pos rfl]; rfl

theorem passed_fifo : ((s.passed p u n).core p).fifo = (s.core p).fifo := by simp

theorem passed_load (a k : Nat) : ((s.passed p u n).core p).load a k = (s.core p).load a k := by simp [Core.load]

theorem passed_eng (e : Eng) : ((s.passed p u n).core p).eng e = (s.core p).eng e := by
  rw [passed_core, if_pos rfl]
  cases e <;> rfl

end Passed

end Sys2Proof.Proofs
end

section
/-!
Proofs: ENG.LDW (02 R58, R59; 04 R134, R135).
-/
namespace Sys2Proof.Proofs
open Sys2Proof.Machine Sys2Proof.Safety Sys2Proof.Laws

/-- The tile image that ENG.LDW takes from core `c`. -/
def ldwImage (s : State) (p u : Nat) (w : IWord) (c : Core) : Bytes :=
  if ldwKind w = 2 then
    match c.fifo.head? with
    | some tile => tile.image
    | none => []
  else c.load (refAddr s p (ldwKind w = 1) (s.rg p u w.a)) (imageSize (ldwFmt w))

/-- Core `c` after ENG.LDW has taken its source: the head of the warp FIFO, or one consumption of a slot. -/
def ldwTaken (s : State) (p u : Nat) (w : IWord) (c : Core) : Core :=
  if ldwKind w = 2 then { c with fifo := c.fifo.drop 1 } else c.useSlot (ldwKind w = 1) (s.rg p u w.a)

/-- Core `c` after ENG.LDW. -/
def ldwDone (s : State) (p u : Nat) (w : IWord) (c : Core) : Core :=
  let plane := modBits w 5 4
  let o := EngOp.front (frontCycles (ldwFmt w)) (planesOf plane (ldwFmt w))
  ((((ldwTaken s p u w c).loadPlane plane (ldwFmt w) (ldwImage s p u w c)
    (if ldwKind w = 2 then .warp else .spool (refAddr s p (ldwKind w = 1) (s.rg p u w.a)))).enqueue s.beat .e0 o).enqueue
      s.beat .e1 o)

theorem exec_engLdw {s : State} {p u : Nat} {w : IWord} (h : Issues s p u 8) (hc : ldwCodes s p u w = [])
    (hw : ldwWait s p u w = none) :
    exec (.engLdw p u w) s = .next ((s.passed p u 8).modCore p (ldwDone s p u w)) := by
  show execEngLdw p u w s = _
  unfold execEngLdw
  rw [hc, hw]
  exact issue_runs h _

section LdwDone
variable (s : State) (p u : Nat) (w : IWord) (c : Core)

theorem slot_ldwTaken (n : Nat) : (ldwTaken s p u w c).slot n =
    if (ldwKind w = 1 : Bool) = true ∧ n = refSlot (s.rg p u w.a) then { c.slot n with st := .draining, user := .engine }
    else c.slot n := by
  unfold ldwTaken
  split
  case isTrue h => simp [h]; rfl
  case isFalse => exact slot_useSlot ..

theorem plane_ldwTaken (n : Nat) : (ldwTaken s p u w c).plane n = c.plane n := by
  unfold ldwTaken
  split
  · rfl
  · exact plane_useSlot ..

theorem fifo_ldwTaken : (ldwTaken s p u w c).fifo = if ldwKind w = 2 then c.fifo.tail else c.fifo := by
  unfold ldwTaken
  split
  · exact List.drop_one
  · exact fifo_useSlot ..

theorem eng_ldwTaken (e : Eng) : (ldwTaken s p u w c).eng e = c.eng e := by
  unfold ldwTaken
  split
  · cases e <;> rfl
  · exact eng_useSlot ..

theorem engineWork_ldwTaken : EngineWork c (ldwTaken s p u w c) := by
  unfold ldwTaken
  split
  · rfl
  · exact engineWork_useSlot ..

/-- After the image is in its plane, only the engine queues change. -/
theorem onlyEngines_ldwDone : OnlyEngines ((ldwTaken s p u w c).loadPlane (modBits w 5 4) (ldwFmt w) (ldwImage s p u w c)
    (if ldwKind w = 2 then .warp else .spool (refAddr s p (ldwKind w = 1) (s.rg p u w.a)))) (ldwDone s p u w c) :=
  (onlyEngines_enqueue ..).trans (onlyEngines_enqueue ..)

theorem engineWork_ldwDone : EngineWork c (ldwDone s p u w c) :=
  ((engineWork_ldwTaken s p u w c).trans (engineWork_loadPlane ..)).trans (.of_onlyEngines (onlyEngines_ldwDone ..))

theorem slot_ldwDone (n : Nat) : (ldwDone s p u w c).slot n = (ldwTaken s p u w c).slot n := by
  rw [(onlyEngines_ldwDone s p u w c).slot, slot_loadPlane]

theorem fifo_ldwDone : (ldwDone s p u w c).fifo = if ldwKind w = 2 then c.fifo.tail else c.fifo := by
  rw [(onlyEngines_ldwDone s p u w c).fifo, fifo_loadPlane, fifo_ldwTaken]

theorem planesLoaded_ldwDone : PlanesLoaded c (ldwDone s p u w c) (modBits w 5 4) (ldwFmt w) (ldwImage s p u w c)
    (if ldwKind w = 2 then .warp else .spool (refAddr s p (ldwKind w = 1) (s.rg p u w.a))) :=
  planesLoaded_congr (planesLoaded_loadPlane _ _ _ _ _) (fun m => (plane_ldwTaken s p u w c m).symm)
    (onlyEngines_ldwDone s p u w c).plane

theorem frontQueued_ldwDone (e : Eng) : FrontQueued (c.eng e) ((ldwDone s p u w c).eng e) (frontCycles (ldwFmt w))
    (planesOf (modBits w 5 4) (ldwFmt w)) := by
  cases e <;> simp [ldwDone, FrontQueued, eng_enqueue, eng_ldwTaken]

end LdwDone

theorem modBits_5_4 (w : IWord) : modBits w 5 4 = w.mod.toNat / 16 := by
  have h := w.mod.isLt
  show w.mod.toNat / 2 ^ 4 % 2 ^ 2 = _
  omega

/-- Settles O12: what `ldwDone` does to each part of the core. -/
theorem engineLoadWeights : Obligations.EngineLoadWeights := by
  unfold Obligations.EngineLoadWeights
  intro p u w s h hc hw
  obtain ⟨hran, hrest⟩ := ranOn_engineWork (engineWork_ldwDone s p u w ((s.passed p u 8).core p))
  refine ⟨_, exec_engLdw h hc hw, hran, hrest, ?_⟩
  rw [State.core_modCore, if_pos rfl, ← modBits_5_4]
  have planes := planesLoaded_ldwDone s p u w ((s.passed p u 8).core p)
  refine ⟨fun e => ?_, ?_, engineUses_of_slot fun n => ?_, fun hk => ?_, fun hk x hx => ?_⟩
  · have front := frontQueued_ldwDone s p u w ((s.passed p u 8).core p) e
    rwa [passed_eng] at front
  · rw [fifo_ldwDone, passed_fifo]
  · rw [slot_ldwDone, slot_ldwTaken, passed_slot]
  · rw [ldwImage, if_neg hk, if_neg hk, passed_load] at planes
    exact planesLoaded_congr planes (fun m => (passed_plane s p u 8 m).symm) fun _ => rfl
  · rw [ldwImage, if_pos hk, if_pos hk, passed_fifo, hx] at planes
    exact planesLoaded_congr planes (fun m => (passed_plane s p u 8 m).symm) fun _ => rfl

end Sys2Proof.Proofs
end

section
/-!
Proofs: ENG.MM and ENG.CONV (02 R53, R57, R60 to R69; 04 R136 to R140).
-/
namespace Sys2Proof.Proofs
open Sys2Proof.Machine Sys2Proof.Safety Sys2Proof.Laws

/-! ### A run in the queues of its engines (02 R53, R69) -/

/-- Core `c` after the part of a run that engine `e` takes is queued. -/
def runOn (beat u : Nat) (rs : List (Eng × RowRes)) (all : List (Eng × Nat)) (c : Core) (e : Eng) : Core :=
  if (resultsOn rs e).isEmpty then c
  else (c.ownRows u e ((all.filter fun r => r.1 = e).map (·.2))).enqueue beat e (.run (resultsOn rs e) all)

theorem run_eq (c : Core) (beat u : Nat) (rs : List (Eng × RowRes)) (all : List (Eng × Nat)) :
    c.run beat u rs all = runOn beat u rs all (runOn beat u rs all c .e0) .e1 := rfl

theorem map_filter_allRows (rows : Eng → List Nat) (e : Eng) :
    ((allRows rows).filter fun r => r.1 = e).map (·.2) = rows e := by
  cases e <;> simp [allRows, List.filter_map, Function.comp_def]

section RunOn
variable (beat u : Nat) (rs : List (Eng × RowRes)) (all : List (Eng × Nat)) (c : Core)

theorem onlyEngines_runOn (e : Eng) : OnlyEngines c (runOn beat u rs all c e) := by
  unfold runOn
  split
  · exact .refl c
  · exact onlyEngines_workQueued ..

theorem eng_runOn_ne {e f : Eng} (h : f ≠ e) : (runOn beat u rs all c e).eng f = c.eng f := by
  unfold runOn
  split
  · rfl
  · exact eng_workQueued_ne _ _ _ h ..

theorem runQueued_runOn (rows : Eng → List Nat) (e : Eng) :
    RunQueued (c.eng e) ((runOn beat u rs (allRows rows) c e).eng e) e rs rows u := by
  unfold runOn RunQueued
  by_cases h : resultsOn rs e = []
  · rw [if_pos h, if_pos (List.isEmpty_iff.2 h)]
  · rw [if_neg h, if_neg (mt List.isEmpty_iff.1 h), map_filter_allRows]
    exact workQueued_enqueue _ _ _ _ _ rfl

theorem onlyEngines_run : OnlyEngines c (c.run beat u rs all) :=
  (onlyEngines_runOn beat u rs all c .e0).trans (onlyEngines_runOn ..)

/-- Each engine that takes rows of a run gets them at the end of its queue. -/
theorem runQueued_run (rows : Eng → List Nat) (e : Eng) :
    RunQueued (c.eng e) ((c.run beat u rs (allRows rows)).eng e) e rs rows u := by
  rw [run_eq]
  cases e
  case e0 =>
    rw [eng_runOn_ne _ _ _ _ _ (by decide)]
    exact runQueued_runOn beat u rs c rows .e0
  case e1 =>
    have h := runQueued_runOn beat u rs (runOn beat u rs (allRows rows) c .e0) rows .e1
    rwa [eng_runOn_ne (e := .e0) _ _ _ _ _ (by decide)] at h

end RunOn

/-! ### A logical-tile run in the queues of its engines (02 R57, R65, R66) -/

/-- Core `c` after the part of a logical-tile run that concerns engine `e` is queued: its fold steps, or a mark. -/
def foldOn (o : MmOp) (beat u : Nat) (rs : List (List (Eng × RowRes))) (c : Core) (e : Eng) : Core :=
  if e ∈ engsOf o.eng then
    (c.ownRows u e (o.rowsIn o.ltFmt e)).enqueue beat e (.fold (o.eng ≠ 2) (o.foldSteps rs e) (allRows (o.rowsIn o.ltFmt)))
  else c.mark e (planesOf o.sel o.ltFmt)

theorem fold_eq (o : MmOp) (c : Core) (beat u : Nat) (rs : List (List (Eng × RowRes))) :
    o.fold c beat u rs = foldOn o beat u rs (foldOn o beat u rs c .e0) .e1 := rfl

section FoldOn
variable (o : MmOp) (beat u : Nat) (rs : List (List (Eng × RowRes))) (c : Core)

theorem onlyEngines_foldOn (e : Eng) : OnlyEngines c (foldOn o beat u rs c e) := by
  unfold foldOn
  split
  · exact onlyEngines_workQueued ..
  · exact onlyEngines_setEng ..

theorem eng_foldOn_ne {e f : Eng} (h : f ≠ e) : (foldOn o beat u rs c e).eng f = c.eng f := by
  unfold foldOn
  split
  · exact eng_workQueued_ne _ _ _ h ..
  · exact (eng_setEng ..).trans (if_neg h)

theorem foldQueued_foldOn (e : Eng) : FoldQueued (c.eng e) ((foldOn o beat u rs c e).eng e) e o rs u := by
  unfold foldOn FoldQueued
  by_cases h : e ∈ engsOf o.eng
  · rw [if_pos h, if_pos h]
    exact workQueued_enqueue _ _ _ _ _ rfl
  · rw [if_neg h, if_neg h]
    exact (eng_setEng ..).trans (if_pos rfl)

theorem onlyEngines_fold : OnlyEngines c (o.fold c beat u rs) :=
  (onlyEngines_foldOn o beat u rs c .e0).trans (onlyEngines_foldOn ..)

/-- Each engine that a logical-tile run names gets its fold steps at the end of its queue, and the other one a mark. -/
theorem foldQueued_fold (e : Eng) : FoldQueued (c.eng e) ((o.fold c beat u rs).eng e) e o rs u := by
  rw [fold_eq]
  cases e
  case e0 =>
    rw [eng_foldOn_ne _ _ _ _ _ (by decide)]
    exact foldQueued_foldOn o beat u rs c .e0
  case e1 =>
    have h := foldQueued_foldOn o beat u rs (foldOn o beat u rs c .e0) .e1
    rwa [eng_foldOn_ne (e := .e0) _ _ _ _ _ (by decide)] at h

end FoldOn

/-! ### The slots of ENG.MM (04 R138) -/

/-- Core `c` after the consumptions of an ENG.MM have begun: one of each slot that it names. -/
def mmUsed (o : MmOp) (c : Core) : Core :=
  if o.lt && !(o.srcSlot && o.ltSlot && refSlot o.src = refSlot o.tile) then (c.useSlot o.srcSlot o.src).useSlot o.ltSlot o.tile
  else c.useSlot o.srcSlot o.src

section MmUsed
variable (o : MmOp) (c : Core)

theorem plane_mmUsed (n : Nat) : (mmUsed o c).plane n = c.plane n := by
  unfold mmUsed
  split <;> simp

theorem fifo_mmUsed : (mmUsed o c).fifo = c.fifo := by
  unfold mmUsed
  split <;> simp

theorem eng_mmUsed (e : Eng) : (mmUsed o c).eng e = c.eng e := by
  unfold mmUsed
  split <;> simp

theorem engineWork_mmUsed : EngineWork c (mmUsed o c) := by
  unfold mmUsed
  split
  · exact (engineWork_useSlot ..).trans (engineWork_useSlot ..)
  · exact engineWork_useSlot ..

theorem slot_mmUsed (n : Nat) : (mmUsed o c).slot n =
    if o.srcSlot = true ∧ n = refSlot o.src ∨ o.lt = true ∧ o.ltSlot = true ∧ n = refSlot o.tile
    then { c.slot n with st := .draining, user := .engine } else c.slot n := by
  unfold mmUsed
  split
  case isTrue h =>
    simp only [Bool.and_eq_true] at h
    rw [slot_useSlot, slot_useSlot]
    by_cases hs : o.srcSlot = true ∧ n = refSlot o.src
    · have named : o.srcSlot = true ∧ n = refSlot o.src ∨ o.lt = true ∧ o.ltSlot = true ∧ n = refSlot o.tile := .inl hs
      rw [if_pos hs, if_pos named]
      exact ite_self _
    · rw [if_neg hs]
      exact if_congr (by simp only [h.1, true_and, or_iff_right hs]) rfl rfl
  case isFalse h =>
    rw [slot_useSlot]
    have same : o.lt = true ∧ o.ltSlot = true ∧ n = refSlot o.tile → o.srcSlot = true ∧ n = refSlot o.src := by
      rintro ⟨hl, ht, rfl⟩
      obtain ⟨hs, hn⟩ : o.srcSlot = true ∧ refSlot o.src = refSlot o.tile := by simpa [hl, ht] using h
      exact ⟨hs, hn.symm⟩
    exact if_congr (or_iff_left_of_imp same).symm rfl rfl

end MmUsed

/-! ### ENG.MM -/

/-- Core `c` after an ENG.MM has queued its work. -/
def mmQueued (s : State) (p u : Nat) (o : MmOp) (c : Core) : Core :=
  let k := s.core p
  let list := k.load o.list.toNat (ceilDiv o.rows 4)
  let a := refAddr s p o.srcSlot o.src
  let tile := if o.lt then k.load (refAddr s p o.ltSlot o.tile) o.tileLen else []
  if o.lt then (o.fold c s.beat u (o.folds.map (o.foldResults k u a tile))).loadPlane o.sel o.ltFmt
    (ltImage o tile (o.blocks - 1) (o.segs - 1)).flatten .none
  else c.run s.beat u (o.results k u a list) (allRows (o.rowsIn (o.wfmt k list)))

theorem exec_engMm {s : State} {p u : Nat} {w : IWord} {x : W64} (h : Issues s p u 16) (hc : mmCodes s p u w x = [])
    (hw : mmWait s p u w x = none) : exec (.engMm p u w x) s =
      .next ((s.passed p u 16).modCore p fun c => mmUsed (mmOp s p u w x) (mmQueued s p u (mmOp s p u w x) c)) := by
  show execEngMm p u w x s = _
  unfold execEngMm
  rw [hc, hw]
  exact issueX_runs h _

section MmQueued
variable (s : State) (p u : Nat) {o : MmOp} (c : Core)

theorem mmQueued_run (h : o.lt = false) : mmQueued s p u o c =
    c.run s.beat u (o.results (s.core p) u (refAddr s p o.srcSlot o.src) ((s.core p).load o.list.toNat (ceilDiv o.rows 4)))
      (allRows (o.rowsIn (o.wfmt (s.core p) ((s.core p).load o.list.toNat (ceilDiv o.rows 4))))) := by
  simp [mmQueued, h]

theorem mmQueued_fold (h : o.lt = true) : mmQueued s p u o c =
    (o.fold c s.beat u (o.folds.map (o.foldResults (s.core p) u (refAddr s p o.srcSlot o.src)
      ((s.core p).load (refAddr s p o.ltSlot o.tile) o.tileLen)))).loadPlane o.sel o.ltFmt
        (ltImage o ((s.core p).load (refAddr s p o.ltSlot o.tile) o.tileLen) (o.blocks - 1) (o.segs - 1)).flatten .none := by
  simp [mmQueued, h]

theorem planesLoaded_mmQueued (h : o.lt = true) : PlanesLoaded c (mmQueued s p u o c) o.sel o.ltFmt
    (ltImage o ((s.core p).load (refAddr s p o.ltSlot o.tile) o.tileLen) (o.blocks - 1) (o.segs - 1)).flatten .none := by
  rw [mmQueued_fold s p u c h]
  exact planesLoaded_congr (planesLoaded_loadPlane _ _ _ _ _) (fun m => ((onlyEngines_fold ..).plane m).symm) fun _ => rfl

variable (o)

theorem engineWork_mmQueued : EngineWork c (mmQueued s p u o c) := by
  cases h : o.lt
  · rw [mmQueued_run s p u c h]
    exact .of_onlyEngines (onlyEngines_run ..)
  · rw [mmQueued_fold s p u c h]
    exact (EngineWork.of_onlyEngines (onlyEngines_fold ..)).trans (engineWork_loadPlane ..)

theorem slot_mmQueued (n : Nat) : (mmQueued s p u o c).slot n = c.slot n := by
  cases h : o.lt
  · rw [mmQueued_run s p u c h, (onlyEngines_run ..).slot]
  · rw [mmQueued_fold s p u c h, slot_loadPlane, (onlyEngines_fold ..).slot]

theorem fifo_mmQueued : (mmQueued s p u o c).fifo = c.fifo := by
  cases h : o.lt
  · rw [mmQueued_run s p u c h, (onlyEngines_run ..).fifo]
  · rw [mmQueued_fold s p u c h, fifo_loadPlane, (onlyEngines_fold ..).fifo]

end MmQueued

/-! ### ENG.CONV -/

/-- Core `c` after an ENG.CONV has queued its work. -/
def convQueued (s : State) (p u : Nat) (o : ConvOp) (c : Core) : Core :=
  c.run s.beat u (o.results (s.core p) u ((s.core p).load (refAddr s p o.srcSlot o.src) (o.slices * o.sliceLen)))
    (allRows o.rowsIn)

theorem exec_engConv {s : State} {p u : Nat} {w : IWord} {x : W64} (h : Issues s p u 16) (hc : convCodes s p u w x = [])
    (hw : convWait s p u w x = none) : exec (.engConv p u w x) s =
      .next ((s.passed p u 16).modCore p fun c =>
        (convQueued s p u (convOp s p u w x) c).useSlot (convOp s p u w x).srcSlot (convOp s p u w x).src) := by
  show execEngConv p u w x s = _
  unfold execEngConv
  rw [hc, hw]
  exact issueX_runs h _

theorem onlyEngines_convQueued (s : State) (p u : Nat) (o : ConvOp) (c : Core) : OnlyEngines c (convQueued s p u o c) :=
  onlyEngines_run ..

/-- Settles O13: what a run or a logical-tile run does to each engine, and what its consumptions do to the slots. -/
theorem engineRuns : Obligations.EngineRuns := by
  unfold Obligations.EngineRuns
  intro p u w x s h
  refine ⟨fun o ho hc hw => ?_, fun o ho hc hw => ?_⟩
  · subst ho
    obtain ⟨hran, hrest⟩ := ranOn_engineWork (f := fun c => mmUsed (mmOp s p u w x) (mmQueued s p u (mmOp s p u w x) c))
      ((engineWork_mmQueued s p u (mmOp s p u w x) ((s.passed p u 16).core p)).trans (engineWork_mmUsed (mmOp s p u w x) _))
    refine ⟨_, exec_engMm h hc hw, hran, hrest, ?_⟩
    rw [State.core_modCore, if_pos rfl]
    refine ⟨?_, fun hl e => ?_, fun hl e => ?_, fun n => ?_, fun hl n => ?_, fun hl => ?_⟩
    · rw [fifo_mmUsed, fifo_mmQueued, passed_fifo]
    · rw [eng_mmUsed, mmQueued_run s p u _ hl, ← passed_eng s p u 16]
      exact runQueued_run ..
    · rw [eng_mmUsed, mmQueued_fold s p u _ hl, eng_loadPlane, ← passed_eng s p u 16]
      exact foldQueued_fold ..
    · rw [slot_mmUsed, slot_mmQueued, passed_slot]
    · rw [plane_mmUsed, mmQueued_run s p u _ hl, (onlyEngines_run ..).plane, passed_plane]
    · exact planesLoaded_congr (planesLoaded_mmQueued s p u _ hl) (fun m => (passed_plane s p u 16 m).symm) (plane_mmUsed _ _)
  · subst ho
    have only := onlyEngines_convQueued s p u (convOp s p u w x) ((s.passed p u 16).core p)
    obtain ⟨hran, hrest⟩ := ranOn_engineWork (f := fun c =>
      (convQueued s p u (convOp s p u w x) c).useSlot (convOp s p u w x).srcSlot (convOp s p u w x).src)
      ((EngineWork.of_onlyEngines only).trans (engineWork_useSlot ..))
    refine ⟨_, exec_engConv h hc hw, hran, hrest, ?_⟩
    rw [State.core_modCore, if_pos rfl]
    refine ⟨?_, fun n => ?_, engineUses_of_slot fun n => ?_, fun e => ?_⟩
    · rw [fifo_useSlot, only.fifo, passed_fifo]
    · rw [plane_useSlot, only.plane, passed_plane]
    · rw [slot_useSlot, only.slot, passed_slot]
    · rw [eng_useSlot, ← passed_eng s p u 16]
      exact runQueued_run ..

end Sys2Proof.Proofs
end

section
/-!
Proofs: ENG.DRN and ENG.FENCE (02 R53, R54, R69; 04 R134, R141).
-/
namespace Sys2Proof.Proofs
open Sys2Proof.Machine Sys2Proof.Safety Sys2Proof.Laws

/-! ### The rows of a drain (02 R52 to R54) -/

theorem not_mem_narrowOf_of_ne {wide : Bool} {a b r : Nat} (h : a ≠ b) (ha : r ∈ narrowOf wide a) : r ∉ narrowOf wide b := by
  cases wide <;> simp [narrowOf] at * <;> omega

/-- The narrow rows of successive rows are all different. -/
theorem nodup_narrowRows (wide : Bool) (row count : Nat) :
    ((List.range count).flatMap fun i => narrowOf wide (row + i)).Nodup := by
  refine List.nodup_flatMap.2 ⟨fun i _ => ?_, List.pairwise_lt_range.imp fun {i j} h r hi => ?_⟩
  · cases wide <;> simp [narrowOf]
  · exact not_mem_narrowOf_of_ne (by omega) hi

/-- The thread that owns a row in some state. -/
def ownerOf : AccSt → Option Nat
  | .active u => some u
  | _ => none

theorem startDrain_eq (x : Engine) (r : Nat) :
    x.startDrain r = modRow (fun a => { a with st := .draining (ownerOf a.st) }) x r := by
  unfold Engine.startDrain ownerOf modRow
  rfl

theorem active_iff_ownerOf (a : AccSt) (u : Nat) : a = .active u ↔ ownerOf a = some u := by
  cases a <;> simp [ownerOf]

/-! ### A drain in the queue of an engine -/

theorem onlyEngines_putDrain (c : Core) (beat : Nat) (e : Eng) (rows : List Nat) (d : Drain) :
    OnlyEngines c (c.putDrain beat e rows d) := (onlyEngines_setEng ..).trans (onlyEngines_enqueue ..)

theorem eng_putDrain_ne (c : Core) (beat : Nat) {e f : Eng} (h : f ≠ e) (rows : List Nat) (d : Drain) :
    (c.putDrain beat e rows d).eng f = c.eng f := by
  rw [Core.putDrain, eng_enqueue, if_neg h, eng_setEng, if_neg h]

/-- An engine gets a drain at the end of its queue, and the rows of the drain begin to drain. -/
theorem drainQueued_putDrain (c : Core) (beat : Nat) (e : Eng) {rows : List Nat} (h : rows.Nodup) (d : Drain) :
    DrainQueued (c.eng e) ((c.putDrain beat e rows d).eng e) rows d := by
  have same : rows.foldl (fun x r => x.startDrain r) (c.eng e) =
      rows.foldl (modRow fun a => { a with st := .draining (ownerOf a.st) }) (c.eng e) := by
    simp only [startDrain_eq]
  obtain ⟨m, hm⟩ := foldl_modRow_eq (fun a => { a with st := .draining (ownerOf a.st) }) rows (c.eng e)
  have get := get_foldl_modRow (g := fun a => { a with st := .draining (ownerOf a.st) }) (.inl h) (c.eng e)
  rw [hm] at get
  rw [Core.putDrain, eng_enqueue, if_pos rfl, eng_setEng, if_pos rfl, same, hm]
  unfold DrainQueued
  rw [keep_queue, keep_acc, keep_marks, keep_rows]
  refine ⟨rfl, rfl, rfl, fun r hr => (get r).trans (if_neg hr), fun r hr => ?_⟩
  rw [get, if_pos hr]
  exact ⟨rfl, _, rfl, active_iff_ownerOf _⟩

/-! ### ENG.DRN -/

/-- Core `c` after an ENG.DRN has taken its destination. -/
def drnTaken (o : DrnOp) (c : Core) : Core := if o.dstSlot then c.modSlot (refSlot o.dst) (·.startFill .engine) else c

/-- Core `c` after an ENG.DRN has queued its drains for spool address `a`. -/
def drnQueued (beat : Nat) (o : DrnOp) (a : Nat) (c : Core) : Core :=
  match o.eng with
  | 0 => c.putDrain beat .e0 o.rows (o.drain a 0 1)
  | 1 => c.putDrain beat .e1 o.rows (o.drain a 0 1)
  | _ => (c.putDrain beat .e0 o.rows (o.drain a 0 2)).putDrain beat .e1 o.rows (o.drain a 1 2)

theorem exec_engDrn {s : State} {p u : Nat} {w : IWord} {x : W64} (h : Issues s p u 16) (hc : drnCodes s p u w x = [])
    (hw : drnWait s p u w x = none) : exec (.engDrn p u w x) s =
      .next ((s.passed p u 16).modCore p fun c => drnQueued s.beat (drnOp s p u w x)
        (refAddr s p (drnOp s p u w x).dstSlot (drnOp s p u w x).dst) (drnTaken (drnOp s p u w x) c)) := by
  show execEngDrn p u w x s = _
  unfold execEngDrn
  rw [hc, hw]
  exact issueX_runs h _

section DrnTaken
variable (o : DrnOp) (c : Core)

theorem slot_drnTaken (n : Nat) : (drnTaken o c).slot n =
    if o.dstSlot = true ∧ n = refSlot o.dst then { c.slot n with st := .filling, user := .engine } else c.slot n := by
  unfold drnTaken
  cases o.dstSlot
  · rfl
  · by_cases h : n = refSlot o.dst <;> simp [Core.modSlot, Slot.startFill, h]

theorem plane_drnTaken (n : Nat) : (drnTaken o c).plane n = c.plane n := by
  unfold drnTaken
  split <;> rfl

theorem fifo_drnTaken : (drnTaken o c).fifo = c.fifo := by
  unfold drnTaken
  split <;> rfl

theorem eng_drnTaken (e : Eng) : (drnTaken o c).eng e = c.eng e := by
  unfold drnTaken
  split <;> cases e <;> rfl

theorem engineWork_drnTaken : EngineWork c (drnTaken o c) := by
  unfold drnTaken
  split <;> rfl

end DrnTaken

section DrnQueued
variable (beat : Nat) (o : DrnOp) (a : Nat) (c : Core)

theorem onlyEngines_drnQueued : OnlyEngines c (drnQueued beat o a c) := by
  unfold drnQueued
  split
  · exact onlyEngines_putDrain ..
  · exact onlyEngines_putDrain ..
  · exact (onlyEngines_putDrain ..).trans (onlyEngines_putDrain ..)

theorem eng0_drnQueued_of_eng1 (h : o.eng = 1) : (drnQueued beat o a c).eng .e0 = c.eng .e0 := by
  rw [drnQueued, h]
  exact eng_putDrain_ne _ _ (by decide) ..

theorem eng1_drnQueued_of_eng0 (h : o.eng = 0) : (drnQueued beat o a c).eng .e1 = c.eng .e1 := by
  rw [drnQueued, h]
  exact eng_putDrain_ne _ _ (by decide) ..

theorem drainQueued_eng0 (h : o.eng ≠ 1) : DrainQueued (c.eng .e0) ((drnQueued beat o a c).eng .e0) o.rows
    (o.drain a 0 (if o.eng = 0 then 1 else 2)) := by
  have nodup : o.rows.Nodup := nodup_narrowRows ..
  unfold drnQueued
  split
  case h_1 h0 =>
    rw [if_pos h0]
    exact drainQueued_putDrain _ _ _ nodup _
  case h_2 h1 => exact absurd h1 h
  case h_3 h0 _ =>
    rw [if_neg h0, eng_putDrain_ne _ _ (by decide)]
    exact drainQueued_putDrain _ _ _ nodup _

theorem drainQueued_eng1 (h : o.eng ≠ 0) : DrainQueued (c.eng .e1) ((drnQueued beat o a c).eng .e1) o.rows
    (o.drain a (if o.eng = 1 then 0 else 1) (if o.eng = 1 then 1 else 2)) := by
  have nodup : o.rows.Nodup := nodup_narrowRows ..
  unfold drnQueued
  split
  case h_1 h0 => exact absurd h0 h
  case h_2 h1 =>
    rw [if_pos h1, if_pos h1]
    exact drainQueued_putDrain _ _ _ nodup _
  case h_3 _ h1 =>
    rw [if_neg h1, if_neg h1]
    have queued := drainQueued_putDrain (c.putDrain beat .e0 o.rows (o.drain a 0 2)) beat .e1 nodup (o.drain a 1 2)
    rwa [eng_putDrain_ne (e := .e0) _ _ (by decide)] at queued

end DrnQueued

/-- ENG.DRN where its operands break no rule and its wait is over. -/
theorem engDrn_runs {s : State} {p u : Nat} {w : IWord} {x : W64} {o : DrnOp} (ho : o = drnOp s p u w x) (h : Issues s p u 16)
    (hc : drnCodes s p u w x = []) (hw : drnWait s p u w x = none) :
    ∃ t, exec (.engDrn p u w x) s = .next t ∧ RanOn s t p u 16 ∧ EngineRest (s.core p) (t.core p) ∧
      t.core p = drnQueued s.beat o (refAddr s p o.dstSlot o.dst) (drnTaken o ((s.passed p u 16).core p)) := by
  subst ho
  obtain ⟨hran, hrest⟩ := ranOn_engineWork (f := fun c => drnQueued s.beat (drnOp s p u w x)
    (refAddr s p (drnOp s p u w x).dstSlot (drnOp s p u w x).dst) (drnTaken (drnOp s p u w x) c))
    ((engineWork_drnTaken _ ((s.passed p u 16).core p)).trans (.of_onlyEngines (onlyEngines_drnQueued ..)))
  exact ⟨_, exec_engDrn h hc hw, hran, hrest, (State.core_modCore ..).trans (if_pos rfl)⟩

/-! ### ENG.FENCE -/

theorem engFence_codes {w : IWord} (ha : w.a = 0) (hb : w.b = 0) (hc : w.c = 0) (hi : w.imm = 0) (hm : w.mod.toNat < 3) :
    unused w false false false 0b000011 0 ++ codeIf (modBits w 1 0 = 3) fIllegal = [] := by
  have mod : w.mod &&& 0b111100#6 = 0 := by
    have small : ∀ m : BitVec 6, m.toNat < 3 → m &&& 0b111100#6 = 0 := by decide
    exact small _ hm
  have bits : modBits w 1 0 ≠ 3 := by
    show w.mod.toNat / 2 ^ 0 % 2 ^ 2 ≠ 3
    omega
  simp [unused, codeIf, ha, hb, hc, hi, mod, bits]

theorem engFence_wait {s : State} {p : Nat} (u : Nat) {w : IWord} (hm : w.mod.toNat < 3)
    (h0 : w.mod.toNat ≠ 1 → (s.core p).eng0.queue = []) (h1 : w.mod.toNat ≠ 0 → (s.core p).eng1.queue = []) :
    waitFor s p u (if modBits w 1 0 = 0 then .fence .e0 else if modBits w 1 0 = 1 then .fence .e1 else .fenceBoth) = none := by
  have bits : modBits w 1 0 = w.mod.toNat := by
    show w.mod.toNat / 2 ^ 0 % 2 ^ 2 = _
    omega
  refine if_pos ?_
  rw [bits]
  split
  case isTrue h => simp [State.waitHolds, Core.eng, h0 (by omega)]
  case isFalse h =>
    split
    case isTrue => simp [State.waitHolds, Core.eng, h1 h]
    case isFalse h' => simp [State.waitHolds, h0 h', h1 h]

/-- A fence that passes has no effect but that its thread's PC passes it. -/
theorem engFence_runs {s : State} {p u : Nat} {w : IWord} (h : Issues s p u 8)
    (hc : unused w false false false 0b000011 0 ++ codeIf (modBits w 1 0 = 3) fIllegal = [])
    (hw : waitFor s p u (if modBits w 1 0 = 0 then .fence .e0 else if modBits w 1 0 = 1 then .fence .e1 else .fenceBoth) = none) :
    exec (.engFence p u w) s = .next (s.passed p u 8) := by
  show execEngFence p u w s = _
  unfold execEngFence
  extract_lets m
  rw [hc, hw]
  exact issue_runs h id

theorem ranOn_passed (s : State) (p u n : Nat) : RanOn s (s.passed p u n) p u n :=
  ⟨⟨rfl, fun q hq => by simp [hq]⟩, ⟨by simp, fun v hv => by simp [State.thread, hv]⟩,
    by simp [Passed, State.thread, Thread.pass]⟩

/-- Settles O14: what an ENG.DRN does to each engine and to its slot; a fence only passes. -/
theorem engineDrainsAndFence : Obligations.EngineDrainsAndFence := by
  unfold Obligations.EngineDrainsAndFence
  intro p u w s
  refine ⟨fun x o ho h hc hw => ?_, fun h ha hb hc hi hm h0 h1 => ?_⟩
  · obtain ⟨t, ht, hran, hrest, hcore⟩ := engDrn_runs ho h hc hw
    have only := onlyEngines_drnQueued s.beat o (refAddr s p o.dstSlot o.dst) (drnTaken o ((s.passed p u 16).core p))
    have eng : ∀ e, (s.core p).eng e = (drnTaken o ((s.passed p u 16).core p)).eng e := fun e => by
      rw [eng_drnTaken, passed_eng]
    have eng0 : (s.core p).eng0 = (drnTaken o ((s.passed p u 16).core p)).eng .e0 := eng .e0
    have eng1 : (s.core p).eng1 = (drnTaken o ((s.passed p u 16).core p)).eng .e1 := eng .e1
    refine ⟨t, ht, hran, hrest, ?_⟩
    rw [hcore, eng0, eng1]
    refine ⟨?_, fun n => ?_, fun n => ?_, drainQueued_eng0 _ _ _ _, drainQueued_eng1 _ _ _ _,
      eng0_drnQueued_of_eng1 _ _ _ _, eng1_drnQueued_of_eng0 _ _ _ _⟩
    · rw [only.fifo, fifo_drnTaken, passed_fifo]
    · rw [only.plane, plane_drnTaken, passed_plane]
    · rw [only.slot, slot_drnTaken, passed_slot]
  · refine ⟨_, engFence_runs h (engFence_codes ha hb hc hi hm) (engFence_wait u hm h0 h1), ranOn_passed .., ?_⟩
    rw [passed_core, if_pos rfl]
    rfl

end Sys2Proof.Proofs
end

section
/-!
Proofs: the column results of an engine that land in their rows (02 R45, R52, R53, R57, R70).
-/
namespace Sys2Proof.Proofs
open Sys2Proof.Machine Sys2Proof.Safety Sys2Proof.Laws

/-! ### An accumulation (02 R45, R53) -/

/-- What an entry with value `old` becomes when column result `v` lands in it. -/
def landed (fresh isInt : Bool) (old v : W32) : W32 :=
  if fresh then v else if isInt then (satAdd32 old v).1 else fadd old v

/-- One column result lands in narrow row `r`; the flag says whether any has saturated. -/
def landEntry (r : Nat) (fresh isInt : Bool) (a : SMap W32 × Bool) (e : W32 × Nat) : SMap W32 × Bool :=
  let old := SMap.get a.1 0 (128 * r + e.2)
  if fresh then (SMap.set a.1 0 (128 * r + e.2) e.1, a.2)
  else if isInt then
    let t := satAdd32 old e.1
    (SMap.set a.1 0 (128 * r + e.2) t.1, a.2 || t.2)
  else (SMap.set a.1 0 (128 * r + e.2) (fadd old e.1), a.2)

theorem accNarrow_acc_eq (x : Engine) (r : Nat) (isInt : Bool) (cols : List W32) : (x.accNarrow r isInt cols).1.acc =
    ((cols.zip (List.range 128)).foldl (landEntry r (SMap.get x.rows {} r).fresh isInt) (x.acc, false)).1 := rfl

theorem landEntry_fst (r : Nat) (fresh isInt : Bool) (a : SMap W32 × Bool) (e : W32 × Nat) :
    (landEntry r fresh isInt a e).1 =
      SMap.set a.1 0 (128 * r + e.2) (landed fresh isInt (SMap.get a.1 0 (128 * r + e.2)) e.1) := by
  cases fresh <;> cases isInt <;> rfl

/-- Every entry after column results have landed in columns `i` on of a narrow row: each column takes one of them. -/
theorem get_foldl_landEntry (r : Nat) (fresh isInt : Bool) (cols : List W32) (i : Nat) (a : SMap W32 × Bool) (k : Nat) :
    SMap.get ((cols.zip (List.range' i cols.length)).foldl (landEntry r fresh isInt) a).1 0 k =
      if 128 * r + i ≤ k ∧ k < 128 * r + i + cols.length
      then landed fresh isInt (SMap.get a.1 0 k) (cols.getD (k - (128 * r + i)) 0) else SMap.get a.1 0 k := by
  induction cols generalizing i a with
  | nil => rw [if_neg (by simp)]; rfl
  | cons v cols ih =>
    rw [List.length_cons, List.range'_succ, List.zip_cons_cons, List.foldl_cons, ih, landEntry_fst, SMap.get_set]
    by_cases h : k = 128 * r + i
    · subst h
      rw [if_neg (by omega), if_pos rfl, if_pos (by omega), Nat.sub_self, List.getD_cons_zero]
    · rw [if_neg h]
      refine if_ctx_congr (by omega) (fun hk => ?_) fun _ => rfl
      obtain ⟨j, hj⟩ : ∃ j, k - (128 * r + i) = j + 1 := ⟨k - (128 * r + i) - 1, by omega⟩
      rw [hj, List.getD_cons_succ, show k - (128 * r + (i + 1)) = j by omega]

section AccNarrow
variable (x : Engine) (r : Nat) (isInt : Bool) (cols : List W32)

/-- The entries after 128 column results have landed in narrow row `r`. -/
theorem get_acc_accNarrow (h : cols.length = 128) (n : Nat) {col : Nat} (hc : col < 128) :
    SMap.get (x.accNarrow r isInt cols).1.acc 0 (128 * n + col) =
      if n = r then accumulated x n isInt (cols.getD col 0) col else SMap.get x.acc 0 (128 * n + col) := by
  have all := get_foldl_landEntry r (SMap.get x.rows {} r).fresh isInt cols 0 (x.acc, false) (128 * n + col)
  rw [h] at all
  rw [accNarrow_acc_eq, List.range_eq_range', all]
  by_cases e : n = r
  · subst e
    rw [if_pos (by omega), if_pos rfl, show 128 * n + col - (128 * n + 0) = col by omega]
    rfl
  · rw [if_neg (by omega), if_neg e]

theorem rows_accNarrow_ne {n : Nat} (h : n ≠ r) :
    SMap.get (x.accNarrow r isInt cols).1.rows {} n = SMap.get x.rows {} n := (SMap.get_put ..).trans (if_neg h)

end AccNarrow

/-! ### A result lands in its narrow row, or in the two narrow rows of its wide row (02 R52) -/

section Land
variable (x : Engine) (r : RowRes)

theorem queue_land : (x.land r).1.queue = x.queue := by
  unfold Engine.land
  split <;> rfl

variable {r}

theorem land_narrow (h : r.wide = false) : (x.land r).1 = (x.accNarrow r.row r.isInt r.cols).1 := by
  simp [Engine.land, h]

theorem land_wide (h : r.wide = true) : (x.land r).1 =
    ((x.accNarrow (2 * r.row) r.isInt (r.cols.take 128)).1.accNarrow (2 * r.row + 1) r.isInt (r.cols.drop 128)).1 := by
  simp [Engine.land, h]

/-- The entries of a wide row after a result has landed: its halves take theirs apart. -/
theorem get_acc_land_wide (h : r.wide = true) (hl : r.cols.length = 256) (n : Nat) {col : Nat} (hc : col < 128) :
    SMap.get (x.land r).1.acc 0 (128 * n + col) =
      if n = 2 * r.row then accumulated x n r.isInt (r.cols.getD col 0) col
      else if n = 2 * r.row + 1 then accumulated x n r.isInt (r.cols.getD (128 + col) 0) col
      else SMap.get x.acc 0 (128 * n + col) := by
  have low : (r.cols.take 128).getD col 0 = r.cols.getD col 0 := by simp [List.getD_eq_getElem?_getD, hc]
  have high : (r.cols.drop 128).getD col 0 = r.cols.getD (128 + col) 0 := by simp [List.getD_eq_getElem?_getD]
  have first := get_acc_accNarrow x (2 * r.row) r.isInt (r.cols.take 128) (by simp [hl]) n hc
  rw [land_wide x h, get_acc_accNarrow _ _ _ _ (by simp [hl]) n hc, accumulated, first, high]
  by_cases e : n = 2 * r.row
  · rw [if_neg (by omega), if_pos e, if_pos e, low]
  · rw [if_neg e, if_neg e, rows_accNarrow_ne _ _ _ _ e]
    rfl

/-- An entry of the rows that a result is for. -/
theorem get_acc_land (hl : r.cols.length = if r.wide then 256 else 128) {h col n : Nat} (hc : col < 128)
    (hn : n = if r.wide then 2 * r.row + h else r.row) (hh : h < if r.wide then 2 else 1) :
    SMap.get (x.land r).1.acc 0 (128 * n + col) = accumulated x n r.isInt (r.cols.getD (128 * h + col) 0) col := by
  cases hw : r.wide <;> simp only [hw, Bool.false_eq_true, if_false, if_true] at hl hn hh
  · obtain rfl : h = 0 := by omega
    rw [land_narrow x hw, get_acc_accNarrow x _ _ _ hl n hc, if_pos hn]
    simp
  · rw [get_acc_land_wide x hw hl n hc]
    obtain rfl | rfl : h = 0 ∨ h = 1 := by omega
    · rw [if_pos (by omega)]
      simp
    · rw [if_neg (by omega), if_pos hn]

/-- Every other entry keeps its value. -/
theorem get_acc_land_ne (hl : r.cols.length = if r.wide then 256 else 128) {n col : Nat} (hc : col < 128)
    (hn : n ∉ narrowOf r.wide r.row) : SMap.get (x.land r).1.acc 0 (128 * n + col) = SMap.get x.acc 0 (128 * n + col) := by
  cases hw : r.wide <;> simp [hw, narrowOf] at hl hn
  · rw [land_narrow x hw, get_acc_accNarrow x _ _ _ hl n hc, if_neg hn]
  · rw [get_acc_land_wide x hw hl n hc, if_neg hn.1, if_neg hn.2]

end Land

end Sys2Proof.Proofs
end

section
/-!
Proofs: the events of an engine: ACC_UPDATE, FRONT_DONE, DRAIN_DONE, KEEPER_RAMP_STEP and LAST_READ (02 R45, R53 to R57, R70, R73;
03 R90, R91).
-/
namespace Sys2Proof.Proofs
open Sys2Proof.Machine Sys2Proof.Safety Sys2Proof.Laws

/-! ### Events of a core -/

/-- A command that names units that exist, and whose condition holds, has its effect. -/
theorem onUnit_whenDo {ok c : Bool} (ho : ok = true) (hc : c = true) (s : State) (f : State → State) :
    onUnit ok (whenDo c s f) = .next (f s) := by
  rw [ho, hc]
  rfl

theorem lt_nCores {p : Nat} (h : p < 1232) : decide (p < nCores) = true := decide_eq_true h

theorem chargeCycles_eq (s : State) (p n : Nat) : ∃ m, s.chargeCycles p n = { s with sched := { s.sched with cmds := m } } := by
  unfold State.chargeCycles State.modCmdOf
  split
  · exact ⟨_, rfl⟩
  · exact ⟨_, rfl⟩

/-- An event that changes core `p` in its engines and threads only, draws free values, and charges engine cycles. -/
theorem enginesOnly_charged (s : State) (p n k : Nat) {d : Core} (h : { d with eng0 := {}, eng1 := {}, threads := [] } =
    { s.core p with eng0 := {}, eng1 := {}, threads := [] }) :
    EnginesOnly s (({ s with freeCtr := k }.setCore p d).chargeCycles p n) p ∧
      (({ s with freeCtr := k }.setCore p d).chargeCycles p n).core p = d ∧
      (({ s with freeCtr := k }.setCore p d).chargeCycles p n).freeCtr = k := by
  obtain ⟨m, hm⟩ := chargeCycles_eq ({ s with freeCtr := k }.setCore p d) p n
  have core : ∀ q, (({ s with freeCtr := k }.setCore p d).chargeCycles p n).core q = if q = p then d else s.core q := by
    intro q
    rw [hm]
    exact State.core_setCore { s with freeCtr := k } p q d
  refine ⟨⟨?_, fun q hq => (core q).trans (if_neg hq), ?_⟩, (core p).trans (if_pos rfl), ?_⟩
  · rw [hm]
    rfl
  · rw [core, if_pos rfl, h]
  · rw [hm]
    rfl

theorem OnlyEngines.unthreaded {c d : Core} (h : OnlyEngines c d) : { d with eng0 := {}, eng1 := {}, threads := [] } =
    { c with eng0 := {}, eng1 := {}, threads := [] } := (congrArg (fun x : Core => { x with threads := [] }) h :)

/-! ### An entry of an engine's queue (02 R69, R70) -/

/-- Engine `x` after entry `i` of its queue has become `o`, or has left it. -/
def opSet (x : Engine) (beat i : Nat) (o : Option EngOp) : Engine :=
  Engine.keep { x with
    queue := x.queue.take i ++ o.toList ++ x.queue.drop (i + 1)
    marks := match o with
      | some _ => x.marks
      | none => x.marks.map fun m => { m with ahead := if i < m.ahead then m.ahead - 1 else m.ahead } } beat x.hasRows

theorem setOp_eq (c : Core) (beat : Nat) (e : Eng) (i : Nat) (o : Option EngOp) :
    c.setOp beat e i o = c.setEng e (opSet (c.eng e) beat i o) := rfl

section OpSet
variable (x : Engine) (beat i : Nat) (o : Option EngOp)

@[simp] theorem opSet_queue : (opSet x beat i o).queue = x.queue.take i ++ o.toList ++ x.queue.drop (i + 1) := keep_queue ..
@[simp] theorem opSet_rows : (opSet x beat i o).rows = x.rows := keep_rows ..
@[simp] theorem opSet_acc : (opSet x beat i o).acc = x.acc := keep_acc ..

end OpSet

/-! ### ACC_UPDATE (02 R45, R57, R70) -/

theorem marked_of_nil {x : Engine} (h : x.marks = []) (i : Nat) : x.marked i = [] := by simp [Engine.marked, h]

/-- What is left of a run whose first row has landed. -/
def runRest (rs : List RowRes) (all : List (Eng × Nat)) : Option EngOp := if rs = [] then none else some (.run rs all)

/-- The first result of a run lands where no plane that it reads is held by a front issued before it. -/
theorem landing_run (x : Engine) (held : List Nat) (i : Nat) (r : RowRes) (rs : List RowRes) (all : List (Eng × Nat))
    (rest : List EngOp) : x.landing held i (.run (r :: rs) all :: rest) =
      if ∃ n ∈ r.planes, n ∈ held ++ x.marked i then none else some (i, r, runRest rs all) := by
  simp [Engine.landing, runRest]

theorem landing_run_head {x : Engine} (h : x.marks = []) (r : RowRes) (rs : List RowRes) (all : List (Eng × Nat))
    (rest : List EngOp) : x.landing [] 0 (.run (r :: rs) all :: rest) = some (0, r, runRest rs all) := by
  simp [landing_run, marked_of_nil h]

theorem landing_front_run {x : Engine} (h : x.marks = []) (k : Nat) (ps : List Nat) (r : RowRes) (rs : List RowRes)
    (all : List (Eng × Nat)) (rest : List EngOp) : x.landing [] 0 (.front k ps :: .run (r :: rs) all :: rest) =
      if ∃ n ∈ r.planes, n ∈ ps then none else some (1, r, runRest rs all) := by
  rw [Engine.landing, landing_run]
  simp [marked_of_nil h]

/-- Core `c` after a result of thread `u` has landed, which has saturated an entry where `sat` says so. -/
def satNoted (sat : Bool) (u : Nat) (c : Core) : Core := if sat then c.modThread u fun th => { th with sat := true } else c

theorem eng_satNoted (sat : Bool) (u : Nat) (c : Core) (e : Eng) : (satNoted sat u c).eng e = c.eng e := by
  unfold satNoted
  split <;> cases e <;> rfl

theorem unthreaded_satNoted (sat : Bool) (u : Nat) {c d : Core} (h : OnlyEngines c d) :
    { satNoted sat u d with eng0 := {}, eng1 := {}, threads := [] } = { c with eng0 := {}, eng1 := {}, threads := [] } := by
  refine Eq.trans ?_ h.unthreaded
  unfold satNoted
  split <;> rfl

theorem accUpdate_lands {s : State} {p : Nat} {e : Eng} {i : Nat} {r : RowRes} {o : Option EngOp}
    (h : ((s.core p).eng e).landing [] 0 ((s.core p).eng e).queue = some (i, r, o)) :
    accUpdate p e s = (s.setCore p (satNoted (((s.core p).eng e).land r).2 r.thread
      (((s.core p).setEng e (((s.core p).eng e).land r).1).setOp s.beat e i o))).chargeCycles p r.cost := by
  simp only [accUpdate, h]
  rfl

theorem accUpdate_waits {s : State} {p : Nat} {e : Eng} (h : ((s.core p).eng e).landing [] 0 ((s.core p).eng e).queue = none) :
    accUpdate p e s = s := by simp only [accUpdate, h]

/-- ACC_UPDATE: the engine after the result that may land has landed; the other engine is as it was. -/
theorem accUpdate_eng {s : State} {p : Nat} {e : Eng} {i : Nat} {r : RowRes} {o : Option EngOp}
    (h : ((s.core p).eng e).landing [] 0 ((s.core p).eng e).queue = some (i, r, o)) :
    EnginesOnly s (accUpdate p e s) p ∧ ∀ f, ((accUpdate p e s).core p).eng f =
      if f = e then opSet (((s.core p).eng e).land r).1 s.beat i o else (s.core p).eng f := by
  rw [accUpdate_lands h]
  have only : OnlyEngines (s.core p) (((s.core p).setEng e (((s.core p).eng e).land r).1).setOp s.beat e i o) :=
    (onlyEngines_setEng ..).trans (onlyEngines_setEng ..)
  obtain ⟨hrest, hcore, -⟩ := enginesOnly_charged s p r.cost s.freeCtr
    (unthreaded_satNoted (((s.core p).eng e).land r).2 r.thread only)
  refine ⟨hrest, fun f => (congrArg (fun d : Core => d.eng f) hcore).trans ?_⟩
  rw [eng_satNoted, setOp_eq, eng_setEng, eng_setEng, eng_setEng, if_pos rfl]
  by_cases hf : f = e <;> simp [hf]

/-! ### FRONT_DONE (02 R56, R57, R70) -/

theorem nextFront_front {x : Engine} (h : x.marks = []) (k : Nat) (ps : List Nat) (rest : List EngOp) :
    x.nextFront 0 (.front k ps :: rest) = some (.op 0 k none) := by simp [Engine.nextFront, h]

theorem nextFront_mark {x : Engine} {m : FrontMark} {ms : List FrontMark} (h : x.marks = m :: ms) (hm : m.ahead = 0)
    (q : List EngOp) : x.nextFront 0 q = some .mark := by
  cases q <;> simp [Engine.nextFront, h, hm]

/-- A fold whose first step has its front before it and rows behind it. -/
theorem nextFront_fold {x : Engine} (h : x.marks = []) (k : Nat) {rows : List RowRes} (hr : rows ≠ []) (fs : List FoldStep)
    (all : List (Eng × Nat)) (rest : List EngOp) : x.nextFront 0 (.fold true (⟨some k, rows⟩ :: fs) all :: rest) =
      some (.op 0 k (some (.fold true (⟨none, rows⟩ :: fs) all))) := by
  simp [Engine.nextFront, h, frontOff, foldOp, foldRest, hr]

/-- Engine `x` after a front has passed it. -/
def frontPassed (x : Engine) (beat : Nat) (last : Bool) : NextFront → Engine
  | .op i _ o => opSet x beat i o
  | .mark => if last then { x with marks := x.marks.drop 1 } else x

theorem eng_passFront (c : Core) (beat : Nat) (e f : Eng) (last : Bool) (a : NextFront) :
    (c.passFront beat e last a).eng f = if f = e then frontPassed (c.eng e) beat last a else c.eng f := by
  cases a with
  | op i k o => exact eng_setEng ..
  | mark =>
    cases last
    · by_cases h : f = e <;> simp [Core.passFront, frontPassed, h]
    · exact eng_setEng ..

theorem onlyEngines_passFront (c : Core) (beat : Nat) (e : Eng) (last : Bool) (a : NextFront) :
    OnlyEngines c (c.passFront beat e last a) := by
  cases a with
  | op i k o => exact onlyEngines_setEng ..
  | mark =>
    cases last
    · exact .refl c
    · exact onlyEngines_setEng ..

/-- FRONT_DONE: where a front comes next in both engines, `a`, it passes each of them. -/
theorem frontDone_passes {s : State} {p : Nat} {a : Eng → NextFront}
    (h : ∀ e, ((s.core p).eng e).nextFront 0 ((s.core p).eng e).queue = some (a e)) :
    EnginesOnly s (frontDone p s) p ∧ (frontDone p s).freeCtr = s.freeCtr + 1 ∧ ∀ e, ((frontDone p s).core p).eng e =
      frontPassed ((s.core p).eng e) s.beat ((a .e0).last || (a .e1).last) (a e) := by
  have h0 : (s.core p).eng0.nextFront 0 (s.core p).eng0.queue = some (a .e0) := h .e0
  have h1 : (s.core p).eng1.nextFront 0 (s.core p).eng1.queue = some (a .e1) := h .e1
  simp only [frontDone, h0, h1]
  have only := (onlyEngines_passFront (s.core p) s.beat .e0 ((a .e0).last || (a .e1).last) (a .e0)).trans
    (onlyEngines_passFront _ s.beat .e1 ((a .e0).last || (a .e1).last) (a .e1))
  obtain ⟨hrest, hcore, hfree⟩ := enginesOnly_charged s p
    (s.freeWord.1.toNat % (2 * max (a .e0).cycles (a .e1).cycles + 1)) (s.freeCtr + 1) only.unthreaded
  refine ⟨hrest, hfree, fun e => (congrArg (fun d : Core => d.eng e) hcore).trans ?_⟩
  cases e <;> simp [eng_passFront]

theorem eng_eq_or {e f : Eng} (h : f ≠ e) (g : Eng) : g = e ∨ g = f := by
  cases e <;> cases f <;> cases g <;> simp at *

/-- The front of an engine's fold step, and the mark of it on the other engine. -/
def foldNext (e : Eng) (k : Nat) (rows : List RowRes) (fs : List FoldStep) (all : List (Eng × Nat)) (g : Eng) : NextFront :=
  if g = e then .op 0 k (some (.fold true (⟨none, rows⟩ :: fs) all)) else .mark

theorem last_foldNext (e : Eng) (k : Nat) (rows : List RowRes) (fs : List FoldStep) (all : List (Eng × Nat)) :
    ((foldNext e k rows fs all .e0).last || (foldNext e k rows fs all .e1).last) = fs.all fun g => g.front = none := by
  cases e <;> simp [foldNext, NextFront.last, frontless]

/-! ### DRAIN_DONE (02 R53, R54; 03 R90) -/

theorem foldl_store (at_ : Nat → Nat) (bs : Nat → Bytes) (l : List Nat) (c : Core) :
    l.foldl (fun c i => c.store (at_ i) (bs i)) c =
      { c with spool := l.foldl (fun (m : Mem) i => m.store (at_ i) (bs i)) c.spool } := by
  induction l generalizing c with
  | nil => rfl
  | cons i l ih => exact ih (c.store (at_ i) (bs i))

/-- The state of a row after a drain. -/
def afterDrain (clear : Bool) : AccSt → AccSt
  | .draining (some o) => if clear then .clear else .active o
  | .draining none => .clear
  | y => y

theorem endDrain_eq (clear : Bool) (x : Engine) (r : Nat) : x.endDrain clear r =
    modRow (fun a => { a with st := afterDrain clear a.st, fresh := a.fresh || clear }) x r := by
  unfold Engine.endDrain afterDrain modRow
  rfl

/-- Engine `x` after its rows have been drained by `d`. -/
def rowsDrained (x : Engine) (d : Drain) : Engine :=
  ((List.range d.count).flatMap fun i => narrowOf d.wide (d.row + i)).foldl (fun y r => y.endDrain d.clear r) x

theorem rowsDrained_queue (x : Engine) (d : Drain) : (rowsDrained x d).queue = x.queue := by
  simp only [rowsDrained, endDrain_eq]
  obtain ⟨m, h⟩ := foldl_modRow_eq (fun a => { a with st := afterDrain d.clear a.st, fresh := a.fresh || d.clear })
    ((List.range d.count).flatMap fun i => narrowOf d.wide (d.row + i)) x
  exact (congrArg Engine.queue h :)

/-- The state of a drained row. -/
theorem st_rowsDrained (x : Engine) (d : Drain) {i r : Nat} (hi : i < d.count) (hr : r ∈ narrowOf d.wide (d.row + i)) :
    (SMap.get (rowsDrained x d).rows {} r).st = afterDrain d.clear (SMap.get x.rows {} r).st := by
  have mem : r ∈ (List.range d.count).flatMap fun i => narrowOf d.wide (d.row + i) :=
    List.mem_flatMap.2 ⟨i, List.mem_range.2 hi, hr⟩
  simp only [rowsDrained, endDrain_eq]
  rw [get_foldl_modRow (.inl (nodup_narrowRows ..)), if_pos mem]

/-- Spool `m` after drain `d` of engine `x` has written its rows. -/
def drainStored (d : Drain) (x : Engine) (m : Mem) : Mem :=
  (List.range d.count).foldl
    (fun (m : Mem) i => m.store (d.dst + (d.first + d.step * i) * d.stride) (d.rowBytes x i)) m

/-- Core `c` after drain `d` of engine `e` has written its rows and has left the queue. -/
def drained (beat : Nat) (e : Eng) (d : Drain) (c : Core) : Core :=
  let c := (List.range d.count).foldl
    (fun k i => k.store (d.dst + (d.first + d.step * i) * d.stride) (d.rowBytes (c.eng e) i)) c
  (c.setEng e (rowsDrained (c.eng e) d)).setOp beat e 0 none

/-- Core `c` after a drain, whose slot's fill ends where no engine holds another drain into it. -/
def fillEnded (d : Drain) (c : Core) : Core :=
  match d.slot with
  | some (n, len) => if c.eng0.drainsTo n || c.eng1.drainsTo n then c else c.modSlot n (·.endFill len)
  | none => c

theorem drainDone_eq {s : State} {p : Nat} {e : Eng} {d : Drain} {rest : List EngOp}
    (h : ((s.core p).eng e).queue = .drain d :: rest) :
    drainDone p e s = s.setCore p (fillEnded d (drained s.beat e d (s.core p))) := by
  simp only [drainDone, h]
  rfl

section Drained
variable (beat : Nat) (e : Eng) (d : Drain) (c : Core)

theorem drained_eq : drained beat e d c = { c with spool := drainStored d (c.eng e) c.spool }.setEng e
    (opSet (rowsDrained (c.eng e) d) beat 0 none) := by
  simp only [drained, foldl_store]
  cases e <;> rfl

theorem eng_drained (f : Eng) : (drained beat e d c).eng f =
    if f = e then opSet (rowsDrained (c.eng e) d) beat 0 none else c.eng f := by
  rw [drained_eq, eng_setEng]
  cases f <;> rfl

theorem spool_drained : (drained beat e d c).spool = drainStored d (c.eng e) c.spool := by
  rw [drained_eq]
  cases e <;> rfl

theorem slot_drained (n : Nat) : (drained beat e d c).slot n = c.slot n := by
  rw [drained_eq]
  cases e <;> rfl

theorem rest_drained : { drained beat e d c with eng0 := {}, eng1 := {}, spool := [], slots := [] } =
    { c with eng0 := {}, eng1 := {}, spool := [], slots := [] } := by
  rw [drained_eq]
  cases e <;> rfl

theorem fillEnded_eq : ∃ m, fillEnded d c = { c with slots := m } := by
  unfold fillEnded
  split
  · split <;> exact ⟨_, rfl⟩
  · exact ⟨_, rfl⟩

/-- The last drain into a slot ends its fill. -/
theorem slot_fillEnded {n len : Nat} (hs : d.slot = some (n, len)) (h : ∀ f, (c.eng f).drainsTo n = false) :
    (fillEnded d c).slot n = (c.slot n).endFill len := by
  have h0 : c.eng0.drainsTo n = false := h .e0
  have h1 : c.eng1.drainsTo n = false := h .e1
  simp [fillEnded, hs, h0, h1, Core.modSlot]

end Drained

theorem drainsTo_congr {x y : Engine} (h : y.queue = x.queue) (n : Nat) : y.drainsTo n = x.drainsTo n := by
  unfold Engine.drainsTo
  rw [h]

/-! ### KEEPER_RAMP_STEP (02 R73) -/

theorem keeperStep_lowers {s : State} {p : Nat} {e : Eng} {b : Int} (hb : ((s.core p).eng e).gapFrom = some b)
    (h0 : ((s.core p).eng e).keeper ≠ 0) (h : b + keeperMark ((s.core p).eng e).keeper ≤ s.beat) : keeperStep p e s =
      s.modCore p (·.setEng e { (s.core p).eng e with keeper := ((s.core p).eng e).keeper - 1 }) := by
  simp [keeperStep, hb, h0, h]

theorem keeperStep_waits {s : State} {p : Nat} {e : Eng} {b : Int} (hb : ((s.core p).eng e).gapFrom = some b)
    (h : s.beat < b + keeperMark ((s.core p).eng e).keeper) : keeperStep p e s = s := by
  simp [keeperStep, hb, not_le.2 h]

theorem keeperMark_cast {k : Nat} (h : k ≤ 8) : (keeperMark k : Int) = 525 + 175 * (8 - (k : Int)) := by
  unfold keeperMark
  omega

end Sys2Proof.Proofs
end

section
/-!
Proofs: the engine events, clause by clause (02 R45, R53 to R57, R70, R73; 03 R90, R91).
-/
namespace Sys2Proof.Proofs
open Sys2Proof.Machine Sys2Proof.Safety Sys2Proof.Laws

section Events
variable {p : Nat} {e : Eng} {s : State}

theorem exec_accUpdate (hp : p < 1232) (hs : s.sys.tclk = true) : exec (.accUpdate p e) s = .next (accUpdate p e s) :=
  onUnit_whenDo (lt_nCores hp) hs ..

theorem exec_frontDone (hp : p < 1232) (hs : s.sys.tclk = true) : exec (.frontDone p) s = .next (frontDone p s) :=
  onUnit_whenDo (lt_nCores hp) hs ..

theorem exec_drainDone (hp : p < 1232) (hs : s.sys.tclk = true) : exec (.drainDone p e) s = .next (drainDone p e s) :=
  onUnit_whenDo (lt_nCores hp) hs ..

theorem exec_keeperRampStep (hp : p < 1232) (hs : s.sys.tclk = true) :
    exec (.keeperRampStep p e) s = .next (keeperStep p e s) := onUnit_whenDo (lt_nCores hp) hs ..

theorem exec_lastRead {n : Nat} (hp : p < 1232) (hs : s.sys.tclk = true) (hn : n < 32) :
    exec (.lastRead p n) s = .next (lastRead p n s) :=
  onUnit_whenDo (by simp [lt_nCores hp, hn]) hs ..

/-- FRONT_DONE where an ENG.LDW stands at the head of both queues. -/
theorem frontDone_fronts {j k : Nat} {ps qs : List Nat} {q0 q1 : List EngOp} (h0 : (s.core p).eng0.queue = .front j ps :: q0)
    (h1 : (s.core p).eng1.queue = .front k qs :: q1) (m0 : (s.core p).eng0.marks = []) (m1 : (s.core p).eng1.marks = []) :
    EnginesOnly s (frontDone p s) p ∧ (frontDone p s).freeCtr = s.freeCtr + 1 ∧ ∀ f, ((frontDone p s).core p).eng f =
      opSet ((s.core p).eng f) s.beat 0 none := by
  obtain ⟨hrest, hfree, heng⟩ := frontDone_passes (s := s) (p := p)
    (a := fun f => .op 0 (if f = .e0 then j else k) none) fun f => by
      cases f
      · exact (congrArg _ h0).trans (nextFront_front m0 ..)
      · exact (congrArg _ h1).trans (nextFront_front m1 ..)
  exact ⟨hrest, hfree, heng⟩

/-- FRONT_DONE where a logical-tile run on one engine has a front, and its mark stands on the other. -/
theorem frontDone_fold {f : Eng} {k : Nat} {rows : List RowRes} {fs : List FoldStep} {all : List (Eng × Nat)} {rest : List EngOp}
    {m : FrontMark} {ms : List FrontMark} (hf : f ≠ e) (hx : ((s.core p).eng e).marks = []) (hr : rows ≠ [])
    (hq : ((s.core p).eng e).queue = .fold true (⟨some k, rows⟩ :: fs) all :: rest) (hy : ((s.core p).eng f).marks = m :: ms)
    (hm : m.ahead = 0) : EnginesOnly s (frontDone p s) p ∧
      ((frontDone p s).core p).eng e = opSet ((s.core p).eng e) s.beat 0 (some (.fold true (⟨none, rows⟩ :: fs) all)) ∧
      ((frontDone p s).core p).eng f = frontPassed ((s.core p).eng f) s.beat (fs.all fun g => g.front = none) .mark := by
  obtain ⟨hrest, -, heng⟩ := frontDone_passes (s := s) (p := p) (a := foldNext e k rows fs all) fun g => by
    obtain rfl | rfl := eng_eq_or hf g
    · rw [hq, foldNext, if_pos rfl]
      exact nextFront_fold hx k hr fs all rest
    · rw [foldNext, if_neg hf]
      exact nextFront_mark hy hm _
  rw [last_foldNext] at heng
  exact ⟨hrest, by rw [heng, foldNext, if_pos rfl]; rfl, by rw [heng, foldNext, if_neg hf]⟩

/-- Slot `n` after the last read of the engines' or the merge's consumption. -/
theorem lastRead_ends {n : Nat} (h : ((s.core p).slot n).st = .draining)
    (hu : ((s.core p).slot n).user = .engine ∨ ((s.core p).slot n).user = .merge) :
    lastRead p n s = s.modCore p (·.setSlot n ((s.core p).slot n).endUse) := by
  simp [lastRead, h, hu]

end Events

theorem coreOnly_modCore (s : State) (p : Nat) (f : Core → Core) : CoreOnly s (s.modCore p f) p :=
  ⟨rfl, fun q hq => by simp [hq]⟩

section DrainDone
variable {s : State} {p : Nat} {e : Eng} {d : Drain} {rest : List EngOp} (h : ((s.core p).eng e).queue = .drain d :: rest)
include h

/-- DRAIN_DONE: what it does to the core. -/
theorem drainDone_core : CoreOnly s (drainDone p e s) p ∧
    (drainDone p e s).core p = fillEnded d (drained s.beat e d (s.core p)) := by
  rw [drainDone_eq h]
  exact ⟨⟨rfl, fun q hq => by simp [hq]⟩, by simp⟩

theorem drained_queue : (opSet (rowsDrained ((s.core p).eng e) d) s.beat 0 none).queue = rest := by
  simp [rowsDrained_queue, h]

theorem eng_drainDone (f : Eng) : ((drainDone p e s).core p).eng f =
    if f = e then opSet (rowsDrained ((s.core p).eng e) d) s.beat 0 none else (s.core p).eng f := by
  obtain ⟨m, hfill⟩ := fillEnded_eq d (drained s.beat e d (s.core p))
  rw [(drainDone_core h).2, hfill, ← eng_drained]
  cases f <;> rfl

/-- A drained row: the state that CLEAR gives it. -/
theorem st_drainDone {i r : Nat} (hi : i < d.count) (hr : r ∈ narrowOf d.wide (d.row + i)) :
    (SMap.get (((drainDone p e s).core p).eng e).rows {} r).st =
      afterDrain d.clear (SMap.get ((s.core p).eng e).rows {} r).st := by
  rw [eng_drainDone h, if_pos rfl, opSet_rows, st_rowsDrained _ _ hi hr]

/-- The last drain into a slot ends its fill. -/
theorem slot_drainDone {n len : Nat} (hd : d.slot = some (n, len))
    (hn : ∀ f, (if f = e then { (s.core p).eng e with queue := rest } else (s.core p).eng f).drainsTo n = false) :
    ((drainDone p e s).core p).slot n = ((s.core p).slot n).endFill len := by
  rw [(drainDone_core h).2, slot_fillEnded d _ hd, slot_drained]
  intro f
  refine Eq.trans (drainsTo_congr ?_ n) (hn f)
  rw [eng_drained]
  by_cases hf : f = e
  · rw [if_pos hf, if_pos hf, drained_queue h]
  · rw [if_neg hf, if_neg hf]

end DrainDone

/-- Settles O22: each event by what it does to the engines or the slots of its core. -/
theorem engineEvents : Obligations.EngineEvents := by
  unfold Obligations.EngineEvents
  intro p e x s hp hs hx
  subst hx
  refine ⟨fun i r o hl hc => ?_, fun r rs all rest hq hm => ?_,
    fun k ps r rs all rest hq hm => ⟨fun hn => ?_, fun hn => ?_⟩,
    fun j k ps qs q0 q1 h0 h1 m0 m1 => ?_, fun f y k rows fs all rest m ms hf hy hx hr hq hm ha => ?_, fun d rest hq => ?_,
    fun b hb h0 h8 => ⟨fun h => ?_, fun h => ?_⟩, fun n hn hd hu => ?_⟩
  · obtain ⟨hrest, heng⟩ := accUpdate_eng hl
    refine ⟨_, exec_accUpdate hp hs, hrest, ?_⟩
    rw [heng, if_pos rfl, opSet_queue, opSet_acc, queue_land]
    exact ⟨rfl, fun h col n hcol hn hh => get_acc_land _ hc hcol hn hh, fun n col hcol hn => get_acc_land_ne _ hc hcol hn,
      fun f hf => (heng f).trans (if_neg hf)⟩
  · rw [hq]
    exact landing_run_head hm ..
  · rw [hq]
    exact (landing_front_run hm ..).trans (if_neg fun ⟨n, hr, hps⟩ => hn n hr hps)
  · rw [exec_accUpdate hp hs, accUpdate_waits]
    rw [hq]
    exact (landing_front_run hm ..).trans (if_pos hn)
  · obtain ⟨hrest, hfree, heng⟩ := frontDone_fronts h0 h1 m0 m1
    refine ⟨_, exec_frontDone hp hs, hrest, (congrArg Engine.queue (heng .e0)).trans ?_,
      (congrArg Engine.queue (heng .e1)).trans ?_, hfree, fun f => by rw [heng, opSet_acc, opSet_rows]; exact ⟨rfl, rfl⟩⟩
    · simp [Core.eng, h0]
    · simp [Core.eng, h1]
  · subst hy
    obtain ⟨hrest, hen, hfn⟩ := frontDone_fold hf hx hr hq hm ha
    refine ⟨_, exec_frontDone hp hs, hrest, by simp [hen, hq], fun hg => ?_, fun ⟨g, hg, hne⟩ => ?_⟩
    · have last : (fs.all fun g => g.front = none) = true := by simpa using hg
      rw [hfn, last, frontPassed, if_pos rfl, hm]
      rfl
    · have more : (fs.all fun g => g.front = none) = false := by
        simp only [List.all_eq_false, decide_eq_true_eq]
        exact ⟨g, hg, hne⟩
      rw [hfn, more]
      rfl
  · obtain ⟨honly, hcore⟩ := drainDone_core hq
    obtain ⟨m, hfill⟩ := fillEnded_eq d (drained s.beat e d (s.core p))
    refine ⟨_, exec_drainDone hp hs, honly, by rw [eng_drainDone hq, if_pos rfl, drained_queue hq], ?_,
      fun i r hi hr => ⟨fun hc ⟨o, ho⟩ => ?_, fun o hc ho => ?_⟩, fun n len hd hn => slot_drainDone hq hd hn, ?_⟩
    · rw [hcore, hfill]
      exact spool_drained ..
    · rw [st_drainDone hq hi hr, ho, hc]
      cases o <;> rfl
    · rw [st_drainDone hq hi hr, ho, hc]
      rfl
    · rw [hcore, hfill]
      exact rest_drained ..
  · have mark := keeperMark_cast h8
    refine ⟨_, (exec_keeperRampStep hp hs).trans (by rw [keeperStep_lowers hb h0 (by omega)]), ?_, ?_, fun f hf => ?_⟩
    · exact ⟨rfl, fun q hq => by simp [hq], by rw [State.core_modCore, if_pos rfl, (onlyEngines_setEng ..).unthreaded]⟩
    · simp
    · simp [hf]
  · have mark := keeperMark_cast h8
    rw [exec_keeperRampStep hp hs, keeperStep_waits hb (by omega)]
  · refine ⟨_, (exec_lastRead hp hs hn).trans (by rw [lastRead_ends hd hu]), coreOnly_modCore .., by simp, ?_⟩
    rw [State.core_modCore, if_pos rfl]
    exact ⟨by simp [Slot.endUse], fun m hm => by simp [hm]⟩

end Sys2Proof.Proofs
end

section
/-!
Proofs: how a running command that a failed core ends is aborted and waits to run again (04 R164; 08 R317, R318, R330).
-/
namespace Sys2Proof.Proofs
open Sys2Proof.Machine Sys2Proof.Safety Sys2Proof.Laws

/-! ### What record-keeping leaves alone -/

/-- The cores, their numbers, the strongbox and the scheduler are as they were. -/
structure WorkKept (s t : State) : Prop where
  cores : t.cores = s.cores
  cmap : t.cmap = s.cmap
  sec : t.sec = s.sec
  sched : t.sched = s.sched

namespace WorkKept
variable {s t : State}

theorem refl (s : State) : WorkKept s s := ⟨rfl, rfl, rfl, rfl⟩

theorem trans {u : State} (h : WorkKept s t) (k : WorkKept t u) : WorkKept s u :=
  ⟨k.cores.trans h.cores, k.cmap.trans h.cmap, k.sec.trans h.sec, k.sched.trans h.sched⟩

theorem of_rest (h : Rest s t) : WorkKept s t := ⟨rest_cores h, rest_cmap h, rest_sec h, rest_sched h⟩

theorem core (h : WorkKept s t) (p : Nat) : t.core p = s.core p := by rw [State.core, h.cores, State.core]

theorem ctx (h : WorkKept s t) (k : Nat) : t.ctx k = s.ctx k := by rw [State.ctx, h.sched, State.ctx]

end WorkKept

theorem workKept_traceRec (s : State) (src code core id : Nat) (data : Bytes) :
    WorkKept s (s.traceRec src code core id data) := .of_rest (kept_traceRec ..).1

theorem workKept_chargeAttempt (s : State) (c : RunCmd) (acct : Nat) : WorkKept s (s.chargeAttempt c acct) :=
  .of_rest (kept_trans (kept_charge ..) (kept_charge ..)).1

theorem workKept_orphan (s : State) (ps : List Nat) : WorkKept s (s.orphan ps) := ⟨rfl, rfl, rfl, rfl⟩

theorem workKept_unpark (s : State) (f : VaultWork → Bool) : WorkKept s (s.unpark f) := by
  refine WorkKept.trans (t := { s with parked := s.parked.filter fun e => !f e.2 }) ⟨rfl, rfl, rfl, rfl⟩ ?_
  exact foldl_keeps .refl .trans (fun (s : State) (e : Nat × VaultWork) => s.queueWork e.1 e.2)
    (fun _ _ => ⟨rfl, rfl, rfl, rfl⟩) _ _

theorem setCores_congr {s t : State} (h : t.cmap = s.cmap) (c : RunCmd) : t.setCores c = s.setCores c := by
  simp only [State.setCores, State.physOf, h]

theorem logicalOf_congr {s t : State} (h : t.cmap = s.cmap) (p : Nat) : t.logicalOf p = s.logicalOf p := by
  simp only [State.logicalOf, h]

theorem spares_congr {s t : State} (h : t.cmap = s.cmap) : t.spares = s.spares := by
  simp only [State.spares, h]

/-! ### The cores of an aborted command are free (04 R164) -/

/-- A core without a command, whose threads are idle. -/
def CoreFree (c : Core) : Prop := c.phase = .none ∧ c.stopped = false ∧ ∀ u, (c.thread u).st = .idle

theorem st_mapVals_idle (m : SMap Thread) (u : Nat) :
    (SMap.get (m.mapVals fun th => { th with st := .idle }) {} u).st = .idle :=
  congrArg Thread.st (SMap.get_mapVals m (fun th => { th with st := .idle }) {} rfl u)

theorem coreFree_aborted (c : Core) : CoreFree c.aborted := by
  refine ⟨by simp only [Core.aborted], by simp only [Core.aborted], fun u => ?_⟩
  simp only [Core.aborted, Core.thread]
  exact st_mapVals_idle _ u

theorem foldl_modCore_eq (f : Core → Core) (ps : List Nat) (s : State) :
    ∃ m, ps.foldl (fun s p => s.modCore p f) s = { s with cores := m } := by
  induction ps generalizing s with
  | nil => exact ⟨_, rfl⟩
  | cons p ps ih => exact ih (s.modCore p f)

theorem coreFree_foldl_aborted (ps : List Nat) (s : State) {q : Nat} (h : q ∈ ps ∨ CoreFree (s.core q)) :
    CoreFree ((ps.foldl (fun s p => s.modCore p Core.aborted) s).core q) := by
  induction ps generalizing s with
  | nil => exact h.resolve_left (by simp)
  | cons p ps ih =>
    refine ih _ ?_
    by_cases e : q = p
    · refine .inr ?_
      rw [State.core_modCore, if_pos e]
      exact coreFree_aborted _
    · rw [State.core_modCore, if_neg e]
      exact h.imp_left fun m => (List.mem_cons.1 m).resolve_left e

/-- Core `c` after its slots that streams of the cores `ps` fill are abandoned. -/
def mcastsAbandoned (ps : List Nat) (c : Core) : Core :=
  { c with slots := c.slots.mapVals fun x => match x.user with
    | .mcast p _ => if ps.contains p then x.abandon else x
    | _ => x }

theorem core_abandonMcasts (s : State) (ps : List Nat) (q : Nat) :
    (s.abandonMcasts ps).core q = mcastsAbandoned ps (s.core q) :=
  SMap.get_mapVals s.cores (mcastsAbandoned ps) {} rfl q

theorem coreFree_abandonMcasts {s : State} {q : Nat} (h : CoreFree (s.core q)) (ps : List Nat) :
    CoreFree ((s.abandonMcasts ps).core q) := by
  rw [core_abandonMcasts]
  exact h

/-- State `s` after the cores of a command have been aborted. -/
def coresAborted (s : State) (ps : List Nat) : State :=
  (ps.foldl (fun s p => s.modCore p Core.aborted) s).abandonMcasts ps

theorem coresAborted_eq (s : State) (ps : List Nat) : ∃ m, coresAborted s ps = { s with cores := m } := by
  obtain ⟨m, h⟩ := foldl_modCore_eq Core.aborted ps s
  rw [coresAborted, h]
  exact ⟨_, rfl⟩

/-- An aborted command is gone from the commands that run; nothing else of the scheduler changes. -/
theorem abortCmd_sched (s : State) (key : Nat) (c : RunCmd) :
    (s.abortCmd key c).sched = { s.sched with cmds := SMap.del s.sched.cmds key } ∧ (s.abortCmd key c).cmap = s.cmap ∧
      (s.abortCmd key c).sec = s.sec := by
  obtain ⟨m, h⟩ := coresAborted_eq s (s.setCores c)
  have work := (workKept_orphan (coresAborted s (s.setCores c)) (s.setCores c)).trans
    (workKept_unpark _ (VaultWork.ofCores (s.setCores c)))
  have trace := workKept_traceRec ((((coresAborted s (s.setCores c)).orphan (s.setCores c)).unpark
    (VaultWork.ofCores (s.setCores c))).dropCmd key) 6 3 0xFFFF c.ctx (leBytes c.seq.toNat 8)
  rw [h] at work
  refine ⟨trace.sched.trans ?_, trace.cmap.trans ?_, trace.sec.trans ?_⟩
  all_goals rw [h]
  · exact congrArg (fun x : Sched => { x with cmds := SMap.del x.cmds key }) work.sched
  · exact work.cmap
  · exact work.sec

/-- The cores of an aborted command are free. -/
theorem coresFree_abortCmd (s : State) (key : Nat) (c : RunCmd) : CoresFree s (s.abortCmd key c) c := by
  intro q hq
  have work := (workKept_orphan (coresAborted s (s.setCores c)) (s.setCores c)).trans
    (workKept_unpark _ (VaultWork.ofCores (s.setCores c)))
  have trace := workKept_traceRec ((((coresAborted s (s.setCores c)).orphan (s.setCores c)).unpark
    (VaultWork.ofCores (s.setCores c))).dropCmd key) 6 3 0xFFFF c.ctx (leBytes c.seq.toNat 8)
  have core : (s.abortCmd key c).core q = (coresAborted s (s.setCores c)).core q := (trace.core q).trans (work.core q)
  show CoreFree ((s.abortCmd key c).core q)
  rw [core]
  exact coreFree_abandonMcasts (coreFree_foldl_aborted _ _ (.inl hq)) _

theorem coresFree_congr {s s' t t' : State} {c : RunCmd} (h : CoresFree s t c) (hs : s'.cmap = s.cmap) (ht : t'.cores = t.cores) :
    CoresFree s' t' c := by
  intro q hq
  have core : t'.core q = t.core q := by rw [State.core, ht, State.core]
  rw [setCores_congr hs] at hq
  simpa only [State.thread, core] using h q hq

/-! ### A command that the device kills (08 R330) -/

/-- A killed command waits in its context, in its place by SEQ; its cores are free. -/
theorem killCmd_waits (s : State) (key : Nat) (c : RunCmd) (acct : Nat) :
    (s.killCmd key c acct).cmap = s.cmap ∧ (s.killCmd key c acct).sec = s.sec ∧ (s.killCmd key c acct).cmdAt key = none ∧
      CoresFree s (s.killCmd key c acct) c ∧
      ((s.killCmd key c acct).ctx c.ctx).rerun = c.again.inOrder (s.ctx c.ctx).rerun := by
  have charged := workKept_chargeAttempt s c acct
  obtain ⟨hsched, hcmap, hsec⟩ := abortCmd_sched (s.chargeAttempt c acct) key c
  have free := coresFree_abortCmd (s.chargeAttempt c acct) key c
  have ctx : ((s.chargeAttempt c acct).abortCmd key c).ctx c.ctx = s.ctx c.ctx := by
    rw [State.ctx, hsched, ← charged.ctx, State.ctx]
  refine ⟨hcmap.trans charged.cmap, hsec.trans charged.sec, ?_, coresFree_congr free charged.cmap.symm rfl, ?_⟩
  · show SMap.get ((s.chargeAttempt c acct).abortCmd key c).sched.cmds none key = none
    rw [hsched, SMap.get_del, if_pos rfl]
  · rw [← ctx]
    simp [State.killCmd, State.modCtx, State.setCtx, State.ctx]

end Sys2Proof.Proofs
end

section
/-!
Proofs: a core that fails is retired, a spare takes its number, and a settled bank reads as zero (02 R75, R76; 03 R86, R113;
13 R460, R461).
-/
namespace Sys2Proof.Proofs
open Sys2Proof.Machine Sys2Proof.Safety Sys2Proof.Laws

/-! ### Retirement with a spare (13 R460, R461) -/

theorem workKept_logError (s : State) (cls unit : Nat) (a b : W64) (h : cls < 64) : WorkKept s (s.logError cls unit a b) :=
  .of_rest (logError_frame s cls unit a b h).1

theorem workKept_setFld (s : State) (f : Fld) (v : Nat) : WorkKept s (s.setFld f v) := ⟨rfl, rfl, rfl, rfl⟩

/-- Core `p` is retired, and `q` is promised its number; its retirement goes to flash. -/
theorem retire_heir {s : State} {p l q : Nat} {qs : List Nat} (hl : s.logicalOf p = some l)
    (hs : s.spares.filter (· ≠ p) = q :: qs) (cause : Nat) :
    (s.retire p cause).1.cores = s.cores ∧ (s.retire p cause).1.sched = s.sched ∧
      (s.retire p cause).1.cmap =
        { s.cmap with retired := s.cmap.retired ++ [p], waiting := s.cmap.waiting ++ [(p, q)] } ∧
      (s.retire p cause).1.sec.flash = s.sec.flash ++ [.retire p] := by
  unfold State.retire
  rw [hl, hs]
  extract_lets n spare heir b s1 s2 s3
  have kept : WorkKept s s2 :=
    (workKept_logError s eCoreRetired p (BitVec.ofNat 64 cause) (BitVec.ofNat 64 b) (by decide)).trans (workKept_setFld ..)
  refine ⟨kept.cores, kept.sched, ?_, ?_⟩
  · show { s2.cmap with retired := s2.cmap.retired ++ [p], waiting := s2.cmap.waiting ++ [(p, q)] } = _
    rw [kept.cmap]
  · show s2.sec.flash ++ [.retire p] = _
    rw [kept.sec]

/-! ### A core that fails (02 R76; 13 R460) -/

/-- Core `c` after every one of its threads has faulted with ENG_HW. -/
def allFaulted (c : Core) : Core :=
  { (List.range 8).foldl (fun (c : Core) t => c.modThread t fun th => { th with st := .faulted, fault := fEngHw }) c with
    stopped := true }

theorem foldl_modThread_eq (f : Thread → Thread) (ts : List Nat) (c : Core) :
    ∃ m, ts.foldl (fun (c : Core) t => c.modThread t f) c = { c with threads := m } := by
  induction ts generalizing c with
  | nil => exact ⟨_, rfl⟩
  | cons t ts ih => exact ih (c.modThread t f)

/-- A core stays on its command. -/
def SameCmd (c d : Core) : Prop := d.phase = c.phase ∧ d.cmd = c.cmd

theorem cmdOf_modCore (s : State) (p : Nat) {f : Core → Core} (h : SameCmd (s.core p) (f (s.core p))) :
    (s.modCore p f).cmdOf p = s.cmdOf p ∧ ((s.modCore p f).core p).cmd = (s.core p).cmd := by
  obtain ⟨hphase, hcmd⟩ := h
  have core : (s.modCore p f).core p = f (s.core p) := by simp
  constructor
  · simp only [State.cmdOf, core, hphase, hcmd]
    rfl
  · rw [core, hcmd]

theorem sameCmd_allFaulted (c : Core) : SameCmd c (allFaulted c) := by
  obtain ⟨m, h⟩ := foldl_modThread_eq (fun th => { th with st := .faulted, fault := fEngHw }) (List.range 8) c
  rw [allFaulted, h]
  exact ⟨rfl, rfl⟩

/-- Command `c` with the fault ENG_HW of core `p`. -/
def engFaulted (s : State) (p : Nat) (c : RunCmd) : RunCmd :=
  { c with faulted := some (s.beat, (s.logicalOf p).getD p, fEngHw) }

/-- A command that runs on and that nothing makes end otherwise when its core fails. -/
def RunsAgain (c : RunCmd) : Prop := c.phase = .running ∧ c.side = false ∧ c.ending = none ∧ c.faulted = none

theorem noteFault_idle {s : State} {p : Nat} (h : s.cmdOf p = none) (code : Nat) : s.noteFault p code = s := by
  simp only [State.noteFault, State.modCmdOf, h]

theorem noteFault_first {s : State} {p : Nat} {c : RunCmd} (h : s.cmdOf p = some c) (hc : RunsAgain c) :
    s.noteFault p fEngHw = s.setCmd (s.core p).cmd (engFaulted s p c) := by
  obtain ⟨hphase, -, hending, hfaulted⟩ := hc
  simp [State.noteFault, State.modCmdOf, h, hphase, hending, hfaulted, engFaulted, firstFault]

theorem cmdOf_setCmd {s : State} {p : Nat} {c : RunCmd} (h : s.cmdOf p = some c) (k : RunCmd) :
    (s.setCmd (s.core p).cmd k).cmdOf p = some k := by
  have busy : (s.core p).phase ≠ .none := fun e => by simp [State.cmdOf, e] at h
  rw [State.cmdOf, State.core_setCmd, if_neg busy]
  exact (SMap.get_put ..).trans (if_pos rfl)

/-- A core that fails while it runs no command is retired. -/
theorem coreFails_idle {s : State} {p : Nat} (h : s.cmdOf p = none) (cause : Nat) :
    s.coreFails p cause = ((s.modCore p allFaulted).retire p cause).1 := by
  have idle : (s.modCore p allFaulted).cmdOf p = none := by rw [(cmdOf_modCore s p (sameCmd_allFaulted _)).1, h]
  unfold State.coreFails
  extract_lets s1 s2 fence key mine s3
  have noted : s2 = s.modCore p allFaulted := noteFault_idle idle fEngHw
  have none2 : s2.cmdOf p = none := by rw [noted, idle]
  have last : s3 = s2 := by simp only [s3, none2]
  rw [last, noted]

/-- A core that fails while its command runs on is retired after the command is killed, to run again. -/
theorem coreFails_kills {s : State} {p q : Nat} {qs : List Nat} {c : RunCmd} (hs : s.spares.filter (· ≠ p) = q :: qs)
    (h : s.cmdOf p = some c) (hc : RunsAgain c) (cause : Nat) :
    ∃ x, WorkKept ((s.modCore p allFaulted).setCmd (s.core p).cmd (engFaulted s p c)) x ∧
      s.coreFails p cause = ((x.killCmd (s.core p).cmd (engFaulted s p c) sharedAcct).retire p cause).1 := by
  obtain ⟨cmd, keySame⟩ := cmdOf_modCore s p (sameCmd_allFaulted (s.core p))
  have runs : (s.modCore p allFaulted).cmdOf p = some c := by rw [cmd, h]
  unfold State.coreFails
  extract_lets s1 s2 fence key mine s3
  have noted : s2 = (s.modCore p allFaulted).setCmd (s.core p).cmd (engFaulted s p c) := by
    rw [← keySame]
    exact noteFault_first runs hc
  have some2 : s2.cmdOf p = some (engFaulted s p c) := by
    rw [noted, ← keySame]
    exact cmdOf_setCmd runs _
  have key2 : key = (s.core p).cmd := by
    rw [← keySame]
    simp only [key, noted]
    rfl
  have mine2 : (engFaulted s p c).faulted = some mine := by
    simp only [mine, noted]
    rfl
  have spare : fence = false := by
    simp only [fence, noted]
    exact congrArg List.isEmpty hs
  obtain ⟨hphase, hside, hending, -⟩ := hc
  have last : s3 = (s2.traceRec 4 fEngHw ((s2.logicalOf p).getD 0xFFFF) c.ctx (leBytes c.seq.toNat 8)).killCmd key
      (engFaulted s p c) sharedAcct := by
    simp only [s3, some2, spare, ← mine2]
    simp [engFaulted, hphase, hside, hending]
  refine ⟨_, ?_, by rw [last, key2]⟩
  rw [← noted]
  exact workKept_traceRec ..

/-- The state after core `p` has failed and spare `q` is promised its number: its command waits to run again. -/
def Retired (s t : State) (p q : Nat) : Prop :=
  t.cmap = { s.cmap with retired := s.cmap.retired ++ [p], waiting := s.cmap.waiting ++ [(p, q)] } ∧
    t.sec.flash = s.sec.flash ++ [.retire p] ∧
    ∀ c, s.cmdOf p = some c → t.cmdAt (s.core p).cmd = none ∧ CoresFree s t c ∧
      (t.ctx c.ctx).rerun = c.again.inOrder (s.ctx c.ctx).rerun

theorem retired_coreFails {s : State} {p l q : Nat} {qs : List Nat} (hl : s.logicalOf p = some l)
    (hs : s.spares.filter (· ≠ p) = q :: qs) (hc : ∀ c, s.cmdOf p = some c → RunsAgain c) (cause : Nat) :
    Retired s (s.coreFails p cause) p q := by
  cases h : s.cmdOf p with
  | none =>
    obtain ⟨-, -, hcmap, hflash⟩ := retire_heir (s := s.modCore p allFaulted) hl hs cause
    rw [coreFails_idle h]
    exact ⟨hcmap, hflash, fun c hk => by simp [h] at hk⟩
  | some c =>
    obtain ⟨x, kept, hx⟩ := coreFails_kills hs h (hc c h) cause
    obtain ⟨kcmap, ksec, kgone, kfree, kctx⟩ := killCmd_waits x (s.core p).cmd (engFaulted s p c) sharedAcct
    have cmap : (x.killCmd (s.core p).cmd (engFaulted s p c) sharedAcct).cmap = s.cmap := kcmap.trans kept.cmap
    obtain ⟨rcores, rsched, rcmap, rflash⟩ := retire_heir ((logicalOf_congr cmap p).trans hl)
      ((congrArg (List.filter (· ≠ p)) (spares_congr cmap)).trans hs) cause
    rw [hx]
    refine ⟨by rw [rcmap, cmap], by rw [rflash, ksec, kept.sec]; rfl, fun k hk => ?_⟩
    obtain rfl : c = k := Option.some.inj (h.symm.trans hk)
    refine ⟨?_, coresFree_congr kfree kept.cmap.symm rcores, ?_⟩
    · rw [State.cmdAt, rsched]
      exact kgone
    · rw [State.ctx, rsched]
      refine kctx.trans ?_
      rw [kept.ctx]
      rfl

/-! ### ENG_HW_FAULT and TRANSFER_HANG (02 R76; 03 R113) -/

theorem onlyEngines_poison (c : Core) (e : Eng) : OnlyEngines c (c.poison e) := by
  have rows : ∀ (all : List (Eng × Nat)) (c : Core),
      OnlyEngines c (all.foldl (fun c r => c.setEng r.1 ((c.eng r.1).poisonRow r.2)) c) := by
    intro all
    induction all with
    | nil => exact .refl
    | cons r all ih => exact fun c => (onlyEngines_setEng ..).trans (ih _)
  unfold Core.poison
  split
  · exact rows _ c
  · exact .refl c

theorem OnlyEngines.sameCmd {c d : Core} (h : OnlyEngines c d) : SameCmd c d :=
  ⟨(congrArg (fun x : Core => x.phase) h :), (congrArg (fun x : Core => x.cmd) h :)⟩

/-- An engine fault: the rows of the failing run are poisoned before the core fails. -/
theorem retired_engHwFault {s : State} {p l q : Nat} {qs : List Nat} (hl : s.logicalOf p = some l)
    (hs : s.spares.filter (· ≠ p) = q :: qs) (hc : ∀ c, s.cmdOf p = some c → RunsAgain c) (e : Eng) (cause : HwCause) :
    Retired s (engHwFault p e cause s) p q := by
  obtain ⟨cmd, key⟩ := cmdOf_modCore s p (f := fun c => c.poison e) (onlyEngines_poison (s.core p) e).sameCmd
  obtain ⟨hcmap, hflash, hcmd⟩ := retired_coreFails (s := s.modCore p fun c => c.poison e) hl hs
    (by rw [cmd]; exact hc) (match cause with | .parity => 1 | .residue => 2)
  rw [cmd, key] at hcmd
  exact ⟨hcmap, hflash, hcmd⟩

theorem exec_engHwFault {s : State} {p : Nat} (hp : p < 1232) (ht : s.sys.tclk = true) (hr : s.cmap.retired.contains p = false)
    (hf : s.cmap.fenced.contains p = false) (e : Eng) (cause : HwCause) :
    exec (.engHwFault p e cause) s = .next (engHwFault p e cause s) :=
  onUnit_whenDo (lt_nCores hp) (by rw [ht, hr, hf]; rfl) ..

theorem exec_transferHang {s : State} {p n start : Nat} {o : Xfer} {b : Int} (hp : p < 1232) (ht : s.sys.tclk = true)
    (hn : n < 32) (hx : ((s.core p).stream n).xfer start = some o) (ho : o.served = some b) (hb : b + 3500 < s.beat) :
    exec (.transferHang p n start) s = .next (s.coreFails p 3) := by
  refine (onUnit_whenDo (by simp [lt_nCores hp, hn]) ht ..).trans ?_
  simp [transferHang, hx, ho, hb]

/-! ### SPARE_SUBSTITUTION and BANK_SETTLED (13 R461; 03 R86) -/

/-- The spare has the logical number; nothing else of the cores changes. -/
theorem spareSubstitution_gives {s : State} {p q : Nat} (h : s.cmap.waiting.find? (fun e => e.1 = p) = some (p, q)) :
    (spareSubstitution p s).cmap = { s.cmap with
      logical := s.cmap.logical.map (fun x => if x = p then q else x)
      waiting := s.cmap.waiting.filter (fun e => e.1 ≠ p) } ∧
      (spareSubstitution p s).cores = s.cores ∧ (spareSubstitution p s).vault = s.vault := by
  simp only [spareSubstitution, h]
  exact ⟨(rest_cmap (kept_raise ..).1).trans rfl, (rest_cores (kept_raise ..).1).trans rfl,
    (rest_vault (kept_raise ..).1).trans rfl⟩

theorem get_keep {α : Type} (m : SMap α) (d : α) (f : Nat → Bool) (k : Nat) :
    SMap.get (m.keep f) d k = if f k then SMap.get m d k else d := by
  induction m with
  | nil => simp [SMap.keep]
  | cons e m ih =>
    obtain ⟨i, x⟩ := e
    simp only [SMap.keep, List.filter_cons] at *
    by_cases hi : k = i
    · subst hi
      by_cases hf : f k <;> simp [hf, SMap.get, ih]
    · by_cases hf : f i <;> simp [hf, SMap.get, ih, hi]

/-- A zeroed range reads as zero. -/
theorem byte_zero (m : Mem) (lo hi a : Nat) : (m.zero lo hi).byte a = if lo ≤ a ∧ a < hi then 0 else m.byte a := by
  rw [Mem.byte, Mem.zero, get_keep, Mem.byte]
  by_cases h : lo ≤ a ∧ a < hi
  · rw [if_neg (by simp; omega), if_pos h]
  · rw [if_pos (by simp; omega), if_neg h]

theorem has_del_self {α : Type} (m : SMap α) (k : Nat) : SMap.has (m.del k) k = false := by
  induction m with
  | nil => rfl
  | cons e m ih =>
    obtain ⟨i, x⟩ := e
    simp only [SMap.del]
    split
    · exact ih
    · rename_i h
      simpa [SMap.has, Ne.symm h] using ih

/-- Nothing waits for a bank that does not settle. -/
theorem settlingBank_of_not_has {c : Core} {b : Nat} (h : SMap.has c.settling b = false) :
    c.settlingBank (b * 0x10000) 0x10000 = none := by
  refine List.find?_eq_none.2 fun k hk => ?_
  have same : k = b := by
    simp only [banksOf, List.mem_filter, decide_eq_true_eq] at hk
    omega
  rw [same, h]
  decide

/-- Core `c` after bank `b` has settled. -/
def bankReady (b : Nat) (c : Core) : Core :=
  { c with settling := SMap.del c.settling b, spool := c.spool.zero (b * 0x10000) ((b + 1) * 0x10000) }

theorem bankSettled_readies {s : State} {p b : Nat} (hh : SMap.has (s.core p).settling b = true)
    (hbeat : SMap.get (s.core p).settling 0 b ≤ s.beat) : bankSettled p b s = s.modCore p (bankReady b) := by
  simp only [bankSettled, hh, hbeat]
  rfl

theorem exec_bankSettled {s : State} {p b : Nat} (hp : p < 1232) (ht : s.sys.tclk = true) (hb : b < 8) :
    exec (.bankSettled p b) s = .next (bankSettled p b s) := onUnit_whenDo (by simp [lt_nCores hp, hb]) ht ..

/-- Settles O23: the failing core's retirement, the spare that takes its number, and the bank that has settled. -/
theorem coreFailures : Obligations.CoreFailures := by
  unfold Obligations.CoreFailures
  intro p i s hp ht
  refine ⟨fun hi l q qs hl hs hc => ?_, fun q hq => ?_, fun b hb hh hbeat => ?_⟩
  · obtain ⟨e, h, rfl, hr, hf⟩ | ⟨n, k, o, b, rfl, hn, hx, ho, hb⟩ := hi
    · exact ⟨_, exec_engHwFault hp ht hr hf e h, retired_engHwFault hl hs hc e h⟩
    · exact ⟨_, exec_transferHang hp ht hn hx ho hb, retired_coreFails hl hs hc 3⟩
  · obtain ⟨hcmap, hcores, hvault⟩ := spareSubstitution_gives hq
    exact ⟨_, onUnit_whenDo (lt_nCores hp) ht .., by rw [hcmap], by rw [hcmap], by rw [hcmap], hcores, hvault⟩
  · refine ⟨_, (exec_bankSettled hp ht hb).trans (by rw [bankSettled_readies hh hbeat]), coreOnly_modCore .., ?_⟩
    rw [State.core_modCore, if_pos rfl]
    exact ⟨rfl, byte_zero _ _ _, settlingBank_of_not_has (has_del_self ..)⟩

end Sys2Proof.Proofs
end

section
/-!
Proofs: the canonical forms of the cores' spools and of the threads' registers, which every instruction of CLASS 0, 1, 2, 3 and 6
keeps (03 R78; 04 R124, R128 to R132, R143).
-/
namespace Sys2Proof.Proofs
open Sys2Proof.Machine Sys2Proof.Safety Sys2Proof.Laws

/-! ### Threads -/

/-- A table written at another key reads the same at key 0. -/
theorem get_zero_set {α : Type} [DecidableEq α] {m : SMap α} {d : α} {k : Nat} (hk : k ≠ 0) (v : α) :
    SMap.get (m.set d k v) d 0 = SMap.get m d 0 := SMap.get_set_ne _ _ _ _ _ _ hk.symm

section Threads
variable {x : Thread} (h : ThreadForms x)
include h

theorem threadForms_wg (i : Nat) (v : W64) : ThreadForms (x.wg i v) := by
  obtain ⟨hg, hv, hp, h0, p0⟩ := h
  unfold Thread.wg
  split
  · exact ⟨hg, hv, hp, h0, p0⟩
  · exact ⟨SMap.wf_set _ _ hg, hv, hp, (get_zero_set ‹_› v).trans h0, p0⟩

theorem threadForms_wp (i : Nat) (v : BitVec 128) : ThreadForms (x.wp i v) := by
  obtain ⟨hg, hv, hp, h0, p0⟩ := h
  unfold Thread.wp
  split
  · exact ⟨hg, hv, hp, h0, p0⟩
  · exact ⟨hg, hv, SMap.wf_set _ _ hp, h0, (get_zero_set ‹_› v).trans p0⟩

theorem threadForms_wLane (i l : Nat) (v : W32) : ThreadForms (x.wLane i l v) := by
  obtain ⟨hg, hv, hp, h0, p0⟩ := h
  exact ⟨hg, SMap.wf_set _ _ hv, hp, h0, p0⟩

theorem threadForms_wLanes (i : Nat) (mask : BitVec 128) (f : Nat → W32) : ThreadForms (x.wLanes i mask f) := by
  refine List.foldlRecOn lanes _ (motive := ThreadForms) h fun y hy l _ => ?_
  split
  · exact threadForms_wLane hy i l _
  · exact hy

end Threads

/-! ### Cores -/

/-- The canonical forms of one core. -/
def CoreForm (c : Core) : Prop := Mem.wf c.spool = true ∧ ∀ u, ThreadForms (c.thread u)

theorem coreForms_iff (s : State) : CoreForms s ↔ ∀ p, CoreForm (s.core p) := Iff.rfl

section Cores
variable {c : Core} (h : CoreForm c)
include h

theorem coreForm_store (a : Nat) (bs : Bytes) : CoreForm (c.store a bs) := ⟨Mem.wf_store bs a h.1, h.2⟩

theorem coreForm_setSlot (n : Nat) (x : Slot) : CoreForm (c.setSlot n x) := h

theorem coreForm_modThread (u : Nat) {f : Thread → Thread} (hf : ∀ x, ThreadForms x → ThreadForms (f x)) :
    CoreForm (c.modThread u f) := by
  refine ⟨h.1, fun v => ?_⟩
  rw [Core.thread_modThread]
  split
  · exact hf _ (h.2 u)
  · exact h.2 v

/-- SPL.ACC stores to the spool alone. -/
theorem coreForm_foldl_accLane (type base : Nat) (x : Nat → W32) (l : List Nat) (sat : Bool) :
    CoreForm (l.foldl (accLane type base x) (c, sat)).1 :=
  List.foldlRecOn l _ (motive := fun r : Core × Bool => CoreForm r.1) h fun _ hr _ _ => coreForm_store hr _ _

theorem coreForm_foldl_store (at_ : Nat → Nat) (bs : Nat → Bytes) (l : List Nat) :
    CoreForm (l.foldl (fun c i => c.store (at_ i) (bs i)) c) :=
  List.foldlRecOn l _ (motive := CoreForm) h fun _ hr _ _ => coreForm_store hr _ _

end Cores

/-! ### The state -/

theorem coreForms_of_cores {s t : State} (h : CoreForms s) (e : t.cores = s.cores) : CoreForms t := by
  rw [coreForms_iff] at *
  simpa only [State.core, e] using h

section States
variable {s : State} (h : CoreForms s)
include h

theorem coreForms_setCore (p : Nat) {c : Core} (hc : CoreForm c) : CoreForms (s.setCore p c) := by
  rw [coreForms_iff] at *
  intro q
  rw [State.core_setCore]
  split
  · exact hc
  · exact h q

theorem coreForms_modCore (p : Nat) {f : Core → Core} (hf : ∀ c, CoreForm c → CoreForm (f c)) : CoreForms (s.modCore p f) :=
  coreForms_setCore h p (hf _ (h p))

theorem coreForms_modThread (p u : Nat) {f : Thread → Thread} (hf : ∀ x, ThreadForms x → ThreadForms (f x)) :
    CoreForms (s.modThread p u f) := coreForms_modCore h p fun _ hc => coreForm_modThread hc u hf

theorem coreForms_wg {p u : Nat} {r : BitVec 5} {v : W64} : CoreForms (s.wg p u r v) :=
  coreForms_modThread h p u fun _ hx => threadForms_wg hx _ v

theorem coreForms_wv {p u : Nat} {r : BitVec 5} {mask : BitVec 128} {f : Nat → W32} : CoreForms (s.wv p u r mask f) :=
  coreForms_modThread h p u fun _ hx => threadForms_wLanes hx _ mask f

theorem coreForms_jump {p u : Nat} {x : W64} : CoreForms (s.jump p u x) := coreForms_modThread h p u fun _ hx => hx

theorem coreForms_store {p a : Nat} {bs : Bytes} : CoreForms (s.modCore p (·.store a bs)) :=
  coreForms_modCore h p fun _ hc => coreForm_store hc a bs

theorem coreForms_setSlot {p n : Nat} {x : Slot} : CoreForms (s.modCore p (·.setSlot n x)) :=
  coreForms_modCore h p fun _ hc => coreForm_setSlot hc n x

/-! ### The issue of an instruction -/

theorem coreForms_passed (p u n : Nat) : CoreForms (s.passed p u n) :=
  coreForms_modCore h p fun _ hc => coreForm_modThread (f := (·.pass n)) hc u fun _ hx => hx

theorem coreForms_startWait (p u : Nat) (w : Wait) : CoreForms (s.startWait p u w) := coreForms_modThread h p u fun _ hx => hx

theorem coreForms_noteFault (p code : Nat) : CoreForms (s.noteFault p code) := by
  refine coreForms_of_cores h ?_
  unfold State.noteFault State.modCmdOf
  split <;> rfl

theorem coreForms_threadFault (p u code : Nat) : CoreForms (s.threadFault p u code) :=
  coreForms_noteFault (coreForms_modCore h p (f := fun c =>
    { c.modThread u (fun th => { th with st := .faulted, fault := code }) with stopped := true }) fun _ hc =>
    coreForm_modThread (f := fun th => { th with st := .faulted, fault := code }) hc u fun _ hx => hx) p code

theorem coreForms_faultThread (p u code : Nat) : CoreForms (s.faultThread p u code) := by
  have hf := coreForms_threadFault h p u code
  unfold State.faultThread
  extract_lets s1
  split
  · exact coreForms_of_cores hf (rest_cores (kept_traceRec s1 _ _ _ _ _).1)
  · exact hf

variable {p u : Nat} {codes : List Nat} {wait : Option Wait} {eff : State → State} {t : State}

/-- An instruction whose effect keeps the forms keeps them: it faults, waits or has its effect. -/
theorem coreForms_issueTo (he : ∀ x, CoreForms x → CoreForms (eff x)) (n : Nat) (begins : Bool) :
    CoreForms (issueTo p u n begins codes wait eff s) := by
  unfold issueTo
  split
  · split
    · exact coreForms_faultThread h p u _
    · split
      · exact coreForms_startWait h p u _
      · exact he _ (coreForms_passed h p u n)
  · exact h

theorem coreForms_issue (e : issue p u codes wait eff s = .next t) (he : ∀ x, CoreForms x → CoreForms (eff x)) :
    CoreForms t := by
  unfold issue onUnit at e
  split at e
  · cases e
    exact coreForms_issueTo h he 8 false
  · cases e

theorem coreForms_issueX (e : issueX p u codes wait eff s = .next t) (he : ∀ x, CoreForms x → CoreForms (eff x)) :
    CoreForms t := by
  unfold issueX onUnit at e
  split at e
  · cases e
    exact coreForms_issueTo h he 16 false
  · cases e

end States

/-! ### The instructions of CLASS 0, 1, 2, 3 and 6 -/

section Instructions
variable {s t : State} (h : CoreForms s) {p u : Nat} {w : IWord}
include h

theorem coreForms_sclOp {f : W64 → W64 → W64} (e : sclOp f p u w s = .next t) : CoreForms t :=
  coreForms_issue h e fun _ hx => coreForms_wg hx

theorem coreForms_brOp {c : W64 → W64 → Bool} (e : brOp c p u w s = .next t) : CoreForms t := by
  refine coreForms_issue h e fun x hx => ?_
  split
  · exact coreForms_jump hx
  · exact hx

theorem coreForms_splAcc (e : execSplAcc p u w s = .next t) : CoreForms t := by
  refine coreForms_issue h e fun x hx => ?_
  exact coreForms_modThread (coreForms_setCore hx p (coreForm_foldl_accLane (hx p) ..)) p u fun _ ht => ht

theorem coreForms_sltUnbind (e : execSltUnbind p u w s = .next t) : CoreForms t := by
  refine coreForms_issue h e fun x hx => ?_
  split
  · exact coreForms_setSlot hx
  · exact hx

/-- The slot that a vector load or store takes. -/
theorem coreForms_takeSlot {takes : Bool} {n : Nat} {y : Slot} :
    CoreForms (if takes then s.modCore p (·.setSlot n y) else s) := by
  split
  · exact coreForms_setSlot h
  · exact h

theorem coreForms_vecLd (e : execVecLd p u w s = .next t) : CoreForms t :=
  coreForms_issue h e fun _ hx => coreForms_wv (coreForms_takeSlot hx)

theorem coreForms_vecSt (e : execVecSt p u w s = .next t) : CoreForms t :=
  coreForms_issue h e fun _ hx => coreForms_modCore (coreForms_takeSlot hx) p fun _ hc => coreForm_foldl_store hc ..

theorem coreForms_vecBin {f : W32 → W32 → W32} (e : vecBin f p u w s = .next t) : CoreForms t :=
  coreForms_issue h e fun _ hx => coreForms_wv hx

theorem coreForms_vecUn {f : W32 → W32} (e : vecUn f p u w s = .next t) : CoreForms t :=
  coreForms_issue h e fun _ hx => coreForms_wv hx

theorem coreForms_vecReduce {f : W32 → W32 → W32} {z : W32} (e : vecReduce f z p u w s = .next t) : CoreForms t :=
  coreForms_issue h e fun _ hx => coreForms_wg hx

theorem coreForms_vecCmp (e : execVecCmp p u w s = .next t) : CoreForms t :=
  coreForms_issue h e fun _ hx => coreForms_modThread hx p u fun _ ht => threadForms_wp ht ..

end Instructions

/-- Every instruction of these classes keeps the forms. -/
theorem coreForms_exec {s t : State} {c : Instr} {w : W64} {ws : List W64} (h : CoreForms s) (he : encodePoilo c = some (w :: ws))
    (hc : (w.extractLsb' 59 4).toNat ∈ [0, 1, 2, 3, 6]) (e : exec c s = .next t) : CoreForms t := by
  cases c with
  | sclAdd | sclSub | sclMul | sclMulh | sclAnd | sclOr | sclXor | sclShl | sclShr | sclSra | sclMin | sclMax | sclMinu | sclMaxu
  | sclSlt | sclSltu => exact coreForms_sclOp h e
  | sclLi => exact coreForms_issueX h e fun _ hx => coreForms_wg hx
  | brBeq | brBne | brBlt | brBltu => exact coreForms_brOp h e
  | brBge => exact coreForms_brOp (c := fun a b => !a.slt b) h e
  | brBgeu => exact coreForms_brOp (c := fun a b => !a.ult b) h e
  | brJ | brJr => exact coreForms_issue h e fun _ hx => coreForms_jump hx
  | brCall => exact coreForms_issue h e fun _ hx => coreForms_jump (coreForms_wg hx)
  | splLd | splLds | sltState => exact coreForms_issue h e fun _ hx => coreForms_wg hx
  | splSt | vecCvtmx => exact coreForms_issue h e fun _ hx => coreForms_store hx
  | splAcc => exact coreForms_splAcc h e
  | sltBind | sltFill | sltRel => exact coreForms_issue h e fun _ hx => coreForms_setSlot hx
  | sltUnbind => exact coreForms_sltUnbind h e
  | vecLd => exact coreForms_vecLd h e
  | vecSt => exact coreForms_vecSt h e
  | vecAdd | vecSub | vecMul | vecMax | vecMin => exact coreForms_vecBin h e
  | vecExp | vecLog | vecRcp | vecRsqrt | vecTanh | vecSig | vecI2f | vecUnif => exact coreForms_vecUn h e
  | vecRsum | vecRmax => exact coreForms_vecReduce h e
  | vecFma | vecSel | vecBcast | vecPhilox => exact coreForms_issue h e fun _ hx => coreForms_wv hx
  | vecCmp => exact coreForms_vecCmp h e
  | _ =>
    -- The command has no words, or words of another class.
    cases he <;> rw [word0_class] at hc <;> exact absurd hc (by decide)

/-- Settles O60: the front command is an instruction of these classes, and taking it from the queue changes no core. -/
theorem coreFormsKept : Obligations.CoreFormsKept := by
  intro s t c rest w ws h hp he hc e
  have e' : exec c { s with pending := rest } = .next t := by
    unfold step at e
    rwa [hp] at e
  exact coreForms_exec (coreForms_of_cores (t := { s with pending := rest }) h rfl) he hc e'

end Sys2Proof.Proofs
end

section
/-!
Proofs: SPL.ACC (03 R82; 04 R130).
-/
namespace Sys2Proof.Proofs
open Sys2Proof.Machine Sys2Proof.Safety Sys2Proof.Laws

/-! ### Bytes of a memory -/

theorem bytes_congr {m m' : Mem} (n : Nat) {a : Nat} (h : ∀ x, a ≤ x → x < a + n → m.byte x = m'.byte x) :
    m.bytes a n = m'.bytes a n := by
  induction n generalizing a with
  | zero => rfl
  | succ n ih => rw [Mem.bytes, Mem.bytes, h a (by omega) (by omega), ih fun x hl hu => h x (by omega) (by omega)]

theorem byte_store_outside (m : Mem) {a : Nat} {bs : Bytes} {x : Nat} (h : x < a ∨ a + bs.length ≤ x) :
    (m.store a bs).byte x = m.byte x := by
  rw [Mem.byte_store, if_neg (by omega)]

theorem byte_store_at (m : Mem) (a : Nat) {bs : Bytes} {i : Nat} (h : i < bs.length) :
    (m.store a bs).byte (a + i) = bs.getD i 0 := by
  rw [Mem.byte_store, if_pos (by omega), Nat.add_sub_cancel_left]

/-! ### Elements of a run -/

theorem length_accElem {type : Nat} (ht : type < 3) (old : Bytes) (x : W32) : (accElem type old x).1.length = accSize type := by
  interval_cases type <;> exact length_leBytes ..

/-- Runs of `k` bytes at two places of a row lie apart. -/
theorem elems_apart {k j l : Nat} (h : j ≠ l) : k * j + k ≤ k * l ∨ k * l + k ≤ k * j := by
  rcases Nat.lt_or_gt_of_ne h with hl | hl
  · exact .inl (Nat.mul_succ k j ▸ Nat.mul_le_mul_left k hl)
  · exact .inr (Nat.mul_succ k l ▸ Nat.mul_le_mul_left k hl)

section AccLanes
variable {type : Nat} (ht : type < 3) (base : Nat) (x : Nat → W32) (c : Core) (sat : Bool)

/-- The sum of element `l` with its lane, as SPL.ACC stores it, and whether it saturated. -/
def laneSum (type base : Nat) (x : Nat → W32) (c : Core) (l : Nat) : Bytes × Bool :=
  accElem type (c.load (base + accSize type * l) (accSize type)) (x l)

/-- A lane changes nothing of the core but the spool. -/
theorem foldl_accLane_eq (type : Nat) (ls : List Nat) :
    ∃ m, (ls.foldl (accLane type base x) (c, sat)).1 = { c with spool := m } := by
  refine List.foldlRecOn ls _ (motive := fun r : Core × Bool => ∃ m, r.1 = { c with spool := m }) ⟨_, rfl⟩ ?_
  rintro ⟨_, b⟩ ⟨m, rfl⟩ l -
  exact ⟨_, rfl⟩

include ht

/-- A lane leaves the sums of the others as they are. -/
theorem laneSum_accLane {j l : Nat} (h : j ≠ l) :
    laneSum type base x (accLane type base x (c, sat) l).1 j = laneSum type base x c j := by
  have apart := elems_apart (k := accSize type) h
  unfold laneSum
  congr 1
  refine bytes_congr _ fun y hl hu => byte_store_outside _ ?_
  rw [length_accElem ht]
  omega

/-- A byte of an element after SPL.ACC: of its sum where its lane is among those that `ls` lists, and as it was where it is not. -/
theorem byte_foldl_accLane {ls : List Nat} (hn : ls.Nodup) (j : Nat) {i : Nat} (hi : i < accSize type) :
    (ls.foldl (accLane type base x) (c, sat)).1.spool.byte (base + accSize type * j + i) =
      if j ∈ ls then (laneSum type base x c j).1.getD i 0 else c.spool.byte (base + accSize type * j + i) := by
  induction ls generalizing c sat with
  | nil => rfl
  | cons l ls ih =>
    obtain ⟨hl, hls⟩ := List.nodup_cons.1 hn
    have len := length_accElem ht (c.load (base + accSize type * l) (accSize type)) (x l)
    rw [List.foldl_cons, ih _ _ hls]
    by_cases h : j = l
    · subst h
      rw [if_neg hl, if_pos List.mem_cons_self]
      exact byte_store_at _ _ (by rwa [len])
    · have apart := elems_apart (k := accSize type) h
      have other : (accLane type base x (c, sat) l).1.spool.byte (base + accSize type * j + i) =
          c.spool.byte (base + accSize type * j + i) := byte_store_outside _ (by rw [len]; omega)
      rw [laneSum_accLane ht base x c sat h, other]
      simp only [List.mem_cons, h, false_or]

/-- SPL.ACC writes no byte outside its elements. -/
theorem byte_foldl_accLane_outside {ls : List Nat} {y : Nat}
    (h : ∀ l ∈ ls, y < base + accSize type * l ∨ base + accSize type * l + accSize type ≤ y) :
    (ls.foldl (accLane type base x) (c, sat)).1.spool.byte y = c.spool.byte y := by
  refine List.foldlRecOn ls _ (motive := fun r : Core × Bool => r.1.spool.byte y = c.spool.byte y) rfl fun r hr l hl => ?_
  refine (byte_store_outside _ ?_).trans hr
  rw [length_accElem ht]
  exact h l hl

/-- SPL.ACC saturates where the sum of a lane does. -/
theorem sat_foldl_accLane {ls : List Nat} (hn : ls.Nodup) :
    (ls.foldl (accLane type base x) (c, sat)).2 = (sat || ls.any fun l => (laneSum type base x c l).2) := by
  induction ls generalizing c sat with
  | nil => simp
  | cons l ls ih =>
    obtain ⟨hl, hls⟩ := List.nodup_cons.1 hn
    have same : (ls.any fun j => (laneSum type base x (accLane type base x (c, sat) l).1 j).2) =
        ls.any fun j => (laneSum type base x c j).2 := by
      rw [Bool.eq_iff_iff, List.any_eq_true, List.any_eq_true]
      exact exists_congr fun j => and_congr_right fun hj => by
        rw [laneSum_accLane ht base x c sat fun e : j = l => hl (e ▸ hj)]
    rw [List.foldl_cons, ih _ _ hls, same, List.any_cons, ← Bool.or_assoc]
    rfl

end AccLanes

/-! ### The instruction -/

/-- An instruction whose checks and wait let it pass has its effect. -/
theorem issue_passes {s : State} {p u : Nat} (h : Issues s p u 8) {codes : List Nat} (hc : codes = []) {wait : Option Wait}
    (hw : wait = none) (eff : State → State) : issue p u codes wait eff s = .next (eff (s.passed p u 8)) := by
  rw [hc, hw]
  exact issue_runs h eff

/-- Fields that the instruction does not use are 0 (04 R127). -/
theorem unused_eq_nil {w : IWord} {ua ub uc : Bool} {modMask : BitVec 6} {immMask : BitVec 32} (ha : ua = true ∨ w.a = 0)
    (hb : ub = true ∨ w.b = 0) (hc : uc = true ∨ w.c = 0) (hm : w.mod &&& ~~~modMask = 0) (hi : w.imm &&& ~~~immMask = 0) :
    unused w ua ub uc modMask immMask = [] := by
  have field : ∀ {b : Bool} {r : BitVec 5}, b = true ∨ r = 0 → (!b && r != 0) = false := by
    rintro b r (rfl | rfl) <;> simp
  rw [unused, field ha, field hb, field hc, hm, hi]
  rfl

/-- An aligned access to bytes that are in the spool, on and settled breaks no rule. -/
theorem splCodes_eq_nil {s : State} {p a n : Nat} (ha : a % n = 0) (h : SpoolOk (s.core p) a n) : splCodes s p a n n = [] := by
  obtain ⟨hend, hon, -⟩ := h
  simp [splCodes, codeIf, ha, Core.spoolFaults, hon, spoolSize, hend]

theorem bankWait_eq_none {s : State} {p a n : Nat} (h : SpoolOk (s.core p) a n) : bankWait s p a n = none := by
  obtain ⟨-, -, hset⟩ := h
  simp [bankWait, hset]

section SplAcc
variable (s : State) (p u : Nat) (w : IWord)

/-- The lanes that pC selects. -/
def accLanes : List Nat := lanes.filter fun l => ((s.thread p u).rp w.c.toNat).getLsbD l

theorem nodup_accLanes : (accLanes s p u w).Nodup := List.nodup_range.filter _

theorem mem_accLanes {l : Nat} : l ∈ accLanes s p u w ↔ l < 128 ∧ ((s.thread p u).rp w.c.toNat).getLsbD l = true := by
  rw [accLanes, List.mem_filter, lanes, List.mem_range]

/-- The core after the sums, and whether one saturated. -/
def accResult : Core × Bool :=
  (accLanes s p u w).foldl (accLane w.mod.toNat (spl s p u w) (s.rv p u w.a)) ((s.passed p u 8).core p, false)

/-- The state after SPL.ACC. -/
def accDone : State :=
  ((s.passed p u 8).setCore p (accResult s p u w).1).modThread p u fun th => { th with sat := th.sat || (accResult s p u w).2 }

theorem modBits_1_0 {w : IWord} (hm : w.mod.toNat < 3) : modBits w 1 0 = w.mod.toNat := by
  show w.mod.toNat / 2 ^ 0 % 2 ^ 2 = _
  omega

theorem splAcc_codes {s : State} {p u : Nat} {w : IWord} (hm : w.mod.toNat < 3) (ha : w.a.toNat < 16) (hc : w.c.toNat < 8)
    (hal : spl s p u w % (128 * accSize w.mod.toNat) = 0) (hok : SpoolOk (s.core p) (spl s p u w) (128 * accSize w.mod.toNat)) :
    unused w true true true 0b000011 0xFFFFFFFF ++ vecReg w.a ++ predReg w.c ++ codeIf (w.mod.toNat = 3) fIllegal ++
      splCodes s p (spl s p u w) (128 * accSize w.mod.toNat) (128 * accSize w.mod.toNat) = [] := by
  have mod : w.mod &&& ~~~(0b000011 : BitVec 6) = 0 := by
    have small : ∀ m : BitVec 6, m.toNat < 3 → m &&& ~~~(0b000011 : BitVec 6) = 0 := by decide
    exact small _ hm
  have imm : w.imm &&& ~~~(0xFFFFFFFF : BitVec 32) = 0 := BitVec.and_zero
  rw [unused_eq_nil (.inl rfl) (.inl rfl) (.inl rfl) mod imm, splCodes_eq_nil hal hok]
  simp [vecReg, predReg, codeIf, ha, hc, show w.mod.toNat ≠ 3 by omega]

theorem exec_splAcc {s : State} {p u : Nat} {w : IWord} (h : Issues s p u 8) (hm : w.mod.toNat < 3) (ha : w.a.toNat < 16)
    (hc : w.c.toNat < 8) (hal : spl s p u w % (128 * accSize w.mod.toNat) = 0)
    (hok : SpoolOk (s.core p) (spl s p u w) (128 * accSize w.mod.toNat)) :
    exec (.splAcc p u w) s = .next (accDone s p u w) := by
  show execSplAcc p u w s = _
  unfold execSplAcc
  extract_lets type n a mask
  have e : type = w.mod.toNat := modBits_1_0 hm
  clear_value type
  subst e
  exact issue_passes h (splAcc_codes hm ha hc hal hok) (bankWait_eq_none hok) _

/-- The sums read the spool as the instruction finds it. -/
theorem laneSum_passed (type base : Nat) (x : Nat → W32) (l : Nat) :
    laneSum type base x ((s.passed p u 8).core p) l = laneSum type base x (s.core p) l := by
  rw [laneSum, passed_load, laneSum]

theorem spool_passed : ((s.passed p u 8).core p).spool = (s.core p).spool := by simp

theorem core_accDone : (accDone s p u w).core p =
    (accResult s p u w).1.modThread u fun th => { th with sat := th.sat || (accResult s p u w).2 } := by
  simp [accDone, State.modThread]

theorem spool_accDone : ((accDone s p u w).core p).spool = (accResult s p u w).1.spool := by
  rw [core_accDone]
  rfl

/-- Outside the spool and the thread, SPL.ACC changes nothing but that the thread issued last. -/
theorem accDone_rest : CoreOnly s (accDone s p u w) p ∧ OthersIdle s (accDone s p u w) p u ∧
    SpoolRest (s.core p) ((accDone s p u w).core p) ∧
    (accDone s p u w).thread p u = { s.thread p u with
      pc := (s.thread p u).pc + 8, sat := (s.thread p u).sat || (accResult s p u w).2 } := by
  obtain ⟨m, hm⟩ := foldl_accLane_eq (spl s p u w) (s.rv p u w.a) ((s.passed p u 8).core p) false w.mod.toNat (accLanes s p u w)
  have core : (accDone s p u w).core p = { (s.passed p u 8).core p with spool := m }.modThread u
      fun th => { th with sat := th.sat || (accResult s p u w).2 } := by
    rw [core_accDone]
    exact congrArg (Core.modThread · u _) hm
  have thread : ∀ v, { (s.passed p u 8).core p with spool := m }.thread v =
      if v = u then (s.thread p u).pass 8 else s.thread p v := fun v => by
    show ((s.passed p u 8).core p).thread v = _
    rw [passed_core, if_pos rfl, Core.thread_issuedBy]
    exact Core.thread_modThread ..
  refine ⟨⟨rfl, fun q hq => by simp [accDone, State.modThread, hq]⟩, ⟨?_, fun v hv => ?_⟩, ?_, ?_⟩
  · rw [core, passed_core, if_pos rfl]
    rfl
  · rw [State.thread, core, Core.thread_modThread, if_neg hv, thread, if_neg hv]
  · rw [core, passed_core, if_pos rfl]
    rfl
  · rw [State.thread, core, Core.thread_modThread, if_pos rfl, thread, if_pos rfl]
    rfl

end SplAcc

/-- Settles O5: the elements lie apart, so each lane adds to the element that the instruction found. -/
theorem spoolAccumulate : Obligations.SpoolAccumulate := by
  intro p u w s h hm ha hc hal hok
  obtain ⟨core, idle, rest, thread⟩ := accDone_rest s p u w
  refine ⟨_, exec_splAcc h hm ha hc hal hok, core, idle, rest, by rw [thread], fun l i hl hi => ?_, fun x hx => ?_, ?_⟩
  · rw [spool_accDone, accResult, byte_foldl_accLane hm _ _ _ _ (nodup_accLanes s p u w) l hi, laneSum_passed, spool_passed]
    exact if_congr ((mem_accLanes s p u w).trans (and_iff_right hl)) rfl rfl
  · rw [spool_accDone, accResult, byte_foldl_accLane_outside hm, spool_passed]
    intro l hl
    have last : accSize w.mod.toNat * (l + 1) ≤ accSize w.mod.toNat * 128 :=
      Nat.mul_le_mul_left _ ((mem_accLanes s p u w).1 hl).1
    rw [Nat.mul_succ] at last
    omega
  · rw [thread, accResult, sat_foldl_accLane hm _ _ _ _ (nodup_accLanes s p u w), accLanes, List.any_filter, Bool.false_or]
    simp only [laneSum_passed]
    rfl

end Sys2Proof.Proofs
end

section
/-!
Proofs: the SLT instructions (03 R87 to R90; 04 R131), and the fault of a thread (04 R166, R167).
-/
namespace Sys2Proof.Proofs
open Sys2Proof.Machine Sys2Proof.Safety Sys2Proof.Laws

/-! ### A thread that faults -/

theorem core_noteFault (s : State) (p code q : Nat) : (s.noteFault p code).core q = s.core q := by
  unfold State.noteFault State.modCmdOf
  split <;> rfl

theorem core_faultThread (s : State) (p u code q : Nat) : (s.faultThread p u code).core q = (s.threadFault p u code).core q := by
  unfold State.faultThread
  extract_lets s1
  split
  · exact core_of_rest (kept_traceRec s1 _ _ _ _ _).1 q
  · rfl

theorem faulted_faultThread (s : State) (p u code : Nat) : Faulted (s.faultThread p u code) p u code := by
  have core : (s.faultThread p u code).core p =
      { (s.core p).modThread u (fun th => { th with st := .faulted, fault := code }) with stopped := true } := by
    rw [core_faultThread, State.threadFault, core_noteFault, State.core_modCore, if_pos rfl]
  have thread : (s.faultThread p u code).thread p u = { s.thread p u with st := .faulted, fault := code } := by
    rw [State.thread, core]
    exact (Core.thread_modThread (s.core p) u u fun th => { th with st := .faulted, fault := code }).trans (if_pos rfl)
  exact ⟨by rw [thread], by rw [thread], by rw [core]⟩

/-! ### The slot that an SLT instruction names -/

/-- Bits outside a mask are 0. -/
theorem and_not_mask {x m : BitVec 32} (h : ∀ i < 32, m.getLsbD i = false → x.toNat.testBit i = false) : x &&& ~~~m = 0 := by
  ext i hi
  have zero : (0 : BitVec 32)[i] = false := BitVec.getElem_zero hi
  rw [BitVec.getElem_and, BitVec.getElem_not, zero]
  cases hm : m[i] with
  | true => rw [Bool.not_true, Bool.and_false]
  | false =>
    have hx : x[i] = false := h i hi (by rwa [BitVec.getLsbD_eq_getElem hi])
    rw [hx, Bool.false_and]

section Slots
variable {p u n : Nat} {w : IWord} {s : State}

theorem sltNo_eq (hi : w.imm.toNat = n) (hn : n < 32) : sltNo w = n := by
  show w.imm.toNat / 2 ^ 0 % 2 ^ 5 = n
  omega

theorem slt_imm (hi : w.imm.toNat = n) (hn : n < 32) : w.imm &&& ~~~(0x1F : BitVec 32) = 0 := by
  refine and_not_mask fun i hi32 hm => Nat.testBit_lt_two_pow ?_
  have five : 5 ≤ i := by
    have mask : ∀ i < 32, (0x1F : BitVec 32).getLsbD i = false → 5 ≤ i := by decide
    exact mask i hi32 hm
  calc w.imm.toNat < 2 ^ 5 := by omega
    _ ≤ 2 ^ i := Nat.pow_le_pow_right (by decide) five

/-- The fields that no SLT instruction uses are 0. -/
theorem slt_unused (hi : w.imm.toNat = n) (hn : n < 32) (hc : w.c = 0) (hm : w.mod = 0) (hb : w.b = 0) {ua : Bool}
    (ha : ua = true ∨ w.a = 0) : unused w ua false false 0 0x1F = [] :=
  unused_eq_nil ha (.inr hb) (.inr hc) (by rw [hm]; rfl) (slt_imm hi hn)

theorem codeIf_false {b : Bool} (h : b = false) (code : Nat) : codeIf b code = [] := by rw [codeIf, h]; rfl

theorem slotBound_eq_nil (hb : ((s.core p).slot n).bound = true) : slotBound s p n = [] := codeIf_false (by rw [hb]; rfl) _

/-- An SLT instruction that sets slot `n` to `x`. -/
theorem slot_set (s : State) (p u n : Nat) (x : Slot) :
    RanOn s ((s.passed p u 8).modCore p (·.setSlot n x)) p u 8 ∧
      SlotRest (s.core p) (((s.passed p u 8).modCore p (·.setSlot n x)).core p) ∧
      SlotBecame (s.core p) (((s.passed p u 8).modCore p (·.setSlot n x)).core p) n x := by
  refine ⟨(ranOn_engineWork (f := (·.setSlot n x)) rfl).1, ?_, ?_, fun m hm => ?_⟩
  · rw [State.core_modCore, if_pos rfl, passed_core, if_pos rfl]
    rfl
  · rw [State.core_modCore, if_pos rfl, Core.slot_setSlot, if_pos rfl]
  · rw [State.core_modCore, if_pos rfl, Core.slot_setSlot, if_neg hm, passed_slot]

/-- An instruction that sets slot `n` to `x` where its checks let it pass. -/
theorem slot_set_of_issue (h : Issues s p u 8) {codes : List Nat} (hc : codes = []) (n : Nat) (x : Slot) :
    ∃ t, issue p u codes none (fun s' => s'.modCore p (·.setSlot n x)) s = .next t ∧ RanOn s t p u 8 ∧
      SlotRest (s.core p) (t.core p) ∧ SlotBecame (s.core p) (t.core p) n x :=
  ⟨_, issue_passes h hc rfl _, slot_set s p u n x⟩

/-! ### SLT.BIND -/

section Bind
variable {k : Nat} (hn : n < 32) (hk : k < 256) (hi : w.imm.toNat = n + 256 * k)
include hn hi

include hk in
theorem bind_imm : w.imm &&& ~~~(0xFF1F : BitVec 32) = 0 := by
  refine and_not_mask fun i hi32 hm => ?_
  have bits : i = 5 ∨ i = 6 ∨ i = 7 ∨ 16 ≤ i := by
    have mask : ∀ i < 32, (0xFF1F : BitVec 32).getLsbD i = false → i = 5 ∨ i = 6 ∨ i = 7 ∨ 16 ≤ i := by decide
    exact mask i hi32 hm
  rcases bits with rfl | rfl | rfl | high
  iterate 3
    rw [Nat.testBit_eq_decide_div_mod_eq, decide_eq_false_iff_not]
    omega
  refine Nat.testBit_lt_two_pow ?_
  calc w.imm.toNat < 2 ^ 16 := by omega
    _ ≤ 2 ^ i := Nat.pow_le_pow_right (by decide) high

theorem bind_sltNo : sltNo w = n := by
  show w.imm.toNat / 2 ^ 0 % 2 ^ 5 = n
  omega

include hk in
theorem bind_count : immBits w 15 8 = k := by
  show w.imm.toNat / 2 ^ 8 % 2 ^ 8 = k
  omega

end Bind

/-- A binding that keeps the rules of R87. -/
theorem bindBad_eq_false {c : Core} {base len k : Nat} (hk : 1 ≤ k) (hb : base % 256 = 0) (hl : len % 256 = 0) (hlo : 256 ≤ len)
    (hhi : len ≤ 65536) (he : base + len ≤ 0x80000)
    (ho : ∀ e ∈ c.slots, e.1 ≠ n → e.2.bound = true → e.2.base + e.2.len ≤ base ∨ base + len ≤ e.2.base) :
    bindBad c n base len k = false := by
  have apart : (c.slots.any fun e => e.1 ≠ n && e.2.bound && base < e.2.base + e.2.len && e.2.base < base + len) = false := by
    rw [List.any_eq_false]
    rintro e hm
    simp only [Bool.and_eq_true, decide_eq_true_eq]
    rintro ⟨⟨⟨hne, hbd⟩, below⟩, above⟩
    have := ho e hm hne hbd
    omega
  have fits : ¬spoolSize < base + len := by
    unfold spoolSize
    omega
  simp only [bindBad, apart, Bool.or_false, Bool.or_eq_false_iff, decide_eq_false_iff_not]
  omega

theorem sltBind_binds (h : Issues s p u 8) (hn : n < 32) (hc : w.c = 0) (hm : w.mod = 0) {k : Nat} (hk : k < 256)
    (hi : w.imm.toNat = n + 256 * k) (hok : bindBad (s.core p) n (s.rg p u w.a).toNat (s.rg p u w.b).toNat k = false)
    (he : ((s.core p).slot n).bound = true → ((s.core p).slot n).st = .empty) :
    ∃ t, exec (.sltBind p u w) s = .next t ∧ RanOn s t p u 8 ∧ SlotRest (s.core p) (t.core p) ∧
      SlotBecame (s.core p) (t.core p) n
        { bound := true, base := (s.rg p u w.a).toNat, len := (s.rg p u w.b).toNat, consume := k } := by
  have free : (((s.core p).slot n).bound && ((s.core p).slot n).st ≠ .empty) = false := by
    simpa using he
  show ∃ t, execSltBind p u w s = .next t ∧ _
  unfold execSltBind
  rw [bind_sltNo hn hi, bind_count hn hk hi]
  refine slot_set_of_issue h ?_ n _
  rw [unused_eq_nil (.inl rfl) (.inl rfl) (.inr hc) (by rw [hm]; rfl) (bind_imm hn hk hi), codeIf_false hok, codeIf_false free]
  rfl

/-! ### SLT.UNBIND, SLT.STATE, SLT.FILL and SLT.REL -/

variable (h : Issues s p u 8) (hn : n < 32) (hc : w.c = 0) (hm : w.mod = 0) (hi : w.imm.toNat = n) (hb : w.b = 0)
include h hn hc hm hi hb

theorem exec_sltUnbind (ha : w.a = 0) (he : ((s.core p).slot n).bound = true → ((s.core p).slot n).st = .empty) :
    exec (.sltUnbind p u w) s = .next (if ((s.core p).slot n).bound then
      (s.passed p u 8).modCore p (·.setSlot n { (s.core p).slot n with bound := false }) else s.passed p u 8) := by
  have free : (((s.core p).slot n).bound && ((s.core p).slot n).st ≠ .empty) = false := by
    simpa using he
  show execSltUnbind p u w s = _
  unfold execSltUnbind
  rw [sltNo_eq hi hn]
  refine issue_passes h ?_ rfl _
  rw [slt_unused hi hn hc hm hb (.inr ha), codeIf_false free]
  rfl

theorem sltUnbind_unbinds (ha : w.a = 0) (he : ((s.core p).slot n).bound = true → ((s.core p).slot n).st = .empty) :
    ∃ t, exec (.sltUnbind p u w) s = .next t ∧ RanOn s t p u 8 ∧ SlotRest (s.core p) (t.core p) ∧
      SlotBecame (s.core p) (t.core p) n { (s.core p).slot n with bound := false } := by
  refine ⟨_, exec_sltUnbind h hn hc hm hi hb ha he, ?_⟩
  cases hbd : ((s.core p).slot n).bound with
  | true => exact slot_set s p u n _
  | false =>
    refine ⟨ranOn_passed s p u 8, ?_, (passed_slot s p u 8 n).trans ?_, fun m _ => passed_slot s p u 8 m⟩
    · show SlotRest _ ((s.passed p u 8).core p)
      rw [passed_core, if_pos rfl]
      rfl
    · rw [← hbd]

theorem sltUnbind_faults (ha : w.a = 0) (hbd : ((s.core p).slot n).bound = true) (he : ((s.core p).slot n).st ≠ .empty) :
    ∃ t, exec (.sltUnbind p u w) s = .next t ∧ Faulted t p u 0x07 := by
  have busy : (((s.core p).slot n).bound && ((s.core p).slot n).st ≠ .empty) = true := by
    simp [hbd, he]
  refine ⟨_, issue_faults h (code := fSltBusy) ?_ none _, faulted_faultThread s p u fSltBusy⟩
  rw [sltNo_eq hi hn, busy, slt_unused hi hn hc hm hb (.inr ha)]
  rfl

theorem sltState_reads :
    ∃ t, exec (.sltState p u w) s = .next t ∧ WritesG s t p u 8 w.a.toNat ((s.core p).slot n).word := by
  refine ⟨_, issue_passes h (slt_unused hi hn hc hm hb (.inl rfl)) rfl _, ?_⟩
  rw [sltNo_eq hi hn]
  exact writesG_of_passed ..

theorem sltFill_fills (hbd : ((s.core p).slot n).bound = true) (hst : ((s.core p).slot n).st = .filling)
    (hu : ((s.core p).slot n).user = .thread u) (hl : (s.rg p u w.a).toNat ≤ ((s.core p).slot n).len) :
    ∃ t, exec (.sltFill p u w) s = .next t ∧ RanOn s t p u 8 ∧ SlotRest (s.core p) (t.core p) ∧
      SlotBecame (s.core p) (t.core p) n (((s.core p).slot n).endFill (s.rg p u w.a).toNat) := by
  show ∃ t, execSltFill p u w s = .next t ∧ _
  unfold execSltFill
  rw [sltNo_eq hi hn]
  refine slot_set_of_issue h ?_ n _
  rw [slt_unused hi hn hc hm hb (.inl rfl), slotBound_eq_nil hbd, codeIf_false (by simp [hst, hu, hl])]
  rfl

theorem sltRel_releases (ha : w.a = 0) (hbd : ((s.core p).slot n).bound = true) (hst : ((s.core p).slot n).st = .draining)
    (hu : ((s.core p).slot n).user = .thread u) :
    ∃ t, exec (.sltRel p u w) s = .next t ∧ RanOn s t p u 8 ∧ SlotRest (s.core p) (t.core p) ∧
      SlotBecame (s.core p) (t.core p) n ((s.core p).slot n).endUse := by
  show ∃ t, execSltRel p u w s = .next t ∧ _
  unfold execSltRel
  rw [sltNo_eq hi hn]
  refine slot_set_of_issue h ?_ n _
  rw [slt_unused hi hn hc hm hb (.inr ha), slotBound_eq_nil hbd, codeIf_false (by simp [hst, hu])]
  rfl

end Slots

/-- Settles O6: each instruction by the slot that it sets. -/
theorem slotInstructions : Obligations.SlotInstructions := by
  intro p u n w s h hn hc hm
  refine ⟨fun k hi hk1 hk hb hl hlo hhi hend ho he => ?_, fun hi hb => ⟨?_, ?_, ?_, ?_, ?_⟩⟩
  · exact sltBind_binds h hn hc hm hk hi (bindBad_eq_false hk1 hb hl hlo hhi hend ho) he
  · exact fun ha he => sltUnbind_unbinds h hn hc hm hi hb ha he
  · exact fun ha hbd hst => sltUnbind_faults h hn hc hm hi hb ha hbd hst
  · exact sltState_reads h hn hc hm hi hb
  · exact fun hbd hst hu hl => sltFill_fills h hn hc hm hi hb hbd hst hu hl
  · exact fun ha hbd hst hu => sltRel_releases h hn hc hm hi hb ha hbd hst hu

end Sys2Proof.Proofs
end

section
/-!
Proofs: STR_TRANSFER_ISSUE and TRANSFER_REPLY (03 R100 to R104, R107, R110).
-/
namespace Sys2Proof.Proofs
open Sys2Proof.Machine Sys2Proof.Safety Sys2Proof.Laws

/-! ### The next transfer of a plain stream that reads the vault (03 R100, R101) -/

/-- The stream that issues next is running. -/
theorem running_of_nextStream {s : State} {p n : Nat} (h : s.nextStream p = some n) : ((s.core p).stream n).st = .running := by
  have he : s.eligible p n = true := List.find?_some (p := fun n => s.eligible p n) h
  unfold State.eligible at he
  extract_lets x at he
  have hf : x.forming = true := by
    by_contra hn
    simp [Bool.not_eq_true _ ▸ hn] at he
  simp only [Stream.forming, Bool.and_eq_true, decide_eq_true_eq] at hf
  obtain ⟨⟨⟨hst, -⟩, -⟩, -⟩ := hf
  exact hst

theorem length_fars (x : Stream) (j k : Nat) : (x.fars j k).length = k := by simp [Stream.fars]

/-- A stream whose near side is no slot waits for none. -/
theorem slotReady_plain {s : State} {p n : Nat} {x : Stream} {ms : List Nat} (h : dNearSlot x.desc = false) :
    s.slotReady p n x ms = .ready := by
  rw [State.slotReady, h]
  rfl

/-- Stream `x` with transfer `o` outstanding, in which its next elements move. -/
def issued (x : Stream) (o : Xfer) : Stream :=
  { x with nextElem := x.nextElem + o.count, out := x.out ++ [o], slotWait := none }

/-- Core `c` after its stream `n` has issued transfer `o`. -/
def streamIssued (n : Nat) (o : Xfer) (c : Core) : Core :=
  { (c.setStream n (issued (c.stream n) o)).notePeak with lastStream := n }

/-- State `s` after stream `n` of core `p` has issued transfer `o` to the vault. -/
def vaultIssued (s : State) (p n : Nat) (o : Xfer) : State :=
  (s.queueWork (stackOf (o.pas.headD 0)) (.xfer p n o.start)).modCore p (streamIssued n o)

/-- A transfer of `k` elements of stream `x` that has no reply yet. -/
def IsNext (x : Stream) (k : Nat) (o : Xfer) : Prop := o.start = x.nextElem ∧ o.count = k ∧ o.reply = none

theorem issueXfer_vault {s : State} {p n : Nat} (h : dNearSlot ((s.core p).stream n).desc = false) (ms : List Nat)
    (fars : List Int) :
    ∃ o, IsNext ((s.core p).stream n) fars.length o ∧ s.issueXfer p n .vault ms fars = vaultIssued s p n o := by
  generalize ht : s.issueXfer p n .vault ms fars = t
  unfold State.issueXfer at ht
  extract_lets x o k s1 o2 copy r s2 next src y s3 ends at ht
  have h1 : s1 = s := if_neg (by rw [slotReady_plain h]; decide)
  have he : ends = false := by simp only [ends, x, h, Bool.false_and]
  rw [if_neg (by rw [he]; decide)] at ht
  clear_value s1
  subst h1
  exact ⟨r.2, ⟨rfl, rfl, rfl⟩, ht.symm⟩

section VaultIssued
variable (s : State) (p n : Nat) (o : Xfer)

theorem core_vaultIssued : (vaultIssued s p n o).core p = streamIssued n o (s.core p) := by
  rw [vaultIssued, State.core_modCore, if_pos rfl]
  rfl

theorem stream_vaultIssued (m : Nat) : ((vaultIssued s p n o).core p).stream m =
    if m = n then issued ((s.core p).stream n) o else (s.core p).stream m := by
  rw [core_vaultIssued]
  exact Core.stream_setStream ..

/-- The stack holds the request behind the others. -/
theorem queue_vaultIssued : ((vaultIssued s p n o).stack (stackOf (o.pas.headD 0))).queue =
    (s.stack (stackOf (o.pas.headD 0))).queue ++ [.xfer p n o.start] := by
  have h : (vaultIssued s p n o).stack (stackOf (o.pas.headD 0)) =
      (s.queueWork (stackOf (o.pas.headD 0)) (.xfer p n o.start)).stack (stackOf (o.pas.headD 0)) := rfl
  rw [h, State.queueWork, State.stack, State.setStack, SMap.get_put, if_pos rfl]

end VaultIssued

/-- The context of the command on core `p`, whose pages its streams use. -/
def streamCtx (s : State) (p : Nat) : Nat :=
  match s.cmdOf p with
  | some c => c.ctx
  | none => (s.core p).ctx

/-- A plain stream whose next elements lie in mapped pages of the vault issues a transfer of them. -/
theorem formNext_vault {s : State} {p n : Nat} {x : Stream} (hx : x = (s.core p).stream n) (hslot : dNearSlot x.desc = false)
    (hmc : dMcast x.desc = 0) (hdir : dDir x.desc = 0) (htr : dTranspose x.desc = false) (hk : x.take x.nextElem ≠ 0)
    (hon : (s.core p).touchesOff (s.nearOf p x x.nextElem) (x.take x.nextElem * dEsize x.desc) = false)
    (hfar : s.farSide p (streamCtx s p) false (dEsize x.desc) (x.fars x.nextElem (x.take x.nextElem)) = .vault) :
    ∃ o, IsNext x (x.take x.nextElem) o ∧ s.formNext p n = vaultIssued s p n o := by
  subst hx
  have hms : s.members p ((s.core p).stream n).desc = [p] := by rw [State.members, if_pos hmc]
  obtain ⟨o, ho, e⟩ := issueXfer_vault hslot [p]
    (((s.core p).stream n).fars ((s.core p).stream n).nextElem (((s.core p).stream n).take ((s.core p).stream n).nextElem))
  rw [length_fars] at ho
  refine ⟨o, ho, ?_⟩
  unfold State.formNext
  extract_lets x d fars ms k bytes
  have hne : fars.isEmpty = false := by
    rw [List.isEmpty_eq_false_iff, ← List.length_pos_iff, length_fars]
    exact Nat.pos_of_ne_zero hk
  have hon' : (ms.any fun q => (s.core q).touchesOff (s.nearOf q x x.nextElem) bytes) = false := by
    simp only [ms, d, x, hms, List.any_cons, List.any_nil, Bool.or_false, bytes, fars, length_fars]
    exact hon
  have hunits : unitFars d fars = fars := by rw [unitFars, htr]; rfl
  have hunit : farUnit d = dEsize d := by rw [farUnit, htr]; rfl
  have hside : s.farSide p k (dDir d ≠ 0) (farUnit d) (unitFars d fars) = .vault := by
    rw [hunits, hunit, decide_eq_false (not_not.2 hdir)]
    exact hfar
  rw [slotReady_plain hslot, if_neg (by decide), hne, htr, Bool.false_and, if_neg (by decide), hon', if_neg (by decide), hside]
  have hms' : ms = [p] := hms
  dsimp only
  rw [if_pos hdir, hms']
  exact e

theorem exec_strTransferIssue {s : State} {p : Nat} (hp : p < 1232) (ht : s.sys.tclk = true) :
    exec (.strTransferIssue p) s = .next (strTransferIssue p s) := onUnit_whenDo (lt_nCores hp) ht ..

theorem strTransferIssue_forms {s : State} {p n : Nat} (hw : s.noteWaits p = s) (hn : s.nextStream p = some n) :
    strTransferIssue p s = s.formNext p n := by
  unfold strTransferIssue
  simp only [hw, hn]

/-! ### The end of a descriptor (03 R104, R110) -/

theorem rest_pageNeeded (s : State) (k page : Nat) : Rest s (s.pageNeeded k page) := by
  unfold State.pageNeeded
  split
  · exact (kept_raise ..).1
  · rfl

/-- The vault and the spool of core `p` are as they were. -/
def BytesKept (p : Nat) (s t : State) : Prop := t.vault = s.vault ∧ (t.core p).spool = (s.core p).spool

theorem bytesKept_setStream (s : State) (p n : Nat) (x : Stream) : BytesKept p s (s.modCore p (·.setStream n x)) := by
  refine ⟨rfl, ?_⟩
  rw [State.core_modCore, if_pos rfl]
  rfl

theorem BytesKept.then_rest {p : Nat} {s t u : State} (h : BytesKept p s t) (k : Rest t u) : BytesKept p s u :=
  ⟨(rest_vault k).trans h.1, (congrArg Core.spool (core_of_rest k p)).trans h.2⟩

theorem bytesKept_haltNow (s : State) (p n : Nat) : BytesKept p s (s.haltNow p n) := by
  unfold State.haltNow
  extract_lets x s1
  split
  · split
    · split
      · exact (bytesKept_setStream s p n _).then_rest (rest_pageNeeded ..)
      · exact bytesKept_setStream s p n _
    · exact ⟨rfl, rfl⟩
  · exact ⟨rfl, rfl⟩

theorem bytesKept_endStream (s : State) (p n : Nat) : BytesKept p s (s.endStream p n) := by
  unfold State.endStream
  extract_lets c x done y
  split
  · exact ⟨rfl, rfl⟩
  · split
    · split
      · exact bytesKept_haltNow s p n
      · exact bytesKept_setStream s p n _
    · exact bytesKept_setStream s p n _
    · split
      · exact bytesKept_setStream s p n _
      · exact ⟨rfl, rfl⟩
    · exact ⟨rfl, rfl⟩

section EndStream
variable {s : State} {p n : Nat} {x : Stream} (hx : (s.core p).stream n = x)
include hx

/-- A stream that awaits replies does not end. -/
theorem endStream_awaits (h : x.out ≠ []) : s.endStream p n = s := by
  unfold State.endStream
  extract_lets c y
  exact if_pos (by simpa [y, c, hx] using h)

/-- The last reply ends the descriptor; where none is pending, the stream is IDLE. -/
theorem endStream_ends (h : x.out = []) (hst : x.st = .running) (hn : dElems x.desc ≤ x.nextElem) (hh : x.haltAt = none)
    (hp : x.pend = none) :
    s.endStream p n = s.modCore p (·.setStream n { x with doneCount := (x.doneCount + 1) % 65536 }.ended) := by
  subst hx
  have more : (((s.core p).stream n).nextElem < dElems ((s.core p).stream n).desc ||
      ((s.core p).stream n).haltAt.isSome) = false := by
    rw [hh, decide_eq_false (Nat.not_lt.2 hn)]
    rfl
  unfold State.endStream
  simp only [h, hst, hp, more]
  rfl

end EndStream

/-! ### TRANSFER_REPLY (03 R103) -/

/-- Stream `x` after the reply of its transfer from element `start`, with what has completed past its position (03 R105). -/
def repliedStream (x : Stream) (start : Nat) : Stream :=
  let y := { x with out := x.out.filter fun y => y.start ≠ start }
  { y with doneBeyond := (if y.pos < start then start :: x.doneBeyond else x.doneBeyond).filter fun j => y.pos < j }

/-- State `s` after stream `n` of core `p` has taken the reply. -/
def tagFreed (s : State) (p n start : Nat) : State :=
  s.modCore p (·.setStream n (repliedStream ((s.core p).stream n) start))

theorem exec_transferReply {s : State} {p n : Nat} (hp : p < 1232) (hn : n < 32) (ht : s.sys.tclk = true) (start : Nat) :
    exec (.transferReply p n start) s = .next (transferReply p n start s) := onUnit_whenDo (by simp [lt_nCores hp, hn]) ht ..

section Reply
variable {s : State} {p n start : Nat} {o : Xfer} (hx : ((s.core p).stream n).xfer start = some o)

include hx

theorem transferReply_data {bs : Bytes} (hr : o.reply = some (.data bs)) :
    transferReply p n start s = (((tagFreed s p n start).deliver o bs).endFillAt p n o).endStream p n := by
  unfold transferReply
  simp only [hx, hr]
  rfl

theorem transferReply_err {code : Nat} (hr : o.reply = some (.err code)) (hst : ((s.core p).stream n).st = .running) :
    transferReply p n start s = (tagFreed s p n start).streamFault p n code := by
  unfold transferReply
  simp only [hx, hr]
  exact if_pos hst

end Reply

theorem endFillAt_plain {s : State} {p n : Nat} (o : Xfer) (h : dNearSlot ((s.core p).stream n).desc = false) :
    s.endFillAt p n o = s := by
  unfold State.endFillAt
  extract_lets x
  have hx : dNearSlot x.desc = false := h
  rw [hx]
  rfl

/-- State `s` after data for the spool of core `p` alone has arrived for its stream `n`. -/
def dataLanded (s : State) (p n start a : Nat) (bs : Bytes) : State :=
  (tagFreed s p n start).modCore p (·.store a bs)

theorem core_dataLanded (s : State) (p n start a : Nat) (bs : Bytes) :
    (dataLanded s p n start a bs).core p =
      ((s.core p).setStream n (repliedStream ((s.core p).stream n) start)).store a bs := by
  rw [dataLanded, State.core_modCore, if_pos rfl, tagFreed, State.core_modCore, if_pos rfl]

theorem stream_dataLanded (s : State) (p n start a : Nat) (bs : Bytes) :
    ((dataLanded s p n start a bs).core p).stream n = repliedStream ((s.core p).stream n) start := by
  rw [core_dataLanded]
  exact (Core.stream_setStream ..).trans (if_pos rfl)

theorem transferReply_lands {s : State} {p n start a : Nat} {o : Xfer} (hx : ((s.core p).stream n).xfer start = some o)
    (hd : o.dst = [(p, a)]) (hslot : dNearSlot ((s.core p).stream n).desc = false) {bs : Bytes} (hr : o.reply = some (.data bs)) :
    transferReply p n start s = (dataLanded s p n start a bs).endStream p n := by
  have hdel : (tagFreed s p n start).deliver o bs = dataLanded s p n start a bs := by
    rw [State.deliver, hd]
    rfl
  rw [transferReply_data hx hr, hdel, endFillAt_plain]
  rwa [stream_dataLanded]

/-! ### A stream that faults (03 R107) -/

theorem stream_threadFault (s : State) (p u code q m : Nat) :
    ((s.threadFault p u code).core q).stream m = (s.core q).stream m := by
  rw [State.threadFault, core_noteFault, State.core_modCore]
  split
  · subst q
    rfl
  · rfl

theorem stream_ownFault (s : State) (p u code q m : Nat) : ((s.ownFault p u code).core q).stream m = (s.core q).stream m := by
  have faults : ∀ t, ((s.faultThread p t code).core q).stream m = (s.core q).stream m := fun t => by
    rw [core_faultThread, stream_threadFault]
  unfold State.ownFault State.faultFor
  split
  iterate 3 rfl
  split
  · exact faults 0
  · exact faults u

theorem stream_abandonMcast (s : State) (p n q m : Nat) : ((s.abandonMcast p n).core q).stream m = (s.core q).stream m := by
  rw [State.core, State.abandonMcast, SMap.get_mapVals _ _ _ rfl]
  rfl

/-- STR_FAULT: the stream is FAULTED with the code. -/
theorem streamFault_faults (s : State) (p n code : Nat) :
    (((s.streamFault p n code).core p).stream n).st = .faulted ∧ (((s.streamFault p n code).core p).stream n).fault = code := by
  unfold State.streamFault
  extract_lets x s1 s2 ws s3
  have h1 : (s1.core p).stream n = { x with st := .faulted, fault := code, slotWait := none, haltAt := none } := by
    rw [State.core_modCore, if_pos rfl, Core.stream_setStream, if_pos rfl]
  have h2 : (s2.core p).stream n = (s1.core p).stream n := by
    simp only [s2]
    split
    · exact stream_abandonMcast ..
    · rfl
  have h3 : (s3.core p).stream n = (s2.core p).stream n :=
    List.foldlRecOn ws _ (motive := fun t : State => (t.core p).stream n = (s2.core p).stream n) rfl
      fun t ht u _ => (stream_ownFault t p u code p n).trans ht
  rw [stream_ownFault, h3, h2, h1]
  exact ⟨rfl, rfl⟩

/-- Settles O24: the transfer that the next stream issues, and what its reply leaves of the stream. -/
theorem streamEvents : Obligations.StreamEvents := by
  intro p n x s hp hn ht
  refine ⟨fun k hx hw hnext hslot hmc hdir htr hk hk0 hon hfar => ?_,
    fun o a hx ho hd hst hslot => ⟨fun bs hr => ?_, fun code hr => ?_⟩⟩
  · rw [hw] at hx
    subst hk
    obtain ⟨o, ⟨hstart, hcount, hreply⟩, e⟩ := formNext_vault hx hslot hmc hdir htr hk0 hon hfar
    have hs := stream_vaultIssued s p n o
    have running := running_of_nextStream hnext
    refine ⟨_, o, (exec_strTransferIssue hp ht).trans (by rw [strTransferIssue_forms hw hnext, e]), hstart, hcount, hreply, ?_⟩
    rw [hs n, if_pos rfl, ← hx]
    rw [← hx] at running
    refine ⟨rfl, congrArg (x.nextElem + ·) hcount, running, by rw [core_vaultIssued]; rfl, fun m hm => ?_, rfl,
      by rw [core_vaultIssued]; rfl, queue_vaultIssued s p n o⟩
    rw [hs m, if_neg hm]
  · subst hx
    have hs := stream_dataLanded s p n o.start a bs
    obtain ⟨hvault, hspool⟩ := bytesKept_endStream (dataLanded s p n o.start a bs) p n
    refine ⟨_, exec_transferReply hp hn ht o.start, ?_⟩
    rw [transferReply_lands ho hd hslot hr]
    refine ⟨by rw [hspool, core_dataLanded]; rfl, hvault, fun hleft => ?_, fun hnone hall hhalt hpend => ?_⟩
    · rw [endStream_awaits hs hleft, hs]
      rfl
    · rw [endStream_ends hs hnone hst hall hhalt hpend, State.core_modCore, if_pos rfl, Core.stream_setStream, if_pos rfl]
      exact ⟨rfl, rfl⟩
  · subst hx
    exact ⟨_, (exec_transferReply hp hn ht o.start).trans (by rw [transferReply_err ho hr hst]), streamFault_faults _ p n code⟩

end Sys2Proof.Proofs
end

section
/-!
Proofs: what messages and trace records leave alone among the registers of the ETH and DBG blocks, and the REG_WRITE of a register
whose write has an effect of its own (00 R7, R10; 10 R380; 12 R450).
-/
namespace Sys2Proof.Proofs
open Sys2Proof.Machine Sys2Proof.Safety Sys2Proof.Laws

/-! ### Bits of register words -/

theorem getLsbD_eq_mod (w : W64) (i : Nat) : w.getLsbD i = decide (w.toNat / 2 ^ i % 2 = 1) :=
  Nat.testBit_eq_decide_div_mod_eq ..

/-- A field of one bit shows that bit. -/
theorem flag_eq_getLsbD (s : State) {f : Fld} (h : f.width = 1) : s.flag f = (s.raw f.off).getLsbD f.lo := by
  rw [getLsbD_eq_mod, State.flag, State.fld, h, decide_eq_decide]
  omega

theorem testBit_fld (s : State) (f : Fld) {i : Nat} (h : i < f.width) :
    (s.fld f).testBit i = (s.raw f.off).getLsbD (f.lo + i) := by
  rw [State.fld, Nat.testBit_mod_two_pow, Nat.testBit_div_two_pow, decide_eq_true h, Bool.true_and, Nat.add_comm]
  rfl

/-- A field reads the same where its bits are the same. -/
theorem fld_congr {s t : State} {f : Fld}
    (h : ∀ i, i < f.width → (t.raw f.off).getLsbD (f.lo + i) = (s.raw f.off).getLsbD (f.lo + i)) : t.fld f = s.fld f := by
  refine Nat.eq_of_testBit_eq fun i => ?_
  by_cases hi : i < f.width
  · rw [testBit_fld t f hi, testBit_fld s f hi, h i hi]
  · simp only [State.fld, Nat.testBit_mod_two_pow, decide_eq_false hi, Bool.false_and]

/-! ### Trace records (12 R450, R451) -/

theorem raw_traceTrigger_ne (s : State) (i ix : Nat) {off : Nat} (hd : off ≠ Reg.dbgStatus) (hp : off ≠ Reg.dbgTracePos i) :
    (s.traceTrigger i ix).raw off = s.raw off := by
  unfold State.traceTrigger
  split
  · rfl
  · extract_lets s1 s2 s3
    have h3 : s3.raw off = s.raw off :=
      (raw_traceLeft s2 _ off).trans ((raw_setFld_ne s1 _ _ _ hp).trans (raw_setFld_ne s _ _ _ hd))
    split
    · exact (raw_drive s3 2 true off).trans h3
    · exact h3

/-- A record into partition `i` changes DBG_STATUS and the partition's position alone. -/
theorem raw_traceInto_ne (s : State) (src : Nat) (rec : Bytes) (i : Nat) {off : Nat} (hd : off ≠ Reg.dbgStatus)
    (hp : off ≠ Reg.dbgTracePos i) : (s.traceInto src rec i).raw off = s.raw off := by
  have pos : ∀ (x : State) (lo n v : Nat), (x.setFld ⟨Reg.dbgTracePos i, lo, n⟩ v).raw off = x.raw off :=
    fun x lo n v => raw_setFld_ne x _ v off hp
  unfold State.traceInto
  split
  · extract_lets ix mode trig s1 s2 s3 left s4 stop
    have h2 : s2.raw off = s.raw off := pos s1 _ _ _
    have h3 : s3.raw off = s.raw off := by
      simp only [s3]
      split
      · exact (pos s2 _ _ _).trans h2
      · exact h2
    have h4 : s4.raw off = s.raw off := by
      simp only [s4]
      split
      · exact h3
      · split
        · exact (raw_traceTrigger_ne s3 i ix hd hp).trans h3
        · exact h3
    split
    · exact (pos s4 _ _ _).trans h4
    · exact h4
  · rfl

/-- A partition takes no record of a source that it does not name. -/
theorem traceInto_unnamed {s : State} {src i : Nat} (rec : Bytes) (h : (s.fld (Fld.dbgTraceCfg_sources i)).testBit src = false) :
    s.traceInto src rec i = s := by
  unfold State.traceInto
  rw [h, Bool.and_false]
  rfl

/-- Register `off` is not among those that a trace record of the commands' source changes: DBG_STATUS, and the position of a
partition that names the source. -/
def Untraced (s : State) (off : Nat) : Prop :=
  off ≠ Reg.dbgStatus ∧ ∀ i < 8, off ≠ Reg.dbgTracePos i ∨ (s.fld (Fld.dbgTraceCfg_sources i)).testBit 0 = false

theorem untraced_of_outsideDbg (s : State) {off : Nat} (h : OutsideDbg off) : Untraced s off := by
  unfold OutsideDbg at h
  exact ⟨by unfold Reg.dbgStatus; omega, fun i hi => .inl (by unfold Reg.dbgTracePos; omega)⟩

theorem untraced_cfg (s : State) (k : Nat) : Untraced s (Reg.dbgTraceCfg k) :=
  ⟨by unfold Reg.dbgTraceCfg Reg.dbgStatus; omega, fun i _ => .inl (by unfold Reg.dbgTraceCfg Reg.dbgTracePos; omega)⟩

theorem untraced_pos {s : State} {k : Nat} (h : (s.fld (Fld.dbgTraceCfg_sources k)).testBit 0 = false) :
    Untraced s (Reg.dbgTracePos k) := by
  refine ⟨by unfold Reg.dbgTracePos Reg.dbgStatus; omega, fun i _ => ?_⟩
  by_cases e : i = k
  · exact .inr (e ▸ h)
  · exact .inl (by unfold Reg.dbgTracePos; omega)

theorem Untraced.congr {s t : State} {off : Nat} (h : Untraced s off)
    (e : ∀ i, t.raw (Reg.dbgTraceCfg i) = s.raw (Reg.dbgTraceCfg i)) : Untraced t off := by
  have sources : ∀ i, t.fld (Fld.dbgTraceCfg_sources i) = s.fld (Fld.dbgTraceCfg_sources i) := fun i => by
    simp only [State.fld, Fld.dbgTraceCfg_sources, e i]
  exact ⟨h.1, fun i hi => by rw [sources]; exact h.2 i hi⟩

theorem raw_traceInto_untraced {s : State} {off : Nat} (h : Untraced s off) (rec : Bytes) {i : Nat} (hi : i < 8) :
    (s.traceInto 0 rec i).raw off = s.raw off := by
  obtain ⟨hd, hs⟩ := h
  rcases hs i hi with hp | hn
  · exact raw_traceInto_ne s 0 rec i hd hp
  · rw [traceInto_unnamed rec hn]

theorem raw_traceRec_untraced {s : State} {off : Nat} (h : Untraced s off) (code core id : Nat) (data : Bytes) :
    (s.traceRec 0 code core id data).raw off = s.raw off := by
  unfold State.traceRec
  extract_lets rec'
  have fold := List.foldlRecOn (List.range 8) (fun (x : State) i => x.traceInto 0 rec' i)
    (motive := fun x : State => x.raw off = s.raw off ∧ ∀ k, x.raw (Reg.dbgTraceCfg k) = s.raw (Reg.dbgTraceCfg k))
    ⟨rfl, fun _ => rfl⟩ fun x ⟨hx, hc⟩ i hi => ⟨?_, fun k => ?_⟩
  · exact fold.1
  · exact (raw_traceInto_untraced (h.congr hc) rec' (List.mem_range.1 hi)).trans hx
  · exact (raw_traceInto_untraced (untraced_cfg x k) rec' (List.mem_range.1 hi)).trans (hc k)

/-! ### Messages to the host (10 R371, R380) -/

/-- Register `off` is none that a message counts in: ETH_TX_FRAMES and the PSNs of queue pair 0. -/
def Uncounted (off : Nat) : Prop := off ≠ Reg.ethTxFrames ∧ off ≠ Reg.ethQpPsn 0

theorem uncounted_dbg {off : Nat} (h : 0xC0000 ≤ off) : Uncounted off := by
  unfold Uncounted Reg.ethTxFrames Reg.ethQpPsn
  omega

theorem raw_putFrames {off : Nat} (h : off ≠ Reg.ethTxFrames) (s : State) (fs : List SentFrame) :
    (s.putFrames fs).raw off = s.raw off := by
  unfold State.putFrames State.countWrap
  exact raw_setFld_ne _ Fld.ethTxFrames_count _ _ h

theorem raw_qpRequest {off q : Nat} (h : off ≠ Reg.ethQpPsn q) (s : State) (n : Nat) (fs : List SentFrame) :
    (s.qpRequest q n fs).raw off = s.raw off := by
  unfold State.qpRequest State.modQp State.countWrap
  exact raw_setFld_ne s (Fld.ethQpPsn_nextSend q) _ _ h

theorem raw_transmit {off : Nat} (h : Uncounted off) (s : State) (m : CmdMsg) : (s.transmit m).raw off = s.raw off := by
  unfold State.transmit State.qpSend
  rw [raw_qpRequest h.2, raw_putFrames h.1]
  rfl

theorem raw_send {off : Nat} (h : Uncounted off) (s : State) (m : CmdMsg) : (s.send m).raw off = s.raw off := by
  unfold State.send
  split
  · rfl
  · split
    · rfl
    · exact raw_transmit h s m

theorem raw_charge (s : State) (acct counter n off : Nat) : (s.charge acct counter n).raw off = s.raw off := by
  unfold State.charge
  split <;> rfl

/-- A completion leaves the other registers alone. -/
theorem raw_complete {x : State} {off : Nat} (hc : Uncounted off) (ht : Untraced x off) (seq : W64) (a : Answer) :
    (x.complete seq a).raw off = x.raw off := by
  unfold State.complete
  split
  · unfold State.completeAs
    extract_lets phase c rx s1 eth s2 s3
    have sent : ∀ {o : Nat}, Uncounted o → s3.raw o = x.raw o := fun ho => (raw_send ho _ _).trans (raw_charge x _ _ _ _)
    have cfg : ∀ i, s3.raw (Reg.dbgTraceCfg i) = x.raw (Reg.dbgTraceCfg i) := fun i =>
      sent (uncounted_dbg (by unfold Reg.dbgTraceCfg; omega))
    exact (raw_traceRec_untraced (ht.congr cfg) _ _ _ _).trans (sent hc)
  · rfl

theorem raw_begun_untraced {s : State} {off : Nat} (h : Untraced s off) (code : Nat) (seq : W64) (names : List (Nat × Nat)) :
    (begun s code seq names).raw off = s.raw off := by
  unfold begun State.modRunning State.enter State.takeSeq
  exact raw_traceRec_untraced (s := { s.hold seq none with eth := { (s.hold seq none).eth with highest := seq } }) h _ _ _ _

/-! ### The command still runs -/

theorem Awaits.of_kept {s x y : State} {seq : W64} (h : Awaits s x seq) (k : Kept x y) (hr : y.eth.running = x.eth.running)
    (ho : y.eth.outcomes = x.eth.outcomes) : Awaits s y seq := by
  unfold Awaits State.running? at *
  rwa [hr, ho, kept_beat k]

/-! ### A REG_WRITE -/

section RegWrite
variable {s x : State} {seq val mask : W64} {off : Nat}

/-- A REG_WRITE whose write leaves state `x`. -/
theorem regWriteAt_completes (h : Arrives s seq True True True) (h8 : off % 8 = 0) (hlo : 0x10000 ≤ off) (hhi : off < 0x1000000)
    (hr : (regSpec off).isSome = true) (hx : (begun s 0x11 seq []).writeReg off val mask = x) (hc : x.sched = s.sched)
    (hw : Awaits s x seq) :
    regWriteAt seq off val mask s = .next (x.complete seq {}) ∧ Completed s (x.complete seq {}) seq .ok 0 [] := by
  obtain ⟨r, hr⟩ := Option.isSome_iff_exists.1 hr
  have e : (begun s 0x11 seq []).regWriteRun seq off val mask = x.complete seq {} := by rw [regWriteRun_writes h8 hlo hhi hr, hx]
  have hk : s.pagesKept ((begun s 0x11 seq []).regWriteRun seq off val mask) = true := by
    rw [e]
    exact pagesKept_of_ctxs (by rw [rest_sched (kept_complete x seq {}).1, hc])
  refine ⟨?_, completed_complete hw {}⟩
  rw [← e]
  exact genotOn_begins h [] 0x11 anyState (stateRefusal_anyState h) _ hk

/-- One whose write changes registers of the mail alone. -/
theorem regWriteAt_mail (h : Arrives s seq True True True) (h8 : off % 8 = 0) (hlo : 0x10000 ≤ off) (hhi : off < 0x1000000)
    (hr : (regSpec off).isSome = true) (hx : (begun s 0x11 seq []).writeReg off val mask = x)
    (k : Kept (begun s 0x11 seq []) x) (hw : Awaits s x seq) :
    regWriteAt seq off val mask s = .next (x.complete seq {}) ∧ Kept s (x.complete seq {}) ∧
      Completed s (x.complete seq {}) seq .ok 0 [] := by
  have ks := kept_trans (kept_begun s 0x11 seq []) k
  obtain ⟨e, hc⟩ := regWriteAt_completes h h8 hlo hhi hr hx (rest_sched ks.1) hw
  exact ⟨e, kept_trans ks (kept_complete x seq {}), hc⟩

/-- A REG_WRITE in the VLT, LEDG and ERR blocks. -/
theorem regWriteAt_plain (h : Arrives s seq True True True) (h8 : off % 8 = 0) (hk : PlainBlock off) {r : RegSpec}
    (hr : regSpec off = some r) :
    ∃ t, regWriteAt seq off val mask s = .next t ∧ KeptBut s t off ∧ Completed s t seq .ok 0 [] ∧
      t.raw off = r.written (s.raw off) val mask false := by
  have e : (BitVec.ofNat 64 off).toNat = off := by
    unfold PlainBlock at hk
    rw [BitVec.toNat_ofNat]
    omega
  have w := regWrite_plain h val mask (off := BitVec.ofNat 64 off) (r := r) (by rwa [e]) (by rwa [e]) (by rwa [e])
  show ∃ t, regWriteAt seq off val mask s = _ ∧ _
  rw [show exec (.regWrite seq (BitVec.ofNat 64 off) val mask) s = regWriteAt seq (BitVec.ofNat 64 off).toNat val mask s from rfl,
    e] at w
  exact w

end RegWrite

section Written
variable {r : RegSpec} {m : W64} (old val mask : W64)

theorem written_unlocked : r.written old val mask false =
    ((old &&& ~~~(r.maskOf [.rw, .rwl] &&& mask)) ||| (val &&& (r.maskOf [.rw, .rwl] &&& mask))) &&&
      ~~~(r.maskOf [.rw1c, .rw1cs] &&& mask &&& val) := rfl

theorem zero_and (y : W64) : (0 : W64) &&& y = 0 := BitVec.zero_and

theorem and_not_zero (y : W64) : y &&& ~~~(0 : W64) = y := BitVec.and_allOnes

/-- A register whose writable fields are RW or RWL, written while it is not locked (00 R10). -/
theorem written_rw (hm : r.maskOf [.rw, .rwl] = m) (hc : r.maskOf [.rw1c, .rw1cs] = 0) :
    r.written old val mask false = (old &&& ~~~(m &&& mask)) ||| (val &&& (m &&& mask)) := by
  rw [written_unlocked, hm, hc, zero_and, zero_and, and_not_zero]

/-- A register whose writable fields are cleared by a write of 1. -/
theorem written_w1c (hm : r.maskOf [.rw, .rwl] = 0) (hc : r.maskOf [.rw1c, .rw1cs] = m) :
    r.written old val mask false = old &&& ~~~(m &&& mask &&& val) := by
  have none : val &&& (0 : W64) = 0 := BitVec.and_zero
  have same : old ||| (0 : W64) = old := BitVec.or_zero
  rw [written_unlocked, hm, hc, zero_and, and_not_zero, none, same]

end Written

/-- A register of a block without ranges stores what is written (00 R10). -/
theorem storeReg_unclamped {s : State} {off : Nat} {r : RegSpec} (hr : regSpec off = some r) {val mask : W64}
    (hc : ∀ w, clampWord off mask w = w) (hl : (decide (off = Reg.secCtrl) && s.flag Fld.secCtrl_lock) = false) :
    s.storeReg off val mask = s.setRaw off (r.written (s.raw off) val mask false) := by
  simp only [State.storeReg, hr, hc, hl]

end Sys2Proof.Proofs
end

section
/-!
Proofs: the register writes of the cores, the stacks, the error log, the strongbox and the trace that have an effect of their own
(03 R111, R117; 05 R210; 11 R421, R424; 12 R450, R451; 13 R456).
-/
namespace Sys2Proof.Proofs
open Sys2Proof.Machine Sys2Proof.Safety Sys2Proof.Laws

section
variable {s : State} {seq val mask : W64}

/-! ### Registers of a core (03 R111, R117) -/

theorem regSpec_coreTags {p : Nat} (hp : p < 1232) : (regSpec (Reg.coreTags p)).isSome = true := by
  rw [regSpec_core (by unfold Reg.coreTags; omega)]
  refine List.find?_isSome.2 ⟨⟨0x100018, 0x1000, 1232, 0x0, 1, [⟨16, 7, .rw1c, 0⟩, ⟨0, 7, .ro, 0⟩]⟩, by decide, ?_⟩
  simp [RegSpec.has, Reg.coreTags, hp]

theorem regSpec_strStatus {p n : Nat} (hp : p < 1232) (hn : n < 32) : (regSpec (Reg.strStatus p n)).isSome = true := by
  rw [regSpec_core (by unfold Reg.strStatus; omega)]
  refine List.find?_isSome.2 ⟨⟨0x100200, 0x1000, 1232, 0x10, 32,
    [⟨32, 16, .ro, 0⟩, ⟨24, 3, .ro, 0⟩, ⟨16, 8, .ro, 0⟩, ⟨8, 7, .ro, 0⟩, ⟨5, 1, .ro, 0⟩, ⟨4, 1, .rw1c, 0⟩,
      ⟨3, 1, .ro, 0⟩, ⟨0, 3, .ro, 0⟩]⟩, by decide, ?_⟩
  have row : (Reg.strStatus p n - 0x100200) / 0x1000 = p := by unfold Reg.strStatus; omega
  have col : (Reg.strStatus p n - 0x100200) % 0x1000 / 0x10 = n := by unfold Reg.strStatus; omega
  have rem : (Reg.strStatus p n - 0x100200) % 0x1000 % 0x10 = 0 := by unfold Reg.strStatus; omega
  have first : 0x100200 ≤ Reg.strStatus p n := by unfold Reg.strStatus; omega
  simp [RegSpec.has, row, col, rem, first, hp, hn]

theorem writeReg_core {off p o : Nat} (ho : o < 0x1000) (e : off = 0x100000 + 0x1000 * p + o) :
    s.writeReg off val mask = s.writeCore p o val mask := by
  have row : (off - 0x100000) / 0x1000 = p := by omega
  have col : off % 0x1000 = o := by omega
  rw [State.writeReg, if_pos (by omega), row, col]

theorem writeReg_coreTags (p : Nat) : s.writeReg (Reg.coreTags p) val mask = s.writeTags p val mask :=
  writeReg_core (o := 0x18) (by decide) (by unfold Reg.coreTags; omega)

theorem writeReg_strStatus (p : Nat) {n : Nat} (hn : n < 32) :
    s.writeReg (Reg.strStatus p n) val mask = s.writeStream p n val mask := by
  have e : (0x200 + 16 * n - 0x200) / 16 = n := by omega
  rw [writeReg_core (p := p) (o := 0x200 + 16 * n) (by omega) (by unfold Reg.strStatus; omega), State.writeCore, if_neg (by omega),
    if_pos (by omega), e]

/-- A REG_WRITE that changes core `p` by `f`: what it leaves. -/
theorem regWriteAt_core (h : Arrives s seq True True True) {off p : Nat} (h8 : off % 8 = 0) (hlo : 0x100000 ≤ off)
    (hhi : off < 0x1000000) (hr : (regSpec off).isSome = true) {f : Core → Core}
    (hx : (begun s 0x11 seq []).writeReg off val mask = (begun s 0x11 seq []).modCore p f) :
    ∃ t, regWriteAt seq off val mask s = .next t ∧ Completed s t seq .ok 0 [] ∧
      Kept { s with cores := [] } { t with cores := [] } ∧ (∀ q, q ≠ p → t.core q = s.core q) ∧
      t.core p = f (s.core p) := by
  have kb := kept_begun s 0x11 seq []
  have kx := kept_complete ((begun s 0x11 seq []).modCore p f) seq {}
  have hs : ((begun s 0x11 seq []).modCore p f).sched = s.sched := (rest_sched kb.1 :)
  obtain ⟨e, hc⟩ := regWriteAt_completes h h8 (by omega) hhi hr hx hs ((awaits_begun h 0x11 []).of_eth rfl rfl)
  have core : ∀ q, (((begun s 0x11 seq []).modCore p f).complete seq {}).core q = if q = p then f (s.core p) else s.core q :=
    fun q => by rw [core_of_rest kx.1, State.core_modCore, core_of_rest kb.1, core_of_rest kb.1]
  refine ⟨_, e, hc, ⟨?_, fun off ho => (kx.2 off ho).trans (kb.2 off ho)⟩, fun q hq => (core q).trans (if_neg hq),
    (core p).trans (if_pos rfl)⟩
  exact (congrArg (fun x : State => { x with cores := [] }) kx.1).trans (congrArg (fun x : State => { x with cores := [] }) kb.1)

theorem kept_apartCores {t : State} (k : Kept s t) : Kept { s with cores := [] } { t with cores := [] } :=
  ⟨(congrArg (fun x : State => { x with cores := [] }) k.1 :), k.2⟩

/-- PEAK of CORE_TAGS (03 R117). -/
theorem peakClear_completes (h : Arrives s seq True True True) {p : Nat} (hp : p < 1232) :
    ∃ t, exec (.peakClear seq p val mask) s = .next t ∧ Completed s t seq .ok 0 [] ∧
      Kept { s with cores := [] } { t with cores := [] } ∧ (∀ q, q ≠ p → t.core q = s.core q) ∧
      t.core p = if (Fld.coreTags_peak 0).of (val &&& mask) = 0 then s.core p
        else { s.core p with tagPeak := (s.core p).tagsHeld } := by
  have e : exec (.peakClear seq p val mask) s = regWriteAt seq (Reg.coreTags p) val mask s := if_pos hp
  have off : Reg.coreTags p = 0x100018 + 0x1000 * p := rfl
  rw [e]
  by_cases hz : (Fld.coreTags_peak 0).of (val &&& mask) = 0
  · obtain ⟨et, k, hc⟩ := regWriteAt_mail h (val := val) (mask := mask) (by omega) (by omega) (by omega) (regSpec_coreTags hp)
      ((writeReg_coreTags p).trans (if_neg (not_not_intro hz))) (kept_refl _) (awaits_begun h 0x11 [])
    rw [if_pos hz]
    exact ⟨_, et, hc, kept_apartCores k, fun q _ => core_of_rest k.1 q, core_of_rest k.1 p⟩
  · rw [if_neg hz]
    exact regWriteAt_core h (by omega) (by omega) (by omega) (regSpec_coreTags hp) ((writeReg_coreTags p).trans (if_pos hz))

/-- REARM_LOST of STR_STATUS_n (03 R111). -/
theorem rearmLostClear_completes (h : Arrives s seq True True True) {p n : Nat} (hp : p < 1232) (hn : n < 32)
    (h1 : (Fld.strStatus_rearmLost 0 0).of (val &&& mask) = 1) :
    ∃ t, exec (.rearmLostClear seq p n val mask) s = .next t ∧ Completed s t seq .ok 0 [] ∧
      Kept { s with cores := [] } { t with cores := [] } ∧ (∀ q, q ≠ p → t.core q = s.core q) ∧
      t.core p = (s.core p).setStream n { (s.core p).stream n with rearmLost := false } := by
  have e : exec (.rearmLostClear seq p n val mask) s = regWriteAt seq (Reg.strStatus p n) val mask s := if_pos ⟨hp, hn⟩
  have hw : (begun s 0x11 seq []).writeReg (Reg.strStatus p n) val mask =
      (begun s 0x11 seq []).modCore p fun c => c.setStream n { c.stream n with rearmLost := false } :=
    (writeReg_strStatus p hn).trans (if_pos (by rw [h1]; decide))
  have off : Reg.strStatus p n = 0x100200 + 0x1000 * p + 16 * n := by unfold Reg.strStatus; omega
  rw [e]
  exact regWriteAt_core h (by omega) (by omega) (by omega) (regSpec_strStatus hp hn) hw

theorem streamBecame_setStream (c : Core) (n : Nat) (x : Stream) : StreamBecame c (c.setStream n x) n x :=
  ⟨by simp, fun m hm => by simp [hm]⟩

/-- Of a mask of one bit, a write of 1 to that bit leaves it. -/
theorem twoPow_and_written {i : Nat} (h : (val &&& mask).getLsbD i = true) :
    BitVec.twoPow 64 i &&& mask &&& val = BitVec.twoPow 64 i := by
  rw [BitVec.and_assoc, BitVec.and_comm mask, BitVec.and_comm, BitVec.and_twoPow, if_pos h]

/-! ### The error log and the vault's error addresses (05 R210; 13 R456) -/

/-- ALERT of ERR_STATUS (13 R456). -/
theorem alertClear_completes (h : Arrives s seq True True True) (h0 : (val &&& mask).getLsbD 0 = true) :
    ∃ t, exec (.alertClear seq val mask) s = .next t ∧ KeptBut s t 0xB0000 ∧ Completed s t seq .ok 0 [] ∧
      t.flag Fld.errStatus_alert = false ∧ t.fld Fld.errStatus_next = s.fld Fld.errStatus_next := by
  obtain ⟨t, ht, k, hc, hw⟩ := regWriteAt_plain h (off := Reg.errStatus) (val := val) (mask := mask)
    (r := ⟨0xb0000, 0x0, 1, 0x0, 1, [⟨32, 32, .ro, 0⟩, ⟨16, 16, .ro, 0⟩, ⟨0, 1, .rw1c, 0⟩]⟩) (by decide)
    (by unfold PlainBlock; decide) (by decide)
  rw [written_w1c (m := BitVec.twoPow 64 0) _ _ _ (by decide) (by decide), twoPow_and_written h0] at hw
  have bit : ∀ i < 64, (t.raw Reg.errStatus).getLsbD i = ((s.raw Reg.errStatus).getLsbD i && !decide (0 = i)) := fun i hi => by
    rw [hw, BitVec.getLsbD_and, BitVec.getLsbD_not, BitVec.getLsbD_twoPow, decide_eq_true hi]
    simp
  refine ⟨t, ht, k, hc, ?_, fld_congr fun i hi => ?_⟩
  · rw [flag_eq_getLsbD t rfl]
    exact (bit 0 (by decide)).trans (Bool.and_false _)
  · have hi' : i < 32 := hi
    refine (bit (32 + i) (by omega)).trans ?_
    rw [decide_eq_false (by omega)]
    exact Bool.and_true _

theorem regSpec_vltErrAddr : ∀ k < 16, regSpec (Reg.vltErrAddr k) =
    some ⟨0x60020, 0x1000, 16, 0x0, 1, [⟨63, 1, .rw1cs, 0⟩, ⟨60, 3, .ros, 0⟩, ⟨0, 44, .ros, 0⟩]⟩ := by decide

/-- VALID of VLT_ERR_ADDR (05 R210). -/
theorem validClear_completes (h : Arrives s seq True True True) {k : Nat} (hk : k < 16)
    (h63 : (val &&& mask).getLsbD 63 = true) :
    ∃ t, exec (.validClear seq k val mask) s = .next t ∧ KeptBut s t (0x60020 + 0x1000 * k) ∧ Completed s t seq .ok 0 [] ∧
      t.raw (0x60020 + 0x1000 * k) = s.raw (0x60020 + 0x1000 * k) &&& ~~~(0x8000000000000000 : W64) := by
  have e : exec (.validClear seq k val mask) s = regWriteAt seq (Reg.vltErrAddr k) val mask s := if_pos hk
  have off : Reg.vltErrAddr k = 0x60020 + 0x1000 * k := rfl
  obtain ⟨t, ht, kb, hc, hw⟩ := regWriteAt_plain h (val := val) (mask := mask) (by omega) (by unfold PlainBlock; omega)
    (regSpec_vltErrAddr k hk)
  rw [written_w1c (m := BitVec.twoPow 64 63) _ _ _ (by decide) (by decide), twoPow_and_written h63] at hw
  exact ⟨t, e.trans ht, kb, hc, hw⟩

end

end Sys2Proof.Proofs
end

section
/-!
Proofs: the REG_WRITEs of SEC_CTRL and of a trace partition's configuration (11 R421, R424; 12 R450, R451).
-/
namespace Sys2Proof.Proofs
open Sys2Proof.Machine Sys2Proof.Safety Sys2Proof.Laws

/-! ### The word that a write leaves -/

/-- `old` with the bits of `m` taken from `val`. -/
def storedBits (old val m : W64) : W64 := (old &&& ~~~m) ||| (val &&& m)

theorem getLsbD_storedBits (old val m : W64) {i : Nat} (hi : i < 64) :
    (storedBits old val m).getLsbD i = if m.getLsbD i then val.getLsbD i else old.getLsbD i := by
  rw [storedBits, BitVec.getLsbD_or, BitVec.getLsbD_and, BitVec.getLsbD_and, BitVec.getLsbD_not, decide_eq_true hi]
  cases m.getLsbD i <;> simp

/-- A bit under the mask that is written 1. -/
theorem getLsbD_storedBits_one {old val mask m : W64} {i : Nat} (hi : i < 64) (hm : m.getLsbD i = true)
    (h : (val &&& mask).getLsbD i = true) : (storedBits old val (m &&& mask)).getLsbD i = true := by
  rw [BitVec.getLsbD_and, Bool.and_eq_true] at h
  obtain ⟨hv, hk⟩ := h
  rw [getLsbD_storedBits _ _ _ hi, BitVec.getLsbD_and, hm, hk]
  exact hv

theorem fixup_getLsbD (f : Fld) (mask w : W64) (g : Nat → Nat) (h : f.lo + f.width ≤ 64) {i : Nat}
    (hi : i < f.lo ∨ f.lo + f.width ≤ i) : (f.fixup mask w g).getLsbD i = w.getLsbD i := by
  unfold Fld.fixup
  split
  · rfl
  · exact (testBit_insert f w _ i h).trans (if_neg (by omega))

section
variable {s : State} {seq val mask : W64}

/-! ### SEC_CTRL (11 R421, R424) -/

/-- The table of SEC_CTRL. -/
def secCtrlSpec : RegSpec := ⟨0x80008, 0x0, 1, 0x0, 1, [⟨1, 1, .rwl, 0⟩, ⟨0, 1, .rwl, 0⟩]⟩

theorem regSpec_secCtrl : regSpec Reg.secCtrl = some secCtrlSpec := by decide

theorem writeReg_secCtrl : s.writeReg Reg.secCtrl val mask = s.writeSec val mask := rfl

theorem storeReg_secCtrl (h : s.flag Fld.secCtrl_lock = false) :
    s.storeReg Reg.secCtrl val mask = s.setRaw Reg.secCtrl (storedBits (s.raw Reg.secCtrl) val (3 &&& mask)) := by
  rw [storeReg_unclamped regSpec_secCtrl (fun _ => rfl) (by rw [h, Bool.and_false]),
    written_rw (m := 3) _ _ _ (by decide) (by decide)]
  rfl

/-- While LOCK is 1 no bit of SEC_CTRL takes a value (11 R424). -/
theorem storeReg_secCtrl_locked (h : s.flag Fld.secCtrl_lock = true) :
    s.storeReg Reg.secCtrl val mask = s.setRaw Reg.secCtrl (s.raw Reg.secCtrl) := by
  have hw : secCtrlSpec.written (s.raw Reg.secCtrl) val mask true = s.raw Reg.secCtrl := by
    have rw0 : secCtrlSpec.maskOf [.rw] = 0 := by decide
    have w1c0 : secCtrlSpec.maskOf [.rw1c, .rw1cs] = 0 := by decide
    unfold RegSpec.written
    dsimp only
    rw [if_pos rfl, rw0, w1c0, zero_and, zero_and, and_not_zero, and_not_zero]
    exact (congrArg (s.raw Reg.secCtrl ||| ·) BitVec.and_zero).trans BitVec.or_zero
  rw [State.storeReg, regSpec_secCtrl]
  dsimp only
  rw [h, decide_eq_true rfl, Bool.true_and, hw]
  rfl

theorem raw_storeReg_ne {off o : Nat} (h : o ≠ off) : (s.storeReg off val mask).raw o = s.raw o := by
  unfold State.storeReg
  split
  · exact raw_setRaw_ne s _ _ _ h
  · rfl

theorem raw_storeReg_locked (h : s.flag Fld.secCtrl_lock = true) (off : Nat) :
    (s.storeReg Reg.secCtrl val mask).raw off = s.raw off := by
  by_cases ho : off = Reg.secCtrl
  · rw [ho, storeReg_secCtrl_locked h, raw_setRaw_self]
  · exact raw_storeReg_ne ho

/-- A write of SEC_CTRL changes registers alone. -/
theorem writeSec_regs (s : State) (val mask : W64) : s.writeSec val mask = { s with regs := (s.writeSec val mask).regs } := by
  unfold State.writeSec State.storeReg
  rw [regSpec_secCtrl]
  dsimp only
  split <;> rfl

/-- Of the registers, a write of SEC_CTRL changes it and SEC_STATUS. -/
theorem raw_writeSec_ne {off : Nat} (h0 : off ≠ Reg.secStatus) (h8 : off ≠ Reg.secCtrl) :
    (s.writeSec val mask).raw off = s.raw off := by
  unfold State.writeSec
  extract_lets old y
  have hy : y.raw off = s.raw off := raw_storeReg_ne h8
  split
  · exact (raw_setFld_ne y Fld.secStatus_wipePending 1 off h0).trans hy
  · exact hy

theorem raw_writeSec_ctrl (s : State) (val mask : W64) :
    (s.writeSec val mask).raw Reg.secCtrl = (s.storeReg Reg.secCtrl val mask).raw Reg.secCtrl := by
  unfold State.writeSec
  extract_lets old y
  split
  · exact raw_setFld_ne y Fld.secStatus_wipePending 1 Reg.secCtrl (by decide)
  · rfl

/-- TEST_LOCK set makes a wipe pending. -/
theorem wipePending_writeSec (h : s.flag Fld.secCtrl_testLock = false)
    (h1 : (s.storeReg Reg.secCtrl val mask).flag Fld.secCtrl_testLock = true) :
    (s.writeSec val mask).flag Fld.secStatus_wipePending = true := by
  have hw : s.writeSec val mask = (s.storeReg Reg.secCtrl val mask).setFld Fld.secStatus_wipePending 1 :=
    if_pos (by rw [h, h1]; rfl)
  rw [hw, State.flag, fld_setFld_self _ _ _ (by decide)]
  rfl

/-- TEST_LOCK left as it was makes none. -/
theorem writeSec_same (h : (s.storeReg Reg.secCtrl val mask).flag Fld.secCtrl_testLock = s.flag Fld.secCtrl_testLock) :
    s.writeSec val mask = s.storeReg Reg.secCtrl val mask := if_neg (by rw [h, Bool.not_and_self]; decide)

/-- A REG_WRITE of SEC_CTRL completes, and the registers outside the mail read as the write left them. -/
theorem regWriteAt_secCtrl (h : Arrives s seq True True True) :
    ∃ t, regWriteAt seq Reg.secCtrl val mask s = .next t ∧ Rest s t ∧ Completed s t seq .ok 0 [] ∧
      ∀ off, ¬Mail off → t.raw off = ((begun s 0x11 seq []).writeSec val mask).raw off := by
  have kb := kept_begun s 0x11 seq []
  have regs := writeSec_regs (begun s 0x11 seq []) val mask
  have rest : Rest (begun s 0x11 seq []) ((begun s 0x11 seq []).writeSec val mask) := by
    rw [regs]
    rfl
  have kx := kept_complete ((begun s 0x11 seq []).writeSec val mask) seq {}
  have beat : ((begun s 0x11 seq []).writeSec val mask).beat = (begun s 0x11 seq []).beat := by
    simp only [State.beat, raw_writeSec_ne (off := Reg.beatCount) (by decide) (by decide)]
  obtain ⟨e, hc⟩ := regWriteAt_completes h (by decide) (by decide) (by decide) (by rw [regSpec_secCtrl]; rfl) writeReg_secCtrl
    ((rest_sched rest).trans (rest_sched kb.1)) ((awaits_begun h 0x11 []).of_eth (by rw [regs]) beat)
  exact ⟨_, e, kx.1.trans (rest.trans kb.1), hc, kx.2⟩

theorem not_mail_secCtrl : ¬Mail Reg.secCtrl := by unfold Mail; decide
theorem not_mail_secStatus : ¬Mail Reg.secStatus := by unfold Mail; decide

theorem flag_secCtrl_begun {f : Fld} (hf : f.off = Reg.secCtrl) : (begun s 0x11 seq []).flag f = s.flag f := by
  simp only [State.flag, kept_fld (kept_begun s 0x11 seq []) f (hf ▸ not_mail_secCtrl)]

/-- A bit of SEC_CTRL written 1 while LOCK is 0. -/
theorem flag_storeReg_secCtrl {x : State} (h : x.flag Fld.secCtrl_lock = false) {f : Fld} (hf : f.off = Reg.secCtrl)
    (hw : f.width = 1) (hl : f.lo < 2) (h1 : (val &&& mask).getLsbD f.lo = true) :
    (x.storeReg Reg.secCtrl val mask).flag f = true := by
  rw [flag_eq_getLsbD _ hw, hf, storeReg_secCtrl h, raw_setRaw_self]
  refine getLsbD_storedBits_one (by omega) ?_ h1
  interval_cases f.lo <;> rfl

/-- TEST_LOCK (11 R421). -/
theorem testLock_completes (h : Arrives s seq True True True) (hl : s.flag Fld.secCtrl_lock = false)
    (h1 : (val &&& mask).getLsbD 1 = true) (ht : s.flag Fld.secCtrl_testLock = false) :
    ∃ t, exec (.testLock seq val mask) s = .next t ∧ Rest s t ∧ Completed s t seq .ok 0 [] ∧
      t.flag Fld.secCtrl_testLock = true ∧ t.flag Fld.secStatus_wipePending = true ∧
      ∀ off, off ≠ 0x80000 → off ≠ 0x80008 → ¬Mail off → t.raw off = s.raw off := by
  obtain ⟨t, e, hr, hc, raw⟩ := regWriteAt_secCtrl h (val := val) (mask := mask)
  have set := flag_storeReg_secCtrl ((flag_secCtrl_begun (seq := seq) rfl).trans hl) (f := Fld.secCtrl_testLock) rfl rfl
    (by decide) h1
  have wipe := wipePending_writeSec ((flag_secCtrl_begun rfl).trans ht) set
  refine ⟨t, e, hr, hc, ?_, ?_, fun off h0 h8 hm => ?_⟩
  · rw [flag_eq_getLsbD _ rfl] at set ⊢
    rw [← set]
    exact congrArg (·.getLsbD 1) ((raw _ not_mail_secCtrl).trans (raw_writeSec_ctrl ..))
  · rw [flag_eq_getLsbD _ rfl] at wipe ⊢
    rw [← wipe]
    exact congrArg (·.getLsbD 3) (raw _ not_mail_secStatus)
  · exact (raw off hm).trans ((raw_writeSec_ne h0 h8).trans ((kept_begun s 0x11 seq []).2 off hm))

/-- LOCK (11 R424). -/
theorem lock_completes (h : Arrives s seq True True True) (hl : s.flag Fld.secCtrl_lock = false)
    (h0 : (val &&& mask).getLsbD 0 = true) :
    ∃ t, exec (.lock seq val mask) s = .next t ∧ Rest s t ∧ Completed s t seq .ok 0 [] ∧
      t.flag Fld.secCtrl_lock = true := by
  obtain ⟨t, e, hr, hc, raw⟩ := regWriteAt_secCtrl h (val := val) (mask := mask)
  have set := flag_storeReg_secCtrl ((flag_secCtrl_begun (seq := seq) rfl).trans hl) (f := Fld.secCtrl_lock) rfl rfl
    (by decide) h0
  refine ⟨t, e, hr, hc, ?_⟩
  rw [flag_eq_getLsbD _ rfl] at set ⊢
  rw [← set]
  exact congrArg (·.getLsbD 0) ((raw _ not_mail_secCtrl).trans (raw_writeSec_ctrl ..))

/-- A write of SEC_CTRL under LOCK (11 R424). -/
theorem locked_completes (h : Arrives s seq True True True) (hl : s.flag Fld.secCtrl_lock = true) :
    ∃ t, regWriteAt seq Reg.secCtrl val mask s = .next t ∧ Kept s t ∧ Completed s t seq .ok 0 [] := by
  obtain ⟨t, e, hr, hc, raw⟩ := regWriteAt_secCtrl h (val := val) (mask := mask)
  have kb := kept_begun s 0x11 seq []
  have same := raw_storeReg_locked (val := val) (mask := mask) ((flag_secCtrl_begun (seq := seq) rfl).trans hl)
  have sec := writeSec_same (s := begun s 0x11 seq []) (val := val) (mask := mask) (by
    unfold State.flag State.fld
    rw [same])
  exact ⟨t, e, ⟨hr, fun off hm => by rw [raw off hm, sec, same, kb.2 off hm]⟩, hc⟩

/-! ### Trace partitions (12 R450, R451) -/

/-- The table of DBG_TRACE_CFG. -/
def traceCfgSpec : RegSpec := ⟨0xc0100, 0x10, 8, 0x0, 1,
  [⟨32, 16, .rw, 0⟩, ⟨24, 8, .rw, 0⟩, ⟨16, 8, .rw, 0⟩, ⟨5, 1, .rw, 0⟩, ⟨4, 1, .rw, 0⟩, ⟨2, 2, .rw, 0⟩,
    ⟨0, 1, .rw, 0⟩]⟩

theorem regSpec_traceCfg : ∀ k < 8, regSpec (Reg.dbgTraceCfg k) = some traceCfgSpec := by decide

theorem isSome_traceCfg {k : Nat} (hk : k < 8) : (regSpec (Reg.dbgTraceCfg k)).isSome = true := by
  rw [regSpec_traceCfg k hk]
  rfl

theorem writeReg_traceCfg {k : Nat} (hk : k < 8) : s.writeReg (Reg.dbgTraceCfg k) val mask = s.writeTrace k val mask := by
  have e : Reg.dbgTraceCfg k = 0xc0100 + 0x10 * k := rfl
  have row : (Reg.dbgTraceCfg k - Reg.dbgTraceCfg 0) / 16 = k := by unfold Reg.dbgTraceCfg; omega
  unfold State.writeReg
  rw [if_neg (by omega)]
  iterate 5 rw [if_neg (by
    simp only [Reg.ethRingAddr, Reg.ethIp4, Reg.ethIp6Hi, Reg.ethIp6Lo, Reg.ethCfg, Reg.secCtrl, Reg.pwrTherm]
    omega)]
  rw [if_pos (by unfold Reg.dbgTraceCfg; omega), row]

theorem clampWord_traceCfg {k : Nat} (hk : k < 8) (mask w : W64) : clampWord (Reg.dbgTraceCfg k) mask w =
    (Fld.dbgTraceCfg_mode 0).fixup mask w fun v => if v = 3 then 0 else v := by
  have e : Reg.dbgTraceCfg k = 0xc0100 + 0x10 * k := rfl
  unfold clampWord
  rw [if_neg (by omega)]
  iterate 9 rw [if_neg (by
    simp only [Reg.schedPart, Reg.warpCtrl, Reg.lnkCtrl, Reg.beatCtrl, Reg.ethCfg, Reg.ethCc, Reg.ethXport, Reg.pwrCtrl,
      Reg.pwrTherm]
    omega)]
  rw [if_pos (by unfold Reg.dbgTraceCfg; omega)]

/-- A bit of DBG_TRACE_CFG outside MODE, written under a full mask. -/
theorem getLsbD_storeReg_traceCfg {k i : Nat} (hk : k < 8) (hi : i < 64) (hm : i < 2 ∨ 4 ≤ i)
    (hb : (0x0000FFFFFFFF003D : W64).getLsbD i = true) :
    ((s.storeReg (Reg.dbgTraceCfg k) val (BitVec.allOnes 64)).raw (Reg.dbgTraceCfg k)).getLsbD i = val.getLsbD i := by
  have hne : Reg.dbgTraceCfg k ≠ Reg.secCtrl := by unfold Reg.dbgTraceCfg Reg.secCtrl; omega
  rw [State.storeReg, regSpec_traceCfg k hk]
  dsimp only
  rw [raw_setRaw_self, clampWord_traceCfg hk, fixup_getLsbD _ _ _ _ (by decide) hm, decide_eq_false hne, Bool.false_and,
    written_rw (m := 0x0000FFFFFFFF003D) _ _ _ (by decide) (by decide), BitVec.and_allOnes]
  exact (getLsbD_storedBits _ _ _ hi).trans (by rw [hb, if_pos rfl])

theorem mail_dbg {off : Nat} (h : 0xC0000 ≤ off ∧ off < 0xD0000) : Mail off := .inr h

theorem kept_storeReg {off : Nat} (s : State) (val mask : W64) (h : Mail off) : Kept s (s.storeReg off val mask) := by
  unfold State.storeReg
  split
  · exact kept_setRaw _ _ _ h
  · exact kept_refl s

theorem storeReg_eth (s : State) (off : Nat) (val mask : W64) : (s.storeReg off val mask).eth = s.eth := by
  unfold State.storeReg
  split <;> rfl

theorem kept_restartTrace (s : State) {k : Nat} (hk : k < 8) : Kept s (s.restartTrace k) :=
  kept_trans (kept_setRaw s (Reg.dbgTracePos k) 0 (mail_dbg (dbgTracePos_inDbg hk)))
    ⟨rfl, (kept_setFld _ Fld.dbgStatus_triggered _ (mail_dbg (by decide))).2⟩

theorem raw_restartTrace (s : State) {k off : Nat} (hp : off ≠ Reg.dbgTracePos k) (hd : off ≠ Reg.dbgStatus) :
    (s.restartTrace k).raw off = s.raw off :=
  (raw_setFld_ne _ Fld.dbgStatus_triggered _ off hd).trans (raw_setRaw_ne s _ off _ hp)

theorem raw_restartTrace_cfg (s : State) (k j : Nat) : (s.restartTrace k).raw (Reg.dbgTraceCfg j) = s.raw (Reg.dbgTraceCfg j) :=
  raw_restartTrace s (by unfold Reg.dbgTraceCfg Reg.dbgTracePos; omega) (by unfold Reg.dbgTraceCfg Reg.dbgStatus; omega)

theorem raw_restartTrace_pos (s : State) (k : Nat) : (s.restartTrace k).raw (Reg.dbgTracePos k) = 0 :=
  (raw_setFld_ne _ Fld.dbgStatus_triggered _ (Reg.dbgTracePos k) (by
    show 0xc0108 + 0x10 * k ≠ 0xc0000
    omega)).trans (raw_setRaw_self s _ _)

theorem begun_claimed (k : Nat) : (begun s 0x11 seq []).claimed 2 k = s.claimed 2 k := by
  simp only [State.claimed, rest_claims (kept_begun s 0x11 seq []).1]

theorem uncounted_traceCfg (k : Nat) : Uncounted (Reg.dbgTraceCfg k) := uncounted_dbg (by unfold Reg.dbgTraceCfg; omega)

/-- TRACE_ENABLE of a partition that nobody claims (12 R450). -/
theorem traceEnable_unclaimed (h : Arrives s seq True True True) {k : Nat} (hk : k < 8)
    (hn : ∀ c ∈ s.claims, ¬(c.kind = 2 ∧ c.index = k)) :
    ∃ t, exec (.traceEnable seq k val mask) s = .next t ∧ Kept s t ∧ Completed s t seq .ok 0 [] ∧
      t.raw (Reg.dbgTraceCfg k) = s.raw (Reg.dbgTraceCfg k) := by
  have e : exec (.traceEnable seq k val mask) s = regWriteAt seq (Reg.dbgTraceCfg k) val mask s := if_pos hk
  have off : Reg.dbgTraceCfg k = 0xc0100 + 0x10 * k := rfl
  have free : (s.claimed 2 k).isNone = true := by
    rw [Option.isNone_iff_eq_none, State.claimed, List.find?_eq_none]
    intro c hc
    simpa using hn c hc
  have hw : (begun s 0x11 seq []).writeReg (Reg.dbgTraceCfg k) val mask = begun s 0x11 seq [] := by
    rw [writeReg_traceCfg hk, State.writeTrace, if_pos (by rw [begun_claimed]; exact free)]
  obtain ⟨et, kt, hc⟩ := regWriteAt_mail h (by omega) (by omega) (by omega) (isSome_traceCfg hk) hw (kept_refl _)
    (awaits_begun h 0x11 [])
  rw [e]
  exact ⟨_, et, kt, hc, (raw_complete (uncounted_traceCfg k) (untraced_cfg _ k) seq {}).trans
    (raw_begun_untraced (untraced_cfg s k) ..)⟩

/-- Partition `k` configured by a full write of `val`, and started. -/
def traceStarted (s : State) (k : Nat) (val : W64) : State :=
  (s.storeReg (Reg.dbgTraceCfg k) val (BitVec.allOnes 64)).restartTrace k

theorem kept_traceStarted (s : State) {k : Nat} (hk : k < 8) (val : W64) : Kept s (traceStarted s k val) :=
  kept_trans (kept_storeReg s val _ (mail_dbg (by unfold Reg.dbgTraceCfg; omega))) (kept_restartTrace _ hk)

theorem traceStarted_eth (s : State) (k : Nat) (val : W64) : (traceStarted s k val).eth = s.eth := storeReg_eth s _ val _

theorem getLsbD_traceStarted_cfg {k i : Nat} (hk : k < 8) (hi : i < 64) (hm : i < 2 ∨ 4 ≤ i)
    (hb : (0x0000FFFFFFFF003D : W64).getLsbD i = true) :
    ((traceStarted s k val).raw (Reg.dbgTraceCfg k)).getLsbD i = val.getLsbD i :=
  (congrArg (·.getLsbD i) (raw_restartTrace_cfg _ k k)).trans (getLsbD_storeReg_traceCfg hk hi hm hb)

/-- A partition whose sources leave out the commands does not name theirs. -/
theorem traceStarted_unnamed {k : Nat} (hk : k < 8) (h16 : val.getLsbD 16 = false) :
    ((traceStarted s k val).fld (Fld.dbgTraceCfg_sources k)).testBit 0 = false :=
  (testBit_fld _ _ (by show 0 < 8; decide)).trans
    ((getLsbD_traceStarted_cfg (i := 16) hk (by decide) (by decide) (by decide)).trans h16)

theorem writeReg_traceStarted {k : Nat} (hk : k < 8) (hc : (s.claimed 2 k).isNone = false)
    (he : s.flag (Fld.dbgTraceCfg_enable k) = false) (h0 : val.getLsbD 0 = true) :
    s.writeReg (Reg.dbgTraceCfg k) val (BitVec.allOnes 64) = traceStarted s k val := by
  rw [writeReg_traceCfg hk, State.writeTrace, hc, if_neg Bool.false_ne_true, he, BitVec.and_allOnes, h0]
  rfl

/-- TRACE_ENABLE of a claimed partition starts it at index 0 (12 R451); the record of its completion, whose source the partition
does not name, leaves it there. -/
theorem traceEnable_claimed (h : Arrives s seq True True True) {k : Nat} (hk : k < 8)
    (hcl : ∃ c ∈ s.claims, c.kind = 2 ∧ c.index = k) (hoff : s.flag (Fld.dbgTraceCfg_enable k) = false)
    (h0 : val.getLsbD 0 = true) (h16 : val.getLsbD 16 = false) :
    ∃ t, exec (.traceEnable seq k val (BitVec.allOnes 64)) s = .next t ∧ Kept s t ∧ Completed s t seq .ok 0 [] ∧
      t.flag (Fld.dbgTraceCfg_enable k) = true ∧ t.fld (Fld.dbgTracePos_index k) = 0 ∧
      t.flag (Fld.dbgTracePos_stopped k) = false := by
  have e : exec (.traceEnable seq k val (BitVec.allOnes 64)) s = regWriteAt seq (Reg.dbgTraceCfg k) val (BitVec.allOnes 64) s :=
    if_pos hk
  have off : Reg.dbgTraceCfg k = 0xc0100 + 0x10 * k := rfl
  have idle : (begun s 0x11 seq []).flag (Fld.dbgTraceCfg_enable k) = false := by
    rw [flag_eq_getLsbD _ rfl] at hoff ⊢
    exact (congrArg (·.getLsbD 0) (raw_begun_untraced (untraced_cfg s k) 0x11 seq [])).trans hoff
  have taken : ((begun s 0x11 seq []).claimed 2 k).isNone = false := by
    obtain ⟨c, hc, hkind, hindex⟩ := hcl
    rw [begun_claimed, Option.isNone_eq_false_iff, State.claimed, List.find?_isSome]
    exact ⟨c, hc, by simp [hkind, hindex]⟩
  have kx := kept_traceStarted (begun s 0x11 seq []) hk val
  have eth := traceStarted_eth (begun s 0x11 seq []) k val
  obtain ⟨et, kt, hc⟩ := regWriteAt_mail h (by omega) (by omega) (by omega) (isSome_traceCfg hk)
    (writeReg_traceStarted hk taken idle h0) kx ((awaits_begun h 0x11 []).of_eth eth (kept_beat kx))
  have cfg := raw_complete (uncounted_traceCfg k) (untraced_cfg (traceStarted (begun s 0x11 seq []) k val) k) seq {}
  have pos := (raw_complete (uncounted_dbg (by unfold Reg.dbgTracePos; omega))
    (untraced_pos (traceStarted_unnamed (s := begun s 0x11 seq []) hk h16)) seq {}).trans (raw_restartTrace_pos _ k)
  rw [e]
  refine ⟨_, et, kt, hc, ?_, ?_, ?_⟩
  · rw [flag_eq_getLsbD _ rfl, ← h0]
    exact (congrArg (·.getLsbD 0) cfg).trans (getLsbD_traceStarted_cfg (i := 0) hk (by decide) (by decide) (by decide))
  · rw [State.fld, show (Fld.dbgTracePos_index k).off = Reg.dbgTracePos k from rfl, pos]
    show 0 / 2 ^ 0 % 2 ^ 15 = 0
    decide
  · rw [flag_eq_getLsbD _ rfl, show (Fld.dbgTracePos_stopped k).off = Reg.dbgTracePos k from rfl, pos]
    exact BitVec.getLsbD_zero

end

end Sys2Proof.Proofs
end

section
/-!
Proofs: the REG_WRITEs of a ring's configuration (10 R402).
-/
namespace Sys2Proof.Proofs
open Sys2Proof.Machine Sys2Proof.Safety Sys2Proof.Laws

section
variable {s x : State} {seq val mask : W64} {n : Nat}

/-- A REG_WRITE whose write changes registers of the mail alone: the registers outside the DBG block that no message counts in
read as the write left them. -/
theorem regWriteAt_eth (h : Arrives s seq True True True) {off : Nat} (h8 : off % 8 = 0) (hlo : 0x10000 ≤ off)
    (hhi : off < 0x1000000) (hr : (regSpec off).isSome = true) (hx : (begun s 0x11 seq []).writeReg off val mask = x)
    (k : Kept (begun s 0x11 seq []) x) (hw : Awaits s x seq) :
    ∃ t, regWriteAt seq off val mask s = .next t ∧ Kept s t ∧ Completed s t seq .ok 0 [] ∧
      ∀ o, OutsideDbg o → Uncounted o → t.raw o = x.raw o := by
  obtain ⟨e, kt, hc⟩ := regWriteAt_mail h h8 hlo hhi hr hx k hw
  exact ⟨_, e, kt, hc, fun o ho hu => raw_complete hu (untraced_of_outsideDbg x ho) seq {}⟩

/-! ### ETH_RING_CFG (10 R402) -/

/-- The bits of ETH_RING_CFG that take a value. -/
def ringCfgBits : W64 := 0xFFFFFFFFFFFF0000

/-- The table of ETH_RING_CFG. -/
def ringCfgSpec : RegSpec :=
  ⟨0x75008, 0x20, 256, 0x0, 1, [⟨32, 32, .rw, 0⟩, ⟨31, 1, .rw, 0⟩, ⟨26, 5, .rw, 0⟩, ⟨16, 10, .rw, 0⟩]⟩

/-- The tables of the blocks before the ETH block. -/
def regTableBeforeEth : List RegSpec :=
  regTableDev ++ regTableClk ++ regTablePwr ++ regTableBeat ++ regTableLnk ++ regTableXpt ++ regTableVlt

theorem pastLast_regTableBeforeEth : ∀ r ∈ regTableBeforeEth, pastLast r ≤ 0x75008 := by decide

theorem pastLast_regTableEth : ∀ r ∈ regTableEth.take 26, pastLast r ≤ 0x75008 := by decide

/-- Tables whose registers all lie below `off` do not hold it. -/
theorem find?_of_past {l : List RegSpec} {b off : Nat} (h : ∀ r ∈ l, pastLast r ≤ b) (hb : b ≤ off) :
    l.find? (·.has off) = none := by
  rw [List.find?_eq_none]
  intro r hr hh
  have := h r hr
  have := lt_pastLast_of_has hh
  omega

theorem regSpec_ringCfg (hn : n < 256) : regSpec (Reg.ethRingCfg n) = some ringCfgSpec := by
  have addr : (Reg.ethRingCfg n - 0x75000) % 0x20 = 8 := by unfold Reg.ethRingCfg; omega
  have past : Reg.ethRingCfg n - 0x75008 = 0x20 * n := Nat.add_sub_cancel_left ..
  have row : (Reg.ethRingCfg n - 0x75008) / 0x20 = n := by rw [past, Nat.mul_div_cancel_left n (by decide)]
  have col : (Reg.ethRingCfg n - 0x75008) % 0x20 = 0 := by rw [past, Nat.mul_mod_right]
  have first : 0x75008 ≤ Reg.ethRingCfg n := by unfold Reg.ethRingCfg; omega
  have eth : regTableEth.find? (·.has (Reg.ethRingCfg n)) = some ringCfgSpec := by
    rw [← List.take_append_drop 26 regTableEth, List.find?_append, find?_of_past pastLast_regTableEth first]
    simp [regTableEth, List.find?, RegSpec.has, ringCfgSpec, addr, row, col, first, hn]
  rw [regSpec, regTable_eq, regTableLow, ← regTableBeforeEth]
  simp only [List.find?_append, eth, find?_of_past pastLast_regTableBeforeEth first, Option.none_or, Option.some_or]

theorem flag_congr {f : Fld} (h : x.raw f.off = s.raw f.off) : x.flag f = s.flag f := by
  rw [State.flag, State.flag, State.fld, State.fld, h]

theorem clampWord_ringCfg (hn : n < 256) (mask w : W64) : clampWord (Reg.ethRingCfg n) mask w = w := by
  have e : Reg.ethRingCfg n = 0x75008 + 0x20 * n := rfl
  unfold clampWord
  rw [if_neg (by omega)]
  iterate 10 rw [if_neg (by
    simp only [Reg.schedPart, Reg.warpCtrl, Reg.lnkCtrl, Reg.beatCtrl, Reg.ethCfg, Reg.ethCc, Reg.ethXport, Reg.pwrCtrl,
      Reg.pwrTherm, Reg.dbgTraceCfg]
    omega)]

theorem storeReg_ringCfg (hn : n < 256) : s.storeReg (Reg.ethRingCfg n) val mask =
    s.setRaw (Reg.ethRingCfg n) (storedBits (s.raw (Reg.ethRingCfg n)) val (ringCfgBits &&& mask)) := by
  have hne : Reg.ethRingCfg n ≠ Reg.secCtrl := by unfold Reg.ethRingCfg Reg.secCtrl; omega
  rw [storeReg_unclamped (regSpec_ringCfg hn) (clampWord_ringCfg hn mask) (by rw [decide_eq_false hne, Bool.false_and]),
    written_rw (m := ringCfgBits) _ _ _ (by decide) (by decide)]
  rfl

theorem writeReg_ringCfg (hn : n < 256) : s.writeReg (Reg.ethRingCfg n) val mask = s.writeRingCfg n val mask := by
  have row : (Reg.ethRingCfg n - Reg.ethRingAddr 0) / 32 = n := by unfold Reg.ethRingCfg Reg.ethRingAddr; omega
  have col : Reg.ethRingCfg n % 32 / 8 = 1 := by unfold Reg.ethRingCfg; omega
  rw [State.writeReg, if_neg (by unfold Reg.ethRingCfg; omega), if_pos (by unfold Reg.ethRingCfg Reg.ethRingAddr; omega), row,
    col, State.writeRing, if_pos rfl]

/-- The registers of ring `n`. -/
def ringRegs (n : Nat) : List Nat := [Reg.ethRingAddr n, Reg.ethRingCfg n, Reg.ethRingCons n, Reg.ethRingProd n]

theorem ringReg_shown {o : Nat} (hn : n < 256)
    (h : o ∈ ringRegs n) :
    OutsideDbg o ∧ Uncounted o ∧ Mail o := by
  simp only [ringRegs, List.mem_cons, List.not_mem_nil, or_false, Reg.ethRingAddr, Reg.ethRingCfg, Reg.ethRingCons,
    Reg.ethRingProd] at h
  unfold OutsideDbg Uncounted Mail Reg.ethTxFrames Reg.ethQpPsn
  omega

/-- A change of the mail's registers under which the command runs on. -/
def Quiet (s x : State) : Prop := Kept s x ∧ x.eth.running = s.eth.running ∧ x.eth.outcomes = s.eth.outcomes

theorem quiet_setRaw {off : Nat} (w : W64) (h : Mail off) : Quiet s (s.setRaw off w) := ⟨kept_setRaw _ _ _ h, rfl, rfl⟩

theorem quiet_setFld {f : Fld} (v : Nat) (h : Mail f.off) : Quiet s (s.setFld f v) := quiet_setRaw _ h

theorem Quiet.trans {y : State} (h : Quiet s x) (k : Quiet x y) : Quiet s y :=
  ⟨kept_trans h.1 k.1, k.2.1.trans h.2.1, k.2.2.trans h.2.2⟩

/-- A REG_WRITE of ETH_RING_CFG. -/
theorem regWriteAt_ringCfg (h : Arrives s seq True True True) (hn : n < 256)
    (hq : Quiet (begun s 0x11 seq []) ((begun s 0x11 seq []).writeRingCfg n val mask)) :
    ∃ t, regWriteAt seq (Reg.ethRingCfg n) val mask s = .next t ∧ Kept s t ∧ Completed s t seq .ok 0 [] ∧
      ∀ o, OutsideDbg o → Uncounted o → t.raw o = ((begun s 0x11 seq []).writeRingCfg n val mask).raw o := by
  have off : Reg.ethRingCfg n = 0x75008 + 0x20 * n := rfl
  obtain ⟨k, hrun, hout⟩ := hq
  exact regWriteAt_eth h (by omega) (by omega) (by omega) (by rw [regSpec_ringCfg hn]; rfl) (writeReg_ringCfg hn) k
    ((awaits_begun h 0x11 []).of_kept k hrun hout)

/-- A ring that is enabled takes ENABLE alone. -/
theorem writeRingCfg_disables (hn : n < 256) (he : s.flag (Fld.ethRingCfg_enable n) = true) (hm : mask.getLsbD 31 = true)
    (hv : val.getLsbD 31 = false) :
    s.writeRingCfg n val mask = s.setRaw (Reg.ethRingCfg n) (s.raw (Reg.ethRingCfg n) &&& ~~~(0x80000000 : W64)) := by
  have en : (Fld.ethRingCfg_enable n).mask = BitVec.twoPow 64 31 := by show (Fld.ethRingCfg_enable 0).mask = _; decide
  have bits : ringCfgBits &&& (mask &&& (Fld.ethRingCfg_enable n).mask) = BitVec.twoPow 64 31 := by
    rw [en, BitVec.and_twoPow, if_pos hm]
    decide
  have none : val &&& BitVec.twoPow 64 31 = 0 := by rw [BitVec.and_twoPow, hv]; rfl
  rw [State.writeRingCfg]
  dsimp only
  rw [if_pos he, storeReg_ringCfg hn, bits, storedBits, none]
  exact congrArg _ BitVec.or_zero

/-- RING_DISABLE (10 R402). -/
theorem ringDisable_completes (h : Arrives s seq True True True) (hn : n < 256)
    (he : s.flag (Fld.ethRingCfg_enable n) = true) (hm : mask.getLsbD 31 = true) (hv : val.getLsbD 31 = false) :
    ∃ t, exec (.ringDisable seq n val mask) s = .next t ∧ Kept s t ∧ Completed s t seq .ok 0 [] ∧
      t.raw (Reg.ethRingCfg n) = s.raw (Reg.ethRingCfg n) &&& ~~~(0x80000000 : W64) := by
  have e : exec (.ringDisable seq n val mask) s = regWriteAt seq (Reg.ethRingCfg n) val mask s := if_pos hn
  obtain ⟨shown, uncounted, mail⟩ := ringReg_shown hn (o := Reg.ethRingCfg n) (by simp [ringRegs])
  have cfg := raw_begun s 0x11 seq [] shown
  have w := writeRingCfg_disables (s := begun s 0x11 seq []) hn ((flag_congr cfg).trans he) hm hv
  obtain ⟨t, et, kt, hc, raw⟩ := regWriteAt_ringCfg h hn (val := val) (mask := mask) (by rw [w]; exact quiet_setRaw _ mail)
  exact ⟨t, e.trans et, kt, hc, by rw [raw _ shown uncounted, w, raw_setRaw_self, cfg]⟩

/-- What R402 asks of a ring's configuration `w`, given its address registers. -/
def RingFits (s : State) (n : Nat) (w : W64) : Prop :=
  6 ≤ w.toNat / 2 ^ 26 % 32 ∧ w.toNat / 2 ^ 26 % 32 ≤ (if n = 255 then 16 else 20) ∧ 2 ≤ w.toNat / 2 ^ 16 % 2 ^ 10 ∧
    (s.raw (Reg.ethRingAddr n)).toNat % 64 = 0 ∧ (s.raw (Reg.ethRingCons n)).toNat % 64 = 0

theorem ringOk_iff (s : State) (n : Nat) (w : W64) : s.ringOk n w = true ↔ RingFits s n w := by
  simp only [State.ringOk, Bool.and_eq_true, decide_eq_true_eq, and_assoc]
  rfl

/-- Ring `n` starts: PRODUCED is 0, and nothing of it is consumed. -/
def ringStarted (s : State) (n : Nat) : State :=
  { s.setRaw (Reg.ethRingProd n) 0 with
    eth := { s.eth with consumed := SMap.del s.eth.consumed n, consBeat := SMap.del s.eth.consBeat n } }

theorem quiet_ringStarted (s : State) (hn : n < 256) : Quiet s (ringStarted s n) :=
  have k := kept_setRaw s (Reg.ethRingProd n) 0 (ringReg_shown hn (by simp [ringRegs])).2.2
  ⟨⟨k.1, k.2⟩, rfl, rfl⟩

theorem raw_ringStarted_prod (s : State) (n : Nat) : (ringStarted s n).raw (Reg.ethRingProd n) = 0 := raw_setRaw_self s _ _

theorem raw_ringStarted_cfg (s : State) (n : Nat) : (ringStarted s n).raw (Reg.ethRingCfg n) = s.raw (Reg.ethRingCfg n) :=
  raw_setRaw_ne s _ _ _ (by unfold Reg.ethRingProd Reg.ethRingCfg; omega)

/-- A write that sets ENABLE of a ring whose ENABLE is 0. -/
theorem writeRingCfg_stored (hn : n < 256) {w : W64}
    (hw : storedBits (s.raw (Reg.ethRingCfg n)) val (mask &&& ringCfgBits) = w)
    (he : s.flag (Fld.ethRingCfg_enable n) = false) (h31 : w.getLsbD 31 = true) :
    s.writeRingCfg n val mask =
      if s.ringOk n w then ringStarted (s.setRaw (Reg.ethRingCfg n) w) n
      else (s.setRaw (Reg.ethRingCfg n) w).setFld (Fld.ethRingCfg_enable n) 0 := by
  have stored : s.storeReg (Reg.ethRingCfg n) val mask = s.setRaw (Reg.ethRingCfg n) w := by
    rw [storeReg_ringCfg hn, BitVec.and_comm ringCfgBits, hw]
  have cfg : (s.setRaw (Reg.ethRingCfg n) w).raw (Reg.ethRingCfg n) = w := raw_setRaw_self ..
  have set : (s.setRaw (Reg.ethRingCfg n) w).flag (Fld.ethRingCfg_enable n) = true := by
    rw [flag_eq_getLsbD _ rfl]
    exact (congrArg (·.getLsbD 31) cfg).trans h31
  have addr : (s.setRaw (Reg.ethRingCfg n) w).raw (Reg.ethRingAddr n) = s.raw (Reg.ethRingAddr n) :=
    raw_setRaw_ne _ _ _ _ (by unfold Reg.ethRingAddr Reg.ethRingCfg; omega)
  have cons : (s.setRaw (Reg.ethRingCfg n) w).raw (Reg.ethRingCons n) = s.raw (Reg.ethRingCons n) :=
    raw_setRaw_ne _ _ _ _ (by unfold Reg.ethRingCons Reg.ethRingCfg; omega)
  have ok : (s.setRaw (Reg.ethRingCfg n) w).ringOk n w = s.ringOk n w := by
    rw [Bool.eq_iff_iff, ringOk_iff, ringOk_iff, RingFits, RingFits, addr, cons]
  rw [State.writeRingCfg]
  dsimp only
  rw [he, if_neg Bool.false_ne_true, stored, if_pos set, cfg, ok]
  rfl

/-- RING_ENABLE (10 R402). -/
theorem ringEnable_completes (h : Arrives s seq True True True) (hn : n < 256) {w : W64}
    (hw : w = storedBits (s.raw (Reg.ethRingCfg n)) val (mask &&& ringCfgBits))
    (he : s.flag (Fld.ethRingCfg_enable n) = false) (h31 : w.getLsbD 31 = true) :
    ∃ t, exec (.ringEnable seq n val mask) s = .next t ∧ Kept s t ∧ Completed s t seq .ok 0 [] ∧
      (RingFits s n w → t.raw (Reg.ethRingCfg n) = w ∧ t.raw (Reg.ethRingProd n) = 0) ∧
      (¬RingFits s n w → t.flag (Fld.ethRingCfg_enable n) = false) := by
  have e : exec (.ringEnable seq n val mask) s = regWriteAt seq (Reg.ethRingCfg n) val mask s := if_pos hn
  have view : ∀ o ∈ ringRegs n, (begun s 0x11 seq []).raw o = s.raw o := fun o ho =>
    raw_begun s 0x11 seq [] (ringReg_shown hn ho).1
  have cfg := view (Reg.ethRingCfg n) (by simp [ringRegs])
  have fits : (begun s 0x11 seq []).ringOk n w = true ↔ RingFits s n w := by
    rw [ringOk_iff, RingFits, RingFits, view _ (by simp [ringRegs]), view (Reg.ethRingCons n) (by simp [ringRegs])]
  obtain ⟨cfgShown, cfgUncounted, cfgMail⟩ := ringReg_shown hn (o := Reg.ethRingCfg n) (by simp [ringRegs])
  obtain ⟨prodShown, prodUncounted, -⟩ := ringReg_shown hn (o := Reg.ethRingProd n) (by simp [ringRegs])
  have wr := writeRingCfg_stored (s := begun s 0x11 seq []) hn (by rw [cfg, hw]) ((flag_congr cfg).trans he) h31
  have stored : Quiet (begun s 0x11 seq []) ((begun s 0x11 seq []).setRaw (Reg.ethRingCfg n) w) := quiet_setRaw w cfgMail
  by_cases hf : RingFits s n w
  · rw [if_pos (fits.2 hf)] at wr
    obtain ⟨t, et, kt, hc, raw⟩ := regWriteAt_ringCfg h hn (by
      rw [wr]
      exact stored.trans (quiet_ringStarted _ hn))
    refine ⟨t, e.trans et, kt, hc, fun _ => ⟨?_, ?_⟩, fun hn => absurd hf hn⟩
    · rw [raw _ cfgShown cfgUncounted, wr, raw_ringStarted_cfg, raw_setRaw_self]
    · rw [raw _ prodShown prodUncounted, wr, raw_ringStarted_prod]
  · rw [if_neg (mt fits.1 hf)] at wr
    obtain ⟨t, et, kt, hc, raw⟩ := regWriteAt_ringCfg h hn (by
      rw [wr]
      exact stored.trans (quiet_setFld 0 cfgMail))
    refine ⟨t, e.trans et, kt, hc, fun hy => absurd hy hf, fun _ => ?_⟩
    have off : t.raw (Fld.ethRingCfg_enable n).off = _ := raw _ cfgShown cfgUncounted
    rw [flag_congr off, wr, State.flag, fld_setFld_self _ _ _ (by show 32 ≤ 64; decide), Nat.zero_mod]
    rfl

end

end Sys2Proof.Proofs
end

section
/-!
Proofs: the REG_WRITEs of the device's own addresses, and the queue pairs that a change of them moves to ERROR (10 R364, R375).
-/
namespace Sys2Proof.Proofs
open Sys2Proof.Machine Sys2Proof.Safety Sys2Proof.Laws

/-! ### The completion of another command -/

section
variable {s x y : State} {seq q : W64}

theorem running_complete (x : State) (q : W64) (a : Answer) :
    (x.complete q a).eth.running = x.eth.running.filter fun r => r.seq ≠ q := by
  unfold State.complete
  split
  · unfold State.completeAs
    extract_lets phase c rx s1 eth s2 s3
    rw [(traceRec_eth _ _ _ _ _ _).1, (send_eth _ _).1]
    show s1.eth.running.filter _ = _
    rw [charge_eth]
  · next h => exact (List.filter_eq_self.2 fun r hr => by simpa using List.find?_eq_none.1 h r hr).symm

theorem mem_outcomes_complete {o : Option Completion} (h : (seq, o) ∈ x.eth.outcomes) (hq : q ≠ seq) (a : Answer) :
    (seq, o) ∈ (x.complete q a).eth.outcomes := by
  unfold State.complete
  split
  · unfold State.completeAs
    extract_lets phase c rx s1 eth s2 s3
    rw [(traceRec_eth _ _ _ _ _ _).1, (send_eth _ _).2.1]
    refine List.mem_map.2 ⟨(seq, o), ?_, if_neg hq.symm⟩
    show _ ∈ s1.eth.outcomes
    rwa [charge_eth]
  · exact h

/-- A command runs on while another completes. -/
theorem awaits_complete (h : Awaits s x seq) (hq : q ≠ seq) (a : Answer) : Awaits s (x.complete q a) seq := by
  obtain ⟨⟨r, hr, hacc⟩, ⟨o, ho⟩, hb⟩ := h
  refine ⟨⟨r, ?_, hacc⟩, ⟨o, mem_outcomes_complete ho hq a⟩, (kept_beat (kept_complete x q a)).trans hb⟩
  have same : (fun r : Running => decide (r.seq ≠ q) && decide (r.seq = seq)) = fun r => decide (r.seq = seq) := by
    funext r
    by_cases e : r.seq = seq
    · simp [e, hq.symm]
    · simp [e]
  simp only [State.running?, running_complete, List.find?_filter, decide_eq_true_eq, Bool.decide_and, same]
  exact hr

/-- Of the commands that run, none reads host memory, and the one of `seq` does not write it. -/
def Hostless (x : State) (seq : W64) : Prop := ∀ r ∈ x.eth.running, r.region = none ∧ (r.seq = seq → r.put = none)

theorem Hostless.of_subset (h : Hostless x seq) (hs : ∀ r ∈ y.eth.running, r ∈ x.eth.running) : Hostless y seq :=
  fun r hr => h r (hs r hr)

theorem Hostless.readsOn (h : Hostless x seq) (q : Nat) : x.readsOn q = [] := by
  rw [State.readsOn, List.filter_eq_nil_iff]
  intro r hr
  simp [Running.readQp, (h r hr).1]

theorem Hostless.putsOn_ne (h : Hostless x seq) {q : Nat} {r : Running} (hr : r ∈ x.putsOn q) : r.seq ≠ seq := by
  obtain ⟨hr, hp⟩ := List.mem_filter.1 hr
  intro e
  simp [(h r hr).2 e] at hp

/-! ### Queue pairs in ERROR (10 R375) -/

/-- The registers that show the addresses and the queue pairs' states: a message counts in none of them. -/
def Addressing (off : Nat) : Prop := (0x70018 ≤ off ∧ off < 0x70030) ∨ (0x71000 ≤ off ∧ off < 0x75000 ∧ off % 16 = 0)

theorem Addressing.shown {off : Nat} (h : Addressing off) : OutsideDbg off ∧ Uncounted off := by
  unfold Addressing at h
  unfold OutsideDbg Uncounted Reg.ethTxFrames Reg.ethQpPsn
  omega

theorem addressing_qp {q : Nat} (hq : q < 1024) : Addressing (Fld.ethQp_state q).off := by
  show Addressing (0x71000 + 0x10 * q)
  unfold Addressing
  omega

/-- `y` is reached from `x` by completions of other commands than that of `seq`, which runs on. -/
structure Others (s x y : State) (seq : W64) : Prop where
  kept : Kept x y
  awaits : Awaits s y seq
  hostless : Hostless y seq
  raw : ∀ off, Addressing off → y.raw off = x.raw off

theorem others_complete (h : Others s x y seq) (hq : q ≠ seq) (a : Answer) : Others s x (y.complete q a) seq where
  kept := kept_trans h.kept (kept_complete y q a)
  awaits := awaits_complete h.awaits hq a
  hostless := h.hostless.of_subset fun r hr => by
    rw [running_complete] at hr
    exact (List.mem_filter.1 hr).1
  raw off ho := (raw_complete ho.shown.2 (untraced_of_outsideDbg y ho.shown.1) q a).trans (h.raw off ho)

theorem others_completes (l : List Running) (hl : ∀ r ∈ l, r.seq ≠ seq) (a : Answer) (h : Others s x y seq) :
    Others s x (l.foldl (fun s r => s.complete r.seq a) y) seq :=
  List.foldlRecOn l (fun s r => s.complete r.seq a) (motive := fun z => Others s x z seq) h fun _ hz r hr =>
    others_complete hz (hl r hr) a

/-- Queue pair `n` in ERROR, its requests no longer timed. -/
def qpFailed (s : State) (n : Nat) : State :=
  (if n = 0 then (s.setFld (Fld.ethQp_state n) 2).setFld Fld.ethAttach_cmdError 1 else s.setFld (Fld.ethQp_state n) 2).modQp n
    fun x => { x with sentAt := none, retries := 0 }

/-- Where no running command reads host memory, an error of a queue pair ends those that write it through the queue pair. -/
theorem qpError_eq {n : Nat} (h : (qpFailed s n).readsOn n = []) :
    s.qpError n = ((qpFailed s n).putsOn n).foldl (fun s r => s.complete r.seq (.fail .timeout)) (qpFailed s n) := by
  unfold State.qpError
  extract_lets s1 s2 s3 s4
  have e3 : s3 = qpFailed s n := rfl
  have e4 : s4 = qpFailed s n := by simp only [s4, e3, h, List.foldl_nil]
  rw [e4]

theorem qpFailed_eth (s : State) (n : Nat) :
    (qpFailed s n).eth.running = s.eth.running ∧ (qpFailed s n).eth.outcomes = s.eth.outcomes := by
  unfold qpFailed
  split <;> exact ⟨rfl, rfl⟩

theorem kept_qpFailed (s : State) {n : Nat} (hn : n < 1024) : Kept s (qpFailed s n) := by
  have qp : Mail (Fld.ethQp_state n).off := by
    show Mail (0x71000 + 0x10 * n)
    unfold Mail
    omega
  have failed : Kept s (s.setFld (Fld.ethQp_state n) 2) := kept_setFld _ _ _ qp
  have attach : Mail Fld.ethAttach_cmdError.off := by unfold Mail; decide
  exact kept_trans (kept_ite (kept_trans failed (kept_setFld _ _ _ attach)) failed) (kept_modQp ..)

theorem raw_qpFailed (s : State) (n : Nat) {off : Nat} (h : Addressing off) :
    (qpFailed s n).raw off = (s.setFld (Fld.ethQp_state n) 2).raw off := by
  have ne : off ≠ Fld.ethAttach_cmdError.off := by
    rintro rfl
    unfold Addressing at h
    exact absurd h (by decide)
  unfold qpFailed
  split
  · exact raw_setFld_ne _ Fld.ethAttach_cmdError 1 off ne
  · rfl

/-- An error of a queue pair, while the command of `seq` runs on. -/
theorem others_qpError {n : Nat} (ha : Awaits s x seq) (hh : Hostless x seq) (hn : n < 1024) :
    Others s (qpFailed x n) (x.qpError n) seq := by
  obtain ⟨hrun, hout⟩ := qpFailed_eth x n
  have hostless : Hostless (qpFailed x n) seq := hh.of_subset fun r hr => hrun ▸ hr
  rw [qpError_eq (hostless.readsOn n)]
  exact others_completes _ (fun r hr => hostless.putsOn_ne hr) _
    ⟨kept_refl _, ha.of_kept (kept_qpFailed x hn) hrun hout, hostless, fun _ _ => rfl⟩

theorem fld_qpFailed (s : State) {n j : Nat} (hj : j < 1024) :
    (qpFailed s n).fld (Fld.ethQp_state j) = if j = n then 2 else s.fld (Fld.ethQp_state j) := by
  have e : (qpFailed s n).fld (Fld.ethQp_state j) = (s.setFld (Fld.ethQp_state n) 2).fld (Fld.ethQp_state j) := by
    rw [State.fld, State.fld, raw_qpFailed s n (addressing_qp hj)]
  rw [e]
  split
  · next h => rw [h, fld_setFld_self _ _ _ (show 62 + 2 ≤ 64 by decide)]; rfl
  · next h => exact fld_setFld_ne s _ _ 2 fun h' => h (by simpa [Fld.ethQp_state, Reg.ethQp] using h')

/-- The queue pairs of a list move to ERROR one by one. -/
theorem qpErrors (l : List Nat) (hl : ∀ n ∈ l, n < 1024) (ha : Awaits s x seq) (hh : Hostless x seq) :
    Kept x (l.foldl (fun s n => s.qpError n) x) ∧ Awaits s (l.foldl (fun s n => s.qpError n) x) seq ∧
      (∀ off, 0x70018 ≤ off → off < 0x70030 → (l.foldl (fun s n => s.qpError n) x).raw off = x.raw off) ∧
      ∀ j < 1024, (l.foldl (fun s n => s.qpError n) x).fld (Fld.ethQp_state j) =
        if j ∈ l then 2 else x.fld (Fld.ethQp_state j) := by
  induction l generalizing x with
  | nil => exact ⟨kept_refl x, ha, fun _ _ _ => rfl, fun _ _ => rfl⟩
  | cons n l ih =>
    have hn := hl n List.mem_cons_self
    have o := others_qpError ha hh hn
    obtain ⟨k, hw, raw, st⟩ := ih (fun m hm => hl m (List.mem_cons_of_mem n hm)) o.awaits o.hostless
    refine ⟨kept_trans (kept_trans (kept_qpFailed x hn) o.kept) k, hw, fun off h1 h2 => ?_, fun j hj => ?_⟩
    · have apart : off ≠ (Fld.ethQp_state n).off := by show off ≠ 0x71000 + 0x10 * n; omega
      exact (raw off h1 h2).trans ((o.raw off (.inl ⟨h1, h2⟩)).trans
        ((raw_qpFailed x n (.inl ⟨h1, h2⟩)).trans (raw_setFld_ne x _ 2 off apart)))
    · have one : (x.qpError n).fld (Fld.ethQp_state j) = if j = n then 2 else x.fld (Fld.ethQp_state j) := by
        rw [← fld_qpFailed x hj, State.fld, State.fld, o.raw _ (addressing_qp hj)]
      refine (st j hj).trans ?_
      rw [one]
      by_cases hm : j ∈ l <;> simp [hm]

end

/-! ### ETH_IP4, ETH_IP6_HI and ETH_IP6_LO (10 R364) -/

section
variable {s x : State} {seq val : W64} {k : Nat}

/-- The bits that an address register holds. -/
def ipBits (k : Nat) : W64 := if k = 0 then 0x1FFFFFFFF else BitVec.allOnes 64

/-- An address register written under a full mask. -/
def addressWritten (s : State) (k : Nat) (val : W64) : State :=
  s.setRaw (Reg.ethIp4 + 8 * k) (storedBits (s.raw (Reg.ethIp4 + 8 * k)) val (ipBits k))

theorem ip_cases (hk : k < 3) : k = 0 ∨ k = 1 ∨ k = 2 := by omega

theorem isSome_ip (hk : k < 3) : (regSpec (Reg.ethIp4 + 8 * k)).isSome = true := by
  rcases ip_cases hk with rfl | rfl | rfl <;> decide

theorem storeReg_ip (s : State) (hk : k < 3) (val : W64) :
    s.storeReg (Reg.ethIp4 + 8 * k) val (BitVec.allOnes 64) = addressWritten s k val := by
  rcases ip_cases hk with rfl | rfl | rfl
  · rw [storeReg_unclamped (r := ⟨0x70018, 0x0, 1, 0x0, 1, [⟨32, 1, .rw, 0⟩, ⟨0, 32, .rw, 0⟩]⟩) (by decide)
      (fun _ => rfl) rfl,
      written_rw (m := 0x1FFFFFFFF) _ _ _ (by decide) (by decide), BitVec.and_allOnes]
    rfl
  · rw [storeReg_unclamped (r := ⟨0x70020, 0x0, 1, 0x0, 1, [⟨0, 64, .rw, 0⟩]⟩) (by decide) (fun _ => rfl) rfl,
      written_rw (m := BitVec.allOnes 64) _ _ _ (by decide) (by decide), BitVec.and_allOnes]
    rfl
  · rw [storeReg_unclamped (r := ⟨0x70028, 0x0, 1, 0x0, 1, [⟨0, 64, .rw, 0⟩]⟩) (by decide) (fun _ => rfl) rfl,
      written_rw (m := BitVec.allOnes 64) _ _ _ (by decide) (by decide), BitVec.and_allOnes]
    rfl

theorem writeReg_ip (s : State) (hk : k < 3) (val mask : W64) :
    s.writeReg (Reg.ethIp4 + 8 * k) val mask = s.writeAddress (Reg.ethIp4 + 8 * k) val mask := by
  rcases ip_cases hk with rfl | rfl | rfl <;> rfl

/-- The queue pairs that an address change moves to ERROR. -/
def readyQps (s : State) : List Nat := (List.range 1024).filter s.qpReady

theorem mem_readyQps {q : Nat} (hq : q < 1024) : q ∈ readyQps s ↔ s.fld (Fld.ethQp_state q) = 1 := by
  simp [readyQps, State.qpReady, hq]

theorem writeAddress_eq (s : State) (hk : k < 3) (val : W64) :
    s.writeReg (Reg.ethIp4 + 8 * k) val (BitVec.allOnes 64) =
      if s.addrSent && !(addressWritten s k val).addrSent then
        (readyQps (addressWritten s k val)).foldl (fun s q => s.qpError q) (addressWritten s k val)
      else addressWritten s k val := by
  rw [writeReg_ip s hk, State.writeAddress, storeReg_ip s hk]
  rfl

theorem fld_addressWritten (s : State) (hk : k < 3) (val : W64) (q : Nat) :
    (addressWritten s k val).fld (Fld.ethQp_state q) = s.fld (Fld.ethQp_state q) := by
  have apart : (Fld.ethQp_state q).off ≠ Reg.ethIp4 + 8 * k := by
    show 0x71000 + 0x10 * q ≠ 0x70018 + 8 * k
    omega
  rw [State.fld, State.fld, addressWritten, raw_setRaw_ne _ _ _ _ apart]

/-- What a write of an address register leaves, where no running command reads host memory. -/
theorem addressWrite_leaves (ha : Awaits s x seq) (hh : Hostless x seq) (hk : k < 3) {z : State}
    (hz : x.writeReg (Reg.ethIp4 + 8 * k) val (BitVec.allOnes 64) = z) :
    Kept x z ∧ Awaits s z seq ∧
      z.raw (Reg.ethIp4 + 8 * k) = storedBits (x.raw (Reg.ethIp4 + 8 * k)) val (ipBits k) ∧
      ∀ q < 1024, z.fld (Fld.ethQp_state q) =
        if (x.addrSent && !(addressWritten x k val).addrSent) ∧ x.fld (Fld.ethQp_state q) = 1 then 2
        else x.fld (Fld.ethQp_state q) := by
  have mail : Mail (Reg.ethIp4 + 8 * k) := by unfold Mail Reg.ethIp4; omega
  have kw : Kept x (addressWritten x k val) := kept_setRaw _ _ _ mail
  have aw : Awaits s (addressWritten x k val) seq := ha.of_kept kw rfl rfl
  have word : (addressWritten x k val).raw (Reg.ethIp4 + 8 * k) = storedBits (x.raw (Reg.ethIp4 + 8 * k)) val (ipBits k) :=
    raw_setRaw_self ..
  rw [writeAddress_eq x hk] at hz
  split at hz
  · next hc =>
    obtain ⟨k2, a2, raw, st⟩ := qpErrors (readyQps (addressWritten x k val))
      (fun n hn => List.mem_range.1 (List.mem_filter.1 hn).1) aw (hh.of_subset fun r hr => hr)
    subst hz
    refine ⟨kept_trans kw k2, a2, (raw _ ?_ ?_).trans word, fun q hq => ?_⟩
    · unfold Reg.ethIp4; omega
    · unfold Reg.ethIp4; omega
    · rw [st q hq, fld_addressWritten x hk]
      simp only [mem_readyQps hq, fld_addressWritten x hk, hc, true_and]
  · next hc =>
    subst hz
    exact ⟨kw, aw, word, fun q _ => by simp [hc, fld_addressWritten x hk]⟩

theorem hostless_begun (h : Arrives s seq True True True) : Hostless (begun s 0x11 seq []) seq := by
  obtain ⟨-, -, -, -, hr, -, -⟩ := h
  intro r hx
  rw [begun_eth s 0x11 seq [] fun r hx => (hr r hx).1] at hx
  rcases List.mem_append.1 hx with hm | hm
  · obtain ⟨hne, -, hu⟩ := hr r hm
    simp only [Running.unsettled, Bool.or_eq_false_iff, Option.isSome_eq_false_iff, Option.isNone_iff_eq_none] at hu
    exact ⟨hu.1.1, fun e => absurd e hne⟩
  · rw [List.mem_singleton.1 hm]
    exact ⟨rfl, fun _ => rfl⟩

theorem ownIp_begun (a : W32) : (begun s 0x11 seq []).ownIp (.v4 a) = s.ownIp (.v4 a) := by
  have ip4 : (begun s 0x11 seq []).raw Reg.ethIp4 = s.raw Reg.ethIp4 := raw_begun s 0x11 seq [] (.inl (by decide))
  have addr : (begun s 0x11 seq []).fld Fld.ethIp4_addr = s.fld Fld.ethIp4_addr := congrArg (·.toNat / 2 ^ 0 % 2 ^ 32) ip4
  simp only [State.ownIp, addr, flag_congr (f := Fld.ethIp4_valid) ip4]

theorem begun_devAddr : (begun s 0x11 seq []).eth.devAddr = s.eth.devAddr := by
  simp [begun, State.modRunning, State.enter, takeSeq_eth, State.hold]

theorem storedBits_and (old val m : W64) : storedBits old val m &&& m = val &&& m := by
  refine BitVec.eq_of_getLsbD_eq fun i hi => ?_
  rw [BitVec.getLsbD_and, BitVec.getLsbD_and, getLsbD_storedBits _ _ _ hi]
  cases m.getLsbD i <;> simp

theorem storedBits_allOnes (old val : W64) : storedBits old val (BitVec.allOnes 64) = val := by
  have e := storedBits_and old val (BitVec.allOnes 64)
  rwa [BitVec.and_allOnes, BitVec.and_allOnes] at e

/-- A write that clears the VALID bit of ETH_IP4 takes the device's address away. -/
theorem ownIp_addressWritten (s : State) (a : W32) (h : val.getLsbD 32 = false) :
    (addressWritten s 0 val).ownIp (.v4 a) = false := by
  have valid : (addressWritten s 0 val).flag Fld.ethIp4_valid = false := by
    rw [flag_eq_getLsbD _ rfl]
    refine (congrArg (·.getLsbD 32) (raw_setRaw_self s (Reg.ethIp4 + 8 * 0) _)).trans ?_
    rw [getLsbD_storedBits _ _ _ (by decide), if_pos (by decide), h]
  rw [State.ownIp, valid, Bool.false_and]

/-- ETH_ADDRESS_WRITE (10 R364). -/
theorem ethAddressWrite_completes (h : Arrives s seq True True True) (hk : k < 3) :
    ∃ t, exec (.ethAddressWrite seq k val (BitVec.allOnes 64)) s = .next t ∧ Kept s t ∧ Completed s t seq .ok 0 [] ∧
      (k = 0 → t.raw Reg.ethIp4 &&& 0x1FFFFFFFF = val &&& 0x1FFFFFFFF) ∧ (k ≠ 0 → t.raw (Reg.ethIp4 + 8 * k) = val) ∧
      (s.eth.devAddr = none → ∀ q, q < 1024 → t.fld (Fld.ethQp_state q) = s.fld (Fld.ethQp_state q)) ∧
      (∀ a, k = 0 → s.eth.devAddr = some (.v4 a) → s.ownIp (.v4 a) = true → val.getLsbD 32 = false →
        ∀ q, q < 1024 → t.fld (Fld.ethQp_state q) =
          if s.fld (Fld.ethQp_state q) = 1 then 2 else s.fld (Fld.ethQp_state q)) := by
  have e : exec (.ethAddressWrite seq k val (BitVec.allOnes 64)) s =
      regWriteAt seq (Reg.ethIp4 + 8 * k) val (BitVec.allOnes 64) s := if_pos hk
  have off : Reg.ethIp4 + 8 * k = 0x70018 + 8 * k := rfl
  have shown : Addressing (Reg.ethIp4 + 8 * k) := by unfold Addressing; omega
  obtain ⟨kx, ax, word, st⟩ := addressWrite_leaves (val := val) (awaits_begun h 0x11 []) (hostless_begun h) hk rfl
  obtain ⟨t, et, kt, hc, raw⟩ := regWriteAt_eth h (by omega) (by omega) (by omega) (isSome_ip hk) rfl kx ax
  have stored := (raw _ shown.shown.1 shown.shown.2).trans word
  have view : ∀ q < 1024, (begun s 0x11 seq []).fld (Fld.ethQp_state q) = s.fld (Fld.ethQp_state q) := fun q hq => by
    rw [State.fld, State.fld, raw_begun s 0x11 seq [] (addressing_qp hq).shown.1]
  have states : ∀ q < 1024, t.fld (Fld.ethQp_state q) =
      if ((begun s 0x11 seq []).addrSent && !(addressWritten (begun s 0x11 seq []) k val).addrSent) ∧
        s.fld (Fld.ethQp_state q) = 1 then 2 else s.fld (Fld.ethQp_state q) := fun q hq => by
    rw [← view q hq, ← st q hq, State.fld, State.fld, raw _ (addressing_qp hq).shown.1 (addressing_qp hq).shown.2]
  have devAddr := begun_devAddr (s := s) (seq := seq)
  refine ⟨t, e.trans et, kt, hc, ?_, fun h0 => ?_, fun hn q hq => ?_, ?_⟩
  · rintro rfl
    exact (congrArg (· &&& 0x1FFFFFFFF) stored).trans (storedBits_and ..)
  · rw [stored, ipBits, if_neg h0, storedBits_allOnes]
  · have sent : (addressWritten (begun s 0x11 seq []) k val).addrSent = true := by
      rw [State.addrSent, show (addressWritten (begun s 0x11 seq []) k val).eth.devAddr = none from devAddr.trans hn]
    simp [states q hq, sent]
  · rintro a rfl hd hown hv q hq
    have before : (begun s 0x11 seq []).addrSent = true := by
      rw [State.addrSent, devAddr.trans hd]
      exact (ownIp_begun a).trans hown
    have after : (addressWritten (begun s 0x11 seq []) 0 val).addrSent = false := by
      rw [State.addrSent, show (addressWritten (begun s 0x11 seq []) 0 val).eth.devAddr = some (.v4 a) from devAddr.trans hd]
      exact ownIp_addressWritten _ a hv
    simp [states q hq, before, after]

end

/-- Settles O42: each command begins at once and its register write has its effect in the state of its begin; the completion that
follows leaves the registers written alone. -/
theorem registerCommands : Obligations.RegisterCommands := by
  intro seq val mask s h
  refine ⟨fun p hp => peakClear_completes h hp, fun p n hp hn h1 => ?_,
    fun n w hn hw he h31 => ringEnable_completes h hn hw he h31,
    fun n hn he hm hv => ringDisable_completes h hn he hm hv, ?_, fun hl h1 ht => testLock_completes h hl h1 ht,
    fun hl h0 => lock_completes h hl h0, fun hl i hi => ?_, fun h0 => alertClear_completes h h0,
    fun k hk h63 => validClear_completes h hk h63, fun k hk => ⟨fun hn => traceEnable_unclaimed h hk hn, ?_⟩⟩
  · obtain ⟨t, ht, hc, k, others, core⟩ := rearmLostClear_completes h hp hn h1
    refine ⟨t, ht, hc, k, others, ?_, ?_⟩
    · rw [core]
      rfl
    · rw [core]
      exact streamBecame_setStream ..
  · rintro k hk rfl
    exact ethAddressWrite_completes h hk
  · simp only [List.mem_cons, List.not_mem_nil, or_false] at hi
    rcases hi with rfl | rfl
    · exact locked_completes h hl
    · exact locked_completes h hl
  · rintro hcl hoff rfl h0 h16
    exact traceEnable_claimed h hk hcl hoff h0 h16

end Sys2Proof.Proofs
end

section
/-!
Proofs: the vault's canonical form and the save of a core (08 R331). A save copies the spool into the vault as the spool is listed, so
a spool that lists a zero byte takes the canonical form from the vault.
-/
namespace Sys2Proof.Proofs
open Sys2Proof.Machine Sys2Proof.Safety Sys2Proof.Laws

/-! ### A copied entry -/

/-- An entry of the source within the range stands in the memory that has taken the range. -/
theorem mem_blit {m src : Mem} {to_ n off : Nat} {e : Nat × Byte} (he : e ∈ src) (lo : off ≤ e.1) (hi : e.1 < off + n) :
    (e.1 - off + to_, e.2) ∈ m.blit to_ n src off := by
  refine List.mem_append_left _ (List.mem_append_right _ (List.mem_map.mpr ⟨e, List.mem_filter.mpr ⟨he, ?_⟩, rfl⟩))
  simp [lo, hi]

theorem not_wf_of_mem_zero {m : Mem} {a : Nat} (h : (a, 0) ∈ m) : Mem.wf m ≠ true := by
  intro w
  simp only [Mem.wf, SMap.wf, Bool.and_eq_true, List.all_eq_true, decide_eq_true_eq] at w
  exact w.2 _ h rfl

/-! ### The vault through a save -/

/-- A loop whose turns leave the vault alone leaves it alone. -/
theorem vault_foldl {α : Type} (f : State → α → State) (hf : ∀ s a, (f s a).vault = s.vault) (l : List α) (s : State) :
    (l.foldl f s).vault = s.vault :=
  foldl_keeps (R := fun s t => t.vault = s.vault) (fun _ => rfl) (fun h k => k.trans h) f hf l s

theorem vault_swapCheck (s : State) (k : Nat) : (s.swapCheck k).vault = s.vault := by
  unfold State.swapCheck
  extract_lets c
  split <;> rfl

theorem vault_preemptCheck (s : State) (k : Nat) : (s.preemptCheck k).vault = s.vault := by
  unfold State.preemptCheck
  extract_lets s1 c s2 s3
  have h1 : s1.vault = s.vault := vault_swapCheck s k
  have h3 : s3.vault = s1.vault := by
    simp only [s3]
    split <;> rfl
  split
  · refine (vault_foldl _ (fun x seq => ?_) _ s3).trans (h3.trans h1)
    extract_lets x1
    have hx : x1.vault = x.vault := by
      simp only [x1]
      split <;> rfl
    exact (rest_vault (kept_complete x1 seq _).1).trans hx
  · exact h1

/-- The command of a save ends without a further change of the vault. -/
theorem vault_saveCmd (s : State) (key : Nat) (c : RunCmd) :
    (s.saveCmd key c).vault = ((s.saveTraffic c true).writeSaves c).vault := by
  unfold State.saveCmd
  extract_lets cores s1 s2 s3
  have h2 : s2.vault = s1.vault := vault_foldl (fun s p => s.modCore p Core.aborted) (fun _ _ => rfl) _ s1
  exact (vault_preemptCheck s3 _).trans h2

theorem workKept_saveTraffic (s : State) (c : RunCmd) (write : Bool) : WorkKept s (s.saveTraffic c write) := by
  unfold State.saveTraffic
  extract_lets k first ps s1
  have count : ∀ (x : State) (f : Fld) (n : Nat), WorkKept x (x.countWrap f n) := fun _ _ _ => ⟨rfl, rfl, rfl, rfl⟩
  have h1 : WorkKept s s1 := by
    refine foldl_keeps .refl .trans _ (fun x e => foldl_keeps .refl .trans _ (fun y st => ?_) _ x) ps s
    extract_lets n
    split
    · exact count y _ n
    · exact count y _ n
  exact h1.trans (.of_rest (kept_charge s1 _ _ _).1)

theorem vault_freeCtr (s : State) (n : Nat) : ({ s with freeCtr := n } : State).vault = s.vault := rfl

/-- A save area that is one run of bytes takes the image from its start. -/
theorem vault_writeSave_of_one {s : State} {frames : List Nat} {off a n : Nat} (h : framesRange frames off saveBytes = [(a, n)])
    (img : Mem) : (s.writeSave frames off img).vault = s.vault.blit a n img 0 := by
  unfold State.writeSave
  rw [h]
  rfl

/-- The save of a command on one core whose area is one run of bytes. -/
theorem vault_writeSaves_of_one {s : State} {c : RunCmd} {p a n first : Nat}
    (hf : ((s.part (s.ctx c.ctx).part).map (·.first)).getD 0 = first)
    (hp : (s.setCores c).zip (List.range c.count) = [(p, 0)])
    (hr : framesRange (s.ctx c.ctx).saveFrames ((c.first - first + 0) * saveBytes) saveBytes = [(a, n)]) :
    (s.writeSaves c).vault = s.vault.blit a n ((s.core p).saveImage s.freeCtr) 0 := by
  subst hf
  rw [State.writeSaves, hp, List.foldl_cons, List.foldl_nil, vault_freeCtr, vault_writeSave_of_one hr]

/-! ### A spool that lists a zero byte -/

def savedCmd : RunCmd := { ctx := 0, seq := 1, first := 0, count := 1, entry := 0, args := [], regions := [] }

/-- Core 0 runs a command that is being saved into frame 0, and its spool lists byte 0 with the value 0. The vault is unwritten. -/
def zeroListed : State :=
  { sys := { tclk := true }
    cmap := { logical := [0] }
    cores := [(0, { phase := .running, saving := true, spool := [(0, 0)] })]
    sched := { ctxs := [(0, { st := .launched, saveFrames := [0], saving := [⟨0, 0⟩] })], cmds := [(0, some savedCmd)] } }

theorem saveDone_zeroListed : saveDone 0 zeroListed = zeroListed.saveCmd 0 savedCmd := by
  have hf : (zeroListed.saves 0).find? (fun e => zeroListed.saveReady e.2) = some (⟨0, 0⟩, savedCmd) := by decide
  rw [saveDone, hf]

theorem step_zeroListed : step { zeroListed with pending := [.saveDone 0] } = .next (zeroListed.saveCmd 0 savedCmd) := by
  show execSaveDone 0 zeroListed = _
  rw [execSaveDone, onUnit_whenDo (by decide) (by decide), saveDone_zeroListed]

/-- The zero byte of the spool opens the image of the core. -/
theorem mem_saveImage (ctr : Nat) : (0, 0) ∈ (zeroListed.core 0).saveImage ctr := by
  refine List.mem_append_left _ (List.mem_append_left _ (List.mem_append_left _ ?_))
  decide

/-- SAVE_DONE lists the zero byte in the vault. -/
theorem mem_vault_zeroListed : (0, 0) ∈ (zeroListed.saveCmd 0 savedCmd).vault := by
  have k := workKept_saveTraffic zeroListed savedCmd true
  have hc := k.ctx savedCmd.ctx
  have hs : (zeroListed.saveTraffic savedCmd true).setCores savedCmd = [0] := setCores_congr k.cmap savedCmd
  rw [vault_saveCmd, vault_writeSaves_of_one (p := 0) (a := 0) (n := saveBytes) (first := 0) ?_ (by rw [hs]; rfl)
    (by rw [hc]; decide), k.core]
  · exact mem_blit (mem_saveImage _) (Nat.zero_le _) (by decide)
  · rw [hc, State.part, k.sched]
    rfl

/-- Refutes O59: nothing holds a spool to its canonical form, and SAVE_DONE copies the spool's entries into the vault as they are
listed. The vault is unwritten and core 0's spool lists a zero byte; the save lists that byte in the vault. -/
theorem not_vaultFormKept : ¬ Obligations.VaultFormKept := fun h =>
  not_wf_of_mem_zero mem_vault_zeroListed (h _ _ Mem.wf_nil step_zeroListed)

end Sys2Proof.Proofs
end

section
/-!
Proofs: how a stack whose dies are sound serves its lines: a read delivers the bytes stored and changes nothing but what it counts (05 R178
to R183, R211).
-/
namespace Sys2Proof.Proofs
open Sys2Proof.Machine Sys2Proof.Safety Sys2Proof.Laws

/-! ### What the service of lines counts -/

/-- Only the registers, what the stacks count as idle, the ledger, the running commands and the counter of free values changed; the
first registers of each stack's block, and every register below them, are as they were. -/
structure Tallied (s t : State) : Prop where
  rest : { t with regs := [], vstacks := [], ledger := {}, freeCtr := 0, sched := { t.sched with cmds := [] } } =
    { s with regs := [], vstacks := [], ledger := {}, freeCtr := 0, sched := { s.sched with cmds := [] } }
  raw : ∀ off, off % 0x1000 < 0x40 → t.raw off = s.raw off
  queue : ∀ k, (t.stack k).queue = (s.stack k).queue
  note : ∀ k, (t.stack k).failNote = (s.stack k).failNote

namespace Tallied
variable {s t u : State}

theorem refl (s : State) : Tallied s s := ⟨rfl, fun _ _ => rfl, fun _ => rfl, fun _ => rfl⟩

theorem trans (h : Tallied s t) (k : Tallied t u) : Tallied s u where
  rest := k.rest.trans h.rest
  raw off ho := (k.raw off ho).trans (h.raw off ho)
  queue i := (k.queue i).trans (h.queue i)
  note i := (k.note i).trans (h.note i)

theorem ite {a b : State} {c : Prop} [Decidable c] (ha : Tallied s a) (hb : Tallied s b) : Tallied s (if c then a else b) := by
  split
  · exact ha
  · exact hb

theorem foldl {α : Type} (f : State → α → State) (hf : ∀ s a, Tallied s (f s a)) (l : List α) (s : State) :
    Tallied s (l.foldl f s) := foldl_keeps refl trans f hf l s

/-- Nothing but the ledger, the running commands or the counter of free values changed. -/
theorem of_rest (h : { t with ledger := {}, freeCtr := 0, sched := { t.sched with cmds := [] } } =
    { s with ledger := {}, freeCtr := 0, sched := { s.sched with cmds := [] } }) : Tallied s t where
  rest := (congrArg (fun x : State => { x with regs := [], vstacks := [] }) h :)
  raw off _ := (congrArg (fun x : State => x.raw off) h :)
  queue k := (congrArg (fun x : State => (x.stack k).queue) h :)
  note k := (congrArg (fun x : State => (x.stack k).failNote) h :)

theorem cores (h : Tallied s t) : t.cores = s.cores := (congrArg (fun x : State => x.cores) h.rest :)
theorem vault (h : Tallied s t) : t.vault = s.vault := (congrArg (fun x : State => x.vault) h.rest :)
theorem warp (h : Tallied s t) : t.warp = s.warp := (congrArg (fun x : State => x.warp) h.rest :)
theorem loom (h : Tallied s t) : t.loom = s.loom := (congrArg (fun x : State => x.loom) h.rest :)
theorem eth (h : Tallied s t) : t.eth = s.eth := (congrArg (fun x : State => x.eth) h.rest :)
theorem sessions (h : Tallied s t) : t.sessions = s.sessions := (congrArg (fun x : State => x.sessions) h.rest :)
theorem unpub (h : Tallied s t) : t.sched.unpub = s.sched.unpub := (congrArg (fun x : State => x.sched.unpub) h.rest :)

theorem core (h : Tallied s t) (p : Nat) : t.core p = s.core p := by rw [State.core, h.cores, State.core]

theorem beat (h : Tallied s t) : t.beat = s.beat := congrArg BitVec.toNat (h.raw Reg.beatCount (by decide))

theorem fld (h : Tallied s t) {f : Fld} (hf : f.off % 0x1000 < 0x40) : t.fld f = s.fld f := by
  simp only [State.fld, h.raw f.off hf]

end Tallied

section Counts
variable (s : State)

theorem tallied_setFld {f : Fld} (v : Nat) (h : 0x40 ≤ f.off % 0x1000) : Tallied s (s.setFld f v) where
  rest := rfl
  raw off ho := raw_setFld_ne s f v off (by omega)
  queue _ := rfl
  note _ := rfl

theorem tallied_countRead (st n : Nat) : Tallied s (s.countRead st n) := tallied_setFld s _ (by
  show 0x40 ≤ (0x60040 + 0x1000 * st) % 0x1000
  omega)

theorem tallied_countWrite (st n : Nat) : Tallied s (s.countWrite st n) := tallied_setFld s _ (by
  show 0x40 ≤ (0x60048 + 0x1000 * st) % 0x1000
  omega)

theorem stack_setStack (st k : Nat) (x : Stack) : (s.setStack st x).stack k = if k = st then x else s.stack k := SMap.get_put ..

theorem tallied_completed (st : Nat) : Tallied s (s.completed st) := by
  refine .ite (.refl s) ⟨rfl, fun _ _ => rfl, fun k => ?_, fun k => ?_⟩
  · rw [stack_setStack]
    split
    · rename_i h
      rw [h]
    · rfl
  · rw [stack_setStack]
    split
    · rename_i h
      rw [h]
    · rfl

theorem tallied_countBytes (pas : List Nat) (write : Bool) : Tallied s (s.countBytes pas write) := by
  refine .foldl _ (fun s st => ?_) _ s
  extract_lets n
  exact .ite (.refl s) ((Tallied.ite (tallied_countWrite s st n) (tallied_countRead s st n)).trans (tallied_completed _ st))

theorem tallied_charge (acct counter n : Nat) : Tallied s (s.charge acct counter n) := by
  unfold State.charge
  split
  · exact .refl s
  · exact .of_rest rfl

theorem tallied_chargeVault (p n : Nat) : Tallied s (s.chargeVault p n) := by
  unfold State.chargeVault
  split
  · exact .of_rest rfl
  · exact tallied_charge s _ _ _

theorem tallied_freeHidden (who : Asker) (as : List Nat) (bs : Bytes) : Tallied s (s.freeHidden who as bs).1 := by
  induction as generalizing bs with
  | nil => exact .refl s
  | cons a as ih =>
    cases bs with
    | nil => exact .refl s
    | cons b bs =>
      unfold State.freeHidden
      extract_lets r f
      have h : Tallied s r.1 := ih bs
      split
      · exact h.trans (.of_rest rfl)
      · exact h

theorem tallied_fillFree (k : Nat) (as : List Nat) (bs : Bytes) : Tallied s (s.fillFree k as bs).1 := by
  induction as generalizing s bs with
  | nil => exact .refl s
  | cons a as ih =>
    unfold State.fillFree
    split
    · exact ih s _
    · exact Tallied.trans (t := s.freeByte.2) (.of_rest rfl) (ih _ bs)

end Counts

/-! ### A line of a stack whose dies are sound (05 R179, R180) -/

/-- No stack has failed, and no die is marked. -/
def Sound (s : State) : Prop := ∀ k, k < 16 → s.fld (Fld.vltStatus_state k) ≠ 5 ∧ s.marked k = none

theorem Sound.tallied {s t : State} (hs : Sound s) (h : Tallied s t) : Sound t := fun k hk => by
  have hw : (Reg.vltStatus k) % 0x1000 < 0x40 := by
    unfold Reg.vltStatus
    omega
  have hm : t.marked k = s.marked k := by
    unfold State.marked
    rw [h.fld (f := Fld.vltStatus_dieMark k) hw]
  rw [h.fld (f := Fld.vltStatus_state k) hw, hm]
  exact hs k hk

theorem stackOf_lt (a : Nat) : stackOf a < 16 := Nat.mod_lt _ (by decide)

/-- The 64 bytes of a line as they are stored. -/
def storedLine (m : Mem) (line : Nat) : Bytes := (List.range 64).map fun i => m.byte (64 * line + i)

theorem lineBytes_sound (s : State) (line : Nat) : s.lineBytes line [] [] = storedLine s.vault line := by
  refine List.map_congr_left fun i _ => ?_
  show s.vault.byte _ ^^^ (if i % 2 = 0 then BitVec.extractLsb' 0 8 (0 : W16) else BitVec.extractLsb' 8 8 (0 : W16)) = _
  split <;> simp

/-- A line without wrong symbols of a stack that has not failed, and that has no die marked. -/
theorem readLine_sound {s : State} {line : Nat} (hf : s.fld (Fld.vltStatus_state (stackOf (64 * line))) ≠ 5)
    (hm : s.marked (stackOf (64 * line)) = none) (who : Asker) :
    s.readLine line [] who = (s, some (storedLine s.vault line)) := by
  have hd : s.decodeLine line [] who = (s, .ok []) := by
    unfold State.decodeLine
    extract_lets pa st e s1 r s2
    have hr : r = .ok [] := by
      show (match s.marked (stackOf (64 * line)) with
        | some d => decodeMarked d []
        | none => decodePlain []) = _
      rw [hm]
      rfl
    rw [hr]
    exact if_neg hf
  unfold State.readLine
  rw [hd]
  simp only []
  rw [← lineBytes_sound]
  rfl

theorem readLines_sound {s : State} (h : Sound s) (who : Asker) (ls : List Nat) :
    s.readLines [] who ls = (s, ls.map fun l => (l, some (storedLine s.vault l))) := by
  induction ls with
  | nil => rfl
  | cons l ls ih =>
    obtain ⟨hf, hm⟩ := h _ (stackOf_lt (64 * l))
    simp only [State.readLines, readLine_sound hf hm, ih, List.map_cons]

/-- The byte at an address among lines that were read. -/
theorem byteIn_map (f : Nat → Option Bytes) (ls : List Nat) {a : Nat} (ha : a / 64 ∈ ls) :
    byteIn (ls.map fun l => (l, f l)) a = (f (a / 64)).bind (·[a % 64]?) := by
  have hfind : (ls.map fun l => (l, f l)).find? (fun e => e.1 = a / 64) = some (a / 64, f (a / 64)) := by
    induction ls with
    | nil => cases ha
    | cons l ls ih =>
      by_cases hl : l = a / 64
      · simp [hl]
      · simp only [List.map_cons, List.find?_cons_of_neg (p := fun e : Nat × Option Bytes => decide (e.1 = a / 64))
          (a := (l, f l)) (by simpa using hl)]
        exact ih (by simpa [Ne.symm hl] using ha)
  unfold byteIn
  rw [hfind]
  cases f (a / 64) <;> rfl

theorem storedLine_getElem? (m : Mem) (a : Nat) : (storedLine m (a / 64))[a % 64]? = some (m.byte a) := by
  have h : a % 64 < 64 := Nat.mod_lt _ (by decide)
  simp [storedLine, h, Nat.div_add_mod]

theorem mem_linesOf {a : Nat} {pas : List Nat} (h : a ∈ pas) : a / 64 ∈ linesOf pas :=
  List.mem_dedup.mpr (List.mem_map.mpr ⟨a, h, rfl⟩)

theorem mapM_eq_map {α β : Type} {f : α → Option β} {g : α → β} (l : List α) (h : ∀ a ∈ l, f a = some (g a)) :
    l.mapM f = some (l.map g) := by
  induction l with
  | nil => rfl
  | cons a l ih => simp [List.mapM_cons, h a (by simp), ih fun b hb => h b (by simp [hb])]

theorem mapM_byteIn_sound (m : Mem) (pas : List Nat) :
    pas.mapM (byteIn ((linesOf pas).map fun l => (l, some (storedLine m l)))) = some (pas.map m.byte) :=
  mapM_eq_map pas fun a ha => (byteIn_map _ _ (mem_linesOf ha)).trans (storedLine_getElem? m a)

/-! ### Reads of bytes (05 R183) -/

section Reads
variable {s : State} (h : Sound s)
include h

theorem tallied_readBytes (pas : List Nat) (who : Asker) : Tallied s (s.readBytes pas [] who).1 := by
  unfold State.readBytes
  extract_lets r s1
  have h1 : Tallied s s1 := by
    simp only [s1, r, readLines_sound h]
    exact tallied_countBytes s _ _
  split
  · split
    · exact h1
    · exact h1.trans (tallied_freeHidden s1 _ _ _)
  · exact h1

/-- Where nothing is unpublished, a read delivers the bytes that are stored. -/
theorem readBytes_sound (hu : s.sched.unpub = []) (pas : List Nat) (who : Asker) :
    (s.readBytes pas [] who).2 = some (pas.map s.vault.byte) := by
  unfold State.readBytes
  rw [readLines_sound h]
  extract_lets r s1
  have hu1 : s1.sched.unpub.isEmpty = true := by rw [(tallied_countBytes s pas false).unpub, hu]; rfl
  simp only [r, mapM_byteIn_sound, hu1, if_true]

theorem tallied_readProg (k : Nat) (as : List Nat) (p : Nat) : Tallied s (s.readProg k as [] p).1 := by
  unfold State.readProg
  extract_lets r
  have h1 : Tallied s r.1 := tallied_readBytes h _ _
  split
  · exact h1.trans (tallied_fillFree r.1 _ _ _)
  · exact h1

end Reads

/-! ### STACK_REQUEST (05 R188) -/

/-- The head of the queue of stack `st` has left it, and the dies deliver no wrong symbols. -/
def headTaken (s : State) (st : Nat) (rest : List VaultWork) : State :=
  { s with lineErrs := [] }.setStack st { s.stack st with
    queue := rest
    idleFrom := s.beat }

/-- No stack has failed for which the device has still to fault. -/
def Settled (s : State) : Prop := ∀ k, k < 16 → (s.stack k).failNote = none

theorem settleStacks_settled {s : State} (h : Settled s) : s.settleStacks = s := by
  refine foldl_eq_self _ fun k hk => ?_
  simp only [h k (List.mem_range.mp hk)]

section HeadTaken
variable {s : State} {st : Nat} {rest : List VaultWork}

theorem exec_stackRequest {w : VaultWork} (hst : st < 16) (ht : s.sys.tclk = true) (hq : (s.stack st).queue = w :: rest) :
    exec (.stackRequest st []) s = .next ((headTaken s st rest).serveWork st w).settleStacks := by
  have h : stackRequest st [] s = ((headTaken s st rest).serveWork st w).settleStacks := by
    unfold stackRequest
    extract_lets s1
    have hq1 : (s1.stack st).queue = w :: rest := hq
    rw [hq1]
    rfl
  rw [← h]
  exact onUnit_whenDo (decide_eq_true hst) ht s _

theorem settled_headTaken (h : Settled s) : Settled (headTaken s st rest) := fun k hk => by
  rw [headTaken, stack_setStack]
  split
  · rename_i e
    exact e ▸ h k hk
  · exact h k hk

theorem settled_of_healthy (h : Healthy s) : Settled s := fun k hk => (h k hk).1

theorem sound_of_healthy (h : Healthy s) : Sound s := fun k hk => (h k hk).2

theorem sound_headTaken (h : Sound s) : Sound (headTaken s st rest) := h

theorem Settled.tallied {t : State} (hs : Settled s) (h : Tallied s t) : Settled t := fun k hk => (h.note k).trans (hs k hk)

/-- The service of a request by a sound stack, which then changes only its core: what it leaves of the device. -/
theorem servedOn_tallied {x : State} (h : Tallied (headTaken s st rest) x) (p : Nat) (f : Core → Core) :
    ServedOn s (x.modCore p f) p ∧ ((x.modCore p f).stack st).queue = rest ∧ (x.modCore p f).core p = f (s.core p) := by
  refine ⟨⟨fun q hq => ?_, h.warp, h.loom, h.eth, h.sessions⟩, (h.queue st).trans ?_, ?_⟩
  · rw [State.core_modCore, if_neg hq]
    exact h.core q
  · rw [headTaken, stack_setStack, if_pos rfl]
  · rw [State.core_modCore, if_pos rfl]
    exact congrArg f (h.core p)

theorem settleStacks_tallied {x : State} (hs : Settled s) (h : Tallied (headTaken s st rest) x) (p : Nat) (f : Core → Core) :
    (x.modCore p f).settleStacks = x.modCore p f := by
  have hx : Settled x := (settled_headTaken hs).tallied h
  exact settleStacks_settled hx

end HeadTaken

end Sys2Proof.Proofs
end

section
/-!
Proofs: what the reply of a stack, the arrival of a partial and the end of a merge do to their core (05 R195, R196, R200 to R202; 04 R150).
-/
namespace Sys2Proof.Proofs
open Sys2Proof.Machine Sys2Proof.Safety Sys2Proof.Laws

/-! ### Tables -/

theorem put_put {α : Type} (m : SMap α) (k : Nat) (v w : α) : (m.put k v).put k w = m.put k w := by
  induction m with
  | nil => simp [SMap.put]
  | cons e m ih =>
    obtain ⟨i, x⟩ := e
    simp only [SMap.put]
    split
    · simp [SMap.put]
    · split
      · simp [SMap.put]
      · rename_i h g
        simp only [SMap.put, if_neg h, if_neg g, ih]

/-- A table of what is present, each value as `some`. -/
def present {α : Type} (m : SMap α) : SMap (Option α) := m.map fun e => (e.1, some e.2)

@[simp] theorem present_put {α : Type} (m : SMap α) (k : Nat) (v : α) : present (m.put k v) = (present m).put k (some v) := by
  induction m with
  | nil => rfl
  | cons e m ih =>
    simp only [present, List.map] at *
    simp only [SMap.put]
    split
    · rfl
    · split
      · rfl
      · simp only [List.map, ih]

@[simp] theorem present_del {α : Type} (m : SMap α) (k : Nat) : present (m.del k) = (present m).del k := by
  induction m with
  | nil => rfl
  | cons e m ih =>
    simp only [present, List.map] at *
    simp only [SMap.del]
    split
    · exact ih
    · simp only [List.map, ih]

theorem modCore_modCore (s : State) (p : Nat) (f g : Core → Core) :
    (s.modCore p f).modCore p g = s.modCore p fun c => g (f c) := by
  rw [State.modCore, State.core_modCore, if_pos rfl]
  simp only [State.modCore, State.setCore, put_put]

theorem ite_modCore (s : State) (p : Nat) (b : Bool) (f g : Core → Core) :
    (if b then (s.modCore p f).modCore p g else s.modCore p f) = s.modCore p fun c => if b then g (f c) else f c := by
  cases b with
  | false => rfl
  | true => exact modCore_modCore s p f g

/-! ### Slots -/

theorem slotBecame_modSlot (c : Core) (n : Nat) (f : Slot → Slot) : SlotBecame c (c.modSlot n f) n (f (c.slot n)) :=
  ⟨by simp [Core.modSlot], fun m hm => by simp [Core.modSlot, hm]⟩

theorem SlotBecame.of_kept {c d e : Core} {n : Nat} {x : Slot} (h : SlotBecame d e n x) (k : SlotsKept c d) : SlotBecame c e n x :=
  ⟨h.1, fun m hm => (h.2 m hm).trans (k m)⟩

/-! ### A teller instruction that faults its thread (05 R196, R203) -/

section Faults
variable {s : State} {p u code : Nat}

theorem ownFault_running (hp : (s.core p).phase = .running) (hu : (s.thread p u).st ≠ .idle) :
    s.ownFault p u code = s.faultThread p u code := by
  rw [State.ownFault, hp]
  exact if_neg hu

theorem slotsKept_faultThread : SlotsKept (s.core p) ((s.faultThread p u code).core p) := fun n => by
  rw [core_faultThread, State.threadFault, core_noteFault, State.core_modCore, if_pos rfl]
  rfl

/-- A fault of a running command's thread, once the core has changed in neither phase, threads nor slots. -/
theorem ownFault_faults {x : State} (hp : (x.core p).phase = .running) (ht : (x.core p).threads = (s.core p).threads)
    (hs : (x.core p).slots = (s.core p).slots) (hu : (s.thread p u).st ≠ .idle) :
    Faulted (x.ownFault p u code) p u code ∧ SlotsKept (s.core p) ((x.ownFault p u code).core p) := by
  have hx : (x.thread p u).st ≠ .idle := by rwa [State.thread, Core.thread, ht]
  rw [ownFault_running hp hx]
  refine ⟨faulted_faultThread x p u code, fun n => (slotsKept_faultThread n).trans ?_⟩
  rw [Core.slot, hs, Core.slot]

end Faults

/-! ### TEL_STACK_REPLY (05 R195, R196) -/

section TelReply
variable {s : State} {p job st : Nat} {j : TelJob} {r : TelReply}

/-- A TEL.CMD once stack `st` has replied. -/
def telAwaiting (st : Nat) (j : TelJob) (r : TelReply) : TelJob :=
  { j with left := j.left.filter (· ≠ st), replies := SMap.del j.replies st, failed := j.failed || r.fault.isSome }

/-- The reply leaves its TEL.CMD; the last one ends it. -/
def telTaken (job st : Nat) (j : TelJob) (r : TelReply) (c : Core) : Core :=
  { c with tel := if (j.left.filter (· ≠ st)).isEmpty then SMap.del c.tel job else SMap.put c.tel job (telAwaiting st j r) }

/-- The reply's result stands at the destination. -/
def telWritten (st : Nat) (j : TelJob) (r : TelReply) (c : Core) : Core :=
  if tOp j.words = 3 ∨ tOp j.words = 6 then
    r.elems.foldl (fun c e => c.store (j.dst + (if tOp j.words = 3 then tElem j.words else tOutSize j.words) * e.1) e.2) c
  else c.store (j.dst + 64 * st) r.block

/-- The last reply completes the fill of the slot. -/
def telFilled (job st : Nat) (j : TelJob) (c : Core) : Core :=
  match j.slot with
  | some n => if (j.left.filter (· ≠ st)).isEmpty then c.modSlot n (Slot.filledBy (.tel job) (tResult j.words)) else c
  | none => c

theorem telWrite_eq (s : State) : s.telWrite p j st r = s.modCore p (telWritten st j r) := by
  unfold State.telWrite
  extract_lets op n
  split
  · rename_i h
    exact congrArg (s.modCore p) (funext fun c => (if_pos h).symm)
  · rename_i h
    exact congrArg (s.modCore p) (funext fun c => (if_neg h).symm)

/-- The end of a reply, after the changes of the core that came before. -/
theorem telFilled_after (s : State) (f : Core → Core) :
    (match j.slot with
      | some n => if (j.left.filter (· ≠ st)).isEmpty then
          (s.modCore p f).modCore p (·.modSlot n (Slot.filledBy (.tel job) (tResult j.words))) else s.modCore p f
      | none => s.modCore p f) = s.modCore p fun c => telFilled job st j (f c) := by
  unfold telFilled
  cases j.slot with
  | none => rfl
  | some n => exact ite_modCore s p _ f _

section Arrives
variable (hj : telJob s p job = some j) (hr : SMap.get (present j.replies) none st = some r) (hf : j.failed = false)
include hj hr hf

theorem telStackReply_faults {code : Nat} (hc : r.fault = some code) :
    telStackReply p job st s = ((s.modCore p (telTaken job st j r)).telSpoil p j).ownFault p j.thread code := by
  unfold telJob at hj
  unfold present at hr
  unfold telStackReply
  rw [hj]
  simp only [hr, hc, hf, Bool.false_eq_true, if_false]
  unfold telTaken telAwaiting
  rw [hf, hc]
  rfl

theorem telStackReply_writes (hn : r.fault = none) :
    telStackReply p job st s = s.modCore p fun c => telFilled job st j (telWritten st j r (telTaken job st j r c)) := by
  rw [← telFilled_after, ← modCore_modCore]
  unfold telJob at hj
  unfold present at hr
  unfold telTaken telAwaiting
  unfold telStackReply
  rw [hj]
  simp only [hr, hn, hf, telWrite_eq, Bool.false_eq_true, if_false]
  rfl

end Arrives

/-- Stores one after another change the spool alone. -/
theorem foldl_stores {α : Type} (at_ : α → Nat) (bs : α → Bytes) (l : List α) (c : Core) :
    l.foldl (fun c e => c.store (at_ e) (bs e)) c =
      { c with spool := l.foldl (fun (m : Mem) e => m.store (at_ e) (bs e)) c.spool } := by
  induction l generalizing c with
  | nil => rfl
  | cons e l ih => exact ih _

/-- The spool after the result of a reply. -/
def telSpool (st : Nat) (j : TelJob) (r : TelReply) (m : Mem) : Mem :=
  if tOp j.words = 3 ∨ tOp j.words = 6 then
    r.elems.foldl (fun (m : Mem) e => m.store (j.dst + (if tOp j.words = 3 then tElem j.words else tOutSize j.words) * e.1) e.2) m
  else m.store (j.dst + 64 * st) r.block

theorem telWritten_eq (c : Core) : telWritten st j r c = { c with spool := telSpool st j r c.spool } := by
  unfold telWritten telSpool
  split
  · exact foldl_stores ..
  · rfl

theorem telFilled_eq (c : Core) : ∃ m, telFilled job st j c = { c with slots := m } := by
  unfold telFilled
  split
  · split
    · exact ⟨_, rfl⟩
    · exact ⟨_, rfl⟩
  · exact ⟨_, rfl⟩

/-- What a reply without a fault does to the core. -/
def telReplied (job st : Nat) (j : TelJob) (r : TelReply) (c : Core) : Core :=
  telFilled job st j (telWritten st j r (telTaken job st j r c))

section TelReplied
variable {c : Core}

theorem rest_telReplied : { telReplied job st j r c with tel := [], spool := [], slots := [] } =
    { c with tel := [], spool := [], slots := [] } := by
  obtain ⟨m, hm⟩ := telFilled_eq (job := job) (st := st) (j := j) (telWritten st j r (telTaken job st j r c))
  rw [telReplied, hm, telWritten_eq]
  rfl

theorem spool_telReplied : (telReplied job st j r c).spool = telSpool st j r c.spool := by
  obtain ⟨m, hm⟩ := telFilled_eq (job := job) (st := st) (j := j) (telWritten st j r (telTaken job st j r c))
  rw [telReplied, hm, telWritten_eq]
  rfl

theorem tel_telReplied : (telReplied job st j r c).tel = (telTaken job st j r c).tel := by
  obtain ⟨m, hm⟩ := telFilled_eq (job := job) (st := st) (j := j) (telWritten st j r (telTaken job st j r c))
  rw [telReplied, hm, telWritten_eq]

/-- The stacks that have still to reply are none once the last one has. -/
theorem filter_isEmpty_iff (l : List Nat) (k : Nat) : (l.filter (· ≠ k)).isEmpty = true ↔ ∀ m ∈ l, m = k := by
  simp

theorem slotsKept_telReplied (h : ∃ k ∈ j.left, k ≠ st) : SlotsKept c (telReplied job st j r c) := by
  have hl : ¬(j.left.filter (· ≠ st)).isEmpty = true := fun e => by
    obtain ⟨k, hk, hne⟩ := h
    exact hne ((filter_isEmpty_iff _ _).mp e k hk)
  intro n
  rw [telReplied, telFilled]
  split
  · rw [if_neg hl, telWritten_eq]
    rfl
  · rw [telWritten_eq]
    rfl

theorem slotBecame_telReplied {n : Nat} (hs : j.slot = some n) (h : ∀ k ∈ j.left, k = st) (ht : (c.slot n).st = .filling)
    (hu : (c.slot n).user = .tel job) : SlotBecame c (telReplied job st j r c) n ((c.slot n).endFill (tResult j.words)) := by
  have e : Slot.filledBy (.tel job) (tResult j.words) (c.slot n) = (c.slot n).endFill (tResult j.words) := if_pos ⟨ht, hu⟩
  rw [telReplied, telFilled, hs, ← e]
  simp only [if_pos ((filter_isEmpty_iff _ _).mpr h)]
  rw [telWritten_eq]
  exact slotBecame_modSlot _ n _

end TelReplied

/-! ### The reply of a stack, and the operation that it ends -/

section Arrives
variable (hj : telJob s p job = some j) (hr : SMap.get (present j.replies) none st = some r) (hf : j.failed = false)
include hj hr hf

theorem telReply_writes (hn : r.fault = none) :
    CoreOnly s (telStackReply p job st s) p ∧ (telStackReply p job st s).core p = telReplied job st j r (s.core p) := by
  rw [telStackReply_writes hj hr hf hn]
  exact ⟨coreOnly_modCore s p _, by rw [State.core_modCore, if_pos rfl, telReplied]⟩

omit hj hr hf in
theorem telJob_of_tel {t : State} (h : (t.core p).tel = (telTaken job st j r (s.core p)).tel) :
    telJob t p job = if (j.left.filter (· ≠ st)).isEmpty then none else some (telAwaiting st j r) := by
  show SMap.get (present (t.core p).tel) none job = _
  rw [h, telTaken]
  split
  · simp
  · simp

omit hj hr hf in
theorem core_freeBytes (x : State) (n q : Nat) : (x.freeBytes n).2.core q = x.core q := by
  induction n with
  | zero => rfl
  | succ n ih => exact ih

omit hj hr hf in
theorem telSpoil_core (x : State) : ∃ m, (x.telSpoil p j).core p = { x.core p with spool := m } := by
  unfold State.telSpoil
  extract_lets f
  split
  · rw [State.core_modCore, if_pos rfl, core_freeBytes]
    exact ⟨_, rfl⟩
  · exact ⟨_, rfl⟩

theorem telReply_faults {code : Nat} (hc : r.fault = some code) (hp : (s.core p).phase = .running)
    (hu : (s.thread p j.thread).st ≠ .idle) :
    Faulted (telStackReply p job st s) p j.thread code ∧ SlotsKept (s.core p) ((telStackReply p job st s).core p) := by
  obtain ⟨m, hm⟩ := telSpoil_core (j := j) (p := p) (s.modCore p (telTaken job st j r))
  rw [State.core_modCore, if_pos rfl] at hm
  rw [telStackReply_faults hj hr hf hc]
  exact ownFault_faults (by rw [hm]; exact hp) (by rw [hm]; rfl) (by rw [hm]; rfl) hu

end Arrives

end TelReply

/-! ### ATTN_PARTIAL (05 R200 to R202) -/

section Partial
variable {s : State} {p job st k : Nat} {errs : List LineErr} {j : AttnJob} {i : Nat}

/-- A TEL.ATTN once partial `i` has arrived. -/
def attnAwaiting (i : Nat) (j : AttnJob) (ok : Bool) : AttnJob :=
  { j with left := j.left.filter (· ≠ i), parts := SMap.del j.parts i, arrived := j.arrived + (if ok then 1 else 0),
           failed := j.failed || !ok }

/-- The partial leaves its TEL.ATTN; the last one ends it. -/
def attnTaken (job i : Nat) (j : AttnJob) (ok : Bool) (c : Core) : Core :=
  { c with attn := if (j.left.filter (· ≠ i)).isEmpty then SMap.del c.attn job else SMap.put c.attn job (attnAwaiting i j ok) }

/-- The bytes of a partial stand in their place, with its arrival number. -/
def partStored (job i : Nat) (j : AttnJob) (bs : Bytes) (c : Core) : Core :=
  (attnTaken job i j true c).store ((c.slot j.slot).base + i * partSize (aHeads j.words) (aDim j.words)) (withArrival bs j.arrived)

/-- What a partial that arrives does to the core: the last one fills the slot. -/
def partLanded (job i : Nat) (j : AttnJob) (bs : Bytes) (c : Core) : Core :=
  if (j.left.filter (· ≠ i)).isEmpty && !j.failed then
    (partStored job i j bs c).modSlot j.slot (Slot.filledBy (.attn job) (16 * j.split * partSize (aHeads j.words) (aDim j.words)))
  else partStored job i j bs c

theorem landPartial_lands (bs : Bytes) : s.landPartial p job j i (.part bs) = s.modCore p (partLanded job i j bs) := by
  have stored : s.modCore p (partStored job i j bs) = (s.modCore p (attnTaken job i j true)).modCore p fun c =>
      c.store ((c.slot j.slot).base + i * partSize (aHeads j.words) (aDim j.words)) (withArrival bs j.arrived) :=
    (modCore_modCore s p (attnTaken job i j true) fun c =>
      c.store ((c.slot j.slot).base + i * partSize (aHeads j.words) (aDim j.words)) (withArrival bs j.arrived)).symm
  refine Eq.trans ?_ (ite_modCore s p _ (partStored job i j bs) fun d =>
    d.modSlot j.slot (Slot.filledBy (.attn job) (16 * j.split * partSize (aHeads j.words) (aDim j.words))))
  rw [stored]
  rfl

theorem landPartial_faults (code : Nat) :
    s.landPartial p job j i (.err code) = (s.modCore p (attnTaken job i j false)).ownFault p j.thread code := rfl

theorem attnPartial_eq {r : AttnReply} (hj : attnJob s p job = some j) (hk : k < j.split) (hi : i = st * j.split + k)
    (hl : i ∈ j.left) (hr : SMap.get (present j.parts) none i = some r) :
    attnPartial p job st k errs s = ({ s with lineErrs := errs } : State).landPartial p job j i r := by
  subst hi
  unfold attnJob at hj
  unfold present at hr
  have hc : (decide (k < j.split) && j.left.contains (st * j.split + k)) = true := by simp [hk, hl]
  unfold attnPartial Core.attnJob
  extract_lets s1
  have hj1 : SMap.get ((s1.core p).attn.map fun e => (e.1, some e.2)) none job = some j := hj
  rw [hj1]
  simp only [hr]
  exact if_pos hc

/-! The core after the arrival -/

section PartLanded
variable {bs : Bytes} {c : Core}

theorem partLanded_eq : ∃ m, partLanded job i j bs c = { partStored job i j bs c with slots := m } := by
  unfold partLanded
  split
  · exact ⟨_, rfl⟩
  · exact ⟨_, rfl⟩

theorem rest_partLanded : { partLanded job i j bs c with attn := [], spool := [], slots := [] } =
    { c with attn := [], spool := [], slots := [] } := by
  obtain ⟨m, hm⟩ := partLanded_eq (job := job) (i := i) (j := j) (bs := bs) (c := c)
  rw [hm]
  rfl

theorem spool_partLanded : (partLanded job i j bs c).spool =
    c.spool.store ((c.slot j.slot).base + i * partSize (aHeads j.words) (aDim j.words)) (withArrival bs j.arrived) := by
  obtain ⟨m, hm⟩ := partLanded_eq (job := job) (i := i) (j := j) (bs := bs) (c := c)
  rw [hm]
  rfl

theorem attn_partLanded : (partLanded job i j bs c).attn = (attnTaken job i j true c).attn := by
  obtain ⟨m, hm⟩ := partLanded_eq (job := job) (i := i) (j := j) (bs := bs) (c := c)
  rw [hm]
  rfl

theorem slotsKept_partLanded (h : ∃ m ∈ j.left, m ≠ i) : SlotsKept c (partLanded job i j bs c) := by
  have hl : ¬((j.left.filter (· ≠ i)).isEmpty && !j.failed) = true := fun e => by
    obtain ⟨m, hm, hne⟩ := h
    exact hne ((filter_isEmpty_iff _ _).mp (Bool.and_eq_true _ _ ▸ e).1 m hm)
  intro n
  rw [partLanded, if_neg hl]
  rfl

theorem slotBecame_partLanded (h : ∀ m ∈ j.left, m = i) (hf : j.failed = false) (ht : (c.slot j.slot).st = .filling)
    (hu : (c.slot j.slot).user = .attn job) : SlotBecame c (partLanded job i j bs c) j.slot
      ((c.slot j.slot).endFill (16 * j.split * partSize (aHeads j.words) (aDim j.words))) := by
  have e : Slot.filledBy (.attn job) (16 * j.split * partSize (aHeads j.words) (aDim j.words)) (c.slot j.slot) =
      (c.slot j.slot).endFill _ := if_pos ⟨ht, hu⟩
  rw [partLanded, if_pos (by rw [(filter_isEmpty_iff _ _).mpr h, hf]; rfl), ← e]
  exact slotBecame_modSlot _ _ _

end PartLanded

theorem attnJob_of_attn {t : State} {ok : Bool} (h : (t.core p).attn = (attnTaken job i j ok (s.core p)).attn) :
    attnJob t p job = if (j.left.filter (· ≠ i)).isEmpty then none else some (attnAwaiting i j ok) := by
  show SMap.get (present (t.core p).attn) none job = _
  rw [h, attnTaken]
  split
  · simp
  · simp

end Partial

/-! ### MERGE_DONE (04 R150) -/

/-- The merge leaves the vector unit, and a slot that it still reads is released. -/
def mergeEnded (m : Merge) (c : Core) : Core :=
  match m.slot with
  | some n => Core.modSlot { c with merge := none } n Slot.mergeRead
  | none => { c with merge := none }

theorem mergeDone_eq {s : State} {p : Nat} {m : Merge} (h : (s.core p).merge = some m) :
    mergeDone p s = s.modCore p (mergeEnded m) := by
  obtain ⟨thread, dst, output, slot⟩ := m
  unfold mergeDone mergeEnded
  rw [h]
  cases slot with
  | none => rfl
  | some n => exact modCore_modCore s p (fun c => { c with merge := none }) (·.modSlot n Slot.mergeRead)

theorem mergeEnded_eq (m : Merge) (c : Core) : ∃ x, mergeEnded m c = { c with merge := none, slots := x } := by
  unfold mergeEnded
  split
  · exact ⟨_, rfl⟩
  · exact ⟨_, rfl⟩

theorem slotBecame_mergeEnded {m : Merge} {c : Core} {n : Nat} (hn : m.slot = some n) (ht : (c.slot n).st = .draining)
    (hu : (c.slot n).user = .merge) : SlotBecame c (mergeEnded m c) n (c.slot n).endUse := by
  have e : (c.slot n).mergeRead = (c.slot n).endUse := if_pos ⟨ht, hu⟩
  rw [mergeEnded, hn, ← e]
  exact slotBecame_modSlot { c with merge := none } n _

end Sys2Proof.Proofs
end

section
/-!
Proofs: the service of a TEL.ATTN at one stack, and the settlement of the tellers' replies (05 R195 to R203; 04 R150).
-/
namespace Sys2Proof.Proofs
open Sys2Proof.Machine Sys2Proof.Safety Sys2Proof.Laws

/-! ### A piece of a TEL.ATTN (05 R200, R201) -/

section Piece
variable {s : State} (h : Sound s)
include h

theorem tallied_readPages (p : Nat) (j : AttnJob) (toks : List Nat) : Tallied s (s.readPages p j toks []).1 :=
  tallied_readProg h _ _ p

theorem tallied_readKv (p : Nat) (j : AttnJob) (toks : List Nat) : Tallied s (s.readKv p j toks []).1 := by
  have h1 : Tallied s (s.readPages p j toks []).1 := tallied_readPages h p j toks
  unfold State.readKv
  extract_lets v pg
  split
  · exact h1
  · extract_lets at_ r
    split
    · exact h1
    · have h2 : Tallied s r.1 := h1.trans (tallied_readProg (h.tallied h1) _ _ p)
      split
      · exact h2
      · exact h2

theorem tallied_attnPiece (p : Nat) (j : AttnJob) (st k : Nat) : Tallied s (s.attnPiece p j st k []).1 := by
  unfold State.attnPiece
  extract_lets ws toks before r s1
  have h1 : Tallied s s1 := (tallied_readKv h p j toks).trans (tallied_chargeVault r.1 p _)
  split
  · exact h1
  · exact h1

end Piece

/-- What a piece answers with the keys and values that it has read, or the code that its read has met (05 R201 to R203). -/
def pieceReply (j : AttnJob) (toks : List Nat) (r : List (Bytes × Bytes) × Option Nat) : AttnReply :=
  match r.2 with
  | some code => .err code
  | none => .part (partBytes j.words toks.length 0 ((List.range (aHeads j.words)).map fun h => attnHead j.words
      ((j.queries.drop (aDim j.words * aQElem j.words * h)).take (aDim j.words * aQElem j.words)) r.1))

theorem attnPiece_reply (s : State) (p : Nat) (j : AttnJob) (st k : Nat) (errs : List LineErr) :
    (s.attnPiece p j st k errs).2 = pieceReply j (pieceTokens (aLen j.words) j.split st k)
      (s.readKv p j (pieceTokens (aLen j.words) j.split st k) errs).2 := by
  unfold State.attnPiece pieceReply
  extract_lets ws toks before r s1
  show _ = (match r.2.2 with | some code => _ | none => _)
  cases r.2.2 <;> rfl

/-- The answer of a piece is kept until it arrives. -/
def pieceKept (st : Nat) (j : AttnJob) (r : AttnReply) : AttnJob := { j with parts := SMap.put j.parts st r }

/-- The service of a TEL.ATTN of one piece. -/
theorem serveAttn_one {s : State} {p job : Nat} {j : AttnJob} (hj : attnJob s p job = some j) (h1 : j.split = 1) (st : Nat)
    (errs : List LineErr) : s.serveAttn p job st errs = (s.attnPiece p j st 0 errs).1.modCore p fun c =>
      { c with attn := SMap.put c.attn job (pieceKept st j (s.attnPiece p j st 0 errs).2) } := by
  have hj' : (s.core p).attnJob job = some j := hj
  unfold State.serveAttn
  rw [hj']
  simp only [h1, List.range_one, List.foldl_cons, List.foldl_nil, Nat.mul_one, Nat.add_zero, pieceKept]

/-! ### The teller's events -/

section Settle
variable {p job st : Nat} {s : State}

theorem exec_telStackReply (hp : p < 1232) (hst : st < 16) (ht : s.sys.tclk = true) :
    exec (.telStackReply p job st) s = .next (telStackReply p job st s) :=
  onUnit_whenDo (by simp [nCores, nStacks, hp, hst]) ht s _

theorem exec_attnPartial {k : Nat} {errs : List LineErr} (hp : p < 1232) (hst : st < 16) (hk : k < 16) (ht : s.sys.tclk = true) :
    exec (.attnPartial p job st k errs) s = .next (attnPartial p job st k errs s) :=
  onUnit_whenDo (by simp [nCores, nStacks, hp, hst, hk]) ht s _

theorem exec_mergeDone (hp : p < 1232) (ht : s.sys.tclk = true) : exec (.mergeDone p) s = .next (mergeDone p s) :=
  onUnit_whenDo (lt_nCores hp) ht s _

/-- STACK_REQUEST with a TEL.ATTN of one piece at the head of the queue, none of whose pages is with the host. -/
theorem attnServed {j : AttnJob} {rest : List VaultWork} (hst : st < 16) (ht : s.sys.tclk = true) (hj : attnJob s p job = some j)
    (h1 : j.split = 1) (hq : (s.stack st).queue = .attn p job :: rest) (hs : Healthy s)
    (hh : (headTaken s st rest).attnHost p job st = none) :
    ∃ t i, exec (.stackRequest st []) s = .next t ∧ ServedOn s t p ∧ t.vault = s.vault ∧ (t.stack st).queue = rest ∧
      { t.core p with attn := [] } = { s.core p with attn := [] } ∧ attnJob t p job = some i ∧
      { i with parts := [] } = { j with parts := [] } ∧
      SMap.get (present i.parts) none st = some (pieceReply j (pieceTokens (aLen j.words) 1 st 0)
        ((headTaken s st rest).readKv p j (pieceTokens (aLen j.words) 1 st 0) []).2) := by
  have sound : Sound (headTaken s st rest) := sound_headTaken (sound_of_healthy hs)
  have done := tallied_attnPiece sound p j st 0
  have served := serveAttn_one (s := headTaken s st rest) hj h1 st []
  have reply := attnPiece_reply (headTaken s st rest) p j st 0 []
  rw [h1] at reply
  obtain ⟨on, queue, core⟩ := servedOn_tallied done p fun c =>
    { c with attn := SMap.put c.attn job (pieceKept st j ((headTaken s st rest).attnPiece p j st 0 []).2) }
  rw [← served] at on queue core
  refine ⟨_, pieceKept st j ((headTaken s st rest).attnPiece p j st 0 []).2, ?_, on, ?_, queue, ?_, ?_, rfl, ?_⟩
  · rw [exec_stackRequest hst ht hq, State.serveWork, hh]
    show Host.Outcome.next ((headTaken s st rest).serveAttn p job st []).settleStacks = _
    rw [served, settleStacks_tallied (settled_of_healthy hs) done]
  · rw [served]
    exact done.vault
  · rw [core]
  · show SMap.get (present (State.core _ p).attn) none job = _
    rw [core, present_put, SMap.get_put, if_pos rfl]
  · rw [pieceKept, present_put, SMap.get_put, if_pos rfl, reply]

end Settle

/-- Settles O33: each reply by what it does to its core, and the service of one piece by a sound stack. -/
theorem tellerReplies : Obligations.TellerReplies := by
  intro p job st s hp hst ht
  refine ⟨fun j r hj hr hf => ⟨fun hn => ?_, fun code hc hrun hu => ?_⟩, ?_, ?_, fun m hm => ?_⟩
  · obtain ⟨only, core⟩ := telReply_writes hj hr hf hn
    have job_eq := telJob_of_tel (s := s) (t := telStackReply p job st s) (j := j) (st := st) (r := r) (by rw [core, tel_telReplied])
    refine ⟨_, exec_telStackReply hp hst ht, only, by rw [core, rest_telReplied], fun h3 h6 => ?_, fun h3 => ?_, fun h => ?_, fun h => ?_,
      fun n hs h hfill huser => ?_⟩
    · rw [core, spool_telReplied, telSpool, if_neg (by simp [h3, h6])]
    · rw [core, spool_telReplied, telSpool, if_pos (.inl h3), if_pos h3]
    · rw [job_eq, if_pos ((filter_isEmpty_iff _ _).mpr h)]
    · have hl : ¬(j.left.filter (· ≠ st)).isEmpty = true := fun e =>
        let ⟨k, hk, hne⟩ := h
        hne ((filter_isEmpty_iff _ _).mp e k hk)
      refine ⟨telAwaiting st j r, by rw [job_eq, if_neg hl], rfl, ?_⟩
      rw [core]
      exact slotsKept_telReplied h
    · rw [core]
      exact slotBecame_telReplied hs h hfill huser
  · obtain ⟨faulted, kept⟩ := telReply_faults hj hr hf hc hrun hu
    exact ⟨_, exec_telStackReply hp hst ht, faulted, kept⟩
  · rintro j rest s0 r hj h1 hq hs rfl hh rfl
    exact attnServed hst ht hj h1 hq hs hh
  · rintro j k i r b errs hj h16 hk hi hl hr rfl
    have landed := attnPartial_eq (errs := errs) hj hk hi hl hr
    refine ⟨fun bs hb => ?_, fun code hc hrun hu => ?_⟩
    · subst hb
      rw [landPartial_lands] at landed
      have core : (attnPartial p job st k errs s).core p = partLanded job i j bs (s.core p) := by
        rw [landed, State.core_modCore, if_pos rfl]
        rfl
      have job_eq := attnJob_of_attn (s := s) (t := attnPartial p job st k errs s) (j := j) (i := i) (ok := true)
        (by rw [core, attn_partLanded])
      refine ⟨_, exec_attnPartial hp hst h16 ht, ?_, by rw [core, spool_partLanded, withArrival], by rw [core, rest_partLanded],
        fun h => ⟨?_, ?_⟩, fun h => ⟨?_, fun hf hfill huser => ?_⟩⟩
      · rw [landed]
        exact coreOnly_modCore _ p _
      · rw [core]
        exact slotsKept_partLanded h
      · have he : ¬(j.left.filter (· ≠ i)).isEmpty = true := fun e =>
          let ⟨m, hm, hne⟩ := h
          hne ((filter_isEmpty_iff _ _).mp e m hm)
        exact ⟨attnAwaiting i j true, by rw [job_eq, if_neg he], rfl, rfl⟩
      · rw [job_eq, if_pos ((filter_isEmpty_iff _ _).mpr h)]
      · rw [core]
        exact slotBecame_partLanded h hf hfill huser
    · subst hc
      rw [landPartial_faults] at landed
      have core : ((State.modCore { s with lineErrs := errs } p (attnTaken job i j false)).core p) = attnTaken job i j false (s.core p) := by
        rw [State.core_modCore, if_pos rfl]
        rfl
      obtain ⟨faulted, kept⟩ := ownFault_faults (s := s) (code := code) (by rw [core]; exact hrun) (by rw [core]; rfl) (by rw [core]; rfl) hu
      exact ⟨_, exec_attnPartial hp hst h16 ht, by rwa [landed], by rwa [landed]⟩
  · obtain ⟨x, hx⟩ := mergeEnded_eq m (s.core p)
    have core : (mergeDone p s).core p = mergeEnded m (s.core p) := by rw [mergeDone_eq hm, State.core_modCore, if_pos rfl]
    refine ⟨_, exec_mergeDone hp ht, ?_, by rw [core, hx], by rw [core, hx], fun hn n => ?_, fun n hn hd hu => ?_⟩
    · rw [mergeDone_eq hm]
      exact coreOnly_modCore s p _
    · rw [core, mergeEnded, hn]
      rfl
    · rw [core]
      exact slotBecame_mergeEnded hn hd hu

end Sys2Proof.Proofs
end

section
/-!
Proofs: transfers at a stack, refresh, temperature and scrub (05 R183 to R185, R188).
-/
namespace Sys2Proof.Proofs
open Sys2Proof.Machine Sys2Proof.Safety Sys2Proof.Laws

/-! ### The reply of a transfer -/

theorem replied_setReply {s x : State} {p : Nat} (hc : x.core p = s.core p) (hb : x.beat = s.beat) (n start : Nat) (r : XferReply) :
    Replied s (x.setReply p n start r) p n start r := by
  have core : (x.setReply p n start r).core p = (s.core p).setStream n { (s.core p).stream n with
      out := ((s.core p).stream n).out.map fun o =>
        if o.start = start then { o with served := some s.beat, reply := some r } else o } := by
    unfold State.setReply
    rw [State.core_modCore, if_pos rfl, hc, hb]
  refine ⟨by rw [core]; rfl, fun m hm => ?_, ?_⟩
  · rw [core, Core.stream_setStream, if_neg hm]
  · rw [core, Core.stream_setStream, if_pos rfl]

/-- The physical addresses of the bytes of a transfer. -/
def xferBytes (x : Stream) (o : Xfer) : List Nat := o.pas.flatMap fun a => (List.range (farUnit x.desc)).map (a + ·)

section Serve
variable {s : State} {p n start : Nat} {o : Xfer} {errs : List LineErr}

/-- What a stack answers to a read. -/
def readReply : Option Bytes → XferReply
  | some bs => .data bs
  | none => .err fStrData

theorem serveXfer_read (ho : ((s.core p).stream n).xfer start = some o) (hd : dDir ((s.core p).stream n).desc = 0) :
    s.serveXfer p n start errs =
      ((s.readBytes (xferBytes ((s.core p).stream n) o) errs (.core p)).1.chargeVault p (xferBytes ((s.core p).stream n) o).length).setReply
        p n start (readReply (s.readBytes (xferBytes ((s.core p).stream n) o) errs (.core p)).2) := by
  unfold State.serveXfer
  simp only [ho, hd]
  rfl

theorem serveXfer_write (ho : ((s.core p).stream n).xfer start = some o) (hd : dDir ((s.core p).stream n).desc = 1) :
    s.serveXfer p n start errs =
      ((s.writeBytes ((xferBytes ((s.core p).stream n) o).zip o.bytes) errs (.core p)).1.chargeVault p
        (xferBytes ((s.core p).stream n) o).length).setReply p n start
        (if (s.writeBytes ((xferBytes ((s.core p).stream n) o).zip o.bytes) errs (.core p)).2 then .done else .err fStrData) := by
  unfold State.serveXfer
  simp only [ho, hd]
  rfl

end Serve

/-! ### Writes of bytes (05 R183) -/

/-- Lines that are written back as they were read change no byte. -/
theorem byte_mergeLines (m : Mem) (ls : List Nat) (x : Nat) :
    (mergeLines m (ls.map fun l => (l, some (storedLine m l)))).byte x = m.byte x := by
  have same : ∀ (ls : List Nat) (m' : Mem), (∀ x, m'.byte x = m.byte x) →
      (mergeLines m' (ls.map fun l => (l, some (storedLine m l)))).byte x = m.byte x := by
    intro ls
    induction ls with
    | nil => exact fun m' h => h x
    | cons l ls ih =>
      refine fun m' h => ih _ fun x => ?_
      show (m'.store (64 * l) (storedLine m l)).byte x = m.byte x
      rw [Mem.byte_store]
      split
      · rename_i hx
        have hl : (storedLine m l).length = 64 := by simp [storedLine]
        have hi : x - 64 * l < 64 := by omega
        simp [storedLine, hi, show 64 * l + (x - 64 * l) = x by omega]
      · exact h x
  exact same ls m fun _ => rfl

/-- A byte after a run of writes: the last one written there, or what it was. -/
theorem byte_foldl_set (es : List (Nat × Byte)) (m : Mem) (a : Nat) :
    Mem.byte (es.foldl (fun (m : Mem) e => SMap.set m 0 e.1 e.2) m) a =
      ((es.reverse.find? fun e => e.1 = a).map (·.2)).getD (m.byte a) := by
  induction es generalizing m with
  | nil => rfl
  | cons e es ih =>
    rw [List.foldl_cons, ih, List.reverse_cons, List.find?_append]
    cases es.reverse.find? fun e => e.1 = a with
    | some x => rfl
    | none =>
      by_cases h : e.1 = a
      · simp [h, Mem.byte]
      · simp [h, Mem.byte, Ne.symm h]

/-- The vault after a write: the lines that it covers in part are read and written back with it. -/
def vaultWritten (m : Mem) (es : List (Nat × Byte)) : Mem :=
  es.foldl (fun (m : Mem) e => SMap.set m 0 e.1 e.2)
    (mergeLines m (((linesOf (es.map (·.1))).filter fun l => !wholeLine (es.map (·.1)) l).map fun l => (l, some (storedLine m l))))

theorem byte_vaultWritten (m : Mem) (es : List (Nat × Byte)) (a : Nat) :
    (vaultWritten m es).byte a = ((es.reverse.find? fun e => e.1 = a).map (·.2)).getD (m.byte a) := by
  rw [vaultWritten, byte_foldl_set, byte_mergeLines]

theorem writeBytes_sound {s : State} (h : Sound s) (es : List (Nat × Byte)) (who : Asker) :
    s.writeBytes es [] who = (({ s with vault := vaultWritten s.vault es } : State).countBytes (es.map (·.1)) true, true) := by
  have bad : ∀ ls : List Nat, (ls.map fun l => (l, some (storedLine s.vault l))).filterMap
      (fun e => if e.2.isNone then some e.1 else none) = [] := fun ls => by simp
  unfold State.writeBytes
  simp only [readLines_sound h, bad]
  simp [vaultWritten]

/-! ### Transfers at a sound stack -/

section Transfer
variable {s : State} {st p n start : Nat} {rest : List VaultWork} (hst : st < 16) (ht : s.sys.tclk = true)
  (hq : (s.stack st).queue = .xfer p n start :: rest)
include hst ht hq

/-- STACK_REQUEST with a transfer at the head of the queue, which a sound stack has served with a vault `m` and the reply `r`. -/
theorem xferServed {m : Mem} {x : State} {r : XferReply} (hs : Settled s) (done : Tallied (headTaken { s with vault := m } st rest) x)
    (served : (headTaken s st rest).serveXfer p n start [] = x.setReply p n start r) :
    ∃ t, exec (.stackRequest st []) s = .next t ∧ ServedOn s t p ∧ t.vault = m ∧ (t.stack st).queue = rest ∧
      Replied s t p n start r := by
  obtain ⟨on, queue, -⟩ := servedOn_tallied done p (·.setStream n { (x.core p).stream n with
    out := ((x.core p).stream n).out.map fun o => if o.start = start then { o with served := some x.beat, reply := some r } else o })
  refine ⟨x.setReply p n start r, ?_, on, done.vault, queue, replied_setReply (done.core p) done.beat n start r⟩
  rw [exec_stackRequest hst ht hq]
  show Host.Outcome.next ((headTaken s st rest).serveXfer p n start []).settleStacks = _
  have settled : Settled { s with vault := m } := hs
  rw [served]
  exact congrArg _ (settleStacks_tallied settled done p _)

variable {o : Xfer} {bs : List Nat} (ho : ((s.core p).stream n).xfer start = some o) (hb : bs = xferBytes ((s.core p).stream n) o)
include ho hb

theorem readServed (hs : Healthy s) (hu : s.sched.unpub = []) (hd : dDir ((s.core p).stream n).desc = 0) :
    ∃ t, exec (.stackRequest st []) s = .next t ∧ ServedOn s t p ∧ t.vault = s.vault ∧ (t.stack st).queue = rest ∧
      Replied s t p n start (.data (bs.map s.vault.byte)) := by
  subst hb
  have sound : Sound (headTaken s st rest) := sound_headTaken (sound_of_healthy hs)
  have read := tallied_readBytes sound (xferBytes ((s.core p).stream n) o) (.core p)
  refine xferServed hst ht hq (settled_of_healthy hs)
    (read.trans (tallied_chargeVault _ p (xferBytes ((s.core p).stream n) o).length)) ?_
  rw [serveXfer_read (s := headTaken s st rest) ho hd]
  exact congrArg (State.setReply _ p n start) (congrArg readReply (readBytes_sound sound hu _ (.core p)))

theorem writeServed (hs : Healthy s) (hd : dDir ((s.core p).stream n).desc = 1) :
    ∃ t, exec (.stackRequest st []) s = .next t ∧ ServedOn s t p ∧ t.vault = vaultWritten s.vault (bs.zip o.bytes) ∧
      (t.stack st).queue = rest ∧ Replied s t p n start .done := by
  subst hb
  have sound : Sound (headTaken s st rest) := sound_headTaken (sound_of_healthy hs)
  refine xferServed hst ht hq (settled_of_healthy hs) ((tallied_countBytes _
    (((xferBytes ((s.core p).stream n) o).zip o.bytes).map (·.1)) true).trans
    (tallied_chargeVault _ p (xferBytes ((s.core p).stream n) o).length)) ?_
  rw [serveXfer_write (s := headTaken s st rest) ho hd, writeBytes_sound sound]
  rfl

end Transfer

end Sys2Proof.Proofs
end

section
/-!
Proofs: a read of a stack that has failed, what a stack's reading shows, the scrub of a line and a refresh (05 R182, R184, R185, R189, R209, R210).
-/
namespace Sys2Proof.Proofs
open Sys2Proof.Machine Sys2Proof.Safety Sys2Proof.Laws

/-! ### What an entry of the error log leaves alone -/

/-- The words below the VLT block, and VLT_STATUS of each stack. -/
def Standing (off : Nat) : Prop := off < 0x60000 ∨ off < 0x70000 ∧ off % 0x1000 = 0

/-- An uncorrectable line or an entry of the error log changes none of these words, and of the rest what a message to the host does. -/
structure Logged (s t : State) : Prop where
  rest : Rest s t
  raw : ∀ off, Standing off → t.raw off = s.raw off

namespace Logged
variable {s t u : State}

theorem refl (s : State) : Logged s s := ⟨rfl, fun _ _ => rfl⟩

theorem trans (h : Logged s t) (k : Logged t u) : Logged s u := ⟨k.rest.trans h.rest, fun off ho => (k.raw off ho).trans (h.raw off ho)⟩

theorem of_kept (h : Kept s t) : Logged s t := ⟨h.1, fun off ho => h.2 off (by
  unfold Standing at ho
  unfold Mail
  omega)⟩

theorem stack (h : Logged s t) (k : Nat) : t.stack k = s.stack k := by rw [State.stack, rest_vstacks h.rest, State.stack]

theorem beat (h : Logged s t) : t.beat = s.beat := congrArg BitVec.toNat (h.raw Reg.beatCount (.inl (by decide)))

theorem standing_vltStatus {k : Nat} (hk : k < 16) : Standing (Reg.vltStatus k) := by
  unfold Standing Reg.vltStatus
  omega

theorem state (h : Logged s t) {k : Nat} (hk : k < 16) : t.fld (Fld.vltStatus_state k) = s.fld (Fld.vltStatus_state k) := by
  simp only [State.fld, h.raw (Fld.vltStatus_state k).off (standing_vltStatus hk)]

theorem marked (h : Logged s t) {k : Nat} (hk : k < 16) : t.marked k = s.marked k := by
  simp only [State.marked, State.fld, h.raw (Fld.vltStatus_dieMark k).off (standing_vltStatus hk)]

end Logged

section Entries
variable (s : State)

theorem logged_setRaw {off : Nat} (w : W64) (h : ¬Standing off) : Logged s (s.setRaw off w) :=
  ⟨rfl, fun j hj => raw_setRaw_ne s off j w fun e => h (e ▸ hj)⟩

theorem logged_setFld {f : Fld} (v : Nat) (h : ¬Standing f.off) : Logged s (s.setFld f v) := logged_setRaw s _ h

theorem logged_logError (cls unit : Nat) (a b : W64) (h : cls < 64) : Logged s (s.logError cls unit a b) :=
  have f := logError_frame s cls unit a b h
  ⟨f.1, fun off ho => f.2 off (by unfold Standing at ho; unfold Mail; omega) (.inl (by unfold Standing at ho; omega))⟩

/-- The registers of a stack beside VLT_STATUS. -/
theorem not_standing (k : Nat) {c : Nat} (h0 : 0 < c) (h1 : c < 0x1000) : ¬Standing (0x60000 + c + 0x1000 * k) := by
  unfold Standing
  omega

theorem logged_recordErr (st kind addr : Nat) : Logged s (s.recordErr st kind addr) := by
  have he : ¬Standing (Reg.vltErrAddr st) := not_standing st (c := 0x20) (by decide) (by decide)
  have hb : ¬Standing (Reg.vltErrBeat st) := not_standing st (c := 0x28) (by decide) (by decide)
  unfold State.recordErr
  split
  · exact .refl s
  · extract_lets s1 s2 s3
    exact (((logged_setFld s kind he).trans (logged_setFld s1 addr he)).trans (logged_setFld s2 1 he)).trans (logged_setRaw s3 _ hb)

theorem logged_badLine (st pa kind : Nat) (who : Asker) : Logged s (s.badLine st pa kind who) := by
  have hu : ¬Standing (Reg.vltUe st) := not_standing st (c := 0x18) (by decide) (by decide)
  unfold State.badLine
  extract_lets failed kind s1 s2 core
  exact ((logged_setFld s _ hu).trans (logged_recordErr s1 _ _ _)).trans (logged_logError s2 _ _ _ _ (by decide))

end Entries

/-! ### Lines of failed stacks (05 R189, R209) -/

/-- What a line without wrong symbols delivers: nothing where its stack has failed. -/
def lineOf (s : State) (l : Nat) : Option Bytes :=
  if s.fld (Fld.vltStatus_state (stackOf (64 * l))) = 5 then none else some (storedLine s.vault l)

theorem readLine_unmarked {s : State} {line : Nat} (hm : s.marked (stackOf (64 * line)) = none) (who : Asker) :
    Logged s (s.readLine line [] who).1 ∧ (s.readLine line [] who).2 = lineOf s line := by
  unfold lineOf
  by_cases hf : s.fld (Fld.vltStatus_state (stackOf (64 * line))) = 5
  · have hd : s.decodeLine line [] who = (s.badLine (stackOf (64 * line)) (64 * line) 1 who, .bad 1) := by
      unfold State.decodeLine
      exact if_pos hf
    unfold State.readLine
    rw [hd, if_pos hf]
    exact ⟨logged_badLine s _ _ _ _, rfl⟩
  · rw [readLine_sound hf hm, if_neg hf]
    exact ⟨.refl s, rfl⟩

theorem lineOf_logged {s t : State} (h : Logged s t) (l : Nat) : lineOf t l = lineOf s l := by
  rw [lineOf, lineOf, h.state (stackOf_lt _), rest_vault h.rest]

/-- Lines that arrive without wrong symbols while no die is marked. -/
theorem readLines_unmarked {s : State} (hm : ∀ k, k < 16 → s.marked k = none) (who : Asker) (ls : List Nat) :
    Logged s (s.readLines [] who ls).1 ∧ (s.readLines [] who ls).2 = ls.map fun l => (l, lineOf s l) := by
  induction ls generalizing s with
  | nil => exact ⟨.refl s, rfl⟩
  | cons l ls ih =>
    obtain ⟨h1, e1⟩ := readLine_unmarked (hm _ (stackOf_lt (64 * l))) who
    obtain ⟨h2, e2⟩ := ih (s := (s.readLine l [] who).1) fun k hk => (h1.marked hk).trans (hm k hk)
    refine ⟨h1.trans h2, ?_⟩
    rw [State.readLines, List.map_cons]
    simp only [e1, e2, lineOf_logged h1]

theorem mapM_eq_none {α β : Type} {f : α → Option β} {l : List α} {a : α} (ha : a ∈ l) (h : f a = none) : l.mapM f = none := by
  induction l with
  | nil => cases ha
  | cons b l ih =>
    rw [List.mapM_cons]
    rcases List.mem_cons.mp ha with rfl | hl
    · rw [h]
      rfl
    · rw [ih hl]
      cases f b <;> rfl

/-- A read of bytes of which one lies in a failed stack. -/
theorem readBytes_failed {s : State} (hm : ∀ k, k < 16 → s.marked k = none) {pas : List Nat} {a : Nat} (ha : a ∈ pas)
    (hf : s.fld (Fld.vltStatus_state (stackOf (64 * (a / 64)))) = 5) (who : Asker) :
    ∃ x, Logged s x ∧ Tallied x (s.readBytes pas [] who).1 ∧ (s.readBytes pas [] who).2 = none := by
  obtain ⟨h1, e1⟩ := readLines_unmarked hm who (linesOf pas)
  have none_a : byteIn ((linesOf pas).map fun l => (l, lineOf s l)) a = none := by
    rw [byteIn_map _ _ (mem_linesOf ha), lineOf, if_pos hf]
    rfl
  refine ⟨_, h1, ?_⟩
  unfold State.readBytes
  extract_lets r s1
  have he : pas.mapM (byteIn r.2) = none := by
    rw [e1]
    exact mapM_eq_none ha none_a
  rw [he]
  exact ⟨tallied_countBytes _ _ _, rfl⟩

/-- STACK_REQUEST with a read at the head of the queue, of which one byte lies in a failed stack. -/
theorem readFails {s : State} {st p n start : Nat} {rest : List VaultWork} {o : Xfer} {bs : List Nat} (hst : st < 16)
    (ht : s.sys.tclk = true) (hq : (s.stack st).queue = .xfer p n start :: rest) (ho : ((s.core p).stream n).xfer start = some o)
    (hb : bs = xferBytes ((s.core p).stream n) o) (hs : Settled s) (hm : ∀ k, k < 16 → s.marked k = none)
    (hd : dDir ((s.core p).stream n).desc = 0)
    (hf : ∃ a ∈ bs, s.fld (Fld.vltStatus_state (stackOf (64 * (a / 64)))) = 5) :
    ∃ t, exec (.stackRequest st []) s = .next t ∧ t.vault = s.vault ∧ Replied s t p n start (.err 0x0C) := by
  subst hb
  obtain ⟨a, ha, hf⟩ := hf
  have hm0 : ∀ k, k < 16 → (headTaken s st rest).marked k = none := hm
  obtain ⟨x, logged, counted, none_read⟩ := readBytes_failed hm0 ha hf (.core p)
  have charged := counted.trans (tallied_chargeVault _ p (xferBytes ((s.core p).stream n) o).length)
  have served := serveXfer_read (s := headTaken s st rest) (errs := []) ho hd
  rw [show ((headTaken s st rest).core p).stream n = (s.core p).stream n from rfl, none_read] at served
  have core := (charged.core p).trans (core_of_rest logged.rest p)
  have settled : Settled ((headTaken s st rest).serveXfer p n start []) := fun k hk => by
    rw [served]
    exact (charged.note k).trans ((congrArg Stack.failNote (logged.stack k)).trans (settled_headTaken hs k hk))
  refine ⟨(headTaken s st rest).serveXfer p n start [], ?_, ?_, ?_⟩
  · rw [exec_stackRequest hst ht hq]
    exact congrArg _ (settleStacks_settled settled)
  · rw [served]
    exact charged.vault.trans ((rest_vault logged.rest).trans rfl)
  · rw [served]
    exact replied_setReply core (charged.beat.trans logged.beat) n start _

/-! ### STACK_TEMP_CHANGE (05 R184; 12 R438) -/

/-- Whether the device has warned of its temperature. -/
def warnedAs (w : Bool) (s : State) : State := { s with sys := { s.sys with warned := w } }

/-- A reading changes what its store changes, and whether the device has warned of it. -/
theorem takeReading_kept (s : State) (src : TempSource) (temp : Nat) : ∃ w,
    Kept (warnedAs w (s.storeReading src temp)) (s.takeReading src temp) ∧
      ((s.storeReading src temp).fld Fld.pwrTherm_warn ≤ temp → w = true) := by
  unfold State.takeReading
  extract_lets s1 warn s2
  have drive : ∀ w, Kept (warnedAs w s1) (warnedAs w s2) := fun w => ⟨rfl, fun _ _ => rfl⟩
  split
  · split
    · rename_i hw
      exact ⟨s2.sys.warned, drive _, fun _ => hw⟩
    · exact ⟨true, kept_trans (drive true) (kept_raise _ _ _ _ _ _), fun _ => rfl⟩
  · rename_i hw
    split
    · exact ⟨false, drive _, fun h => absurd h hw⟩
    · exact ⟨s2.sys.warned, drive _, fun h => absurd h hw⟩

@[simp] theorem warnedAs_vault (w : Bool) (s : State) : (warnedAs w s).vault = s.vault := rfl
@[simp] theorem warnedAs_cores (w : Bool) (s : State) : (warnedAs w s).cores = s.cores := rfl
@[simp] theorem warnedAs_fld (w : Bool) (s : State) (f : Fld) : (warnedAs w s).fld f = s.fld f := rfl

theorem kept_warned {s t : State} (h : Kept s t) : t.sys.warned = s.sys.warned :=
  (congrArg Sys.warned (rest_sys h.1) :)

theorem not_mail_vltStatus {st : Nat} (h : st < 16) : ¬Mail (Reg.vltStatus st) := by
  unfold Mail Reg.vltStatus
  omega

section Reading
variable (s : State) (st temp : Nat)

theorem pwrTherm_ne_vltStatus : Fld.pwrTherm_warn.off ≠ Reg.vltStatus st := by
  unfold Reg.vltStatus
  show 0x20018 ≠ _
  omega

theorem warn_storeReading : (s.storeReading (.stack st) temp).fld Fld.pwrTherm_warn = s.fld Fld.pwrTherm_warn :=
  (fld_setFld_ne _ (Fld.vltStatus_refresh2x st) _ _ (pwrTherm_ne_vltStatus st)).trans
    (fld_setFld_ne _ (Fld.vltStatus_temp st) _ _ (pwrTherm_ne_vltStatus st))

theorem temp_storeReading (h : temp < 256) : (s.storeReading (.stack st) temp).fld (Fld.vltStatus_temp st) = temp := by
  unfold State.storeReading
  rw [fld_setFld_apart _ (Fld.vltStatus_refresh2x st) (Fld.vltStatus_temp st) _ (show 3 + 1 ≤ 64 by decide) rfl
    (.inr (show 3 + 1 ≤ 56 by decide)), fld_setFld_self _ _ _ (show 56 + 8 ≤ 64 by decide)]
  exact Nat.mod_eq_of_lt h

theorem refresh2x_storeReading :
    (s.storeReading (.stack st) temp).fld (Fld.vltStatus_refresh2x st) = if 85 < temp then 1 else 0 := by
  unfold State.storeReading
  rw [fld_setFld_self _ _ _ (show 3 + 1 ≤ 64 by decide)]
  split <;> rfl

end Reading

theorem stackTempChange_shows {s : State} {st temp : Nat} (hst : st < 16) (ht : s.sys.tclk = true) (h : temp < 256) :
    ∃ t, exec (.stackTempChange st temp) s = .next t ∧ t.fld (Fld.vltStatus_temp st) = temp ∧
      t.flag (Fld.vltStatus_refresh2x st) = decide (85 < temp) ∧ t.vault = s.vault ∧ t.cores = s.cores ∧
      (s.fld Fld.pwrTherm_warn ≤ temp → t.sys.warned = true) := by
  obtain ⟨w, kept, warned⟩ := takeReading_kept s (.stack st) temp
  rw [warn_storeReading] at warned
  refine ⟨s.takeReading (.stack st) temp, onUnit_whenDo (by simp [nStacks, hst, h]) ht s _, ?_, ?_,
    (rest_vault kept.1).trans (by simp [State.storeReading]), (rest_cores kept.1).trans (by simp [State.storeReading]),
    fun hw => (kept_warned kept).trans (warned hw)⟩
  · rw [kept_fld kept (Fld.vltStatus_temp st) (not_mail_vltStatus hst), warnedAs_fld, temp_storeReading s st temp h]
  · rw [State.flag, kept_fld kept (Fld.vltStatus_refresh2x st) (not_mail_vltStatus hst), warnedAs_fld, refresh2x_storeReading]
    by_cases h85 : 85 < temp <;> simp [h85]

/-! ### SCRUB_LINE (05 R182, R185) -/

section Scrub
variable (s : State) (st : Nat)

/-- A loop that clears OUTER_SYM of some dies. -/
theorem foldl_clearOuter (ds : List Nat) : ∃ r, ds.foldl (fun s d => s.setFld (Fld.vltInner_outerSym st d) 0) s = { s with regs := r } ∧
    (∀ off, (∀ d ∈ ds, off ≠ Reg.vltInner st d) → ({ s with regs := r } : State).raw off = s.raw off) ∧
    ∀ d ∈ ds, ({ s with regs := r } : State).fld (Fld.vltInner_outerSym st d) = 0 := by
  induction ds generalizing s with
  | nil => exact ⟨s.regs, rfl, fun _ _ => rfl, fun _ h => nomatch h⟩
  | cons d ds ih =>
    obtain ⟨r, he, hr, hz⟩ := ih (s.setFld (Fld.vltInner_outerSym st d) 0)
    refine ⟨r, he, fun off ho => ?_, fun e hm => ?_⟩
    · exact (hr off fun e hm => ho e (by simp [hm])).trans (raw_setFld_ne s _ _ off (ho d (by simp)))
    · by_cases hd : e ∈ ds
      · exact hz e hd
      · have h0 : e = d := by simpa [hd] using hm
        subst h0
        have apart : ∀ f ∈ ds, Reg.vltInner st e ≠ Reg.vltInner st f := fun f hf h => hd (by
          unfold Reg.vltInner at h
          exact (show e = f by omega) ▸ hf)
        have hraw := hr (Reg.vltInner st e) apart
        refine (congrArg (fun w : W64 => w.toNat / 2 ^ 32 % 2 ^ 32) hraw).trans ?_
        exact fld_setFld_self s (Fld.vltInner_outerSym st e) 0 (show 32 + 32 ≤ 64 by decide)

/-- The counts of a scrub of a line that arrives without wrong symbols. -/
def scrubCounted (s : State) (st : Nat) : State := (({ s with lineErrs := [] } : State).countRead st 64).charge sharedAcct lVault 64

/-- The scrub passes one line. -/
def scrubPassed (s : State) (st : Nat) : State :=
  (scrubCounted s st).setFld (Fld.vltScrubPos_line st) ((s.fld (Fld.vltScrubPos_line st) + 1) % 2 ^ 30)

/-- A pass is complete. -/
def passDone (s : State) (st : Nat) : State := (s.count (Fld.vltScrubDone_passes st)).clearOuter st

theorem tallied_scrubCounted : Tallied { s with lineErrs := [] } (scrubCounted s st) :=
  (tallied_countRead _ st 64).trans (tallied_charge _ _ _ _)

theorem settled_scrubPassed (h : Settled s) : Settled (scrubPassed s st) := fun k hk =>
  ((tallied_scrubCounted s st).note k).trans (h k hk)

theorem settled_passDone (h : Settled s) : Settled (passDone s st) := by
  obtain ⟨r, he, -⟩ := foldl_clearOuter (s.count (Fld.vltScrubDone_passes st)) st (List.range 18)
  rw [passDone, State.clearOuter, he]
  exact h

theorem scrubLine_sound (h : Healthy s) (h0 : s.fld (Fld.vltCtrl_scrubHours st) ≠ 0) : scrubLine st [] s =
    if s.fld (Fld.vltScrubPos_line st) + 1 = 2 ^ 30 then passDone (scrubPassed s st) st else scrubPassed s st := by
  obtain ⟨hf, hm⟩ := sound_of_healthy h _ (stackOf_lt (64 * lineNo st (s.fld (Fld.vltScrubPos_line st))))
  have hr := readLine_sound (s := { s with lineErrs := [] }) hf hm .scrub
  unfold scrubLine
  extract_lets s1 la r s2 s3 s4 s5 done
  have hr1 : r = (s1, some (storedLine s1.vault (lineNo st la))) := hr
  have h2 : s2 = s1 := by
    simp only [s2, hr1]
    rfl
  have h5 : s5 = scrubPassed s st := by
    simp only [s5, s4, s3, h2]
    rfl
  have settled := settled_scrubPassed s st (settled_of_healthy h)
  rw [if_neg (show s1.fld (Fld.vltCtrl_scrubHours st) ≠ 0 from h0)]
  simp only [done, h5]
  have ends : (if la + 1 = 2 ^ 30 then passDone (scrubPassed s st) st else scrubPassed s st).settleStacks =
      if la + 1 = 2 ^ 30 then passDone (scrubPassed s st) st else scrubPassed s st := by
    split
    · exact settleStacks_settled (settled_passDone _ st settled)
    · exact settleStacks_settled settled
  exact ends

theorem vltScrubPos_ne : Reg.vltScrubPos st ≠ Reg.vltScrubDone st ∧ ∀ d, Reg.vltScrubPos st ≠ Reg.vltInner st d := by
  unfold Reg.vltScrubPos Reg.vltScrubDone Reg.vltInner
  exact ⟨by omega, fun d => by omega⟩

theorem scrubPos_scrubPassed : (scrubPassed s st).fld (Fld.vltScrubPos_line st) = (s.fld (Fld.vltScrubPos_line st) + 1) % 2 ^ 30 :=
  (fld_setFld_self _ (Fld.vltScrubPos_line st) _ (show 0 + 30 ≤ 64 by decide)).trans (Nat.mod_mod _ _)

theorem passDone_keeps : (passDone s st).vault = s.vault ∧ (passDone s st).cores = s.cores ∧
    (passDone s st).fld (Fld.vltScrubPos_line st) = s.fld (Fld.vltScrubPos_line st) ∧
    ∀ d, d < 18 → (passDone s st).fld (Fld.vltInner_outerSym st d) = 0 := by
  obtain ⟨hd, hi⟩ := vltScrubPos_ne st
  obtain ⟨r, he, hr, hz⟩ := foldl_clearOuter (s.count (Fld.vltScrubDone_passes st)) st (List.range 18)
  rw [passDone, State.clearOuter, he]
  refine ⟨rfl, rfl, ?_, fun d hd => hz d (List.mem_range.mpr hd)⟩
  have hraw := (hr (Reg.vltScrubPos st) fun d _ => hi d).trans (raw_setFld_ne s (Fld.vltScrubDone_passes st) _ _ hd)
  exact congrArg (fun w : W64 => w.toNat / 2 ^ 0 % 2 ^ 30) hraw

theorem scrubLine_passes (hst : st < 16) (ht : s.sys.tclk = true) (h : Healthy s) (h0 : s.fld (Fld.vltCtrl_scrubHours st) ≠ 0) :
    ∃ t, exec (.scrubLine st []) s = .next t ∧ t.vault = s.vault ∧ t.cores = s.cores ∧
      t.fld (Fld.vltScrubPos_line st) = (s.fld (Fld.vltScrubPos_line st) + 1) % 2 ^ 30 ∧
      (s.fld (Fld.vltScrubPos_line st) = 2 ^ 30 - 1 → ∀ d, d < 18 → t.fld (Fld.vltInner_outerSym st d) = 0) := by
  have hx : exec (.scrubLine st []) s = .next (scrubLine st [] s) := onUnit_whenDo (decide_eq_true hst) ht s _
  have counted := tallied_scrubCounted s st
  rw [scrubLine_sound s st h h0] at hx
  refine ⟨_, hx, ?_⟩
  split
  · obtain ⟨vault, cores, pos, clear⟩ := passDone_keeps (scrubPassed s st) st
    exact ⟨vault.trans counted.vault, cores.trans counted.cores, pos.trans (scrubPos_scrubPassed s st), fun _ => clear⟩
  · rename_i hl
    exact ⟨counted.vault, counted.cores, scrubPos_scrubPassed s st, fun e => absurd (by omega) hl⟩

theorem scrubLine_off (hst : st < 16) (ht : s.sys.tclk = true) (h0 : s.fld (Fld.vltCtrl_scrubHours st) = 0) :
    exec (.scrubLine st []) s = .next { s with lineErrs := [] } :=
  (onUnit_whenDo (decide_eq_true hst) ht s (scrubLine st [])).trans (congrArg _ (if_pos h0))

end Scrub

/-! ### REFRESH (05 R184) -/

theorem refresh_counts {s : State} {st : Nat} (hst : st < 16) (ht : s.sys.tclk = true) :
    ∃ t, exec (.refresh st) s = .next t ∧ { t with vstacks := [] } = { s with vstacks := [] } ∧
      (∀ k, k ≠ st → t.stack k = s.stack k) ∧ t.stack st = { s.stack st with refreshes := (s.stack st).refreshes + 1 } :=
  ⟨_, onUnit_whenDo (decide_eq_true hst) ht s _, rfl, fun k hk => (stack_setStack s st k _).trans (if_neg hk),
    (stack_setStack s st st _).trans (if_pos rfl)⟩

end Sys2Proof.Proofs
end

section
/-!
Proofs: a stack that hangs fails and the device is FAULTED; what the device does for it, to commit and to stop its work, leaves both so
(05 R189; 13 R463, R464, R467).
-/
namespace Sys2Proof.Proofs
open Sys2Proof.Machine Sys2Proof.Safety Sys2Proof.Laws

/-- A FAULTED device stays FAULTED, a FAILED stack stays FAILED, and no words are set aside for a prepared THREAD_LOOM. -/
structure Lasting (s t : State) : Prop where
  faulted : s.devState = 5 → t.devState = 5
  failed : ∀ k, k < 16 → s.fld (Fld.vltStatus_state k) = 5 → t.fld (Fld.vltStatus_state k) = 5
  undo : s.loom.undo = none → t.loom.undo = none

namespace Lasting
variable {s t u : State}

theorem refl (s : State) : Lasting s s := ⟨id, fun _ _ => id, id⟩

theorem trans (h : Lasting s t) (k : Lasting t u) : Lasting s u :=
  ⟨k.faulted ∘ h.faulted, fun i hi => k.failed i hi ∘ h.failed i hi, k.undo ∘ h.undo⟩

theorem ite {a b : State} {c : Prop} [Decidable c] (ha : Lasting s a) (hb : Lasting s b) : Lasting s (if c then a else b) := by
  split
  · exact ha
  · exact hb

theorem foldl {α : Type} (f : State → α → State) (hf : ∀ s a, Lasting s (f s a)) (l : List α) (s : State) :
    Lasting s (l.foldl f s) := foldl_keeps refl trans f hf l s

/-- A loop over elements of which each has a property. -/
theorem foldl_of_mem {α : Type} (f : State → α → State) (l : List α) (hf : ∀ s, ∀ a ∈ l, Lasting s (f s a)) (s : State) :
    Lasting s (l.foldl f s) := by
  induction l generalizing s with
  | nil => exact refl s
  | cons a l ih => exact (hf s a (by simp)).trans (ih (fun s b hb => hf s b (by simp [hb])) _)

/-- The word of DEV_STATE and those of VLT_STATUS are as they were. -/
theorem of_raw (hd : t.raw Reg.devState = s.raw Reg.devState) (hv : ∀ k, k < 16 → t.raw (Reg.vltStatus k) = s.raw (Reg.vltStatus k))
    (hu : t.loom.undo = s.loom.undo) : Lasting s t where
  faulted h := (congrArg Fld.devState_state.of hd).trans h
  failed k hk h := (congrArg (Fld.vltStatus_state k).of (hv k hk)).trans h
  undo h := hu.trans h

theorem of_regs (hr : t.regs = s.regs) (hu : t.loom.undo = s.loom.undo) : Lasting s t :=
  have raw : ∀ off, t.raw off = s.raw off := fun off => congrArg (fun m => SMap.get m (resetWord off) off) hr
  of_raw (raw _) (fun _ _ => raw _) hu

theorem of_logged (h : Logged s t) : Lasting s t :=
  of_raw (h.raw _ (.inl (by decide))) (fun _ hk => h.raw _ (Logged.standing_vltStatus hk)) (congrArg Loom.undo (rest_loom h.rest))

theorem of_kept (h : Kept s t) : Lasting s t := of_logged (.of_kept h)

theorem of_tallied (h : Tallied s t) : Lasting s t :=
  of_raw (h.raw _ (by decide)) (fun k _ => h.raw _ (by unfold Reg.vltStatus; omega)) (congrArg Loom.undo h.loom)

end Lasting

section Parts
variable (s : State)

theorem lasting_setStack (k : Nat) (x : Stack) : Lasting s (s.setStack k x) := .of_regs rfl rfl
theorem lasting_setCtx (k : Nat) (x : Context) : Lasting s (s.setCtx k x) := .of_regs rfl rfl
theorem lasting_modCtx (k : Nat) (f : Context → Context) : Lasting s (s.modCtx k f) := lasting_setCtx s k _
theorem lasting_modCore (p : Nat) (f : Core → Core) : Lasting s (s.modCore p f) := .of_regs rfl rfl
theorem lasting_sched (x : Sched) : Lasting s { s with sched := x } := .of_regs rfl rfl
theorem lasting_dropCmd (key : Nat) : Lasting s (s.dropCmd key) := lasting_sched s _
theorem lasting_vault (m : Mem) : Lasting s { s with vault := m } := .of_regs rfl rfl
theorem lasting_freeHeld (h : Holder) : Lasting s (s.freeHeld h) := .of_regs rfl rfl
theorem lasting_freeByte : Lasting s s.freeByte.2 := .of_regs rfl rfl

end Parts

/-! ### Reads and writes of lines -/

section Lines
variable (s : State)

theorem devState_ne_of_vlt {off : Nat} (h : 0x60000 ≤ off) : Reg.devState ≠ off := by
  unfold Reg.devState
  omega

/-- A field of the VLT block beside STATE. -/
theorem lasting_setFld {f : Fld} (v : Nat) (h : 0x60000 ≤ f.off) (hw : f.lo + f.width ≤ 64) (hl : 3 ≤ f.lo) :
    Lasting s (s.setFld f v) where
  faulted hd := (fld_setFld_ne s f Fld.devState_state v (devState_ne_of_vlt h)).trans hd
  failed k _ hf := by
    by_cases ho : Reg.vltStatus k = f.off
    · exact (fld_setFld_apart s f (Fld.vltStatus_state k) v hw ho (.inl hl)).trans hf
    · exact (fld_setFld_ne s f (Fld.vltStatus_state k) v ho).trans hf
  undo := id

theorem vltStatus_inj {k st : Nat} (h : Reg.vltStatus k = Reg.vltStatus st) : k = st := by
  unfold Reg.vltStatus at h
  omega

/-- A stack enters FAILED. -/
theorem lasting_setFailed (st : Nat) : Lasting s (s.setFld (Fld.vltStatus_state st) 5) where
  faulted hd := (fld_setFld_ne s _ Fld.devState_state 5 (devState_ne_of_vlt (vlt_le 0 st))).trans hd
  failed k _ hf := by
    by_cases h : k = st
    · subst h
      exact fld_setFld_self s (Fld.vltStatus_state k) 5 (show 0 + 3 ≤ 64 by decide)
    · exact (fld_setFld_ne s (Fld.vltStatus_state st) (Fld.vltStatus_state k) 5 fun e => h (vltStatus_inj e)).trans hf
  undo := id

/-- What follows the FAILED state of a stack: the record, the entry of the error log, and the note of the entry. -/
theorem failStack_entry (st cause addr : Nat) : ∃ x n,
    Logged (s.setFld (Fld.vltStatus_state st) 5) x ∧
      s.failStack st cause addr = x.setStack st { x.stack st with failNote := some n } := by
  unfold State.failStack
  extract_lets s1 s2 n die s3
  exact ⟨s3, n, (logged_recordErr s1 st 5 addr).trans (logged_logError s2 _ _ _ _ (by decide)), rfl⟩

theorem lasting_failStack (st cause addr : Nat) : Lasting s (s.failStack st cause addr) := by
  obtain ⟨x, n, logged, he⟩ := failStack_entry s st cause addr
  rw [he]
  exact ((lasting_setFailed s st).trans (.of_logged logged)).trans (lasting_setStack x st _)

theorem lasting_countDie (st pa d : Nat) : Lasting s (s.countDie st pa d) := by
  unfold State.countDie
  extract_lets s1 limit reached s2
  have h1 : Lasting s s1 := lasting_setFld s _ (by show 0x60000 ≤ 0x60100 + 0x1000 * st + 0x8 * d; omega)
    (show 32 + 32 ≤ 64 by decide) (show 3 ≤ 32 by decide)
  have h2 : Lasting s1 s2 := lasting_setFld s1 _ (vlt_le 0 st) (show 30 + 18 ≤ 64 by decide) (show 3 ≤ 30 by decide)
  split
  · split
    · exact (h1.trans h2).trans (.of_logged (logged_logError s2 _ _ _ _ (by decide)))
    · exact .ite (h1.trans (lasting_failStack s1 _ _ _)) h1
  · exact h1

theorem logged_countInner (st : Nat) {d : Nat} (hd : d < 18) : Logged s (s.count (Fld.vltInner_inner st d)) :=
  logged_setFld s _ (by show ¬Standing (0x60100 + 0x1000 * st + 0x8 * d); unfold Standing; omega)

theorem lasting_decodeLine (line : Nat) (errs : List LineErr) (who : Asker) : Lasting s (s.decodeLine line errs who).1 := by
  unfold State.decodeLine
  extract_lets pa st e s1 r s2
  have h1 : Lasting s s1 := .foldl_of_mem _ _ (fun s d hd => .of_logged (logged_countInner s st (by simpa using (List.mem_filter.mp hd).2))) s
  have h2 : Logged s1 s2 := logged_setFld s1 _ (not_standing st (c := 0x10) (by decide) (by decide))
  split
  · exact .of_logged (logged_badLine s _ _ _ _)
  · clear_value r
    split
    · exact h1.trans (.of_logged (logged_badLine s1 _ _ _ _))
    · exact h1
    · exact (h1.trans (.of_logged h2)).trans (.foldl _ (fun s d => lasting_countDie s _ _ _) _ _)

theorem lasting_readLine (line : Nat) (errs : List LineErr) (who : Asker) : Lasting s (s.readLine line errs who).1 := by
  have h := lasting_decodeLine s line errs who
  unfold State.readLine
  split <;> simp_all

theorem lasting_readLines (errs : List LineErr) (who : Asker) (ls : List Nat) : Lasting s (s.readLines errs who ls).1 := by
  induction ls generalizing s with
  | nil => exact .refl s
  | cons l ls ih => exact (lasting_readLine s l errs who).trans (ih _)

theorem lasting_writeBytes (es : List (Nat × Byte)) (errs : List LineErr) (who : Asker) :
    Lasting s (s.writeBytes es errs who).1 := by
  unfold State.writeBytes
  extract_lets pas part r bad put m s1 s2
  have h1 : Lasting s s1 := lasting_readLines s errs who part
  have h2 : Lasting s1 s2 := lasting_vault s1 m
  exact (h1.trans h2).trans (.of_tallied (tallied_countBytes s2 _ _))

theorem lasting_clerkWrite (es : List (Nat × Byte)) : Lasting s (s.clerkWrite es) := lasting_writeBytes s es _ _

theorem lasting_clerkStore (pa : Nat) (bs : Bytes) : Lasting s (s.clerkStore pa bs) := lasting_clerkWrite s _

theorem lasting_freeBytes (n : Nat) : Lasting s (s.freeBytes n).2 := by
  induction n with
  | zero => exact .refl s
  | succ n ih => exact ih.trans (lasting_freeByte _)

end Lines

/-! ### How commands commit (04 R161 to R163; 09 R347) -/

section Commit
variable (s : State)

theorem lasting_foldUnit (copies : List RedCopy) (u : Nat) : Lasting s (s.foldUnit copies u).1 := by
  unfold State.foldUnit
  extract_lets s1 f
  have h1 : Lasting s s1 := .of_tallied (tallied_countRead s _ _)
  have h2 : Lasting s1 f.2 := lasting_freeBytes s1 256
  clear_value f
  split
  · exact h1
  · exact h1.trans (lasting_clerkStore s1 u _)
  · exact (h1.trans h2).trans (lasting_clerkStore f.2 u f.1)

theorem lasting_foldUnits (copies : List RedCopy) (us : List Nat) (b : Bool) :
    Lasting s (us.foldl (fun r u => let x := r.1.foldUnit copies u; (x.1, r.2 || x.2)) (s, b)).1 := by
  induction us generalizing s b with
  | nil => exact .refl s
  | cons u us ih => exact (lasting_foldUnit s copies u).trans (ih (s.foldUnit copies u).1 (b || (s.foldUnit copies u).2))

theorem lasting_foldCmd (c : RunCmd) : Lasting s (s.foldCmd c) := by
  unfold State.foldCmd
  extract_lets copies us r
  have h : Lasting s r.1 := lasting_foldUnits s copies us false
  split
  · exact .ite (h.trans (lasting_modCore r.1 _ _)) h
  · exact h

theorem lasting_publish (c : RunCmd) : Lasting s (s.publish c) := by
  refine .foldl _ (fun s e => ?_) _ s
  split
  · exact (lasting_clerkWrite s _).trans (lasting_sched _ _)
  · exact .refl s

theorem lasting_modCores (ps : List Nat) (f : Core → Core) : Lasting s (ps.foldl (fun s p => s.modCore p f) s) :=
  .foldl _ (fun s p => lasting_modCore s p f) ps s

theorem lasting_chargeAttempt (c : RunCmd) (acct : Nat) : Lasting s (s.chargeAttempt c acct) :=
  .of_kept (kept_trans (kept_charge ..) (kept_charge ..))

theorem lasting_dropSaved (k : Nat) (p : RunCmd → Bool) : Lasting s (s.dropSaved k p) := by
  unfold State.dropSaved
  extract_lets c s1
  have h1 : Lasting s s1 := .foldl _ (fun s (v : SavedCmd) => lasting_chargeAttempt s v.cmd c.client) _ s
  exact h1.trans (lasting_modCtx s1 k _)

theorem lasting_ctxTo (k : Nat) (st : CtxSt) : Lasting s (s.ctxTo k st) := by
  unfold State.ctxTo
  extract_lets ended s1 keepTurn s2 s3
  have h1 : Lasting s s1 := .ite (lasting_freeHeld s _) (.refl s)
  have h2 : Lasting s1 s2 := .ite (.refl s1) (lasting_sched s1 _)
  have h3 : Lasting s2 s3 := .ite (lasting_dropSaved s2 k _) (.refl s2)
  exact ((h1.trans h2).trans h3).trans (lasting_modCtx s3 k _)

theorem lasting_swapCheck (k : Nat) : Lasting s (s.swapCheck k) := by
  unfold State.swapCheck
  extract_lets c s1
  have h1 : Lasting s s1 := (lasting_sched s _).trans (lasting_setCtx _ k _)
  exact .ite (h1.trans (lasting_sched s1 _)) (.refl s)

theorem logged_countDegraded : Logged s (s.count Fld.schedCounts_degraded) :=
  logged_setFld s _ (by unfold Standing; decide)

theorem lasting_preemptCheck (k : Nat) : Lasting s (s.preemptCheck k) := by
  unfold State.preemptCheck
  extract_lets s1 c s2 s3
  have h1 : Lasting s s1 := lasting_swapCheck s k
  have h2 : Lasting s1 s2 := lasting_setCtx s1 k _
  have h3 : Lasting s2 s3 := .ite (lasting_ctxTo s2 k _) (.refl s2)
  refine .ite (((h1.trans h2).trans h3).trans (.foldl _ (fun x seq => ?_) _ s3)) h1
  extract_lets x1
  have hx : Lasting x x1 := .ite (.of_logged (logged_countDegraded x)) (.refl x)
  exact hx.trans (.of_kept (kept_complete x1 seq _))

theorem lasting_jobCheck (k : Nat) : Lasting s (s.jobCheck k) := by
  unfold State.jobCheck
  extract_lets c
  split
  · split
    · extract_lets s1
      have h1 : Lasting s s1 := (Lasting.of_kept (kept_raise s _ _ _ _ _)).trans (lasting_modCtx _ k _)
      exact .ite h1 (h1.trans (lasting_ctxTo s1 k _))
    · exact .refl s
  · exact .refl s

theorem lasting_afterEnd (c : RunCmd) (st : Status) : Lasting s (s.afterEnd c st) := by
  unfold State.afterEnd
  extract_lets s1
  have h1 : Lasting s s1 := .ite (lasting_modCtx s _ _) (.refl s)
  exact (h1.trans (lasting_jobCheck s1 _)).trans (lasting_preemptCheck _ _)

theorem lasting_commitCmd (key : Nat) (c : RunCmd) : Lasting s (s.commitCmd key c) := by
  unfold State.commitCmd
  extract_lets s1 s2 client s3 outs s4 s5
  have h1 : Lasting s s1 := lasting_publish s c
  have h2 : Lasting s1 s2 := lasting_modCores s1 _ _
  have h3 : Lasting s2 s3 := ((lasting_chargeAttempt s2 c client).trans (.of_kept (kept_charge ..))).trans (lasting_sched _ _)
  have h4 : Lasting s3 s4 := lasting_modCtx s3 _ _
  have h5 : Lasting s4 s5 := .of_kept (kept_traceRec ..)
  exact ((((h1.trans h2).trans h3).trans h4).trans h5).trans (lasting_afterEnd s5 c _)

theorem lasting_finishCommit (key : Nat) (c : RunCmd) : Lasting s (s.finishCommit key c) := by
  unfold State.finishCommit
  split
  · exact (lasting_foldCmd s c).trans (lasting_commitCmd _ key c)
  · exact lasting_commitCmd s key c
  · exact .refl s

theorem lasting_finishCommits (p : RunCmd → Bool) : Lasting s (s.finishCommits p) := by
  refine .foldl _ (fun s e => ?_) _ s
  split
  · exact .ite (lasting_finishCommit s _ _) (.refl s)
  · exact .refl s

end Commit

/-! ### How the device's work stops (13 R464, R465, R467) -/

section Stop
variable (s : State)

theorem lasting_unpark (f : VaultWork → Bool) : Lasting s (s.unpark f) :=
  Lasting.trans (t := { s with parked := s.parked.filter fun e => !f e.2 }) (.of_regs rfl rfl)
    (.foldl (fun (s : State) (e : Nat × VaultWork) => s.queueWork e.1 e.2) (fun s e => lasting_setStack s e.1 _) _ _)

theorem lasting_abortCmd (key : Nat) (c : RunCmd) : Lasting s (s.abortCmd key c) := by
  have idle : Lasting s (coresAborted s (s.setCores c)) := (lasting_modCores s _ _).trans (.of_regs rfl rfl)
  have orphan : Lasting (coresAborted s (s.setCores c)) ((coresAborted s (s.setCores c)).orphan (s.setCores c)) := .of_regs rfl rfl
  have gone := ((idle.trans orphan).trans (lasting_unpark _ (VaultWork.ofCores (s.setCores c)))).trans (lasting_dropCmd _ key)
  exact gone.trans (.of_kept (kept_traceRec ..))

theorem lasting_abortAll (k acct : Nat) : Lasting s (s.abortAll k acct) := by
  unfold State.abortAll
  extract_lets s1
  have h1 : Lasting s s1 := lasting_finishCommits s _
  exact h1.trans (.foldl (fun (s : State) (e : Nat × RunCmd) => (s.chargeAttempt e.2 acct).abortCmd e.1 e.2)
    (fun s e => (lasting_chargeAttempt s e.2 acct).trans (lasting_abortCmd _ e.1 e.2)) _ s1)

theorem lasting_stopCtx (k : Nat) : Lasting s (s.stopCtx k) :=
  (((lasting_abortAll s k _).trans (lasting_ctxTo _ k _)).trans (lasting_modCtx _ k _)).trans (lasting_preemptCheck _ k)

theorem lasting_stopJob (job : Nat) (st : Status) : Lasting s (s.stopJob job st) := by
  unfold State.stopJob
  split
  · exact .refl s
  · extract_lets value s1 s2
    have h1 : Lasting s s1 := lasting_finishCommits s _
    have h2 : Lasting s1 s2 := .foldl _ lasting_stopCtx _ s1
    exact (h1.trans h2).trans (.of_kept (kept_raise ..))

theorem lasting_stopAllJobs (st : Status) : Lasting s (s.stopAllJobs st) := .foldl _ (fun s j => lasting_stopJob s j st) _ s

theorem lasting_endOps (st : Status) : Lasting s (s.endOps st) :=
  (Lasting.foldl _ (fun s (o : LoomOp) => .of_kept (kept_complete s o.seq (.fail st))) _ s).trans (.of_regs rfl rfl)

theorem lasting_dropStaging (b : Nat) : Lasting s (s.dropStaging b) := by
  unfold State.dropStaging
  extract_lets x
  split
  · exact .of_regs rfl rfl
  · exact .refl s

/-- With no words set aside, nothing is put back. -/
theorem lasting_dropPrepared (h : s.loom.undo = none) : Lasting s s.dropPrepared := by
  have undone : Lasting s s.undoThread := by
    unfold State.undoThread
    rw [h]
    exact ⟨id, fun _ _ => id, fun _ => rfl⟩
  exact (undone.trans (.foldl _ lasting_dropStaging _ _)).trans (.of_regs rfl rfl)

theorem lasting_loomSend (m : LoomMsg) : Lasting s (s.loomSend m) := by
  obtain ⟨ps, hp⟩ := queueFlits_eq (s.flitsOf m) s
  have sent : Lasting s { s with ports := ps, loom := { s.loom with out := s.loom.out ++ [m] } } := .of_regs rfl rfl
  rw [State.loomSend, hp]
  exact .ite (sent.trans (.of_kept (kept_charge ..))) sent

end Stop

/-! ### The device faults (13 R463) -/

section Fault
variable (s : State)

theorem devState_setDevState {st : Nat} (h : st < 8) (phase cause : Nat) : (s.setDevState st phase cause).devState = st := by
  unfold State.setDevState
  extract_lets w0 w1 w2
  refine (congrArg Fld.devState_state.of (raw_setRaw_self s Reg.devState _)).trans ?_
  exact (of_insert Fld.devState_state w2 st (by decide)).trans (Nat.mod_eq_of_lt h)

theorem vltStatus_ne_devState (k : Nat) : Reg.vltStatus k ≠ Reg.devState := (devState_ne_of_vlt (vlt_le 0 k)).symm

/-- A change to FAULTED. -/
theorem changeState_faulted (phase cause : Nat) :
    (s.changeState 5 phase cause).devState = 5 ∧ Lasting s (s.changeState 5 phase cause) := by
  have set5 : (s.setDevState 5 phase cause).devState = 5 := devState_setDevState s (by decide) phase cause
  have set : Lasting s (s.setDevState 5 phase cause) :=
    ⟨fun _ => set5, fun k _ h => (congrArg (Fld.vltStatus_state k).of (raw_setRaw_ne s _ _ _ (vltStatus_ne_devState k))).trans h, id⟩
  unfold State.changeState
  extract_lets t
  have raised : Lasting t (t.raise 0x0001 0 (t.raw Reg.devState) []) := .of_kept (kept_raise ..)
  split
  · exact ⟨set5, set⟩
  · exact ⟨raised.faulted set5, set.trans raised⟩

theorem enterFaulted_faulted (h : s.loom.undo = none) (cause : Status) :
    (s.enterFaulted cause).devState = 5 ∧ Lasting s (s.enterFaulted cause) := by
  unfold State.enterFaulted
  extract_lets s1 keeps s2
  have h1 : Lasting s s1 := lasting_finishCommits s _
  have h2 : s2.devState = 5 ∧ Lasting s1 s2 := by
    by_cases hk : keeps = true
    · rw [show s2 = s1 from if_pos hk]
      simp only [keeps, Bool.and_eq_true, decide_eq_true_eq] at hk
      exact ⟨hk.1, .refl s1⟩
    · rw [show s2 = s1.changeState stFaulted 15 (stCode cause) from if_neg hk]
      exact changeState_faulted s1 15 (stCode cause)
  obtain ⟨h5, h2⟩ := h2
  have h3 : Lasting s2 ((s2.stopAllJobs cause).endOps cause) := (lasting_stopAllJobs s2 cause).trans (lasting_endOps _ cause)
  have h4 := h3.trans (lasting_dropPrepared _ ((h1.trans (h2.trans h3)).undo h))
  exact ⟨h4.faulted h5, (h1.trans h2).trans h4⟩

theorem deviceFault_faulted (h : s.loom.undo = none) (cause : W64) :
    (s.deviceFault cause).devState = 5 ∧ Lasting s (s.deviceFault cause) := by
  unfold State.deviceFault
  extract_lets threaded s1 s2
  have h1 : Lasting s s1 := .of_logged (logged_logError s _ _ _ _ (by decide))
  obtain ⟨h5, h2⟩ : s2.devState = 5 ∧ Lasting s1 s2 := enterFaulted_faulted s1 (h1.undo h) _
  have flood : Lasting s2 (s2.floodFault (some (s2.loom.row, s2.loom.col))) := .foldl _ (fun s p => lasting_loomSend s _) _ s2
  split
  · exact ⟨flood.faulted h5, (h1.trans h2).trans flood⟩
  · exact ⟨h5, h1.trans h2⟩

/-- What the device does for stack `k` after a step: it faults where the stack has just failed (13 R463). -/
def stackSettled (s : State) (k : Nat) : State :=
  match (s.stack k).failNote with
  | some n => (s.setStack k { s.stack k with failNote := none }).deviceFault (BitVec.ofNat 64 n)
  | none => s

theorem settleStacks_eq : s.settleStacks = (List.range 16).foldl stackSettled s := rfl

/-- Stack `k` has nothing to settle, or the device is FAULTED for it. -/
theorem stackSettled_cases (h : s.loom.undo = none) (k : Nat) :
    ((s.stack k).failNote = none ∧ stackSettled s k = s) ∨
      ((stackSettled s k).devState = 5 ∧ Lasting s (stackSettled s k)) := by
  unfold stackSettled
  split
  · rename_i n hn
    have faults := deviceFault_faulted (s.setStack k { s.stack k with failNote := none }) h (BitVec.ofNat 64 n)
    exact .inr ⟨faults.1, (lasting_setStack s k _).trans faults.2⟩
  · rename_i hn
    exact .inl ⟨hn, rfl⟩

theorem foldl_stackSettled {s : State} (h : s.loom.undo = none) (ks : List Nat) :
    Lasting s (ks.foldl stackSettled s) ∧
      ((s.devState = 5 ∨ ∃ k ∈ ks, (s.stack k).failNote ≠ none) → (ks.foldl stackSettled s).devState = 5) := by
  induction ks generalizing s with
  | nil => exact ⟨.refl s, fun hs => hs.resolve_right fun ⟨_, hk, _⟩ => nomatch hk⟩
  | cons k ks ih =>
    rw [List.foldl_cons]
    rcases stackSettled_cases s h k with ⟨none_k, he⟩ | ⟨h5, kept⟩
    · rw [he]
      obtain ⟨rest, faults⟩ := ih h
      refine ⟨rest, fun hs => faults (hs.imp_right ?_)⟩
      rintro ⟨j, hj, hn⟩
      refine ⟨j, (List.mem_cons.mp hj).resolve_left ?_, hn⟩
      rintro rfl
      exact hn none_k
    · obtain ⟨rest, faults⟩ := ih (kept.undo h)
      exact ⟨kept.trans rest, fun _ => faults (.inl h5)⟩

end Fault

/-! ### STACK_HANG (05 R189) -/

section Hang
variable {s : State} {st : Nat} {w : VaultWork} {rest : List VaultWork}

/-- A stack whose queue has not moved for more than 3,500 beats. -/
theorem stackHang_faults (hst : st < 16) (ht : s.sys.tclk = true) (hq : (s.stack st).queue = w :: rest)
    (hf : s.fld (Fld.vltStatus_state st) ≠ 5) (hu : s.loom.undo = none) (hb : (s.stack st).idleFrom + 3500 < s.beat) :
    ∃ t, exec (.stackHang st) s = .next t ∧ t.devState = 5 ∧ t.fld (Fld.vltStatus_state st) = 5 := by
  obtain ⟨x, n, logged, he⟩ := failStack_entry s st 2 0
  have fails := lasting_failStack s st 2 0
  have note : ((s.failStack st 2 0).stack st).failNote = some n := by
    rw [he, stack_setStack, if_pos rfl]
  have failed : (s.failStack st 2 0).fld (Fld.vltStatus_state st) = 5 := by
    rw [he]
    exact (logged.state hst).trans (fld_setFld_self s (Fld.vltStatus_state st) 5 (show 0 + 3 ≤ 64 by decide))
  obtain ⟨settles, faults⟩ := foldl_stackSettled (fails.undo hu) (List.range 16)
  refine ⟨(s.failStack st 2 0).settleStacks, ?_, faults (.inr ⟨st, List.mem_range.mpr hst, by simp [note]⟩), settles.failed st hst failed⟩
  refine (onUnit_whenDo (decide_eq_true hst) ht s (stackHang st)).trans (congrArg _ ?_)
  exact if_pos (by simp [hq, hb, stkFailed, hf])

theorem stackHang_waits (hst : st < 16) (ht : s.sys.tclk = true) (hb : s.beat ≤ (s.stack st).idleFrom + 3500) :
    exec (.stackHang st) s = .next s := by
  refine (onUnit_whenDo (decide_eq_true hst) ht s (stackHang st)).trans (congrArg _ ?_)
  exact if_neg (by simp [hb])

end Hang

/-- Settles O32: a request of a stack by what its lines deliver, a hang by what the fault leaves as it is. -/
theorem vaultRows : Obligations.VaultRows := by
  unfold Obligations.VaultRows
  intro st s hst ht
  refine ⟨?_, fun w rest hq hf hu => ⟨stackHang_faults hst ht hq hf hu, stackHang_waits hst ht⟩, refresh_counts hst ht,
    fun temp h => stackTempChange_shows hst ht h, scrubLine_passes s st hst ht, scrubLine_off s st hst ht⟩
  rintro p n start rest x o bs hq rfl ho hs hu hb
  refine ⟨fun healthy hd => readServed hst ht hq ho hb healthy hu hd, fun healthy hd => ?_,
    fun hd failed => readFails hst ht hq ho hb (fun k hk => (hs k hk).1) (fun k hk => (hs k hk).2) hd failed⟩
  obtain ⟨t, served, on, vault, queue, replied⟩ := writeServed hst ht hq ho hb healthy hd
  exact ⟨t, served, on, queue, replied, fun a => by rw [vault, byte_vaultWritten]⟩

end Sys2Proof.Proofs
end

section
/-!
Proofs: the step (log 20): the front of the queue, and the beat that passes on an empty one (06 R251, 10 R367, 12 R440, 14 R480).
-/
namespace Sys2Proof.Proofs
open Sys2Proof.Machine Sys2Proof.Safety Sys2Proof.Laws

/-! ### Pause frames (10 R367) -/

/-- Nothing changed but the frames sent, their count, and the classes for which XOFF is in force. -/
structure OnlyPauses (s t : State) : Prop where
  rest : { t with regs := [], eth := { t.eth with frames := [], xoff := 0 } } =
    { s with regs := [], eth := { s.eth with frames := [], xoff := 0 } }
  raw : ∀ off, off ≠ Reg.ethTxFrames → t.raw off = s.raw off
  frames : ∀ f ∈ s.eth.frames, f ∈ t.eth.frames

namespace OnlyPauses
variable {s t u : State}

theorem refl (s : State) : OnlyPauses s s := ⟨rfl, fun _ _ => rfl, fun _ => id⟩

theorem trans (h : OnlyPauses s t) (k : OnlyPauses t u) : OnlyPauses s u :=
  ⟨k.rest.trans h.rest, fun off ho => (k.raw off ho).trans (h.raw off ho), fun f hf => k.frames f (h.frames f hf)⟩

theorem sys (h : OnlyPauses s t) : t.sys = s.sys := (congrArg State.sys h.rest :)

theorem rxHeld (h : OnlyPauses s t) : t.eth.rxHeld = s.eth.rxHeld := (congrArg (fun x : State => x.eth.rxHeld) h.rest :)

end OnlyPauses

theorem onlyPauses_sendPause (s : State) (c : Nat) (off : Bool) : OnlyPauses s (s.sendPause c off) :=
  ⟨rfl, fun _ ho => raw_setFld_ne _ _ _ _ ho, fun _ hf => List.mem_append_left _ hf⟩

/-- One class of the receive buffers empties: XON goes out where XOFF is in force. -/
def classDrained (s : State) (c : Nat) : State := if s.eth.xoff.getLsbD c then s.sendPause c false else s

theorem onlyPauses_classDrained (s : State) (c : Nat) : OnlyPauses s (classDrained s c) := by
  unfold classDrained
  split
  · exact onlyPauses_sendPause s c false
  · exact .refl s

theorem onlyPauses_foldl_classDrained (cs : List Nat) (s : State) : OnlyPauses s (cs.foldl classDrained s) :=
  foldl_keeps OnlyPauses.refl OnlyPauses.trans classDrained onlyPauses_classDrained cs s

theorem xoff_classDrained (s : State) (c k : Nat) : (classDrained s c).eth.xoff.getLsbD k = (s.eth.xoff.getLsbD k && k ≠ c) := by
  unfold classDrained
  split
  · show (s.eth.xoff &&& ~~~BitVec.twoPow 8 c).getLsbD k = _
    by_cases hk : k < 8
    · simp [hk, eq_comm]
    · have past : s.eth.xoff.getLsbD k = false := BitVec.getLsbD_of_ge _ k (by omega)
      simp [past]
  · grind

theorem xoff_foldl_classDrained (cs : List Nat) (s : State) (k : Nat) :
    (cs.foldl classDrained s).eth.xoff.getLsbD k = (s.eth.xoff.getLsbD k && k ∉ cs) := by
  induction cs generalizing s with
  | nil => simp
  | cons c cs ih =>
    rw [List.foldl_cons, ih, xoff_classDrained]
    simp [Bool.and_assoc]

theorem xon_sendPause (s : State) (c : Nat) : ∃ f ∈ (s.sendPause c false).eth.frames, f.body = .pause c false :=
  ⟨_, List.mem_append_right _ (List.mem_singleton.mpr rfl), rfl⟩

theorem xon_foldl_classDrained {cs : List Nat} {s : State} {k : Nat} (hk : k ∈ cs) (hx : s.eth.xoff.getLsbD k = true) :
    ∃ f ∈ (cs.foldl classDrained s).eth.frames, f.body = .pause k false := by
  induction cs generalizing s with
  | nil => simp at hk
  | cons c cs ih =>
    by_cases h : k = c
    · subst h
      have sent : classDrained s k = s.sendPause k false := if_pos hx
      obtain ⟨f, hf, body⟩ := xon_sendPause s k
      rw [List.foldl_cons, sent]
      exact ⟨f, (onlyPauses_foldl_classDrained cs _).frames f hf, body⟩
    · exact ih ((List.mem_cons.mp hk).resolve_left h) (by simp [xoff_classDrained, hx, h])

theorem drainRx_eq (s : State) :
    s.drainRx = (List.range 8).foldl classDrained { s with eth := { s.eth with rxHeld := [] } } := rfl

theorem onlyPauses_drainRx (s : State) : OnlyPauses { s with eth := { s.eth with rxHeld := [] } } s.drainRx :=
  onlyPauses_foldl_classDrained _ _

theorem xoff_drainRx (s : State) : s.drainRx.eth.xoff = 0 := by
  apply BitVec.eq_of_getLsbD_eq
  intro k hk
  rw [drainRx_eq, xoff_foldl_classDrained]
  simp [hk]

/-! ### The voltage targets (14 R480) -/

/-- Nothing changed but the VID codes and PWR_STATUS, which shows VDD_CORE; without a ramp nothing at all. -/
structure OnlyVid (s t : State) : Prop where
  rest : { t with regs := [], sys := { t.sys with coreVid := 0, sramVid := 0 } } =
    { s with regs := [], sys := { s.sys with coreVid := 0, sramVid := 0 } }
  raw : ∀ off, off ≠ Reg.pwrStatus → t.raw off = s.raw off
  still : s.sys.vidRamp = none → t = s

theorem onlyVid_stepVid (s : State) : OnlyVid s s.stepVid := by
  unfold State.stepVid
  split
  next r hr => exact ⟨rfl, fun off ho => raw_setFld_ne _ _ _ _ ho, fun h => absurd (h.symm.trans hr) (by simp)⟩
  next => exact ⟨rfl, fun _ _ => rfl, fun _ => rfl⟩

/-! ### A beat -/

/-- A beat of a device whose TCLK runs, once the receive buffers and the voltage targets have had theirs. -/
def beatPassed (x : State) : State :=
  { x with sys := { x.sys with gpioOut := x.sys.gpioOut &&& ~~~x.pulses } }.setRaw Reg.beatCount (x.raw Reg.beatCount + 1)

theorem tick_runs {s : State} (h : s.sys.tclk = true) : s.tick = beatPassed s.drainRx.stepVid := if_pos h

theorem tick_still {s : State} (h : s.sys.tclk = false) : s.tick = s := if_neg (by simp [h])

section
variable {s : State} (h : s.sys.tclk = true)
include h

theorem rest_tick : { s.tick with regs := [], sys := { s.tick.sys with gpioOut := 0, coreVid := 0, sramVid := 0 }, eth := { s.tick.eth with
      frames := [], rxHeld := [], xoff := 0 } } =
    { s with regs := [], sys := { s.sys with gpioOut := 0, coreVid := 0, sramVid := 0 }, eth := { s.eth with
      frames := [], rxHeld := [], xoff := 0 } } := by
  rw [tick_runs h]
  have vid := congrArg (fun x : State => { x with
    sys := { x.sys with gpioOut := 0 }, eth := { x.eth with frames := [], rxHeld := [], xoff := 0 } }) (onlyVid_stepVid s.drainRx).rest
  have pauses := congrArg (fun x : State => { x with
    sys := { x.sys with gpioOut := 0, coreVid := 0, sramVid := 0 }, eth := { x.eth with rxHeld := [] } }) (onlyPauses_drainRx s).rest
  exact Eq.trans vid pauses

theorem raw_tick {off : Nat} (ho : off ∉ [Reg.beatCount, Reg.ethTxFrames]) (hp : off ≠ Reg.pwrStatus ∨ s.sys.vidRamp = none) :
    s.tick.raw off = s.raw off := by
  simp only [List.mem_cons, List.not_mem_nil, or_false, not_or] at ho
  rw [tick_runs h, beatPassed, raw_setRaw_ne _ _ _ _ ho.1]
  have pauses := (onlyPauses_drainRx s).raw off ho.2
  rcases hp with hp | hr
  · exact ((onlyVid_stepVid s.drainRx).raw off hp).trans pauses
  · have still := (onlyVid_stepVid s.drainRx).still (by rw [(onlyPauses_drainRx s).sys]; exact hr)
    rw [still]
    exact pauses

theorem beatCount_tick : s.tick.raw Reg.beatCount = s.raw Reg.beatCount + 1 := by
  have kept : s.drainRx.stepVid.raw Reg.beatCount = s.raw Reg.beatCount :=
    ((onlyVid_stepVid s.drainRx).raw _ (by decide)).trans ((onlyPauses_drainRx s).raw _ (by decide))
  rw [tick_runs h, beatPassed, raw_setRaw_self, kept]

theorem eth_tick : s.tick.eth = s.drainRx.eth := by
  rw [tick_runs h]
  exact (congrArg State.eth (onlyVid_stepVid s.drainRx).rest :)

theorem gpioOut_tick : s.tick.sys.gpioOut = s.sys.gpioOut &&& ~~~s.drainRx.stepVid.pulses := by
  have vid : s.drainRx.stepVid.sys.gpioOut = s.drainRx.sys.gpioOut :=
    (congrArg (fun x : State => x.sys.gpioOut) (onlyVid_stepVid s.drainRx).rest :)
  rw [tick_runs h]
  show s.drainRx.stepVid.sys.gpioOut &&& _ = _
  rw [vid, (onlyPauses_drainRx s).sys]

theorem vid_tick (hr : s.sys.vidRamp = none) : s.tick.sys.coreVid = s.sys.coreVid ∧ s.tick.sys.sramVid = s.sys.sramVid := by
  have sys := (onlyPauses_drainRx s).sys
  have still := (onlyVid_stepVid s.drainRx).still (by rw [sys]; exact hr)
  rw [tick_runs h, still]
  show s.drainRx.sys.coreVid = _ ∧ s.drainRx.sys.sramVid = _
  rw [sys]
  exact ⟨rfl, rfl⟩

end

/-- Settles O54: what each part of a beat changes. -/
theorem stepRunsTheFront : Obligations.StepRunsTheFront := by
  unfold Obligations.StepRunsTheFront
  intro s
  refine ⟨fun c rest hc => by simp [step, hc], fun hp => ⟨s.tick, by simp [step, hp], ?_⟩⟩
  cases h : s.sys.tclk with
  | false =>
    rw [tick_still h]
    exact ⟨rfl, fun _ _ => rfl, fun _ => ⟨rfl, rfl, rfl⟩, nofun, nofun, fun _ => rfl⟩
  | true =>
    refine ⟨rest_tick h, fun off ho => ?_, fun hr => ?_, fun _ => ?_, fun _ => ⟨beatCount_tick h, fun k _ hk => ?_⟩, nofun⟩
    · simp only [List.mem_cons, List.not_mem_nil, or_false, not_or] at ho
      obtain ⟨hb, ht, hv⟩ := ho
      exact raw_tick h (by simp [hb, ht]) (.inl hv)
    · exact ⟨(vid_tick h hr).1, (vid_tick h hr).2, raw_tick h (by decide) (.inr hr)⟩
    · rw [eth_tick h]
      exact ⟨(onlyPauses_drainRx s).rxHeld, xoff_drainRx s, fun c hc hx => xon_foldl_classDrained (List.mem_range.mpr hc) hx⟩
    · rw [gpioOut_tick h] at hk
      simp only [BitVec.getLsbD_and, Bool.and_eq_true] at hk
      exact hk.1

end Sys2Proof.Proofs
end

section
/-!
Proofs: what the loom changes as it sends its messages (06 R218; 08 R335), and the rows of the mesh that act at once.
-/
namespace Sys2Proof.Proofs
open Sys2Proof.Machine Sys2Proof.Safety Sys2Proof.Laws

/-! ### Messages of the loom -/

/-- `s` with other queues at its ports and other accounts, once its loom has sent `ms`. -/
def sentOut (s : State) (ps : SMap Port) (l : Ledger) (ms : List LoomMsg) : State :=
  { s with ports := ps, ledger := l, loom := { s.loom with out := s.loom.out ++ ms } }

/-- `s` with other register words. -/
def withRegs (s : State) (rs : SMap W64) : State := { s with regs := rs }

/-- The loom has sent `ms`, and beside what that changes nothing did. -/
def Sends (s : State) (ms : List LoomMsg) (t : State) : Prop := ∃ ps l, t = sentOut s ps l ms

theorem sends_nil (s : State) : Sends s [] s := ⟨s.ports, s.ledger, by simp [sentOut]⟩

theorem Sends.trans {s t u : State} {ms ns : List LoomMsg} (h : Sends s ms t) (k : Sends t ns u) : Sends s (ms ++ ns) u := by
  obtain ⟨ps, l, rfl⟩ := h
  obtain ⟨qs, k, rfl⟩ := k
  exact ⟨qs, k, by simp [sentOut]⟩

theorem charge_eq (s : State) (acct counter n : Nat) : ∃ l, s.charge acct counter n = { s with ledger := l } := by
  unfold State.charge
  split
  · exact ⟨s.ledger, rfl⟩
  · exact ⟨_, rfl⟩

theorem sends_loomSend (s : State) (m : LoomMsg) : Sends s [m] (s.loomSend m) := by
  obtain ⟨ps, hp⟩ := queueFlits_eq (s.flitsOf m) s
  rw [State.loomSend, hp]
  split
  · obtain ⟨l, hl⟩ := charge_eq { s with ports := ps, loom := { s.loom with out := s.loom.out ++ [m] } } sharedAcct lLink
      (flitPayload * (s.flitsOf m).length)
    exact ⟨ps, l, hl⟩
  · exact ⟨ps, s.ledger, rfl⟩

theorem Sends.loomSend {s t : State} {ms : List LoomMsg} (h : Sends s ms t) (m : LoomMsg) : Sends s (ms ++ [m]) (t.loomSend m) :=
  h.trans (sends_loomSend t m)

/-- A message to each of some ports. -/
theorem sends_foldl {α : Type} (g : α → LoomMsg) (xs : List α) (s : State) :
    Sends s (xs.map g) (xs.foldl (fun s x => s.loomSend (g x)) s) := by
  induction xs generalizing s with
  | nil => exact sends_nil s
  | cons x xs ih => exact (sends_loomSend s (g x)).trans (ih _)

theorem Sends.loomOnly {s t : State} {ms : List LoomMsg} (h : Sends s ms t) : LoomOnly s t := by
  obtain ⟨ps, l, rfl⟩ := h
  exact ⟨rfl, rfl, rfl, rfl, rfl, rfl, rfl⟩

/-! ### Events of the mesh -/

theorem onMesh_of_meshed {s : State} (h : Meshed s) : s.onMesh = true := by
  obtain ⟨ht, hd⟩ := h
  rcases hd with hd | hd | hd <;> simp [State.onMesh, State.serving, ht, hd, stReady, stThreaded, stFaulted]

theorem meshed_of_threaded {s : State} (h : Threaded s) : Meshed s := ⟨h.1, .inr (.inl h.2)⟩

theorem onLoom_of_threaded {s : State} (h : Threaded s) : (s.sys.tclk && s.devState = stThreaded) = true := by
  simp [h.1, h.2, stThreaded]

theorem lt_nPorts {p : Nat} (h : p < 4) : decide (p < nPorts) = true := decide_eq_true h

end Sys2Proof.Proofs
end

section
/-!
Proofs: the rows of discovery (06 R233, R234).
-/
namespace Sys2Proof.Proofs
open Sys2Proof.Machine Sys2Proof.Safety Sys2Proof.Laws

/-! ### What a discovery reads and shows -/

theorem portState_congr {s t : State} {p : Nat} (h : t.raw (Reg.lnkPortStatus p) = s.raw (Reg.lnkPortStatus p)) :
    t.portState p = s.portState p := by
  simp only [State.portState, State.fld, Fld.lnkPortStatus_state, h]

theorem upPorts_congr {s t : State} (h : ∀ p, t.raw (Reg.lnkPortStatus p) = s.raw (Reg.lnkPortStatus p)) : t.upPorts = s.upPorts := by
  have up : t.portUp = s.portUp := funext fun p => by simp only [State.portUp, portState_congr (h p)]
  rw [State.upPorts, up, State.upPorts]

theorem raw_notePeer (s : State) (p : Nat) (rc : Int × Int) {off : Nat} (h : off ≠ Reg.lnkPeer p) :
    (s.notePeer p rc).raw off = s.raw off := (raw_setFld_ne _ _ _ _ h).trans (raw_setFld_ne _ _ _ _ h)

theorem upPorts_notePeer (s : State) (p : Nat) (rc : Int × Int) : (s.notePeer p rc).upPorts = s.upPorts :=
  upPorts_congr fun q => raw_notePeer s p rc (by
    unfold Reg.lnkPortStatus Reg.lnkPeer
    omega)

theorem beat_notePeer (s : State) (p : Nat) (rc : Int × Int) : (s.notePeer p rc).beat = s.beat :=
  congrArg BitVec.toNat (raw_notePeer s p rc (by
    unfold Reg.beatCount Reg.lnkPeer
    omega))

theorem discOver_notePeer (s : State) (p : Nat) (rc : Int × Int) (f : Flood) : (s.notePeer p rc).discOver f = s.discOver f := by
  simp only [State.discOver, beat_notePeer]
  rfl

theorem showCoords_eq (s : State) (r c : Int) : ∃ rs, s.showCoords r c = withRegs s rs := by
  unfold State.showCoords
  split
  · exact ⟨s.regs, rfl⟩
  · exact ⟨_, rfl⟩

theorem sends_sendFlood (s : State) (serial : W64) (r c : Int) (ps : List Nat) :
    Sends s (ps.map fun q => .flood q ⟨serial, r, c, q⟩) (s.sendFlood serial r c ps) := sends_foldl _ ps s

/-- Nothing is reported while a neighbour has still to answer. -/
theorem discAdvance_waits {s : State} (h : s.disc.waiting ≠ []) : s.discAdvance = s := by
  unfold State.discAdvance
  exact if_neg (by simp [h])

theorem filter_ne_nil {l : List Nat} {p : Nat} (h : ∃ q ∈ l, q ≠ p) : l.filter (· ≠ p) ≠ [] := by
  obtain ⟨q, hq, hne⟩ := h
  exact List.ne_nil_of_mem (List.mem_filter.mpr ⟨hq, by simpa using hne⟩)

/-! ### DISC_FLOOD -/

section Flood
variable {s : State} {p : Nat} {f : Flood}

/-- The discovery that a device takes up by the flood `f` on port `p`. -/
def discTaken (s : State) (p : Nat) (f : Flood) : Disc :=
  { origin := some f.serial, row := (stepTo f.row f.col f.port).1, col := (stepTo f.row f.col f.port).2, parent := some p,
    waiting := s.upPorts.filter (· ≠ p), beat := s.beat, live := true, result := s.disc.result }

/-- The answer to the port of the flood, and the floods that go on. -/
def floodMsgs (s : State) (p : Nat) (f : Flood) : List LoomMsg :=
  .answer p f.serial true :: (s.upPorts.filter (· ≠ p)).map fun q =>
    .flood q ⟨f.serial, (stepTo f.row f.col f.port).1, (stepTo f.row f.col f.port).2, q⟩

theorem discFlood_takes (hb : ∀ o, s.disc.origin = some o → f.serial.ult o = true ∨ s.discOver f = true)
    (hl : s.disc.isOrigin = false ∨ s.disc.live = false) (hq : ∃ q ∈ s.upPorts, q ≠ p) :
    ∃ rs, Sends ((withRegs s rs).setDisc (discTaken s p f)) (floodMsgs s p f) (discFlood p f s) := by
  have notOwn : ¬((s.disc.isOrigin && s.disc.live) = true) := by
    rcases hl with h | h <;> simp [h]
  unfold discFlood
  extract_lets d rc s1 better s2 ps s3 s4 s5 s6 s7
  have takes : better = true := by
    simp only [better]
    split
    · rfl
    · next o ho =>
      rw [discOver_notePeer]
      exact (Bool.or_eq_true _ _).mpr (hb o ho)
  have noted : s2 = s.notePeer p (f.row, f.col) := if_neg notOwn
  have ports : ps = s.upPorts.filter (· ≠ p) := by
    simp only [ps, noted, upPorts_notePeer]
  have taken : ∃ rs, s6 = (withRegs s rs).setDisc (discTaken s p f) := by
    refine ⟨s6.regs, ?_⟩
    simp only [s6, s5, s4, s3, ports, noted, beat_notePeer]
    rfl
  obtain ⟨rs, hs6⟩ := taken
  obtain ⟨qs, shown⟩ := showCoords_eq s6 rc.1 rc.2
  have sent : Sends (s6.showCoords rc.1 rc.2) _ (s7.sendFlood f.serial rc.1 rc.2 ps) :=
    (sends_loomSend _ _).trans (sends_sendFlood _ _ _ _ _)
  rw [if_pos takes, discAdvance_waits]
  · refine ⟨qs, ?_⟩
    rw [shown, hs6, ports] at sent
    rw [ports]
    exact sent
  · obtain ⟨ps', l, h⟩ := sent
    rw [h, shown, hs6]
    exact filter_ne_nil hq

theorem discFlood_declines {o : W64} (ho : s.disc.origin = some o) (hu : f.serial.ult o = false) (hd : s.discOver f = false)
    (hne : f.serial ≠ o) :
    ∃ rs, Sends (withRegs s rs) [.answer p f.serial false] (discFlood p f s) := by
  unfold discFlood
  extract_lets d rc s1 better s2 ps s3 s4 s5 s6 s7 clash
  have declines : better = false := by
    simp only [better, d, s1, ho, discOver_notePeer, hu, hd]
    rfl
  have one : clash = false := by
    simp [clash, d, ho, hne.symm]
  rw [declines, one, Bool.or_false]
  exact ⟨s1.regs, sends_loomSend _ _⟩

end Flood

/-! ### The other rows -/

section
variable {s : State} {p : Nat} {o : W64}

theorem exec_discFlood (hp : p < 4) (hm : Meshed s) (f : Flood) : exec (.discFlood p f) s = .next (discFlood p f s) :=
  onUnit_whenDo (lt_nPorts hp) (onMesh_of_meshed hm) ..

theorem exec_discAnswer (hp : p < 4) (hm : Meshed s) (acc : Bool) :
    exec (.discAnswer p o acc) s = .next (discAnswer p o acc s) :=
  onUnit_whenDo (lt_nPorts hp) (onMesh_of_meshed hm) ..

theorem exec_discReport (hp : p < 4) (hm : Meshed s) (rs : List DiscReport) :
    exec (.discReport p o rs) s = .next (discReport p o rs s) :=
  onUnit_whenDo (lt_nPorts hp) (onMesh_of_meshed hm) ..

theorem exec_discTimeout (hp : p < 4) (hm : Meshed s) : exec (.discTimeout p) s = .next (discTimeout p s) :=
  onUnit_whenDo (lt_nPorts hp) (onMesh_of_meshed hm) ..

theorem discAnswer_counts (hl : s.disc.live = true) (ho : s.disc.origin = some o) (acc : Bool)
    (hw : s.disc.waiting.contains p = true) (hq : ∃ q ∈ s.disc.waiting, q ≠ p) :
    ∃ rs, discAnswer p o acc s = (withRegs s rs).setDisc { s.disc with
      waiting := s.disc.waiting.filter (· ≠ p)
      children := if acc then p :: s.disc.children else s.disc.children } := by
  unfold discAnswer
  extract_lets d s1 s2
  rw [if_pos (by simpa [d, hl, ho] using hw)]
  refine ⟨s2.regs, ?_⟩
  cases acc <;> exact discAdvance_waits (filter_ne_nil hq)

theorem discReport_keeps (hl : s.disc.live = true) (ho : s.disc.origin = some o) (rs : List DiscReport)
    (hc : s.disc.children.contains p = true) (hr : s.disc.reported.contains p = false) (hw : s.disc.waiting ≠ []) :
    discReport p o rs s = s.setDisc { s.disc with
      reported := p :: s.disc.reported
      reports := s.disc.reports ++ rs } := by
  unfold discReport
  extract_lets d
  rw [if_pos (by simp only [d, hl, ho, hc, hr]; decide)]
  exact discAdvance_waits hw

theorem discTimeout_counts (hl : s.disc.live = true) (hw : s.disc.waiting.contains p = true) (hq : ∃ q ∈ s.disc.waiting, q ≠ p)
    (hb : s.disc.beat + 175000 < s.beat) :
    discTimeout p s = s.setDisc { s.disc with
      waiting := s.disc.waiting.filter (· ≠ p)
      timedOut := true } := by
  unfold discTimeout
  extract_lets d
  rw [if_pos (by simp only [d, hl, hw, hb]; decide)]
  exact discAdvance_waits (filter_ne_nil hq)

theorem discTimeout_waits (hb : s.beat ≤ s.disc.beat + 175000) : discTimeout p s = s := by
  unfold discTimeout
  exact if_neg (by simp [hb])

end

/-- Settles O27: a flood that is taken up or declined, and the answer, the report and the silence of a neighbour. -/
theorem discoveryRows : Obligations.DiscoveryRows := by
  unfold Obligations.DiscoveryRows
  rintro p d s hp hm rfl
  refine ⟨fun f hb hl hq => ?_, fun f o ho hu hd hne => ?_, fun o hl ho => ⟨fun acc hw hq => ?_, fun rs hc hr hw => ?_, fun hw hq => ?_⟩⟩
  · obtain ⟨rs, ps, l, sent⟩ := discFlood_takes hb hl hq
    refine ⟨_, _, exec_discFlood hp hm f, rfl, ?_⟩
    rw [sent]
    exact ⟨rfl, rfl, rfl, rfl, rfl, rfl, rfl⟩
  · obtain ⟨rs, ps, l, sent⟩ := discFlood_declines (p := p) ho hu hd hne
    refine ⟨_, exec_discFlood hp hm f, ?_⟩
    rw [sent]
    exact ⟨rfl, rfl, rfl, rfl, rfl, rfl, rfl, rfl, rfl⟩
  · obtain ⟨rs, counted⟩ := discAnswer_counts hl ho acc hw hq
    refine ⟨_, exec_discAnswer hp hm acc, ?_⟩
    rw [counted]
    exact ⟨⟨rfl, rfl, rfl, rfl, rfl, rfl, rfl⟩, rfl, rfl⟩
  · refine ⟨_, exec_discReport hp hm rs, ?_⟩
    rw [discReport_keeps hl ho rs hc hr hw]
    exact ⟨⟨rfl, rfl, rfl, rfl, rfl, rfl, rfl⟩, rfl, rfl⟩
  · refine ⟨fun hb => ⟨_, exec_discTimeout hp hm, ?_⟩, fun hb => ?_⟩
    · rw [discTimeout_counts hl hw hq hb]
      exact ⟨⟨rfl, rfl, rfl, rfl, rfl, rfl, rfl⟩, rfl⟩
    · rw [exec_discTimeout hp hm, discTimeout_waits hb]

end Sys2Proof.Proofs
end

section
/-!
Proofs: the alignment of the beat, start beats and the beat mark (06 R251 to R256).
-/
namespace Sys2Proof.Proofs
open Sys2Proof.Machine Sys2Proof.Safety Sys2Proof.Laws

/-! ### BEAT_TIMING_EXCHANGE (06 R252) -/

theorem beatTimingExchange_eq (t0 t1 t2 t3 : Nat) (s : State) : beatTimingExchange t0 t1 t2 t3 s = { s with loom := { s.loom with
    delay := some (match s.loom.delay with
      | some d => if s.loom.exchanges < 16 then min d (t3 - t0 - (t2 - t1)) else t3 - t0 - (t2 - t1)
      | none => t3 - t0 - (t2 - t1))
    exchanges := if s.loom.exchanges < 16 then s.loom.exchanges + 1 else 1 } } := by
  unfold beatTimingExchange timingExchanges
  by_cases h : s.loom.exchanges < 16
  · have late : ¬16 ≤ s.loom.exchanges := by omega
    cases hd : s.loom.delay <;> simp [h, late]
  · have late : 16 ≤ s.loom.exchanges := by omega
    cases hd : s.loom.delay <;> simp [h, late]

/-! ### An alignment (06 R251, R252) -/

section Align
variable {s : State}

theorem beat_alignTo {n : Nat} (h : n < 2 ^ 64) : (s.alignTo n).beat = n := by
  have kept : (s.alignTo n).raw Reg.beatCount = BitVec.ofNat 64 n :=
    (raw_setFld_ne _ _ _ _ (by decide)).trans (raw_setRaw_self _ _ _)
  rw [State.beat, kept, BitVec.toNat_ofNat, Nat.mod_eq_of_lt h]

theorem adjust_alignTo (n : Nat) : (s.alignTo n).raw Reg.beatAdjust = BitVec.ofInt 64 ((n : Int) - s.beat) :=
  ((raw_setFld_ne _ _ _ _ (by decide)).trans (raw_setRaw_ne _ _ _ _ (by decide))).trans (raw_setRaw_self _ _ _)

theorem aligned_setFld : (s.setFld Fld.beatStatus_aligned 1).flag Fld.beatStatus_aligned = true := by
  rw [State.flag, fld_setFld_self _ _ _ (by decide)]
  decide

theorem aligned_alignTo (n : Nat) : (s.alignTo n).flag Fld.beatStatus_aligned = true := aligned_setFld

theorem sends_sendBeat (value : Nat) : Sends s (s.alignChildren.map fun c => .beat c value) (s.sendBeat value) :=
  sends_foldl _ _ s

/-- The value that goes down the tree below this device: the one that came, with half the round trip. -/
def beatDown (s : State) (value : Nat) : Nat := value + s.loom.delay.getD 0 / 2

theorem takeBeat_eq (value : Nat) : s.takeBeat value =
    ({ s.sendBeat (beatDown s value) with loom := { (s.sendBeat (beatDown s value)).loom with
      frac := beatDown s value % beatUnits, exchanges := 0, delay := none } } : State).alignTo (ceilDiv (beatDown s value) 512) := rfl

/-- What an alignment by `value` leaves: the count, the adjustment shown, the value sent down the tree, and nothing else of the
loom than its own timing. -/
theorem takeBeat_aligns (value : Nat) :
    (ceilDiv (beatDown s value) 512 < 2 ^ 64 → (s.takeBeat value).beat = ceilDiv (beatDown s value) 512) ∧
    (s.takeBeat value).raw Reg.beatAdjust = BitVec.ofInt 64 ((ceilDiv (beatDown s value) 512 : Nat) - (s.beat : Int)) ∧
    SentLast s (s.takeBeat value) (s.alignChildren.map fun c => .beat c (beatDown s value)) ∧
    (s.takeBeat value).flag Fld.beatStatus_aligned = true ∧ (s.takeBeat value).vault = s.vault := by
  obtain ⟨ps, l, sent⟩ := sends_sendBeat (s := s) (beatDown s value)
  rw [takeBeat_eq, sent]
  exact ⟨beat_alignTo, adjust_alignTo _, rfl, aligned_alignTo _, rfl⟩

theorem takeBeat_prep (value : Nat) : (s.takeBeat value).loom.prep = s.loom.prep ∧ (s.takeBeat value).loom.ops = s.loom.ops := by
  obtain ⟨ps, l, sent⟩ := sends_sendBeat (s := s) (beatDown s value)
  rw [takeBeat_eq, sent]
  exact ⟨rfl, rfl⟩

theorem exec_beatValue (h : Meshed s) (value : Nat) : exec (.beatValue value) s = .next (beatValue value s) :=
  congrArg Host.Outcome.next (if_pos (onMesh_of_meshed h))

theorem beatValue_waits {value : Nat} (h : s.loom.exchanges < 16) : beatValue value s = s := if_pos h

theorem beatValue_threaded {value : Nat} (h : s.devState = 3) (he : 16 ≤ s.loom.exchanges) (hp : s.loom.prep = none) :
    beatValue value s = s.takeBeat value := by
  have late : ¬s.loom.exchanges < timingExchanges := by
    unfold timingExchanges
    omega
  unfold beatValue
  rw [if_neg late, hp]
  exact if_pos h

end Align

/-! ### START_BEAT_REACHED (06 R255) -/

theorem ctx_startBeatReached (s : State) (k : Nat) : (startBeatReached s).ctx k =
    Context.startDue (s.loom.starts.filter fun e => e.2 ≤ s.beat) (s.ctx k) :=
  SMap.get_mapVals s.sched.ctxs _ {} (by simp [Context.startDue]) k

theorem startDue_of_mem {due : List (Nat × Nat)} {c : Context} {b : Nat} (h : (c.job, b) ∈ due) (hb : c.startBeat = some b) :
    Context.startDue due c = { c with startBeat := none } := by
  unfold Context.startDue
  exact if_pos (List.any_eq_true.mpr ⟨_, h, by simp [hb]⟩)

/-- Settles O30: the exchange, the value that comes down the tree, the starts that are due, and the mark. -/
theorem beatRows : Obligations.BeatRows := by
  unfold Obligations.BeatRows
  refine fun s => ⟨fun t0 t1 t2 t3 hm => ?_, ?_, fun ht => ⟨?_, fun hk hb => ?_⟩⟩
  · refine ⟨_, congrArg Host.Outcome.next (if_pos (onMesh_of_meshed hm)), ?_⟩
    rw [beatTimingExchange_eq]
    exact ⟨rfl, rfl⟩
  · rintro value v ht hp rfl hv
    refine ⟨fun he => ⟨_, exec_beatValue (meshed_of_threaded ht) value, ?_⟩, fun he => ?_⟩
    · have children : s.alignChildren = s.childPorts := by
        unfold State.alignChildren
        rw [hp]
      obtain ⟨beat, adjust, sent, aligned, vault⟩ := takeBeat_aligns (s := s) value
      rw [beatValue_threaded ht.2 he hp, ← children]
      exact ⟨beat hv, adjust, sent, aligned, vault⟩
    · rw [exec_beatValue (meshed_of_threaded ht), beatValue_waits he]
  · refine ⟨_, congrArg Host.Outcome.next (if_pos ht), rfl, ?_, rfl, rfl⟩
    rintro job b k hj hb rfl hs
    rw [ctx_startBeatReached]
    exact startDue_of_mem (List.mem_filter.mpr ⟨hj, decide_eq_true hb⟩) hs
  · exact ⟨_, congrArg Host.Outcome.next ((if_pos ht).trans (if_pos ⟨hk, hb⟩)), rfl⟩

end Sys2Proof.Proofs
end

section
/-!
Proofs: the loom's barriers, LOOM_FAULT and JOB_STOP (06 R239, R247 to R250; 13 R465).
-/
namespace Sys2Proof.Proofs
open Sys2Proof.Machine Sys2Proof.Safety Sys2Proof.Laws

/-! ### What messages of the loom and of the host leave alone -/

/-- The loom has sent `ms`; beside that, and what a message to the host or a trace record changes, only the queues of the ports did. -/
structure Told (s : State) (ms : List LoomMsg) (t : State) : Prop where
  loom : t.loom = { s.loom with out := s.loom.out ++ ms }
  rest : Rest { s with ports := t.ports, loom := t.loom } t
  raw : ∀ off, ¬Mail off → t.raw off = s.raw off

namespace Told
variable {s t u : State} {ms ns : List LoomMsg}

theorem of_kept (h : Kept s t) : Told s [] t where
  loom := by rw [rest_loom h.1, List.append_nil]
  rest := by
    rw [rest_ports h.1, rest_loom h.1]
    exact h.1
  raw := h.2

theorem of_sends (h : Sends s ms t) : Told s ms t := by
  obtain ⟨ps, l, rfl⟩ := h
  exact ⟨rfl, rfl, fun _ _ => rfl⟩

theorem trans (h : Told s ms t) (k : Told t ns u) : Told s (ms ++ ns) u where
  loom := by rw [k.loom, h.loom, List.append_assoc]
  rest := Eq.trans k.rest (congrArg (fun x : State => { x with ports := u.ports, loom := u.loom }) h.rest :)
  raw off ho := (k.raw off ho).trans (h.raw off ho)

theorem kept (h : Told s ms t) (k : Kept t u) : Told s ms u := by
  have := h.trans (of_kept k)
  rwa [List.append_nil] at this

theorem cores (h : Told s ms t) : t.cores = s.cores := (rest_cores h.rest :)
theorem sched (h : Told s ms t) : t.sched = s.sched := (rest_sched h.rest :)
theorem warp (h : Told s ms t) : t.warp = s.warp := (rest_warp h.rest :)

theorem sent (h : Told s ms t) : SentLast s t ms := (congrArg Loom.out h.loom :)

theorem devState (h : Told s ms t) : t.devState = s.devState :=
  congrArg Fld.devState_state.of (h.raw Reg.devState (by unfold Mail; decide))

theorem base (h : Told s ms t) (b : Nat) : t.base b = s.base b := by rw [State.base, h.warp, State.base]

theorem bar (h : Told s ms t) (key : BarKey) : t.bar key = s.bar key := by
  cases key <;> simp only [State.bar, h.loom]

theorem barGen (h : Told s ms t) (key : BarKey) : t.barGen key = s.barGen key := by
  cases key with
  | step b => rw [State.barGen, h.base, State.barGen]
  | job j n => rw [State.barGen, h.bar, State.barGen]

theorem childPorts (h : Told s ms t) : t.childPorts = s.childPorts := by
  simp only [State.childPorts, h.devState, h.loom]

theorem isRoot (h : Told s ms t) : t.isRoot = s.isRoot := by simp only [State.isRoot, h.devState, h.loom]

theorem parentPort (h : Told s ms t) : t.parentPort = s.parentPort := by simp only [State.parentPort, h.loom]

theorem jobCores (h : Told s ms t) (j : Nat) : t.jobCores j = s.jobCores j := by
  simp only [State.jobCores, State.part, h.sched]

end Told

theorem told_traceBar (s : State) (code : Nat) (key : BarKey) : Told s [] (s.traceBar code key) := .of_kept (kept_traceRec ..)

theorem told_loomSend (s : State) (m : LoomMsg) : Told s [m] (s.loomSend m) := .of_sends (sends_loomSend s m)

/-! ### A barrier and its record (06 R247, R248) -/

section Bar
variable {s : State} {key : BarKey} {x : LoomBar}

theorem bar_setBar_self (s : State) (key : BarKey) (x : LoomBar) : (s.setBar key x).bar key = x := by
  cases key <;> simp [State.bar, State.setBar]

theorem setBar_cores : (s.setBar key x).cores = s.cores := by cases key <;> rfl
theorem setBar_out : (s.setBar key x).loom.out = s.loom.out := by cases key <;> rfl
theorem setBar_childPorts : (s.setBar key x).childPorts = s.childPorts := by cases key <;> rfl
theorem setBar_isRoot : (s.setBar key x).isRoot = s.isRoot := by cases key <;> rfl
theorem setBar_parentPort : (s.setBar key x).parentPort = s.parentPort := by cases key <;> rfl
theorem setBar_jobCores (j : Nat) : (s.setBar key x).jobCores j = s.jobCores j := by cases key <;> rfl
theorem setBar_devState : (s.setBar key x).devState = s.devState := by cases key <;> rfl

theorem setBar_arrivedHere (h : x.localDone = (s.bar key).localDone) : (s.setBar key x).arrivedHere key = s.arrivedHere key := by
  unfold State.arrivedHere
  rw [bar_setBar_self, h, setBar_childPorts, setBar_isRoot, setBar_devState]
  cases key <;> rfl

theorem setBar_barGen (h : x.gen = (s.bar key).gen) : (s.setBar key x).barGen key = s.barGen key := by
  cases key with
  | step b => rfl
  | job j n => exact (congrArg LoomBar.gen (bar_setBar_self s _ x)).trans h

theorem barAdvance_waits (h : s.arrivedHere key = false ∨ ∃ c ∈ s.childPorts, c ∉ (s.bar key).children) :
    s.barAdvance key = s := by
  unfold State.barAdvance
  refine if_neg ?_
  rcases h with h | ⟨c, hc, hn⟩
  · simp [h]
  · intro all
    simp only [Bool.and_eq_true, List.all_eq_true] at all
    exact hn (List.contains_iff_mem.mp (all.2 c hc))

/-- An arrival that is complete goes on to the parent. -/
theorem barAdvance_arrives (ha : s.arrivedHere key = true) (hs : (s.bar key).sentUp = false)
    (hc : ∀ c ∈ s.childPorts, c ∈ (s.bar key).children) (hr : s.isRoot = false) :
    SentLast s (s.barAdvance key) [.arrive s.parentPort key (s.bar key).flags (s.barGen key)] ∧
      (s.barAdvance key).bar key = { s.bar key with sentUp := true } ∧ (s.barAdvance key).cores = s.cores := by
  have all : (s.arrivedHere key && !(s.bar key).sentUp && s.childPorts.all (s.bar key).children.contains) = true := by
    simp only [ha, hs, Bool.not_false, Bool.and_true, Bool.true_and, List.all_eq_true]
    exact fun c h => List.contains_iff_mem.mpr (hc c h)
  unfold State.barAdvance
  extract_lets x
  rw [if_pos all, if_neg (by simp [hr])]
  have told := (told_traceBar (s.setBar key { x with sentUp := true }) 1 key).trans
    (told_loomSend _ (.arrive s.parentPort key x.flags (s.barGen key)))
  refine ⟨?_, ?_, told.cores.trans setBar_cores⟩
  · have sent := told.sent
    rwa [SentLast, setBar_out] at sent
  · rw [told.bar, bar_setBar_self]

end Bar

/-! ### BARRIER_ARRIVE_RX (06 R248, R249) -/

section Arrive
variable {s : State} {p : Nat} {key : BarKey} {fl : BitVec 8} {gen : W64}

/-- The record of a barrier at which the child on port `p` has arrived. -/
def childArrived (s : State) (p : Nat) (key : BarKey) (fl : BitVec 8) : LoomBar :=
  { s.bar key with
    children := p :: (s.bar key).children
    flags := (s.bar key).flags ||| fl
    firstBeat := some ((s.bar key).firstBeat.getD s.beat) }

theorem exec_barrierArriveRx (hp : p < 4) (h : Threaded s) :
    exec (.barrierArriveRx p key fl gen) s = .next (barrierArriveRx p key fl gen s) :=
  onUnit_whenDo (lt_nPorts hp) (onLoom_of_threaded h) ..

theorem barrierArriveRx_counts (hg : gen = s.barGen key) (hp : p ∈ s.childPorts) (hc : p ∉ (s.bar key).children) :
    barrierArriveRx p key fl gen s = (s.setBar key (childArrived s p key fl)).barAdvance key := by
  unfold barrierArriveRx
  exact if_neg (by simp [hg, hp, hc])

theorem loomFault_faulted (hd : s.devState = 3) (hu : s.loom.undo = none) (port : Option Nat) (cause : Nat)
    (loc : Option (Nat × Nat)) : (s.loomFault port cause loc).devState = 5 := by
  unfold State.loomFault
  rw [if_pos (show s.devState = stThreaded from hd)]
  extract_lets w s1 s2 s3
  have h1 : Lasting s s1 := .of_logged (logged_logError s _ _ _ _ (by decide))
  have h2 : Lasting s1 s2 := .of_kept (kept_raise ..)
  have entered : s3.devState = 5 := (enterFaulted_faulted s2 ((h1.trans h2).undo hu) .loomFault).1
  have flood : Lasting s3 (s3.floodFault loc) := .foldl _ (fun s p => lasting_loomSend s _) _ s3
  exact flood.faulted entered

theorem barrierArriveRx_faults (hd : s.devState = 3) (hu : s.loom.undo = none)
    (h : gen ≠ s.barGen key ∨ p ∉ s.childPorts ∨ p ∈ (s.bar key).children) :
    (barrierArriveRx p key fl gen s).devState = 5 := by
  unfold barrierArriveRx
  rw [if_pos (by simpa using h)]
  exact loomFault_faulted hd hu _ _ _

end Arrive

/-! ### BARRIER_RELEASE_RX (06 R248) -/

section Release
variable {s : State} {p : Nat} {key : BarKey} {fl : BitVec 8} {gen : W64}

theorem exec_barrierReleaseRx (hp : p < 4) (h : Threaded s) :
    exec (.barrierReleaseRx p key fl gen) s = .next (barrierReleaseRx p key fl gen s) :=
  onUnit_whenDo (lt_nPorts hp) (onLoom_of_threaded h) ..

theorem barrierReleaseRx_releases (hg : gen = s.barGen key) (hs : (s.bar key).sentUp = true) (hp : p = s.parentPort) :
    barrierReleaseRx p key fl gen s = (s.barRelease key fl).barAdvance key := if_pos ⟨hg, hs, hp⟩

/-- The messages by which a RELEASE goes on to every child. -/
def releaseMsgs (s : State) (key : BarKey) (fl : BitVec 8) : List LoomMsg :=
  s.childPorts.map fun c => .release c key fl (s.barGen key)

/-- The record of the next generation of a barrier. -/
def nextGen (s : State) (key : BarKey) : LoomBar := { gen := s.barGen key + 1, arrived := (s.bar key).arrived }

/-- RELEASE has gone to every child, and the trace has recorded that the barrier completes. -/
def released (s : State) (key : BarKey) (fl : BitVec 8) : State :=
  (s.childPorts.foldl (fun x c => x.loomSend (.release c key fl (s.barGen key))) s).traceBar 2 key

theorem told_released (s : State) (key : BarKey) (fl : BitVec 8) : Told s (releaseMsgs s key fl) (released s key fl) :=
  (Told.of_sends (sends_foldl _ _ s)).kept (kept_traceRec ..)

theorem nextGen_released (s : State) (key : BarKey) (fl : BitVec 8) : nextGen (released s key fl) key = nextGen s key := by
  unfold nextGen
  rw [(told_released s key fl).barGen, (told_released s key fl).bar]

theorem barRelease_job (s : State) (j n : Nat) (fl : BitVec 8) : s.barRelease (.job j n) fl =
    (released s (.job j n) fl).setBar (.job j n) (nextGen s (.job j n)) := by
  rw [← nextGen_released s (.job j n) fl]
  rfl

theorem barRelease_step (s : State) (b : Nat) (fl : BitVec 8) : s.barRelease (.step b) fl =
    ((released s (.step b) fl).setBar (.step b) (nextGen s (.step b))).stepOver b := by
  rw [← nextGen_released s (.step b) fl]
  rfl

/-- A device with children, or with cores of the job, has not arrived for the generation after. -/
theorem nextGen_waits {j n : Nat} (h : s.jobCores j ≠ [] ∨ s.childPorts ≠ []) :
    (s.barRelease (.job j n) fl).barAdvance (.job j n) = s.barRelease (.job j n) fl := by
  have told := told_released s (.job j n) fl
  rw [barRelease_job]
  refine barAdvance_waits ?_
  rw [bar_setBar_self, setBar_childPorts, told.childPorts]
  rcases h with h | h
  · refine .inl ?_
    unfold State.arrivedHere
    rw [bar_setBar_self]
    simp only [setBar_jobCores, told.jobCores]
    simp [nextGen, h]
  · obtain ⟨c, hc⟩ := List.exists_mem_of_ne_nil _ h
    exact .inr ⟨c, hc, by simp [nextGen]⟩

/-- A leaf without cores of the job has arrived for the generation after. -/
theorem leaf_arrivedHere {j n : Nat} (hd : s.devState = 3) (hj : s.jobCores j = []) (hc : s.childPorts = []) (hr : s.isRoot = false) :
    (s.barRelease (.job j n) fl).arrivedHere (.job j n) = true := by
  have told := told_released s (.job j n) fl
  rw [barRelease_job]
  unfold State.arrivedHere
  rw [bar_setBar_self]
  simp only [setBar_jobCores, setBar_childPorts, setBar_isRoot, setBar_devState, told.jobCores, told.childPorts, told.isRoot,
    told.devState, hd, hj, hc, hr]
  simp [stThreaded]

end Release

section ReleaseStep
variable {s : State} {b : Nat}

/-- The step barrier of a base that is not replaced completes. -/
theorem stepOver_counts (h : (s.base b).repl = none) : ((s.stepOver b).base b).step = (s.base b).step + 1 ∧
    ((s.stepOver b).base b).begun = false ∧ (s.stepOver b).loom = s.loom ∧ (s.stepOver b).cores = s.cores := by
  unfold State.stepOver
  extract_lets x now s1 w s2
  have last : x.lastMixed ≠ some now := by simp [Base.lastMixed, x, h]
  have h1 : s1.base b = { x with
      step := now + 1, begun := false, passed := false, finished := false, skip := none, late := false, passesLeft := 0 } := by
    simp [s1, State.base, State.setBase]
  have h2 : s2.base b = s1.base b ∧ s2.loom = s.loom ∧ s2.cores = s.cores := by
    simp only [s2]
    split <;> exact ⟨rfl, rfl, rfl⟩
  rw [if_neg last, h2.1, h1]
  exact ⟨rfl, rfl, h2.2⟩

end ReleaseStep

section ReleaseRows
variable {s : State} {p : Nat} {fl : BitVec 8} {gen : W64}

theorem jobRelease_goesOn {j n : Nat} (hg : gen = (s.bar (.job j n)).gen) (hs : (s.bar (.job j n)).sentUp = true)
    (hp : p = s.parentPort) (h : s.jobCores j ≠ [] ∨ s.childPorts ≠ []) :
    SentLast s (barrierReleaseRx p (.job j n) fl gen s) (s.childPorts.map fun c => .release c (.job j n) fl gen) ∧
      (barrierReleaseRx p (.job j n) fl gen s).bar (.job j n) = nextGen s (.job j n) ∧
      (barrierReleaseRx p (.job j n) fl gen s).cores = s.cores := by
  have told := told_released s (.job j n) fl
  rw [barrierReleaseRx_releases hg hs hp, nextGen_waits h, barRelease_job, bar_setBar_self, setBar_cores, SentLast, setBar_out, hg]
  exact ⟨told.sent, rfl, told.cores⟩

theorem jobRelease_leaf {j n : Nat} (hd : s.devState = 3) (hg : gen = (s.bar (.job j n)).gen) (hs : (s.bar (.job j n)).sentUp = true)
    (hp : p = s.parentPort) (hj : s.jobCores j = []) (hc : s.childPorts = []) (hr : s.isRoot = false) :
    SentLast s (barrierReleaseRx p (.job j n) fl gen s) [.arrive s.parentPort (.job j n) 0 (gen + 1)] ∧
      ((barrierReleaseRx p (.job j n) fl gen s).bar (.job j n)).gen = gen + 1 ∧
      ((barrierReleaseRx p (.job j n) fl gen s).bar (.job j n)).sentUp = true ∧
      (barrierReleaseRx p (.job j n) fl gen s).cores = s.cores := by
  have told := told_released s (.job j n) fl
  have out : SentLast s (released s (.job j n) fl) [] := by
    have sent := told.sent
    rwa [releaseMsgs, hc] at sent
  have here := leaf_arrivedHere (fl := fl) (n := n) hd hj hc hr
  rw [barrierReleaseRx_releases hg hs hp]
  rw [barRelease_job] at here ⊢
  obtain ⟨sent, bar, cores⟩ := barAdvance_arrives here (by rw [bar_setBar_self]; rfl)
    (by rw [setBar_childPorts, told.childPorts, hc]; nofun) (by rw [setBar_isRoot, told.isRoot, hr])
  rw [bar_setBar_self] at sent bar
  rw [bar, cores, setBar_cores, hg]
  refine ⟨?_, rfl, rfl, told.cores⟩
  have gen1 : ((released s (.job j n) fl).setBar (.job j n) (nextGen s (.job j n))).barGen (.job j n) = (s.bar (.job j n)).gen + 1 :=
    congrArg LoomBar.gen (bar_setBar_self _ _ _)
  rw [SentLast, sent, gen1, setBar_parentPort, told.parentPort, setBar_out, out, List.append_nil]
  rfl

theorem stepRelease_goesOn {b : Nat} (hg : gen = (s.base b).step) (hs : (s.bar (.step b)).sentUp = true) (hp : p = s.parentPort)
    (hr : (s.base b).repl = none) :
    SentLast s (barrierReleaseRx p (.step b) fl gen s) (s.childPorts.map fun c => .release c (.step b) fl gen) ∧
      ((barrierReleaseRx p (.step b) fl gen s).base b).step = gen + 1 ∧
      ((barrierReleaseRx p (.step b) fl gen s).base b).begun = false ∧
      ((barrierReleaseRx p (.step b) fl gen s).bar (.step b)).sentUp = false ∧
      (barrierReleaseRx p (.step b) fl gen s).cores = s.cores := by
  have told := told_released s (.step b) fl
  have base : ((released s (.step b) fl).setBar (.step b) (nextGen s (.step b))).base b = s.base b := told.base b
  obtain ⟨step, begun, loom, cores⟩ := stepOver_counts (b := b) (s := (released s (.step b) fl).setBar (.step b) (nextGen s (.step b)))
    (by rw [base]; exact hr)
  have bar : (s.barRelease (.step b) fl).bar (.step b) = nextGen s (.step b) := by
    rw [barRelease_step]
    exact (congrArg (fun l : Loom => SMap.get l.stepBars {} b) loom).trans
      (bar_setBar_self (released s (.step b) fl) (.step b) (nextGen s (.step b)) :)
  have waits : (s.barRelease (.step b) fl).barAdvance (.step b) = s.barRelease (.step b) fl := by
    refine barAdvance_waits (.inl ?_)
    unfold State.arrivedHere
    rw [bar]
    rfl
  rw [barrierReleaseRx_releases hg hs hp, waits, bar, barRelease_step, step, begun, cores, SentLast, loom, setBar_out, hg, base]
  exact ⟨told.sent, rfl, rfl, rfl, setBar_cores.trans told.cores⟩

end ReleaseRows

/-! ### BARRIER_TIMEOUT (06 R250) -/

theorem exec_barrierTimeout {s : State} (h : Threaded s) (key : BarKey) :
    exec (.barrierTimeout key) s = .next (barrierTimeout key s) :=
  congrArg Host.Outcome.next (if_pos (onLoom_of_threaded h))

theorem barrierTimeout_eq {s : State} {key : BarKey} {b : Int} (h : (s.bar key).firstBeat = some b) : barrierTimeout key s =
    if s.isOrigin ∧ s.fld Fld.beatBarTmo_timeout ≠ 0 ∧ b + s.fld Fld.beatBarTmo_timeout < s.beat then s.loomFaultHere none 4 else s := by
  unfold barrierTimeout
  simp only [h]

/-! ### JOB_STOP (13 R465) -/

section Stop
variable {s : State} {k : Nat}

theorem finishCommits_idle (h : s.sched.cmds = []) (p : RunCmd → Bool) : s.finishCommits p = s := by
  unfold State.finishCommits
  rw [h]
  rfl

theorem cmdsOf_idle (h : s.sched.cmds = []) (k : Nat) : s.cmdsOf k = [] := by
  unfold State.cmdsOf
  rw [h]
  rfl

theorem abortAll_idle (h : s.sched.cmds = []) (k acct : Nat) : s.abortAll k acct = s := by
  unfold State.abortAll
  rw [finishCommits_idle h]
  simp only [cmdsOf_idle h, List.foldl_nil]

theorem ctx_setCtx_self (s : State) (k : Nat) (x : Context) : (s.setCtx k x).ctx k = x := by simp [State.ctx, State.setCtx]

theorem ctxTo_created (s : State) (k : Nat) : ((s.ctxTo k .created).ctx k).st = .created ∧
    ((s.ctxTo k .created).ctx k).swapping = false := by
  unfold State.ctxTo
  extract_lets ended s1 keepTurn s2 s3
  rw [State.modCtx, ctx_setCtx_self]
  exact ⟨rfl, Bool.and_false _⟩

theorem ctx_of_sched {s t : State} (h : t.sched = s.sched) (k : Nat) : t.ctx k = s.ctx k := by rw [State.ctx, h, State.ctx]

/-- The end of a preemption leaves a context that has ended its job as it stands. -/
theorem preemptCheck_created (h : (s.ctx k).st = .created) (hs : (s.ctx k).swapping = false) :
    ((s.preemptCheck k).ctx k).st = .created := by
  have still : s.swapCheck k = s := by
    unfold State.swapCheck
    exact if_neg (by simp [hs])
  unfold State.preemptCheck
  rw [still]
  extract_lets x0 c s1 s2
  split
  · have same : s2 = s1 := if_neg (by simp [c, x0, h])
    have fold : (c.preempts.foldl (fun s seq => (if c.preempted = .preemptDegraded then s.count Fld.schedCounts_degraded else s).complete seq
        (.fail c.preempted)) s2).sched = s2.sched := by
      refine foldl_keeps (R := fun x y => y.sched = x.sched) (fun _ => rfl) (fun h k => k.trans h) _ (fun x seq => ?_) _ _
      refine (rest_sched (kept_complete _ _ _).1).trans ?_
      split <;> rfl
    rw [ctx_of_sched fold, same, ctx_setCtx_self]
    exact h
  · exact h

theorem stopCtx_created (h : s.sched.cmds = []) (k : Nat) : ((s.stopCtx k).ctx k).st = .created := by
  obtain ⟨st, swapping⟩ := ctxTo_created s k
  unfold State.stopCtx
  rw [abortAll_idle h, cmdsOf_idle h]
  refine preemptCheck_created ?_ ?_
  · rw [State.modCtx, ctx_setCtx_self]
    exact st
  · rw [State.modCtx, ctx_setCtx_self]
    exact swapping

theorem stopJob_created {job : Nat} (hj : s.jobCtxs job = [k]) (h : s.sched.cmds = []) (st : Status) :
    ((s.stopJob job st).ctx k).st = .created := by
  unfold State.stopJob
  rw [hj, finishCommits_idle h]
  unfold State.jobEnd
  simp only [hj]
  rw [ctx_of_sched (rest_sched (kept_raise ..).1)]
  exact stopCtx_created h k

end Stop

/-- Settles O29: each row by what it does to the barrier's record, and what it hands to the tree. -/
theorem loomBarriersAndFaults : Obligations.LoomBarriersAndFaults := by
  unfold Obligations.LoomBarriersAndFaults
  rintro p key fl gen x s hp ht rfl hu
  refine ⟨fun hg hc hn => ⟨fun hl => ?_, fun hl hs hall hr => ?_⟩, fun h => ?_, ?_, ?_, fun b hb ho h0 => ⟨fun hlt => ?_, fun hle => ?_⟩,
    fun loc => ?_, fun job st k hj _ hcmds => ?_⟩
  · refine ⟨_, exec_barrierArriveRx hp ht, ?_⟩
    rw [barrierArriveRx_counts hg hc hn, barAdvance_waits (.inl ((setBar_arrivedHere (x := childArrived s p key fl) rfl).trans hl)),
      setBar_out, bar_setBar_self]
    exact ⟨rfl, rfl, setBar_cores⟩
  · refine ⟨_, exec_barrierArriveRx hp ht, ?_⟩
    obtain ⟨sent, bar, cores⟩ := barAdvance_arrives (key := key) (s := s.setBar key (childArrived s p key fl))
      ((setBar_arrivedHere (x := childArrived s p key fl) rfl).trans hl) (by rw [bar_setBar_self]; exact hs)
      (by
        rw [setBar_childPorts, bar_setBar_self]
        exact fun c h => List.mem_cons.mpr (hall c h))
      (setBar_isRoot.trans hr)
    rw [SentLast, setBar_out, setBar_parentPort, bar_setBar_self, setBar_barGen (x := childArrived s p key fl) rfl, ← hg] at sent
    rw [barrierArriveRx_counts hg hc hn, bar]
    exact ⟨sent, rfl, cores.trans setBar_cores⟩
  · exact ⟨_, exec_barrierArriveRx hp ht, barrierArriveRx_faults ht.2 hu h⟩
  · rintro j n rfl hg hs hpp
    refine ⟨fun h => ?_, fun hj hc hr => ⟨_, exec_barrierReleaseRx hp ht, jobRelease_leaf ht.2 hg hs hpp hj hc hr⟩⟩
    obtain ⟨sent, bar, cores⟩ := jobRelease_goesOn (fl := fl) hg hs hpp h
    refine ⟨_, exec_barrierReleaseRx hp ht, sent, ?_⟩
    rw [bar]
    exact ⟨hg ▸ rfl, rfl, rfl, rfl, cores⟩
  · rintro b rfl hg hs hpp hr
    exact ⟨_, exec_barrierReleaseRx hp ht, stepRelease_goesOn hg hs hpp hr⟩
  · refine ⟨_, exec_barrierTimeout ht key, ?_⟩
    rw [barrierTimeout_eq hb, if_pos ⟨ho, h0, hlt⟩]
    exact loomFault_faulted ht.2 hu _ _ _
  · rw [exec_barrierTimeout ht key, barrierTimeout_eq hb, if_neg (by omega)]
  · exact ⟨_, onUnit_whenDo (lt_nPorts hp) (onLoom_of_threaded ht) .., loomFault_faulted ht.2 hu _ _ _⟩
  · exact ⟨_, congrArg Host.Outcome.next (if_pos (onLoom_of_threaded ht)), stopJob_created hj hcmds st⟩

end Sys2Proof.Proofs
end

section
/-!
Proofs: the fields of the payloads that the spec lays out (06 R242).
-/
namespace Sys2Proof.Proofs
open Sys2Proof.Machine Sys2Proof.Safety Sys2Proof.Laws

/-! ### Fields of a run of bytes -/

theorem field_leBytes_append (v n : Nat) (bs : Bytes) : field (leBytes v n ++ bs) 0 n = v % 256 ^ n := by
  rw [field, List.drop_zero, List.take_left' (length_leBytes v n), leNat_leBytes]

theorem drop_leBytes_append {m off : Nat} (h : m ≤ off) (v : Nat) (bs : Bytes) :
    (leBytes v m ++ bs).drop off = bs.drop (off - m) := by
  rw [List.drop_append, length_leBytes, List.drop_of_length_le (by rwa [length_leBytes]), List.nil_append]

theorem field_append_leBytes {m off : Nat} (h : m ≤ off) (v n : Nat) (bs : Bytes) :
    field (leBytes v m ++ bs) off n = field bs (off - m) n := by
  rw [field, drop_leBytes_append h, field]

/-! ### The header and the data of an RMT flit (R242) -/

section Rmt
variable {h : RmtHdr} {data : Bytes}

/-- The fields of a header fit the bytes that R242 gives them. -/
structure HdrFits (h : RmtHdr) : Prop where
  row : h.row < 64
  col : h.col < 128
  addr : h.addr.toNat < 2 ^ 44
  tag : h.tag < 4096
  op : h.op < 16
  accType : h.accType < 4
  count : h.count ≤ 208
  total : h.total < 2 ^ 16
  refusal : h.refusal < 256
  phase : h.phase < 256
  job : h.job < 2 ^ 16
  client : h.client < 2 ^ 16

theorem rmtHead_rmtPayload (k : HdrFits h) : rmtHead (rmtPayload h data) = h := by
  obtain ⟨row, col, addr, tag, op, accType, count, total, refusal, phase, job, client⟩ := k
  have epoch := h.epoch.isLt
  obtain ⟨a, r, c, t, e, o, at_, n, tot, rf, ph, j, cl⟩ := h
  simp only at row col addr tag op accType count total refusal phase job client epoch
  have pos : (r * 128 + c) % 65536 = r * 128 + c := Nat.mod_eq_of_lt (by omega)
  have ops : (o + 16 * at_) % 256 = o + 16 * at_ := Nat.mod_eq_of_lt (by omega)
  have place : a.toNat % 17592186044416 = a.toNat := Nat.mod_eq_of_lt addr
  have byte : e.toNat % 256 = e.toNat := Nat.mod_eq_of_lt epoch
  simp [rmtHead, rmtPayload, field_append_leBytes, field_leBytes_append, pos, ops, place, byte]
  omega

theorem rmtBody_rmtPayload (hd : data.length ≤ 208) (hc : h.count = data.length) : rmtBody (rmtPayload h data) = data := by
  have short : h.count % 65536 = data.length := by omega
  simp [rmtBody, rmtPayload, field_append_leBytes, field_leBytes_append, drop_leBytes_append, short, rmtChunk]
  omega

end Rmt

end Sys2Proof.Proofs
end

section
/-!
Proofs: routed flits (06 R246), and the requests and replies of remote operations (04 R153; 06 R242 to R244; 08 R331).
-/
namespace Sys2Proof.Proofs
open Sys2Proof.Machine Sys2Proof.Safety Sys2Proof.Laws

/-! ### ROUTED_FLIT (R246) -/

theorem port_setPort (s : State) (p q : Nat) (x : Port) : (s.setPort p x).port q = if q = p then x else s.port q := SMap.get_put ..

/-- A charge leaves the ports, the cores, the bundles and the vault as they are. -/
theorem port_charge (s : State) (acct counter n q : Nat) : (s.charge acct counter n).port q = s.port q := by
  obtain ⟨l, h⟩ := charge_eq s acct counter n
  rw [h]
  rfl

/-- The flit that goes one hop on. -/
def hopFlit (s : State) (q type : Nat) (route : BitVec 27) (payload : Bytes) : OutFlit :=
  { type := type, vc := (typeVc type).getD 0, route := route, payload := payload,
    mask := s.expressMask q (bitsOf route.toNat 26 21) (bitsOf route.toNat 20 14) }

theorem routedFlit_hops {s : State} {type q : Nat} {route : BitVec 27} {payload : Bytes}
    (h : s.hopTo (route.toNat / 2 ^ 21) (route.toNat / 2 ^ 14 % 2 ^ 7) = some q) : routedFlit type route payload s =
      (s.setPort q { s.port q with txq := (s.port q).txq ++ [hopFlit s q type route payload] }).charge sharedAcct lLink 240 := by
  have row : bitsOf route.toNat 26 21 = route.toNat / 2 ^ 21 := by
    have := route.isLt
    unfold bitsOf
    omega
  have hop : s.hopTo (bitsOf route.toNat 26 21) (bitsOf route.toNat 20 14) = some q := by
    rw [row]
    exact h
  unfold routedFlit
  extract_lets dr dc
  simp only [dr, dc, hop]
  rfl

theorem exec_routedFlit {s : State} {port : Nat} (hp : port < 4) (ht : s.sys.tclk = true) (hd : s.devState = 3) (type : Nat)
    (route : BitVec 27) (payload : Bytes) :
    exec (.routedFlit port type route payload) s = .next (routedFlit type route payload s) :=
  onUnit_whenDo (lt_nPorts hp) (onLoom_of_threaded ⟨ht, hd⟩) ..

/-! ### What a request reads and writes (R243) -/

section Request
variable {s : State} {h : RmtHdr} {data : Bytes} {errs : List LineErr}

theorem settleStacks_still (hf : ∀ st, (s.stack st).failNote = none) : s.settleStacks = s := by
  rw [settleStacks_eq]
  refine foldl_keeps (R := fun x y => (∀ st, (x.stack st).failNote = none) → y = x) (fun _ _ => rfl) (fun h k hx => ?_) stackSettled
    (fun x st hx => ?_) _ s hf
  · have := h hx
    subst this
    exact k hx
  · unfold stackSettled
    rw [hx st]

/-- The header of a reply. -/
def rmtAnswer (s : State) (h : RmtHdr) (op refusal n : Nat) : RmtHdr :=
  { h with op := op, refusal := refusal, phase := if refusal = 1 then s.fld Fld.devState_phase else 0, count := n }

theorem sends_rmtReply (s : State) (h : RmtHdr) (op refusal : Nat) (data : Bytes) :
    Sends s [.rmtRsp (rmtAnswer s h op refusal data.length) data] (s.rmtReply h op refusal data) := by
  obtain ⟨ps, l, hs⟩ := sends_loomSend s (.rmtRsp (rmtAnswer s h op refusal data.length) data)
  obtain ⟨m, hl⟩ := charge_eq (s.loomSend (.rmtRsp (rmtAnswer s h op refusal data.length) data)) h.client lLink flitPayload
  refine ⟨ps, m, Eq.trans hl ?_⟩
  rw [hs]
  rfl

/-- The data of a flit of a request: a GET has none. -/
theorem requestData (hf : HdrFits h) (hc : h.count = data.length) (h0 : h.op = 0 → data = []) :
    rmtHead (rmtPayload h data) = h ∧
      (if h.op = 0 then [] else rmtBody (rmtPayload h data)) = data := by
  refine ⟨rmtHead_rmtPayload hf, ?_⟩
  split
  · exact (h0 ‹_›).symm
  · exact rmtBody_rmtPayload (hc ▸ hf.count) hc

/-- The errors that the dies deliver with a request. -/
def withErrs (s : State) (errs : List LineErr) : State := { s with lineErrs := errs }

/-- A request that its checks refuse is answered at once. -/
theorem rmtRequestRx_refused {code : Nat} (hf : HdrFits h) (hc : h.count = data.length) (h0 : h.op = 0 → data = [])
    (hs : ∀ st, (s.stack st).failNote = none)
    (he : s.rmtSpots h.job h.client (h.op ≠ 0) h.addr.toNat (if h.op = 0 then h.total else data.length) = .error code) :
    rmtRequestRx (rmtPayload h data) errs s = (withErrs s errs).rmtReply h 10 code [] := by
  obtain ⟨head, body⟩ := requestData hf hc h0
  obtain ⟨ps, l, sent⟩ := sends_rmtReply (withErrs s errs) h 10 code []
  have serve : (withErrs s errs).rmtServe h data = (withErrs s errs).rmtReply h 10 code [] := by
    unfold State.rmtServe
    extract_lets n
    rw [show (withErrs s errs).rmtSpots h.job h.client (h.op ≠ 0) h.addr.toNat n = .error code from he]
  unfold rmtRequestRx
  extract_lets s1 hd dt at_
  have hd_eq : hd = h := head
  have dt_eq : dt = data := by
    simp only [dt, hd_eq]
    exact body
  have here : at_ = none := by
    simp only [at_, hd_eq, dt_eq]
    rw [show s1.rmtSpots h.job h.client (h.op ≠ 0) h.addr.toNat (if h.op = 0 then h.total else data.length) = .error code from he]
  simp only [here, hd_eq, dt_eq]
  exact (congrArg State.settleStacks serve).trans (settleStacks_still (by rw [sent]; exact hs))

/-- Bytes of a spool lie in no stack of the vault. -/
theorem vaultSpots_spool (p off n : Nat) : vaultSpots ((List.range n).map fun i => .spool p (off + i)) = [] := by
  unfold vaultSpots
  simp

theorem hostSpot_spool (p off n : Nat) : hostSpot ((List.range n).map fun i => .spool p (off + i)) = none := by
  unfold hostSpot
  simp

theorem countBytes_nil (s : State) (write : Bool) : s.countBytes [] write = s :=
  foldl_keeps (R := fun x y => y = x) (fun _ => rfl) (fun h k => k.trans h) _ (fun _ _ => rfl) _ s

/-- No byte, no line: nothing is written. -/
theorem writeBytes_nil (s : State) (errs : List LineErr) (who : Asker) : s.writeBytes [] errs who = (s, true) := by
  unfold State.writeBytes
  exact congrArg (·, true) (countBytes_nil s true)

/-- `t` is `s` with `bs` stored in the spool of core `p` from `off` on. -/
def Stored (s : State) (p off : Nat) (bs : Bytes) (t : State) : Prop :=
  ∃ cs, t = { s with cores := cs } ∧ t.core p = (s.core p).store off bs ∧ ∀ q, q ≠ p → t.core q = s.core q

/-- The bytes of a run, each stored at the offset of its place, are the run stored. -/
theorem stored_foldl {p : Nat} {f : State → RmtSpot × Byte → State}
    (hf : ∀ s off b, f s (.spool p off, b) = s.modCore p (·.store off [b])) (bs : Bytes) (off : Nat) (s : State) :
    Stored s p off bs ((((List.range bs.length).map fun i => RmtSpot.spool p (off + i)).zip bs).foldl f s) := by
  induction bs generalizing off s with
  | nil => exact ⟨s.cores, rfl, rfl, fun _ _ => rfl⟩
  | cons b bs ih =>
    have next : (List.range (b :: bs).length).map (fun i => RmtSpot.spool p (off + i)) =
        .spool p off :: (List.range bs.length).map fun i => .spool p (off + 1 + i) := by
      simp [List.range_succ_eq_map, Function.comp_def, Nat.add_assoc, Nat.add_comm 1]
    obtain ⟨cs, rest, core, other⟩ := ih (off + 1) (s.modCore p (·.store off [b]))
    rw [next, List.zip_cons_cons, List.foldl_cons, hf]
    refine ⟨cs, rest, ?_, fun q hq => ?_⟩
    · rw [core, State.core_modCore, if_pos rfl]
      rfl
    · rw [other q hq, State.core_modCore, if_neg hq]

/-- None of these bytes is one of the vault. -/
theorem filterMap_spool {α : Type} {p n off : Nat} {g : RmtSpot × Byte → Option α} (hg : ∀ i b, g (.spool p i, b) = none) {bs : Bytes} :
    (((List.range n).map fun i => RmtSpot.spool p (off + i)).zip bs).filterMap g = [] := by
  refine List.filterMap_eq_nil_iff.mpr fun ⟨x, b⟩ he => ?_
  obtain ⟨i, -, hi⟩ := List.mem_map.mp (List.of_mem_zip he).1
  rw [← hi, hg]

theorem writeSpots_spool (s : State) (p off : Nat) (bs : Bytes) (errs : List LineErr) :
    ∃ t, s.writeSpots (((List.range bs.length).map fun i => .spool p (off + i)).zip bs) errs = (t, true) ∧ Stored s p off bs t := by
  refine ⟨(s.writeSpots (((List.range bs.length).map fun i => .spool p (off + i)).zip bs) errs).1, ?_, ?_⟩
  · unfold State.writeSpots
    rw [filterMap_spool fun _ _ => rfl]
    simp only [writeBytes_nil]
  · unfold State.writeSpots
    rw [filterMap_spool fun _ _ => rfl]
    simp only [writeBytes_nil]
    exact stored_foldl (fun _ _ _ => rfl) bs off s

/-- `s` with other cores, other accounts and other errors of the dies. -/
def withCores (s : State) (cs : SMap Core) (l : Ledger) (errs : List LineErr) : State :=
  { s with cores := cs, ledger := l, lineErrs := errs }

theorem rmtCounted_last {n : Nat} (hin : s.rmtIn = []) (hn : h.total = n) : s.rmtCounted h n = s.rmtReply h 9 0 [] := by
  have same : { s with rmtIn := SMap.del s.rmtIn (rmtKey h) } = s := by
    rw [hin]
    exact congrArg (fun x => { s with rmtIn := x }) hin.symm
  unfold State.rmtCounted
  rw [if_pos (by simp [hin, hn]), same]

theorem busyStack_spool (s : State) (p off n : Nat) : s.busyStack ((List.range n).map fun i => .spool p (off + i)) = none := by
  unfold State.busyStack
  rw [vaultSpots_spool]

/-- A PUT whose bytes lie in a spool is stored, and answered after its last byte. -/
theorem rmtServe_put {p off : Nat} (h1 : h.op = 1) (hn : h.total = data.length) (hin : s.rmtIn = [])
    (ho : s.rmtSpots h.job h.client true h.addr.toNat data.length = .ok ((List.range data.length).map fun i => .spool p (off + i))) :
    ∃ l cs, Stored s p off data { s with cores := cs } ∧ s.rmtServe h data = (withCores s cs l s.lineErrs).rmtReply h 9 0 [] := by
  obtain ⟨l, hl⟩ := charge_eq s h.client lVault 0
  obtain ⟨t, put, cs, ht, stored⟩ := writeSpots_spool { s with ledger := l } p off data s.lineErrs
  have ht : t = withCores s cs l s.lineErrs := ht
  subst ht
  refine ⟨l, cs, ⟨cs, rfl, stored⟩, ?_⟩
  unfold State.rmtServe
  simp only [h1, Nat.one_ne_zero, ite_false, ne_eq, not_false_eq_true, decide_true, ho, hostSpot_spool, vaultSpots_spool,
    List.length_nil, hl, put]
  exact rmtCounted_last hin hn

theorem rmtRequestRx_put {p off : Nat} (hf : HdrFits h) (hc : h.count = data.length) (hs : ∀ st, (s.stack st).failNote = none)
    (h1 : h.op = 1) (hn : h.total = data.length) (hin : s.rmtIn = [])
    (ho : s.rmtSpots h.job h.client true h.addr.toNat data.length = .ok ((List.range data.length).map fun i => .spool p (off + i))) :
    ∃ l cs, Stored s p off data { s with cores := cs } ∧
      rmtRequestRx (rmtPayload h data) errs s = (withCores s cs l errs).rmtReply h 9 0 [] := by
  obtain ⟨head, body⟩ := requestData (data := data) hf hc (by omega)
  obtain ⟨l, cs, stored, serve⟩ := rmtServe_put (s := withErrs s errs) h1 hn hin ho
  refine ⟨l, cs, ⟨cs, rfl, stored.elim fun _ x => x.2⟩, ?_⟩
  obtain ⟨ps, m, sent⟩ := sends_rmtReply (withCores s cs l errs) h 9 0 []
  unfold rmtRequestRx
  extract_lets s1 hd dt at_
  have hd_eq : hd = h := head
  have dt_eq : dt = data := by
    simp only [dt, hd_eq]
    exact body
  have here : at_ = none := by
    simp only [at_, hd_eq, dt_eq, h1, Nat.one_ne_zero, ite_false, ne_eq, not_false_eq_true, decide_true]
    rw [show s1.rmtSpots h.job h.client true h.addr.toNat data.length = _ from ho]
    exact busyStack_spool ..
  simp only [here, hd_eq, dt_eq]
  exact (congrArg State.settleStacks serve).trans (settleStacks_still fun st => (congrArg (fun x : State => (x.stack st).failNote) sent).trans (hs st))

end Request

/-! ### Replies and their time-out (R153, R244) -/

section Reply
variable {s : State} {h : RmtHdr} {data : Bytes} {o : RmtOp} {tag : Nat}

theorem get_freeTag (s : State) (tag : Nat) : SMap.get (s.freeTag tag).rmt none tag = none := by
  rw [State.freeTag, SMap.get_del, if_pos rfl]

theorem rmt_noteFault (s : State) (p code : Nat) : (s.noteFault p code).rmt = s.rmt := by
  unfold State.noteFault State.modCmdOf
  split <;> rfl

theorem rmt_faultThread (s : State) (p u code : Nat) : (s.faultThread p u code).rmt = s.rmt := by
  have fault : (s.threadFault p u code).rmt = s.rmt := rmt_noteFault ..
  unfold State.faultThread
  extract_lets s1
  split
  · exact (rest_rmt (kept_traceRec s1 _ _ _ _ _).1).trans fault
  · exact fault

/-- The fault of a remote operation whose command still runs. -/
theorem rmtFault_faults {code : Nat} (ho : o.orphan = false) (he : o.epoch = (s.core o.core).epoch)
    (hp : (s.core o.core).phase = .running) (hu : (s.thread o.core o.thread).st ≠ .idle) :
    SMap.get ((s.freeTag tag).rmtFault o code).rmt none tag = none ∧ Faulted ((s.freeTag tag).rmtFault o code) o.core o.thread code := by
  have fault : (s.freeTag tag).rmtFault o code = (s.freeTag tag).faultThread o.core o.thread code := by
    unfold State.rmtFault
    rw [if_neg (by simp [ho, he, State.freeTag, State.core])]
    exact ownFault_running hp hu
  rw [fault]
  exact ⟨(congrArg (SMap.get · none tag) (rmt_faultThread ..)).trans (get_freeTag s tag), faulted_faultThread ..⟩

theorem rmtTimeout_faults (hg : SMap.get s.rmt none tag = some o) (hb : o.beat + 350001 ≤ s.beat) :
    rmtTimeout tag s = (s.freeTag tag).rmtFault o fRmtTimeout := by
  unfold rmtTimeout
  simp only [hg, hb, if_true]

theorem rmtTimeout_waits (hg : SMap.get s.rmt none tag = some o) (hb : s.beat < o.beat + 350001) : rmtTimeout tag s = s := by
  unfold rmtTimeout
  simp only [hg]
  exact if_neg (by omega)

/-- A reply is taken by its header and its data. -/
theorem exec_rmtResponseRx {head body : Bytes} (ht : s.sys.tclk = true) (hpay : head ++ body = rmtPayload h data) (hf : HdrFits h)
    (hc : h.count = data.length) : exec (.rmtResponseRx head body) s = .next (s.rmtTake h data) := by
  refine congrArg Host.Outcome.next ((if_pos ht).trans ?_)
  rw [rmtResponseRx, hpay, rmtHead_rmtPayload hf, rmtBody_rmtPayload (hc ▸ hf.count) hc]

/-- The tag of a reply whose command has ended is free again. -/
theorem rmtTake_stale (hg : SMap.get s.rmt none h.tag = some o) (he : h.epoch ≠ (s.core o.core).epoch) :
    s.rmtTake h data = s.freeTag h.tag := by
  unfold State.rmtTake
  simp only [hg, he, ne_eq, not_false_eq_true, decide_true, Bool.or_true, if_true]

variable (hg : SMap.get s.rmt none h.tag = some o) (ho : o.orphan = false) (he : h.epoch = (s.core o.core).epoch)
include hg ho he

theorem rmtTake_late (hl : s.replyLate o = true) :
    s.rmtTake h data = { s with rmt := SMap.put s.rmt h.tag (some { o with late := true }) } := by
  unfold State.rmtTake
  simp only [hg]
  rw [if_neg (by simp [ho, he]), if_pos hl]

theorem rmtTake_overdue (hl : s.replyLate o = false) (hb : o.beat + 350000 < s.beat) :
    s.rmtTake h data = (s.freeTag h.tag).rmtFault o fRmtTimeout := by
  unfold State.rmtTake
  simp only [hg]
  rw [if_neg (by simp [ho, he]), if_neg (by simp [hl]), if_pos hb]

section Timely
variable (hl : s.replyLate o = false) (hb : s.beat ≤ o.beat + 350000)
include hl hb

theorem rmtTake_data (h8 : h.op = 8) : ∃ m, s.rmtTake h data = { s.modCore o.core (·.store (o.localOff + (h.addr.toNat - o.addr)) data)
    with rmt := m } ∧ (SMap.get m none h.tag = none ↔ o.len ≤ o.got + data.length) := by
  unfold State.rmtTake
  simp only [hg]
  rw [if_neg (by simp [ho, he]), if_neg (by simp [hl]), if_neg (by omega)]
  simp only [h8]
  split
  · exact ⟨_, rfl, iff_of_true (get_freeTag s h.tag) ‹_›⟩
  · exact ⟨_, rfl, iff_of_false (by simp) ‹_›⟩

theorem rmtTake_done (h9 : h.op = 9) : s.rmtTake h data = s.freeTag h.tag := by
  unfold State.rmtTake
  simp only [hg]
  rw [if_neg (by simp [ho, he]), if_neg (by simp [hl]), if_neg (by omega)]
  simp only [h9]

theorem rmtTake_denied (h10 : h.op = 10) : s.rmtTake h data = (s.freeTag h.tag).rmtFault o fRmtDenied := by
  unfold State.rmtTake
  simp only [hg]
  rw [if_neg (by simp [ho, he]), if_neg (by simp [hl]), if_neg (by omega)]
  simp only [h10]

end Timely

end Reply

/-- Settles O31: each row by what it does where its checks hold, where they do not, and where it comes too late. -/
theorem routedAndRemoteRows : Obligations.RoutedAndRemoteRows := by
  unfold Obligations.RoutedAndRemoteRows
  intro s ht hf
  refine ⟨fun port type route payload q hp hd hop => ?_, ?_, fun o tag hg => ⟨fun ho he hb hph hu => ?_, fun hb => ?_⟩⟩
  · refine ⟨_, hopFlit s q type route payload, exec_routedFlit hp ht hd .., ?_⟩
    rw [routedFlit_hops hop]
    have frame := (kept_charge (s.setPort q { s.port q with txq := (s.port q).txq ++ [hopFlit s q type route payload] })
      sharedAcct lLink 240).1
    refine ⟨?_, rfl, rfl, rfl, rfl, fun r hr => ?_, (rest_cores frame :), (rest_bundles frame :)⟩
    · rw [port_charge, port_setPort, if_pos rfl]
    · rw [port_charge, port_setPort, if_neg hr]
  · intro h data head body hpay hlen hc h0 hrow hcol haddr htag hop hacc htot href hph hjob hcl
    have fits : HdrFits h := ⟨hrow, hcol, haddr, htag, hop, hacc, by omega, htot, href, hph, hjob, hcl⟩
    refine ⟨fun errs code he => ?_, fun p off h1 hn _ hin ho => ?_, fun o hg ho he => ?_⟩
    · refine ⟨_, congrArg Host.Outcome.next (if_pos ht), ?_⟩
      rw [hpay, rmtRequestRx_refused fits hc h0 hf he]
      obtain ⟨ps, l, sent⟩ := sends_rmtReply (withErrs s errs) h 10 code []
      rw [sent]
      exact ⟨rfl, rfl, rfl⟩
    · obtain ⟨l, cs, ⟨_, _, core, other⟩, put⟩ := rmtRequestRx_put (errs := []) fits hc hf h1 hn hin ho
      refine ⟨_, congrArg Host.Outcome.next (if_pos ht), ?_⟩
      rw [hpay, put]
      obtain ⟨ps, m, sent⟩ := sends_rmtReply (withCores s cs l []) h 9 0 []
      rw [sent]
      exact ⟨congrArg Core.spool core, other, rfl, rfl⟩
    · rw [exec_rmtResponseRx ht hpay fits hc]
      refine ⟨fun hep hl hb => ⟨fun h8 => ?_, fun h9 => ?_, fun h10 hph hu => ?_⟩, fun hep hl => ?_, fun hep hl hb hph hu => ?_,
        fun hep => ?_⟩
      · obtain ⟨m, taken, tag⟩ := rmtTake_data (data := data) hg ho (hep.trans he) hl hb h8
        refine ⟨_, rfl, ?_⟩
        rw [taken]
        have core := State.core_modCore s o.core o.core (·.store (o.localOff + (h.addr.toNat - o.addr)) data)
        rw [if_pos rfl] at core
        exact ⟨congrArg Core.spool core, tag, rfl⟩
      · exact ⟨_, rfl, by rw [rmtTake_done hg ho (hep.trans he) hl hb h9]; exact ⟨get_freeTag s _, rfl⟩⟩
      · exact ⟨_, rfl, by rw [rmtTake_denied hg ho (hep.trans he) hl hb h10]; exact rmtFault_faults ho he hph hu⟩
      · exact ⟨_, rfl, by rw [rmtTake_late hg ho (hep.trans he) hl]; exact ⟨rfl, (SMap.get_put ..).trans (if_pos rfl)⟩⟩
      · exact ⟨_, rfl, by rw [rmtTake_overdue hg ho (hep.trans he) hl hb]; exact rmtFault_faults ho he hph hu⟩
      · exact ⟨_, rfl, by rw [rmtTake_stale hg fun hs => hep (hs.trans he.symm)]; exact ⟨get_freeTag s _, rfl⟩⟩
  · refine ⟨_, congrArg Host.Outcome.next (if_pos ht), ?_⟩
    rw [rmtTimeout_faults hg hb]
    exact rmtFault_faults ho he hph hu
  · exact congrArg Host.Outcome.next ((if_pos ht).trans (rmtTimeout_waits hg hb))

end Sys2Proof.Proofs
end

section
/-!
Proofs: what a bundle sends and receives (06 R215 to R221, R226).
-/
namespace Sys2Proof.Proofs
open Sys2Proof.Machine Sys2Proof.Safety Sys2Proof.Laws

/-! ### Bundles and free bytes -/

theorem bundle_setBundle_self (s : State) (p b : Nat) (x : Bundle) : (s.setBundle p b x).bundle p b = x :=
  (SMap.get_put ..).trans (if_pos rfl)

theorem bundle_setBundle_ne {s : State} {p b q c : Nat} {x : Bundle} (h : bunId q c ≠ bunId p b) :
    (s.setBundle p b x).bundle q c = s.bundle q c := (SMap.get_put ..).trans (if_neg h)

theorem setBundle_setBundle (s : State) (p b : Nat) (x y : Bundle) : (s.setBundle p b x).setBundle p b y = s.setBundle p b y := by
  simp only [State.setBundle, put_put]

theorem otherBundles_setBundle (s : State) (p b : Nat) (x : Bundle) : OtherBundles s (s.setBundle p b x) p b :=
  fun _ _ h => bundle_setBundle_ne h

theorem OtherBundles.trans {s t u : State} {p b : Nat} (h : OtherBundles s t p b) (k : OtherBundles t u p b) : OtherBundles s u p b :=
  fun q c hq => (k q c hq).trans (h q c hq)

/-- `s` after free values have been drawn. -/
def drawn (s : State) (n : Nat) : State := { s with freeCtr := n }

theorem freeBytes_drawn (s : State) (n : Nat) : (s.freeBytes n).2 = drawn s (s.freeCtr + n) := by
  induction n with
  | zero => rfl
  | succ n ih =>
    rw [State.freeBytes, State.freeByte, ih]
    rfl

theorem length_freeBytes (s : State) (n : Nat) : (s.freeBytes n).1.length = n := by
  induction n with
  | zero => rfl
  | succ n ih => simp [State.freeBytes, ih]

theorem freeBytes_congr {s t : State} (h : t.freeCtr = s.freeCtr) (n : Nat) : (t.freeBytes n).1 = (s.freeBytes n).1 := by
  induction n with
  | zero => rfl
  | succ n ih =>
    simp only [State.freeBytes, ih, freeBytes_drawn, State.freeByte, drawn, h]

/-! ### The header word of a flit and its fields (R216) -/

section Header
variable (type vc seq ack credVc cred route : Nat) (nak : Bool)

theorem headerWord_lt : headerWord type vc seq ack nak credVc cred route < 2 ^ 64 := by
  unfold headerWord
  cases nak <;> simp <;> omega

theorem hType_headerWord : hType (headerWord type vc seq ack nak credVc cred route) = type % 16 := by
  unfold headerWord hType bitsOf
  cases nak <;> simp <;> omega

theorem hVc_headerWord : hVc (headerWord type vc seq ack nak credVc cred route) = vc % 8 := by
  unfold headerWord hVc bitsOf
  cases nak <;> simp <;> omega

theorem hSeq_headerWord : hSeq (headerWord type vc seq ack nak credVc cred route) = seq % 1024 := by
  unfold headerWord hSeq bitsOf
  cases nak <;> simp <;> omega

theorem hAck_headerWord : hAck (headerWord type vc seq ack nak credVc cred route) = ack % 1024 := by
  unfold headerWord hAck bitsOf
  cases nak <;> simp <;> omega

theorem hNak_headerWord : hNak (headerWord type vc seq ack nak credVc cred route) = nak := by
  unfold headerWord hNak bitsOf
  cases nak <;> simp <;> omega

theorem hCredVc_headerWord : hCredVc (headerWord type vc seq ack nak credVc cred route) = credVc % 8 := by
  unfold headerWord hCredVc bitsOf
  cases nak <;> simp <;> omega

theorem hCred_headerWord : hCred (headerWord type vc seq ack nak credVc cred route) = cred % 64 := by
  unfold headerWord hCred bitsOf
  cases nak <;> simp <;> omega

/-- The fields of a header word but for its credits and its ROUTE. -/
structure HeaderIs (w type vc seq ack : Nat) (nak : Bool) : Prop where
  lt : w < 2 ^ 64
  type : hType w = type % 16
  vc : hVc w = vc % 8
  seq : hSeq w = seq % 1024
  ack : hAck w = ack % 1024
  nak : hNak w = nak

theorem headerIs_headerWord : HeaderIs (headerWord type vc seq ack nak credVc cred route) type vc seq ack nak :=
  ⟨headerWord_lt .., hType_headerWord .., hVc_headerWord .., hSeq_headerWord .., hAck_headerWord .., hNak_headerWord ..⟩

end Header

/-! ### A flit on the wire (R216, R217, R219) -/

/-- The bytes of a flit: its header word, its payload and the link CRC of both. -/
def frame (w : Nat) (pay : Bytes) : Bytes := leBytes w 8 ++ pay ++ leBytes (linkCrc (leBytes w 8 ++ pay)).toNat 8

section Frame
variable {w : Nat} {pay : Bytes}

theorem length_frame (h : pay.length = 240) : (frame w pay).length = 256 := by simp [frame, h]

theorem field_frame_header (h : w < 2 ^ 64) : field (frame w pay) 0 8 = w := by
  rw [frame, List.append_assoc, field_leBytes_append]
  exact Nat.mod_eq_of_lt h

theorem payload_frame (h : pay.length = 240) : ((frame w pay).drop 8).take 240 = pay := by
  rw [frame, List.append_assoc, drop_leBytes_append (Nat.le_refl 8), List.drop_zero, List.take_left' h]

theorem crc_frame (h : pay.length = 240) : field (frame w pay) 248 8 = (linkCrc ((frame w pay).take 248)).toNat := by
  have len : (leBytes w 8 ++ pay).length = 248 := by simp [h]
  have crc := (linkCrc (leBytes w 8 ++ pay)).isLt
  rw [frame, List.take_left' len, field, List.drop_left' len, List.take_of_length_le (by simp), leNat_leBytes]
  exact Nat.mod_eq_of_lt crc

end Frame

/-- The credits owed once the header `w` has returned some. -/
def CreditsBack (old new : SMap Nat) (w : Nat) : Prop :=
  ∀ v, SMap.get new 0 v = SMap.get old 0 v - if v = hCredVc w then hCred w else 0

/-- What a flit leaves on its bundle: the header takes the ACK, the NAK and some credits. -/
theorem putOnWire_eq (s : State) (p b type vc seq : Nat) (route : BitVec 27) (payload : Bytes) :
    ∃ n owed w fill, s.putOnWire p b type vc seq route payload = (drawn s n).setBundle p b { s.bundle p b with
        nak := false
        owed := owed
        wire := frame w (payload.take 240 ++ fill) } ∧
      fill.length = 240 - payload.length ∧
      HeaderIs w type vc seq ((s.bundle p b).expected + 1023) (s.bundle p b).nak ∧
      ((∀ e ∈ (s.bundle p b).owed, e.1 < 8) → CreditsBack (s.bundle p b).owed owed w) := by
  unfold State.putOnWire
  extract_lets x f g cv have_ w body owed
  refine ⟨s.freeCtr + 1 + (240 - payload.length), owed, w, g.1, ?_, length_freeBytes .., headerIs_headerWord .., fun h => ?_⟩
  · simp only [g, freeBytes_drawn]
    simp only [body, frame, List.append_assoc]
    rfl
  · rw [CreditsBack, hCredVc_headerWord, hCred_headerWord]
    cases hcv : cv with
    | none =>
      simp only [have_, owed, hcv]
      exact fun u => by simp [x]
    | some v =>
      have small : v < 8 := by
        obtain ⟨e, he, rfl⟩ := Option.map_eq_some_iff.mp hcv
        exact h e (List.mem_of_find?_eq_some he)
      have few : min (SMap.get x.owed 0 v) 63 % 64 = min (SMap.get x.owed 0 v) 63 := Nat.mod_eq_of_lt (by omega)
      simp only [have_, owed, hcv]
      intro u
      rw [Option.getD_some, Nat.mod_eq_of_lt small, few, SMap.get_put]
      split
      · rename_i hu
        rw [hu]
      · rfl

/-! ### FLIT_TX -/

section Tx
variable {s : State} {p b : Nat} {f : OutFlit}

theorem exec_flitTx (hp : p < 4) (hb : b < 8) (ht : s.sys.tclk = true) : exec (.flitTx p b) s = .next (flitTx p b s) :=
  onUnit_whenDo (by simp [nPorts, nBundles, hp, hb]) ht ..

theorem flitTx_sends (h : s.sending p b = true) (hr : (s.bundle p b).resend = 0) (hf : s.nextFlit p b = some f) :
    flitTx p b s = s.sendFlit p b f := by
  unfold flitTx
  rw [if_pos h, if_neg (by omega), hf]

/-- Whether the flits of a queue have waited says nothing of which they are. -/
theorem txq_noteSlots (s : State) (p b : Nat) (f : OutFlit) : ∃ x, s.noteSlots p b f = s.setPort p x ∧
    (x.txq.map fun g => { g with waits := [] }) = ((s.port p).txq.erase f).map fun g => { g with waits := [] } := by
  unfold State.noteSlots
  extract_lets x w q
  refine ⟨_, rfl, ?_⟩
  simp only [q, List.map_map]
  refine List.map_congr_left fun g _ => ?_
  simp only [Function.comp_apply]
  split <;> rfl

/-- The payload that flit `f` carries: what the spec does not lay out of it is free. -/
def sentPayload (s : State) (f : OutFlit) : Bytes := f.payload.take 240 ++ (s.freeBytes (240 - f.payload.length)).1

theorem length_sentPayload (s : State) (f : OutFlit) : (sentPayload s f).length = 240 := by
  simp only [sentPayload, List.length_append, List.length_take, length_freeBytes]
  omega

/-- The flit that waits for its ACK once `f` has been sent. -/
def sentAs (s : State) (p b : Nat) (f : OutFlit) : SentFlit :=
  { seq := (s.bundle p b).nextSeq, flit := { f with payload := sentPayload s f, waits := [] }, beat := s.beat }

/-- The bundle once the flit `f` has its number and its credit. -/
def bundleSends (s : State) (p b : Nat) (f : OutFlit) : Bundle :=
  { s.bundle p b with
    credits := if f.type = 2 then (s.bundle p b).credits
      else SMap.put (s.bundle p b).credits f.vc (SMap.get (s.bundle p b).credits 0 f.vc - 1)
    nextSeq := ((s.bundle p b).nextSeq + 1) % 1024
    unacked := (s.bundle p b).unacked ++ [sentAs s p b f] }

theorem sendFlit_eq (s : State) (p b : Nat) (f : OutFlit) : ∃ x n,
    (x.txq.map fun g => { g with waits := [] }) = ((s.port p).txq.erase f).map (fun g => { g with waits := [] }) ∧
    s.sendFlit p b f = ((((drawn (s.setPort p x) n).setBundle p b (bundleSends s p b f)).putOnWire p b f.type f.vc
      (s.bundle p b).nextSeq f.route (sentPayload s f)).sentOne p).countWrap (Fld.lnkTxFlits_count p) := by
  obtain ⟨x, noted, queue⟩ := txq_noteSlots s p b f
  refine ⟨x, s.freeCtr + (240 - f.payload.length), queue, ?_⟩
  unfold State.sendFlit
  rw [noted]
  extract_lets s1 y credits free f2 sent s2 s3
  have draws : free.2 = drawn s1 (s1.freeCtr + (240 - f.payload.length)) := freeBytes_drawn ..
  have bytes : free.1 = (s.freeBytes (240 - f.payload.length)).1 := freeBytes_congr (s := s) (t := s1) rfl _
  have pay : f2.payload = sentPayload s f := by
    simp only [f2, bytes]
    rfl
  have state : s2 = (drawn s1 (s1.freeCtr + (240 - f.payload.length))).setBundle p b (bundleSends s p b f) := by
    simp only [s2, draws, sent, f2, bytes]
    rfl
  simp only [s3, state, pay]
  rfl

/-- `s` once a flit has gone out on bundle `b` of port `p`: the bundle is `y`, the port was `x` but for the count of its flits. -/
def flitOut (s : State) (p b : Nat) (x : Port) (n : Nat) (y : Bundle) : State :=
  (((drawn (s.setPort p x) n).setBundle p b y).sentOne p).countWrap (Fld.lnkTxFlits_count p)

theorem bundle_flitOut (x : Port) (n : Nat) (y : Bundle) : (flitOut s p b x n y).bundle p b = y :=
  bundle_setBundle_self (drawn (s.setPort p x) n) p b y

theorem otherBundles_flitOut (x : Port) (n : Nat) (y : Bundle) : OtherBundles s (flitOut s p b x n y) p b :=
  otherBundles_setBundle (drawn (s.setPort p x) n) p b y

theorem txq_flitOut (x : Port) (n : Nat) (y : Bundle) : ((flitOut s p b x n y).port p).txq = x.txq := by
  have before : ((drawn (s.setPort p x) n).setBundle p b y).port p = x := (port_setPort s p p x).trans (if_pos rfl)
  have after : (flitOut s p b x n y).port p = { x with sinceIdle := x.sinceIdle + 1 } := by
    refine (port_setPort ((drawn (s.setPort p x) n).setBundle p b y) p p _).trans ?_
    rw [if_pos rfl, before]
  rw [after]

theorem fld_flitOut (x : Port) (n : Nat) (y : Bundle) :
    (flitOut s p b x n y).fld (Fld.lnkTxFlits_count p) = (s.fld (Fld.lnkTxFlits_count p) + 1) % 2 ^ 64 :=
  fld_setFld_self _ _ _ (Nat.le_refl 64)

/-- The bundle that has sent `f` with the header `w`. -/
def bundleSent (s : State) (p b : Nat) (f : OutFlit) (owed : SMap Nat) (w : Nat) : Bundle :=
  { bundleSends s p b f with nak := false, owed := owed, wire := frame w (sentPayload s f) }

/-- What FLIT_TX leaves: the flit on the wire, in the replay buffer, and no longer in the queue. -/
theorem sendFlit_leaves (s : State) (p b : Nat) (f : OutFlit) : ∃ x n owed w,
    (x.txq.map fun g => { g with waits := [] }) = ((s.port p).txq.erase f).map (fun g => { g with waits := [] }) ∧
    s.sendFlit p b f = flitOut s p b x n (bundleSent s p b f owed w) ∧
    HeaderIs w f.type f.vc (s.bundle p b).nextSeq ((s.bundle p b).expected + 1023) (s.bundle p b).nak ∧
    ((∀ e ∈ (s.bundle p b).owed, e.1 < 8) → CreditsBack (s.bundle p b).owed owed w) := by
  obtain ⟨x, n, queue, sent⟩ := sendFlit_eq s p b f
  obtain ⟨m, owed, w, fill, wire, none_, header, back⟩ := putOnWire_eq ((drawn (s.setPort p x) n).setBundle p b
    (bundleSends s p b f)) p b f.type f.vc (s.bundle p b).nextSeq f.route (sentPayload s f)
  have len := length_sentPayload s f
  obtain rfl : fill = [] := List.length_eq_zero_iff.mp (by omega)
  rw [bundle_setBundle_self] at header back wire
  rw [List.append_nil, List.take_of_length_le (by omega)] at wire
  refine ⟨x, m, owed, w, queue, ?_, header, back⟩
  rw [sent, wire, show drawn _ m = (drawn (s.setPort p x) m).setBundle p b (bundleSends s p b f) from rfl, setBundle_setBundle]
  rfl

end Tx

/-! ### FLIT_RX -/

section Rx
variable {s : State} {p b : Nat} {words : List (List Nat)} {spoilt ok : Bool} {bytes : Bytes}

theorem exec_flitRx (hp : p < 4) (hb : b < 8) (ht : s.sys.tclk = true) :
    exec (.flitRx p b words spoilt bytes) s = .next (flitRx p b words spoilt bytes s) :=
  onUnit_whenDo (by simp [nPorts, nBundles, hp, hb]) ht ..

theorem opposite_ne (p b : Nat) : bunId (opposite p) b ≠ bunId p b := by
  unfold bunId opposite
  omega

theorem fld_countWrap_self (s : State) (f : Fld) (n : Nat) (h : f.lo + f.width ≤ 64) :
    (s.countWrap f n).fld f = (s.fld f + n) % 2 ^ f.width := fld_setFld_self _ _ _ h

theorem rxFlits_ne (p : Nat) : Reg.lnkRxFlits p ≠ Reg.lnkFecCorr p ∧ Reg.lnkRxFlits p ≠ Reg.lnkFecUncorr p := by
  unfold Reg.lnkRxFlits Reg.lnkFecCorr Reg.lnkFecUncorr
  omega

theorem xptPort_ne {p : Nat} (h : p < 4) : Reg.xptPort p ≠ Reg.lnkFecCorr p ∧ Reg.xptPort p ≠ Reg.lnkFecUncorr p := by
  unfold Reg.xptPort Reg.lnkFecCorr Reg.lnkFecUncorr
  omega

theorem fld_count_ne (s : State) {f g : Fld} (n : Nat) (h : g.off ≠ f.off) : (s.count f n).fld g = s.fld g := fld_setFld_ne _ _ _ _ h

/-- What the codewords of a flit change: the count of them and of their errors. -/
theorem decodeWords_eq (s : State) (p b : Nat) (words : List (List Nat)) : ∃ rs n fs,
    s.decodeWords p b words = (withRegs s rs).setBundle p b { s.bundle p b with words := n, fixes := fs } ∧
    ∀ f : Fld, f.off ≠ Reg.lnkFecCorr p → f.off ≠ Reg.lnkFecUncorr p → (withRegs s rs).fld f = s.fld f := by
  unfold State.decodeWords
  extract_lets x fixed now n s1 s2
  obtain ⟨fs, noted⟩ : ∃ fs, s1 = s.setBundle p b { s.bundle p b with words := n, fixes := fs } := ⟨_, rfl⟩
  refine ⟨(s2.count (Fld.lnkFecUncorr_count p) (words.length - fixed.length)).regs, n, fs, ?_, fun f hc hu => ?_⟩
  · simp only [s2, noted]
    rfl
  · have kept : s1.fld f = s.fld f := by rw [noted]; rfl
    exact (fld_count_ne s2 (words.length - fixed.length) hu).trans ((fld_count_ne s1 _ hc).trans kept)

theorem flitRx_takes (hu : s.bundleUp p b = true) (hi : s.portState p ≠ 6) (hm : s.fld (Fld.xptPort_mode p b) = 1) (hp : p < 4) :
    flitRx p b words spoilt bytes s = (s.decodeWords p b words).takeFlit p b
      (!spoilt && words.all fun w => decide (w.dedup.length ≤ fecLimit)) bytes := by
  obtain ⟨rs, n, fs, decoded, same⟩ := decodeWords_eq s p b words
  have mode : (s.decodeWords p b words).fld (Fld.xptPort_mode p b) = 1 := by
    rw [decoded]
    exact (same _ (xptPort_ne hp).1 (xptPort_ne hp).2).trans hm
  unfold flitRx
  rw [if_neg (by simp [hu, hi, hm, pIdle])]
  extract_lets s1
  rw [if_neg (by simp [s1, mode]), if_pos mode]

theorem flitRx_passes (hu : s.bundleUp p b = true) (hi : s.portState p ≠ 6) (hm : s.fld (Fld.xptPort_mode p b) = 2) (hp : p < 4) :
    flitRx p b words spoilt bytes s = (s.decodeWords p b words).setBundle (opposite p) b
      { (s.decodeWords p b words).bundle (opposite p) b with wire := bytes } := by
  obtain ⟨rs, n, fs, decoded, same⟩ := decodeWords_eq s p b words
  have mode : (s.decodeWords p b words).fld (Fld.xptPort_mode p b) = 2 := by
    rw [decoded]
    exact (same _ (xptPort_ne hp).1 (xptPort_ne hp).2).trans hm
  unfold flitRx
  rw [if_neg (by simp [hu, hi, hm, pIdle])]
  extract_lets s1
  rw [if_pos mode]

/-- A received flit acknowledges flits of the replay buffer; nothing else of the bundle depends on its ACK. -/
theorem acked_eq (x : Bundle) (n : Nat) : ∃ r, x.acked n = { x with unacked := (x.acked n).unacked, resend := r } := by
  unfold Bundle.acked
  split
  · exact ⟨x.resend, rfl⟩
  · extract_lets k left
    split
    · exact ⟨x.resend, rfl⟩
    · exact ⟨_, rfl⟩

theorem acked_congr {x y : Bundle} (h : y.unacked = x.unacked) (n : Nat) : (y.acked n).unacked = (x.acked n).unacked := by
  unfold Bundle.acked
  rw [h]
  split
  · exact h
  · extract_lets k left
    split
    · exact h
    · rfl

/-- A bundle once the ACK and the credits of the header `w` have arrived. -/
def backTaken (x : Bundle) (w r : Nat) : Bundle :=
  { x with
    unacked := (x.acked (hAck w)).unacked
    resend := r
    credits := SMap.put x.credits (hCredVc w) (SMap.get x.credits 0 (hCredVc w) + hCred w) }

theorem takeBack_acks {w : Nat} (h : hNak w = false) : ∃ r, s.takeBack p b w = s.setBundle p b (backTaken (s.bundle p b) w r) := by
  obtain ⟨r, hr⟩ := acked_eq (s.bundle p b) (hAck w)
  refine ⟨r, ?_⟩
  unfold State.takeBack
  rw [hr]
  exact if_neg (by simp [h])

/-- A bundle that has taken the flit it expected. -/
def expecting (x : Bundle) : Bundle := { x with expected := (x.expected + 1) % 1024, discarding := false }

/-- A bundle that has taken the flit with the header `w`, and owes these credits. -/
def flitTaken (x : Bundle) (w r : Nat) (owed : SMap Nat) : Bundle := { backTaken (expecting x) w r with owed := owed }

/-- The expected flit is taken: its ACK, its credits, and the credit that is owed for it. -/
theorem takeFlit_accepts {w : Nat} (hw : w = field bytes 0 8) (hc : field bytes 248 8 = (linkCrc (bytes.take 248)).toNat)
    (ht : hType w ≠ 0) (hs : hSeq w = (s.bundle p b).expected) (hv : typeVc (hType w) = some (hVc w)) (hn : hNak w = false) :
    ∃ r owed, s.takeFlit p b true bytes = (s.countWrap (Fld.lnkRxFlits_count p)).setBundle p b (flitTaken (s.bundle p b) w r owed) ∧
      (hType w ≠ 2 → SMap.get owed 0 (hVc w) = SMap.get (s.bundle p b).owed 0 (hVc w) + 1) := by
  obtain ⟨r, back⟩ := takeBack_acks (p := p) (b := b) (s := s.setBundle p b (expecting (s.bundle p b))) hn
  rw [bundle_setBundle_self, setBundle_setBundle] at back
  have counted : ((s.setBundle p b (expecting (s.bundle p b))).takeBack p b w).countWrap (Fld.lnkRxFlits_count p) =
      (s.countWrap (Fld.lnkRxFlits_count p)).setBundle p b (backTaken (expecting (s.bundle p b)) w r) :=
    congrArg (State.countWrap · (Fld.lnkRxFlits_count p)) back
  unfold State.takeFlit
  rw [if_neg (by simp), if_neg (not_not.mpr hc), ← hw]
  extract_lets w0 x s1 s2 s3 y
  rw [if_neg ht, if_neg (not_not.mpr hs), if_neg (not_not.mpr hv)]
  have hs3 : s3 = (s.countWrap (Fld.lnkRxFlits_count p)).setBundle p b (backTaken (expecting (s.bundle p b)) w r) := counted
  have hy : y = backTaken (expecting (s.bundle p b)) w r := (congrArg (State.bundle · p b) hs3).trans (bundle_setBundle_self ..)
  by_cases h2 : hType w = 2
  · rw [if_pos h2]
    exact ⟨r, (s.bundle p b).owed, hs3, fun h => absurd h2 h⟩
  · rw [if_neg h2]
    refine ⟨r, SMap.put (s.bundle p b).owed (hVc w) (SMap.get (s.bundle p b).owed 0 (hVc w) + 1), ?_,
      fun _ => (SMap.get_put ..).trans (if_pos rfl)⟩
    simp only [hy, hs3, setBundle_setBundle]
    rfl

/-- A flit that is discarded. -/
theorem takeFlit_discards (h : ok = false ∨ field bytes 248 8 ≠ (linkCrc (bytes.take 248)).toNat) : ∃ rs,
    s.takeFlit p b ok bytes = (withRegs s rs).discardFlit p b := by
  unfold State.takeFlit
  by_cases ho : ok = false
  · exact ⟨s.regs, if_pos (by simp [ho])⟩
  · rw [if_neg (by simpa using ho), if_pos (h.resolve_left ho)]
    exact ⟨_, rfl⟩

theorem discardFlit_keeps (s : State) (p b : Nat) : OtherBundles s (s.discardFlit p b) p b ∧ (s.discardFlit p b).cores = s.cores ∧
    (s.discardFlit p b).vault = s.vault ∧ ((s.discardFlit p b).bundle p b).expected = (s.bundle p b).expected ∧
    ((s.discardFlit p b).bundle p b).unacked = (s.bundle p b).unacked ∧ ((s.bundle p b).discarding = false →
      ((s.discardFlit p b).bundle p b).nak = true ∧ ((s.discardFlit p b).bundle p b).discarding = true) := by
  unfold State.discardFlit
  extract_lets x
  split
  · rename_i h
    exact ⟨fun _ _ _ => rfl, rfl, rfl, rfl, rfl, fun hd => absurd hd (by simpa [x] using h)⟩
  · rw [bundle_setBundle_self]
    exact ⟨otherBundles_setBundle s p b _, rfl, rfl, rfl, rfl, fun _ => ⟨rfl, rfl⟩⟩

end Rx

/-- Settles O25: the flit sent by what its bundle holds, the flit received by the checks that it passes. -/
theorem flitsSentAndReceived : Obligations.FlitsSentAndReceived := by
  unfold Obligations.FlitsSentAndReceived
  rintro p b x s hp hb ht rfl
  refine ⟨fun f pay hs hr hf ho hpay => ?_, fun words spoilt bytes w hu hi hw => ⟨fun hm hsp hok hc h0 hq hv hn => ?_,
    fun hm hbad => ?_, fun hm => ?_⟩⟩
  · obtain ⟨y, n, owed, w, queue, sent, header, back⟩ := sendFlit_leaves s p b f
    obtain rfl : pay = sentPayload s f := hpay
    have len := length_sentPayload s f
    refine ⟨_, w, exec_flitTx hp hb ht, ?_⟩
    rw [flitTx_sends hs hr hf, sent, bundle_flitOut, txq_flitOut, fld_flitOut]
    refine ⟨(field_frame_header header.lt).symm, otherBundles_flitOut y n _, rfl, rfl, queue, rfl, rfl, fun h2 => ?_, fun h2 => if_pos h2,
      length_frame len, header.type, header.vc, header.seq, header.ack, header.nak, rfl, back ho, payload_frame len, crc_frame len, rfl⟩
    exact (congrArg (SMap.get · 0 f.vc) (if_neg h2)).trans ((SMap.get_put ..).trans (if_pos rfl))
  · obtain ⟨rs, n, fs, decoded, same⟩ := decodeWords_eq s p b words
    have words_ok : (!spoilt && words.all fun w => decide (w.dedup.length ≤ fecLimit)) = true := by
      rw [hsp]
      exact List.all_eq_true.mpr fun c hc => decide_eq_true (hok c hc)
    obtain ⟨r, owed, taken, owes⟩ := takeFlit_accepts (s := s.decodeWords p b words) (p := p) (b := b) hw hc h0
      (by rw [decoded, bundle_setBundle_self]; exact hq) hv hn
    refine ⟨_, exec_flitRx hp hb ht, ?_⟩
    rw [flitRx_takes hu hi hm hp, words_ok, taken]
    rw [decoded, bundle_setBundle_self] at owes ⊢
    rw [bundle_setBundle_self]
    refine ⟨fun q c hq => (bundle_setBundle_ne hq).trans (bundle_setBundle_ne (s := withRegs s rs) hq), rfl, rfl, rfl, rfl,
      acked_congr (x := s.bundle p b) (y := expecting { s.bundle p b with words := n, fixes := fs }) rfl _,
      (SMap.get_put ..).trans (if_pos rfl), owes, ?_⟩
    rw [← same (Fld.lnkRxFlits_count p) (rxFlits_ne p).1 (rxFlits_ne p).2]
    exact fld_countWrap_self ((withRegs s rs).setBundle p b { s.bundle p b with words := n, fixes := fs }) (Fld.lnkRxFlits_count p) 1
      (Nat.le_refl 64)
  · obtain ⟨rs, n, fs, decoded, -⟩ := decodeWords_eq s p b words
    have bad : (!spoilt && words.all fun w => decide (w.dedup.length ≤ fecLimit)) = false ∨
        field bytes 248 8 ≠ (linkCrc (bytes.take 248)).toNat := by
      rcases hbad with h | ⟨c, hc, h8⟩ | h
      · exact .inl (by simp [h])
      · refine .inl (Bool.and_eq_false_iff.mpr (.inr (List.all_eq_false.mpr ⟨c, hc, fun h => ?_⟩)))
        exact absurd (of_decide_eq_true h) (Nat.not_le.mpr h8)
      · exact .inr h
    obtain ⟨rs2, discards⟩ := takeFlit_discards (s := s.decodeWords p b words) (p := p) (b := b) bad
    obtain ⟨others, cores, vault, expected, unacked, nak⟩ := discardFlit_keeps (withRegs (s.decodeWords p b words) rs2) p b
    have bundle : (withRegs (s.decodeWords p b words) rs2).bundle p b = { s.bundle p b with words := n, fixes := fs } := by
      rw [decoded]
      exact bundle_setBundle_self (withRegs s rs) p b _
    refine ⟨_, exec_flitRx hp hb ht, ?_⟩
    rw [flitRx_takes hu hi hm hp, discards]
    rw [bundle] at expected unacked nak
    refine ⟨fun q c hq => (others q c hq).trans ?_, cores.trans ?_, vault.trans ?_, expected, unacked, nak⟩
    · rw [decoded]
      exact bundle_setBundle_ne (s := withRegs s rs) hq
    · rw [decoded]
      rfl
    · rw [decoded]
      rfl
  · obtain ⟨rs, n, fs, decoded, -⟩ := decodeWords_eq s p b words
    have far := opposite_ne p b
    refine ⟨_, exec_flitRx hp hb ht, ?_⟩
    rw [flitRx_passes hu hi hm hp, bundle_setBundle_self, bundle_setBundle_ne far.symm, decoded, bundle_setBundle_ne far,
      bundle_setBundle_self]
    exact ⟨rfl, rfl, rfl, rfl, rfl, rfl⟩

end Sys2Proof.Proofs
end

section
/-!
Proofs: replay, retraining and lost bundles of a port, its lanes, its training and its HELLO (06 R215, R221 to R225, R231, R232, R239;
12 R428).
-/
namespace Sys2Proof.Proofs
open Sys2Proof.Machine Sys2Proof.Safety Sys2Proof.Laws

/-! ### The state of a port -/

section PortState
variable {s : State} {p v : Nat}

/-- The registers of the mesh lie outside those that a message to the host changes. -/
theorem not_mail_of_lt {off : Nat} (h : off < 0x70000) : ¬Mail off := by
  unfold Mail
  omega

theorem portStatus_lt (h : p < 4) : Reg.lnkPortStatus p < 0x44000 := by
  unfold Reg.lnkPortStatus
  omega

theorem rest_setPortState : Rest s (s.setPortState p v) := by
  unfold State.setPortState
  split
  · exact rfl
  · exact (kept_traceRec (s.setFld (Fld.lnkPortStatus_state p) v) _ _ _ _ _).1

theorem eth_setPortState : (s.setPortState p v).eth = s.eth := by
  unfold State.setPortState
  split
  · rfl
  · exact (traceRec_eth (s.setFld (Fld.lnkPortStatus_state p) v) _ _ _ _ _).1

theorem raw_setPortState {off : Nat} (h : off ≠ Reg.lnkPortStatus p) (hm : ¬Mail off) : (s.setPortState p v).raw off = s.raw off := by
  unfold State.setPortState
  split
  · rfl
  · exact ((kept_traceRec _ _ _ _ _ _).2 off hm).trans (raw_setFld_ne _ _ _ _ h)

theorem fld_setPortState {f : Fld} (h : f.off ≠ Reg.lnkPortStatus p) (hm : ¬Mail f.off) : (s.setPortState p v).fld f = s.fld f := by
  rw [State.fld, raw_setPortState h hm, State.fld]

/-- The other fields of LNK_PORT_STATUS lie above STATE. -/
theorem fld_setPortState_apart {f : Fld} (hp : p < 4) (ho : f.off = Reg.lnkPortStatus p) (hl : 4 ≤ f.lo) :
    (s.setPortState p v).fld f = s.fld f := by
  unfold State.setPortState
  split
  · rfl
  · have mail : ¬Mail f.off := ho ▸ not_mail_of_lt ((portStatus_lt hp).trans (by decide))
    rw [State.fld, (kept_traceRec _ _ _ _ _ _).2 _ mail, ← State.fld]
    exact fld_setFld_apart _ _ _ _ (by simp [Fld.lnkPortStatus_state]) ho (.inr hl)

theorem portState_setPortState (hp : p < 4) (hv : v < 16) : (s.setPortState p v).portState p = v := by
  unfold State.setPortState
  split
  · assumption
  · have mail : ¬Mail (Fld.lnkPortStatus_state p).off := not_mail_of_lt ((portStatus_lt hp).trans (by decide))
    have written := fld_setFld_self s (Fld.lnkPortStatus_state p) v (by simp [Fld.lnkPortStatus_state])
    exact (congrArg (Fld.lnkPortStatus_state p).of ((kept_traceRec _ _ _ _ _ _).2 _ mail)).trans
      (written.trans (Nat.mod_eq_of_lt hv))

theorem bundle_setPortState (q b : Nat) : (s.setPortState p v).bundle q b = s.bundle q b := by
  rw [State.bundle, rest_bundles rest_setPortState, State.bundle]

theorem port_setPortState (q : Nat) : (s.setPortState p v).port q = s.port q := by
  rw [State.port, rest_ports rest_setPortState, State.port]

end PortState

/-! ### A bit taken out of a number -/

/-- A number without one of its bits. -/
theorem testBit_sub_two_pow {x b : Nat} (h : x.testBit b = true) (c : Nat) :
    (x - 2 ^ b).testBit c = (x.testBit c && c ≠ b) := by
  have odd : x / 2 ^ b % 2 = 1 := by simpa [Nat.testBit, Nat.shiftRight_eq_div_pow] using h
  have low : x % 2 ^ b < 2 ^ b := Nat.mod_lt _ (Nat.two_pow_pos b)
  have whole : x = 2 ^ b * (2 * (x / 2 ^ b / 2) + 1) + x % 2 ^ b := by
    have := Nat.div_add_mod x (2 ^ b)
    have : x / 2 ^ b = 2 * (x / 2 ^ b / 2) + 1 := by omega
    rw [← this]
    omega
  have less : x - 2 ^ b = 2 ^ b * (2 * (x / 2 ^ b / 2)) + x % 2 ^ b := by
    conv_lhs => rw [whole]
    rw [Nat.mul_add, Nat.mul_one]
    omega
  rw [less]
  conv_rhs => rw [whole]
  rw [Nat.testBit_two_pow_mul_add _ low, Nat.testBit_two_pow_mul_add _ low]
  rcases Nat.lt_trichotomy c b with hc | rfl | hc
  · simp [hc, hc.ne]
  · simp
  · obtain ⟨k, rfl⟩ : ∃ k, c = b + 1 + k := ⟨c - b - 1, by omega⟩
    have far : b + 1 + k - b = k + 1 := by omega
    have halves : 2 * (x / 2 ^ b / 2) / 2 = (2 * (x / 2 ^ b / 2) + 1) / 2 := by omega
    rw [if_neg (by omega), if_neg (by omega), far, Nat.testBit_succ, Nat.testBit_succ, halves]
    simp
    omega

/-! ### REPLAY_TIMEOUT (R221) -/

section Replay
variable {s : State} {p b : Nat} {f : SentFlit} {fs : List SentFlit}

theorem onBundle (hp : p < 4) (hb : b < 8) : (decide (p < nPorts) && decide (b < nBundles)) = true := by
  simp [nPorts, nBundles, hp, hb]

theorem replayTimeout_eq (hx : (s.bundle p b).unacked = f :: fs) (hr : (s.bundle p b).retrainFrom = none) :
    replayTimeout p b s = if f.beat + s.fld (Fld.lnkCtrl_replayTmo p) < s.beat then s.replay p b else s := by
  unfold replayTimeout
  simp only [hx, hr, Option.isNone_none, and_true]

/-- A replay of every unacknowledged flit. -/
def replayed (x : Bundle) : Bundle :=
  { x with unacked := x.unacked.map fun g => { g with replays := g.replays + 1 }, resend := x.unacked.length }

theorem replay_again (hx : (s.bundle p b).unacked = f :: fs) (hn : f.replays < 16) :
    s.replay p b = (s.setBundle p b (replayed (s.bundle p b))).count (Fld.lnkReplay_count p) := by
  unfold State.replay
  extract_lets x again
  simp only [x, hx]
  rw [if_neg (by omega)]
  simp only [again, x, List.length_map]
  rfl

theorem replay_retrains (hx : (s.bundle p b).unacked = f :: fs) (hn : 16 ≤ f.replays) : s.replay p b = s.retrain p b := by
  unfold State.replay
  extract_lets x
  simp only [x, hx]
  exact if_pos hn

theorem retrain_leaves (hp : p < 4) : OtherBundles s (s.retrain p b) p b ∧
    ((s.retrain p b).bundle p b) = { s.bundle p b with retrainFrom := some (s.beat : Int) } ∧ (s.retrain p b).portState p = 4 := by
  unfold State.retrain
  extract_lets s1
  refine ⟨fun q c hq => ?_, ?_, portState_setPortState hp (by decide)⟩
  · rw [bundle_setPortState]
    exact bundle_setBundle_ne hq
  · rw [bundle_setPortState]
    exact bundle_setBundle_self ..

end Replay

/-! ### A bundle that is lost (R225), or has retrained (R222) -/

section Lost
variable {s : State} {p b : Nat}

/-- A port of which no bundle retrains settles; no bundle changes by that, nor any field of LNK_PORT_STATUS but STATE. -/
theorem settlePort_keeps (hp : p < 4) : (s.settlePort p).bundles = s.bundles ∧ ∀ f : Fld, f.off < 0x70000 →
    f.off ≠ Reg.lnkPortStatus p ∨ 4 ≤ f.lo → (s.settlePort p).fld f = s.fld f := by
  unfold State.settlePort
  extract_lets busy
  split
  · refine ⟨rest_bundles rest_setPortState, fun f hf h => ?_⟩
    by_cases ho : f.off = Reg.lnkPortStatus p
    · exact fld_setPortState_apart hp ho (h.resolve_left (not_not.mpr ho))
    · exact fld_setPortState ho (not_mail_of_lt hf)
  · exact ⟨rfl, fun _ _ _ => rfl⟩

/-- The bundle's bit moves from the mask of those in service to the mask of those lost. -/
def bitLost (s : State) (p b : Nat) : State :=
  (s.setFld (Fld.lnkPortStatus_bundleUp p) (s.fld (Fld.lnkPortStatus_bundleUp p) - 2 ^ b)).setFld (Fld.lnkPortStatus_bundleLost p)
    (s.fld (Fld.lnkPortStatus_bundleLost p) ||| 2 ^ b)

theorem fld_lt (s : State) (f : Fld) : s.fld f < 2 ^ f.width := Nat.mod_lt _ (Nat.two_pow_pos _)

theorem fld_setUp_lost (v : Nat) : (s.setFld (Fld.lnkPortStatus_bundleUp p) v).fld (Fld.lnkPortStatus_bundleLost p) =
    s.fld (Fld.lnkPortStatus_bundleLost p) :=
  fld_setFld_apart s (Fld.lnkPortStatus_bundleUp p) (Fld.lnkPortStatus_bundleLost p) v (show 48 + 8 ≤ 64 by decide) rfl
    (.inl (show 40 + 8 ≤ 48 by decide))

theorem fld_bitLost (hb : b < 8) :
    (bitLost s p b).fld (Fld.lnkPortStatus_bundleUp p) = s.fld (Fld.lnkPortStatus_bundleUp p) - 2 ^ b ∧
    (bitLost s p b).fld (Fld.lnkPortStatus_bundleLost p) = s.fld (Fld.lnkPortStatus_bundleLost p) ||| 2 ^ b := by
  have up : s.fld (Fld.lnkPortStatus_bundleUp p) < 2 ^ 8 := fld_lt s (Fld.lnkPortStatus_bundleUp p)
  have lost : s.fld (Fld.lnkPortStatus_bundleLost p) < 2 ^ 8 := fld_lt s (Fld.lnkPortStatus_bundleLost p)
  have bit : 2 ^ b < 2 ^ 8 := Nat.pow_lt_pow_right (by decide) hb
  unfold bitLost
  refine ⟨?_, ?_⟩
  · refine (fld_setFld_apart _ (Fld.lnkPortStatus_bundleLost p) (Fld.lnkPortStatus_bundleUp p) _ (show 40 + 8 ≤ 64 by decide) rfl
      (.inr (show 40 + 8 ≤ 48 by decide))).trans ((fld_setFld_self s (Fld.lnkPortStatus_bundleUp p) _ (show 48 + 8 ≤ 64 by decide)).trans ?_)
    exact Nat.mod_eq_of_lt (Nat.lt_of_le_of_lt (Nat.sub_le _ _) up)
  · refine (fld_setFld_self _ (Fld.lnkPortStatus_bundleLost p) _ (show 40 + 8 ≤ 64 by decide)).trans ?_
    exact Nat.mod_eq_of_lt (Nat.or_lt_two_pow lost bit)

/-- A bundle of a port that keeps another one is lost: its bit moves, and its record is new. -/
theorem loseBundle_leaves (hp : p < 4) (hb : b < 8) (hu : s.bundleUp p b = true) (h0 : b ≠ 0)
    (hh : s.fld (Fld.xptHolder_holder p b) ≠ 1) (ho : s.fld (Fld.lnkPortStatus_bundleUp p) ≠ 2 ^ b) :
    (s.loseBundle p b).bundles = (s.setBundle p b {}).bundles ∧
    (s.loseBundle p b).fld (Fld.lnkPortStatus_bundleUp p) = s.fld (Fld.lnkPortStatus_bundleUp p) - 2 ^ b ∧
    (s.loseBundle p b).fld (Fld.lnkPortStatus_bundleLost p) = s.fld (Fld.lnkPortStatus_bundleLost p) ||| 2 ^ b := by
  obtain ⟨up, lost⟩ := fld_bitLost (s := s) (p := p) hb
  have bit : 2 ^ b ≤ s.fld (Fld.lnkPortStatus_bundleUp p) := Nat.ge_two_pow_of_testBit hu
  have low := portStatus_lt hp
  unfold State.loseBundle
  rw [if_pos hu]
  extract_lets s1 s2 none_ s3 s4 s5 express s6
  have hs2 : s2 = bitLost s p b := by
    simp only [s2, s1, fld_setUp_lost]
    rfl
  have more : none_ = false := by
    simp only [none_, hs2, up, decide_eq_false_iff_not]
    omega
  have kept3 : s3.bundles = s.bundles ∧ ∀ f : Fld, f.off < 0x70000 → f.off ≠ Reg.lnkPortStatus p ∨ 4 ≤ f.lo →
      s3.fld f = (bitLost s p b).fld f := by
    simp only [s3, hs2]
    split
    · exact ⟨rfl, fun _ _ _ => rfl⟩
    · refine ⟨rest_bundles rest_setPortState, fun f hf h => ?_⟩
      by_cases ho : f.off = Reg.lnkPortStatus p
      · exact fld_setPortState_apart hp ho (h.resolve_left (not_not.mpr ho))
      · exact fld_setPortState ho (not_mail_of_lt hf)
  obtain ⟨bundles, fields⟩ := kept3
  obtain ⟨rest, raw⟩ := logError_frame s4 eBundleLost p (BitVec.ofNat 64 b) (s4.raw (Reg.lnkPortStatus p)) (by decide)
  have kept5 : ∀ f : Fld, f.off < 0x70000 → f.off ≠ Reg.lnkPortStatus p ∨ 4 ≤ f.lo → s5.fld f = (bitLost s p b).fld f := fun f hf h =>
    (congrArg f.of (raw f.off (not_mail_of_lt hf) (.inl (by omega)))).trans (fields f hf h)
  have plain : express = false := by
    have same : s5.fld (Fld.xptHolder_holder p b) = s.fld (Fld.xptHolder_holder p b) :=
      (kept5 _ (show 0x50020 < 0x70000 by decide) (.inl (show 0x50020 ≠ Reg.lnkPortStatus p by omega))).trans
        ((fld_setFld_ne _ _ _ _ (show 0x50020 ≠ Reg.lnkPortStatus p by omega)).trans
          (fld_setFld_ne _ _ _ _ (show 0x50020 ≠ Reg.lnkPortStatus p by omega)))
    simpa only [express, same, decide_eq_false_iff_not] using hh
  have hs6 : s6 = s5 := if_neg (by simp [more])
  rw [if_neg (by simp [h0, plain]), hs6, kept5 (Fld.lnkPortStatus_bundleUp p) (low.trans (by decide)) (.inr (show 4 ≤ 48 by decide)),
    kept5 (Fld.lnkPortStatus_bundleLost p) (low.trans (by decide)) (.inr (show 4 ≤ 40 by decide)), up, lost]
  refine ⟨(rest_bundles rest).trans ?_, rfl, rfl⟩
  exact congrArg (SMap.put · (bunId p b) {}) bundles

/-- A bundle that has not retrained in time is lost. -/
theorem retrainOver_leaves (hp : p < 4) (hb : b < 8) (hu : s.bundleUp p b = true) (h0 : b ≠ 0)
    (hh : s.fld (Fld.xptHolder_holder p b) ≠ 1) (ho : s.fld (Fld.lnkPortStatus_bundleUp p) ≠ 2 ^ b) :
    OtherBundles s ((s.loseBundle p b).settlePort p) p b ∧ ((s.loseBundle p b).settlePort p).bundleUp p b = false ∧
    (((s.loseBundle p b).settlePort p).fld (Fld.lnkPortStatus_bundleLost p)).testBit b = true ∧
    ((s.loseBundle p b).settlePort p).bundle p b = {} ∧
    ∀ c, c ≠ b → ((s.loseBundle p b).settlePort p).bundleUp p c = s.bundleUp p c := by
  obtain ⟨bundles, up, lost⟩ := loseBundle_leaves hp hb hu h0 hh ho
  obtain ⟨same, fields⟩ := settlePort_keeps (s := s.loseBundle p b) hp
  have low := portStatus_lt hp
  have keeps : ((s.loseBundle p b).settlePort p).bundles = (s.setBundle p b {}).bundles := same.trans bundles
  have hup := (fields (Fld.lnkPortStatus_bundleUp p) (low.trans (by decide)) (.inr (show 4 ≤ 48 by decide))).trans up
  have hlost := (fields (Fld.lnkPortStatus_bundleLost p) (low.trans (by decide)) (.inr (show 4 ≤ 40 by decide))).trans lost
  have bits : ∀ c, ((s.loseBundle p b).settlePort p).bundleUp p c = (s.bundleUp p c && c ≠ b) := fun c => by
    rw [State.bundleUp, hup, testBit_sub_two_pow hu, State.bundleUp]
  refine ⟨fun q c hq => ?_, ?_, ?_, ?_, fun c hc => ?_⟩
  · rw [State.bundle, keeps]
    exact bundle_setBundle_ne hq
  · rw [bits]
    simp
  · rw [hlost, Nat.testBit_or, Nat.testBit_two_pow_self, Bool.or_true]
  · rw [State.bundle, keeps]
    exact bundle_setBundle_self s p b {}
  · rw [bits]
    simp [hc]

variable {from_ : Int}

theorem retrainDone_late (rtt : Nat) (hr : (s.bundle p b).retrainFrom = some from_) (hl : from_ + 17500 < s.beat) :
    retrainDone p b rtt s = (s.loseBundle p b).settlePort p := by
  unfold retrainDone
  extract_lets x
  simp only [x, hr]
  exact if_pos hl

theorem retrainFail_late (hr : (s.bundle p b).retrainFrom = some from_) (hl : from_ + 17500 < s.beat) :
    retrainFail p b s = (s.loseBundle p b).settlePort p := by
  unfold retrainFail
  simp only [hr]
  exact if_pos hl

/-- The shares of a port are fields of their own in LNK_BUNDLE. -/
theorem setShares_keeps (s : State) (p : Nat) : (s.setShares p).bundles = s.bundles ∧
    ∀ b, (s.setShares p).fld (Fld.lnkBundle_rtt p b) = s.fld (Fld.lnkBundle_rtt p b) := by
  unfold State.setShares
  extract_lets bs sum
  refine foldl_keeps (R := fun x y => y.bundles = x.bundles ∧ ∀ b, y.fld (Fld.lnkBundle_rtt p b) = x.fld (Fld.lnkBundle_rtt p b))
    (fun _ => ⟨rfl, fun _ => rfl⟩) (fun h k => ⟨k.1.trans h.1, fun b => (k.2 b).trans (h.2 b)⟩) _ (fun x c => ?_) _ _
  refine ⟨rfl, fun b => ?_⟩
  by_cases h : Reg.lnkBundle p b = Reg.lnkBundle p c
  · exact fld_setFld_apart _ (Fld.lnkBundle_share p c) (Fld.lnkBundle_rtt p b) _ (show 16 + 10 ≤ 64 by decide) h
      (.inr (show 16 + 10 ≤ 32 by decide))
  · exact fld_setFld_ne _ _ (Fld.lnkBundle_rtt p b) _ h

/-- A bundle that has retrained sends every unacknowledged flit again. -/
def resumed (x : Bundle) : Bundle :=
  { x with retrainFrom := none, unacked := x.unacked.map fun g => { g with replays := 0 }, resend := x.unacked.length }

theorem countReplay_keeps {x : State} {c : Prop} [Decidable c] {f : Fld} (h : f.off ≠ Reg.lnkReplay p) :
    (if c then x else x.count (Fld.lnkReplay_count p)).bundles = x.bundles ∧
      (if c then x else x.count (Fld.lnkReplay_count p)).fld f = x.fld f := by
  split
  · exact ⟨rfl, rfl⟩
  · exact ⟨rfl, fld_count_ne x 1 h⟩

theorem retrainDone_resumes (hp : p < 4) (hb : b < 8) (rtt : Nat) (hr : (s.bundle p b).retrainFrom = some from_) (hl : s.beat ≤ from_ + 17500) :
    (retrainDone p b rtt s).bundles = (s.setBundle p b (resumed (s.bundle p b))).bundles ∧
      (retrainDone p b rtt s).fld (Fld.lnkBundle_rtt p b) = rtt % 2 ^ 16 := by
  unfold retrainDone
  extract_lets x again s1 s2 s3
  simp only [x, hr]
  rw [if_neg (by omega)]
  have low : Reg.lnkBundle p b < 0x70000 := by
    unfold Reg.lnkBundle
    omega
  have apart : Reg.lnkBundle p b ≠ Reg.lnkPortStatus p := by
    unfold Reg.lnkBundle Reg.lnkPortStatus
    omega
  have other : Reg.lnkBundle p b ≠ Reg.lnkReplay p := by
    unfold Reg.lnkBundle Reg.lnkReplay
    omega
  obtain ⟨shares, rtts⟩ := setShares_keeps (s1.setFld (Fld.lnkBundle_rtt p b) rtt) p
  obtain ⟨settled, fields⟩ := settlePort_keeps (s := s3) hp
  have counted : s3.bundles = s2.bundles ∧ s3.fld (Fld.lnkBundle_rtt p b) = s2.fld (Fld.lnkBundle_rtt p b) := countReplay_keeps other
  obtain ⟨same, rtt_eq⟩ := counted
  have written := fld_setFld_self s1 (Fld.lnkBundle_rtt p b) rtt (show 32 + 16 ≤ 64 by decide)
  have settled_rtt := fields (Fld.lnkBundle_rtt p b) low (.inl apart)
  refine ⟨settled.trans (same.trans (shares.trans ?_)), ?_⟩
  · simp only [s1, again, x, List.length_map]
    rfl
  · rw [settled_rtt, rtt_eq, rtts b, written]
    rfl

end Lost

/-! ### IDLE_FLIT_INSERT (R215) -/

/-- Port `p` has just sent an idle flit. -/
def idled (s : State) (p : Nat) : State := s.setPort p { s.port p with sinceIdle := 0 }

theorem bundle_idled (s : State) (p q b : Nat) : (idled s p).bundle q b = s.bundle q b := rfl

theorem sendIdle_leaves (s : State) (p b : Nat) : OtherBundles s (s.sendIdle p b) p b ∧ (s.sendIdle p b).cores = s.cores ∧
    (s.sendIdle p b).vault = s.vault ∧ (s.sendIdle p b).port p = { s.port p with sinceIdle := 0 } ∧
    hType (field ((s.sendIdle p b).bundle p b).wire 0 8) = 0 ∧
    ((s.sendIdle p b).bundle p b).nextSeq = (s.bundle p b).nextSeq ∧
    ((s.sendIdle p b).bundle p b).unacked = (s.bundle p b).unacked := by
  obtain ⟨n, owed, w, fill, wire, -, header, -⟩ :=
    putOnWire_eq s.freeWord.2 p b 0 (s.freeWord.1.toNat % 8) (s.freeWord.1.toNat / 8) 0 []
  have idle : s.sendIdle p b = idled (s.freeWord.2.putOnWire p b 0 (s.freeWord.1.toNat % 8) (s.freeWord.1.toNat / 8) 0 []) p := rfl
  rw [idle, wire, bundle_idled, bundle_setBundle_self]
  refine ⟨fun q c hq => bundle_setBundle_ne (s := drawn s n) hq, rfl, rfl, (port_setPort ..).trans (if_pos rfl), ?_, rfl, rfl⟩
  exact (congrArg hType (field_frame_header header.lt)).trans header.type

theorem idleFlitInsert_sends {s : State} {p b : Nat} (h : 65536 ≤ (s.port p).sinceIdle)
    (hb : ((List.range 8).find? fun b => s.sending p b) = some b) : idleFlitInsert p s = s.sendIdle p b := by
  unfold idleFlitInsert
  rw [if_pos h, show (List.range nBundles).find? (fun b => s.sending p b) = some b from hb]

/-! ### LANE_FAILURE (R224, R239) -/

section Lane
variable {s : State} {p l : Nat}

theorem port_queueFlits (fs : List (Nat × OutFlit)) (s : State) (p : Nat) :
    ∃ q, (s.queueFlits fs).port p = { s.port p with txq := q } := by
  induction fs generalizing s with
  | nil => exact ⟨(s.port p).txq, rfl⟩
  | cons e fs ih =>
    obtain ⟨q, hq⟩ := ih (s.setPort e.1 { s.port e.1 with txq := (s.port e.1).txq ++ [e.2] })
    rw [port_setPort] at hq
    split at hq
    · rename_i h
      subst h
      exact ⟨q, hq⟩
    · exact ⟨q, hq⟩

/-- A message changes no more of a port than its queue. -/
theorem port_loomSend (s : State) (m : LoomMsg) (p : Nat) : ∃ q, (s.loomSend m).port p = { s.port p with txq := q } := by
  obtain ⟨q, hq⟩ := port_queueFlits (s.flitsOf m) s p
  refine ⟨q, ?_⟩
  unfold State.loomSend
  extract_lets fs s1 s2
  split
  · rw [port_charge]
    exact hq
  · exact hq

/-- Lane `l` moves to spare 64, and the neighbour is told. -/
theorem spareLane_first (hp : p < 4) (hl : l < 64) (hv : s.flag (Fld.lnkSpare_s64Valid p) = false)
    (hb : (s.port p).failedLanes.contains 64 = false) :
    (s.spareLane p l).flag (Fld.lnkSpare_s64Valid p) = true ∧ (s.spareLane p l).fld (Fld.lnkSpare_s64Lane p) = l ∧
    ((s.spareLane p l).port p).failedLanes = (s.port p).failedLanes ∧ SentLast s (s.spareLane p l) [.spare p l] ∧
    (s.spareLane p l).bundles = s.bundles ∧ (s.spareLane p l).cores = s.cores := by
  unfold State.spareLane
  extract_lets bad s1
  rw [if_pos (by rw [hv, hb]; rfl)]
  have low : Reg.lnkSpare p < 0x70000 := by
    unfold Reg.lnkSpare
    omega
  obtain ⟨rest, raw⟩ := logError_frame s1 eLaneSpared p (BitVec.ofNat 64 l) 64 (by decide)
  have same := raw (Reg.lnkSpare p) (not_mail_of_lt low) (.inl (by omega))
  obtain ⟨q, port⟩ := port_loomSend (s1.logError eLaneSpared p (BitVec.ofNat 64 l) 64) (.spare p l) p
  obtain ⟨ps, ledger, sent⟩ := sends_loomSend (s1.logError eLaneSpared p (BitVec.ofNat 64 l) 64) (.spare p l)
  have valid : s1.fld (Fld.lnkSpare_s64Valid p) = 1 := fld_setFld_self _ (Fld.lnkSpare_s64Valid p) 1 (show 7 + 1 ≤ 64 by decide)
  have lane : s1.fld (Fld.lnkSpare_s64Lane p) = l := by
    refine (fld_setFld_apart _ (Fld.lnkSpare_s64Valid p) (Fld.lnkSpare_s64Lane p) _ (show 7 + 1 ≤ 64 by decide) rfl
      (.inl (show 0 + 7 ≤ 7 by decide))).trans ?_
    refine (fld_setFld_self s (Fld.lnkSpare_s64Lane p) l (show 0 + 7 ≤ 64 by decide)).trans ?_
    exact Nat.mod_eq_of_lt (show l < 128 by omega)
  have raw_same : ((s1.logError eLaneSpared p (BitVec.ofNat 64 l) 64).loomSend (.spare p l)).raw (Reg.lnkSpare p) =
      s1.raw (Reg.lnkSpare p) := by
    rw [sent]
    exact same
  refine ⟨?_, (congrArg (Fld.lnkSpare_s64Lane p).of raw_same).trans lane, ?_, ?_, ?_, ?_⟩
  · have valid2 := (congrArg (Fld.lnkSpare_s64Valid p).of raw_same).trans valid
    exact decide_eq_true (by
      intro h0
      have := valid2.symm.trans h0
      omega)
  · rw [port, show (s1.logError eLaneSpared p (BitVec.ofNat 64 l) 64).port p = s.port p from
      congrArg (fun ps : SMap Port => SMap.get ps {} p) (rest_ports rest)]
  · rw [sent]
    exact congrArg (fun l' : Loom => l'.out ++ [LoomMsg.spare p l]) (rest_loom rest :)
  · rw [sent]
    exact (rest_bundles rest :)
  · rw [sent]
    exact (rest_cores rest :)

theorem exec_laneFailure {cause : LaneCause} (hp : p < 4) (hl : l < 64) (ht : s.sys.tclk = true) :
    exec (.laneFailure p ⟨l, cause⟩) s = .next (laneFailure p l cause s) :=
  onUnit_whenDo (by simp [nPorts, hp]; omega) ht ..

theorem spares_rate : s.spares_ p l .rate = true ↔
    s.fld (Fld.lnkCtrl_spareThresh p) ≠ 0 ∧ s.fld (Fld.lnkCtrl_spareThresh p) < s.laneFixes p l := by
  simp [State.spares_]

theorem laneFailure_spares {cause : LaneCause} (hl : l < 64) (hf : (s.port p).failedLanes.contains l = false) (hc : cause ≠ .idle)
    (hr : cause = .rate → s.fld (Fld.lnkCtrl_spareThresh p) ≠ 0 ∧ s.fld (Fld.lnkCtrl_spareThresh p) < s.laneFixes p l) :
    laneFailure p l cause s =
      (s.setPort p { s.port p with failedLanes := l :: (s.port p).failedLanes }).spareLane p l := by
  have spares : s.spares_ p l cause = true := by
    cases cause with
    | rate => exact spares_rate.mpr (hr rfl)
    | idle => exact absurd rfl hc
    | _ => rfl
  unfold laneFailure
  extract_lets x
  rw [if_neg hc, if_neg (by rw [hf, spares]; decide), if_pos hl]

theorem laneFailure_within (hr : s.fld (Fld.lnkCtrl_spareThresh p) = 0 ∨ s.laneFixes p l ≤ s.fld (Fld.lnkCtrl_spareThresh p)) :
    laneFailure p l .rate s = s := by
  have spares : s.spares_ p l .rate = false := by
    rw [← Bool.not_eq_true, spares_rate]
    omega
  unfold laneFailure
  extract_lets x
  rw [if_neg (by decide), if_pos (by rw [spares, Bool.not_false, Bool.or_true])]

theorem laneFailure_idle (hu : s.portUp p = true) (hn : s.loom.upAtCommit.contains p = false) :
    laneFailure p l .idle s = s.setPortState p 6 := by
  unfold laneFailure State.portIdles State.portLost
  extract_lets x
  rw [if_pos rfl, if_pos hu, rest_loom rest_setPortState, if_neg (by rw [hn]; decide)]
  rfl

theorem loomOnly_setPortState {v : Nat} : LoomOnly s (s.setPortState p v) :=
  have rest : Rest s (s.setPortState p v) := rest_setPortState
  ⟨rest_cores rest, rest_vault rest, rest_sched rest, rest_warp rest, rest_sessions rest, eth_setPortState, rest_bundles rest⟩

end Lane

/-! ### Training and HELLO (R231, R232; 12 R428) -/

section Train
variable {s : State} {p : Nat}

/-- Where a trained port stands that has heard a neighbour it accepts. -/
def upState (s : State) (p : Nat) : Nat := if s.fld (Fld.lnkPortStatus_bundleLost p) = 0 then 2 else 3

theorem portComesUp_state (hp : p < 4) (h1 : s.portState p = 1) (hu : s.fld (Fld.lnkPortStatus_bundleUp p) ≠ 0) :
    (s.portComesUp p).portState p =
      if (s.port p).heard = true ∧ s.fld (Fld.lnkPeer_peerPart p) = 2 then upState s p else 1 := by
  unfold State.portComesUp
  extract_lets ok
  have small : upState s p < 16 := by
    unfold upState
    split <;> decide
  by_cases h : (s.port p).heard = true ∧ s.fld (Fld.lnkPeer_peerPart p) = 2
  · rw [if_pos h, if_pos (by simp [ok, h1, hu, h, pTraining])]
    exact portState_setPortState hp small
  · rw [if_neg h, if_neg (by simpa [ok, h1, hu, pTraining] using h), h1]

/-- A port that comes up changes its state, and nothing else. -/
theorem portComesUp_keeps (hp : p < 4) : Rest s (s.portComesUp p) ∧
    (∀ off, off ≠ Reg.lnkPortStatus p → ¬Mail off → (s.portComesUp p).raw off = s.raw off) ∧
    (s.portComesUp p).fld (Fld.lnkPortStatus_bundleUp p) = s.fld (Fld.lnkPortStatus_bundleUp p) := by
  unfold State.portComesUp
  extract_lets ok
  split
  · exact ⟨rest_setPortState, fun off ho hm => raw_setPortState ho hm, fld_setPortState_apart hp rfl (show 4 ≤ 48 by decide)⟩
  · exact ⟨rfl, fun _ _ _ => rfl, rfl⟩

/-- Training changes the modes of the port's bundles, and their records. -/
structure Trained (s t : State) (p : Nat) : Prop where
  ports : t.ports = s.ports
  loom : t.loom = s.loom
  sys : t.sys = s.sys
  raw : ∀ off, off ≠ Reg.xptPort p → t.raw off = s.raw off

theorem Trained.trans {s t u : State} (h : Trained s t p) (k : Trained t u p) : Trained s u p :=
  ⟨k.ports.trans h.ports, k.loom.trans h.loom, k.sys.trans h.sys, fun off ho => (k.raw off ho).trans (h.raw off ho)⟩

/-- Values drawn one by one. -/
theorem foldl_drawn {α : Type} {f : State × α → Nat → State × α} (hf : ∀ r v, ∃ n, (f r v).1 = drawn r.1 n) (l : List Nat)
    (r : State × α) : ∃ n, (l.foldl f r).1 = drawn r.1 n := by
  induction l generalizing r with
  | nil => exact ⟨r.1.freeCtr, rfl⟩
  | cons v l ih =>
    obtain ⟨n, hn⟩ := ih (f r v)
    obtain ⟨m, hm⟩ := hf r v
    exact ⟨n, by rw [List.foldl_cons, hn, hm]; rfl⟩

theorem trained_trainBundle (s : State) (p b : Nat) : Trained s (s.trainBundle p b) p := by
  unfold State.trainBundle
  extract_lets held s1 r
  obtain ⟨n, hn⟩ : ∃ n, r.1 = drawn s1 n := foldl_drawn (fun r v => ⟨r.1.freeCtr + 1, rfl⟩) _ _
  rw [hn]
  have mode : Trained s s1 p := by
    by_cases h : held = true
    · rw [show s1 = s from if_pos h]
      exact ⟨rfl, rfl, rfl, fun _ _ => rfl⟩
    · rw [show s1 = s.setFld (Fld.xptPort_mode p b) 1 from if_neg h]
      exact ⟨rfl, rfl, rfl, fun off ho => raw_setFld_ne s (Fld.xptPort_mode p b) 1 off ho⟩
  exact ⟨mode.ports, mode.loom, mode.sys, mode.raw⟩

/-- The port trains, with these bundles. -/
def training (s : State) (p : Nat) (bs : BitVec 8) : State :=
  (s.setFld (Fld.lnkPortStatus_bundleUp p) bs.toNat).setPortState p 1

theorem linkTrained_eq {bs : BitVec 8} (hb : bs ≠ 0) (h : s.portState p = 0 ∨ s.portState p = 1) : ∃ u, Trained (training s p bs) u p ∧
    linkTrained p bs s = (u.loomSend (.hello p (u.helloOf p))).portComesUp p := by
  unfold linkTrained
  extract_lets live s1 s2
  have idle : live = false := by
    rcases h with h | h <;> simp [live, State.portUp, h, pUp, pDegraded, pRetrain, pIdle, pFailed]
  rw [if_neg (by rw [idle]; simpa using hb)]
  refine ⟨s2, ?_, rfl⟩
  refine foldl_keeps (R := fun x y => Trained x y p) (fun _ => ⟨rfl, rfl, rfl, fun _ _ => rfl⟩) (fun h k => h.trans k) _
    (fun x b => ?_) _ _
  split
  · exact trained_trainBundle x p b
  · exact ⟨rfl, rfl, rfl, fun _ _ => rfl⟩

theorem helloOf_congr {s t : State} (h : { t.sys with gpioOut := 0 } = { s.sys with gpioOut := 0 }) : t.helloOf p = s.helloOf p := by
  have pos : t.sys.boardPos = s.sys.boardPos := (congrArg Sys.boardPos h :)
  have origin : t.sys.loomOrigin = s.sys.loomOrigin := (congrArg Sys.loomOrigin h :)
  rw [State.helloOf, pos, origin, State.helloOf]

theorem linkTrained_leaves {bs : BitVec 8} (hp : p < 4) (hb : bs ≠ 0) (h : s.portState p = 0 ∨ s.portState p = 1) :
    (linkTrained p bs s).fld (Fld.lnkPortStatus_bundleUp p) = bs.toNat ∧
    (linkTrained p bs s).loom.out = s.loom.out ++ [.hello p (s.helloOf p)] ∧
    (linkTrained p bs s).portState p = if (s.port p).heard = true ∧ s.fld (Fld.lnkPeer_peerPart p) = 2 then upState s p else 1 := by
  obtain ⟨u, trained, eq⟩ := linkTrained_eq hb h
  obtain ⟨ps, ledger, sent⟩ := sends_loomSend u (.hello p (u.helloOf p))
  obtain ⟨q, port⟩ := port_loomSend u (.hello p (u.helloOf p)) p
  have low := portStatus_lt hp
  have rest : Rest (s.setFld (Fld.lnkPortStatus_bundleUp p) bs.toNat) (training s p bs) := rest_setPortState
  have raw : ∀ off, off ≠ Reg.xptPort p → (u.loomSend (.hello p (u.helloOf p))).raw off = (training s p bs).raw off := fun off ho => by
    rw [sent]
    exact trained.raw off ho
  have status : Reg.lnkPortStatus p ≠ Reg.xptPort p := by
    unfold Reg.lnkPortStatus Reg.xptPort
    omega
  have up : (u.loomSend (.hello p (u.helloOf p))).fld (Fld.lnkPortStatus_bundleUp p) = bs.toNat := by
    refine (congrArg (Fld.lnkPortStatus_bundleUp p).of (raw _ status)).trans ?_
    refine (fld_setPortState_apart (f := Fld.lnkPortStatus_bundleUp p) hp rfl (show 4 ≤ 48 by decide)).trans ?_
    exact (fld_setFld_self s (Fld.lnkPortStatus_bundleUp p) _ (show 48 + 8 ≤ 64 by decide)).trans (Nat.mod_eq_of_lt bs.isLt)
  have state : (u.loomSend (.hello p (u.helloOf p))).portState p = 1 :=
    (congrArg (Fld.lnkPortStatus_state p).of (raw _ status)).trans (portState_setPortState hp (by decide))
  have lost : (u.loomSend (.hello p (u.helloOf p))).fld (Fld.lnkPortStatus_bundleLost p) = s.fld (Fld.lnkPortStatus_bundleLost p) := by
    refine (congrArg (Fld.lnkPortStatus_bundleLost p).of (raw _ status)).trans ?_
    exact (fld_setPortState_apart (f := Fld.lnkPortStatus_bundleLost p) hp rfl (show 4 ≤ 40 by decide)).trans (fld_setUp_lost _)
  have part : (u.loomSend (.hello p (u.helloOf p))).fld (Fld.lnkPeer_peerPart p) = s.fld (Fld.lnkPeer_peerPart p) := by
    have apart : Reg.lnkPeer p ≠ Reg.lnkPortStatus p ∧ Reg.lnkPeer p ≠ Reg.xptPort p ∧ Reg.lnkPeer p < 0x70000 := by
      unfold Reg.lnkPeer Reg.lnkPortStatus Reg.xptPort
      omega
    refine (congrArg (Fld.lnkPeer_peerPart p).of (raw (Reg.lnkPeer p) apart.2.1)).trans ?_
    exact (fld_setPortState (f := Fld.lnkPeer_peerPart p) apart.1 (not_mail_of_lt apart.2.2)).trans
      (fld_setFld_ne s (Fld.lnkPortStatus_bundleUp p) (Fld.lnkPeer_peerPart p) _ apart.1)
  have heard : ((u.loomSend (.hello p (u.helloOf p))).port p).heard = (s.port p).heard := by
    rw [port]
    have ports : u.ports = s.ports := trained.ports.trans (rest_ports rest :)
    rw [State.port, ports, State.port]
  have nonzero : bs.toNat ≠ 0 := fun h0 => hb (BitVec.eq_of_toNat_eq h0)
  obtain ⟨rest2, -, up2⟩ := portComesUp_keeps (s := u.loomSend (.hello p (u.helloOf p))) hp
  rw [eq, up2, up, portComesUp_state hp state (by rw [up]; exact nonzero), heard, part, upState, lost, rest_loom rest2]
  refine ⟨rfl, ?_, rfl⟩
  have loom : u.loom = s.loom := trained.loom.trans (rest_loom rest :)
  have sys : { u.sys with gpioOut := 0 } = { s.sys with gpioOut := 0 } := by
    rw [trained.sys]
    exact rest_sys rest
  rw [sent, helloOf_congr sys]
  exact congrArg (fun l : Loom => l.out ++ [LoomMsg.hello p (s.helloOf p)]) loom

end Train

section Hello
variable {s : State} {p : Nat} {h : Hello}

/-- A HELLO has been heard on port `p`. -/
def heardOn (s : State) (p : Nat) : State := s.setPort p { s.port p with heard := true }

theorem port_heardOn (s : State) (p : Nat) : (heardOn s p).port p = { s.port p with heard := true } :=
  (port_setPort ..).trans (if_pos rfl)

theorem raw_heardOn (s : State) (p off : Nat) : (heardOn s p).raw off = s.raw off := rfl

theorem frame_heardOn (s : State) (p : Nat) : (heardOn s p).bundles = s.bundles ∧ (heardOn s p).cores = s.cores := ⟨rfl, rfl⟩

/-- The neighbour of a HELLO as it stands in LNK_PEER. -/
def peerShown (s : State) (p : Nat) (h : Hello) : State :=
  ((((((s.setFld (Fld.lnkPeer_peerStepMajor p) h.major).setFld (Fld.lnkPeer_peerStepMinor p) h.minor).setFld
    (Fld.lnkPeer_peerPart p) h.part).setFld (Fld.lnkPeer_peerPort p) h.port).setFld (Fld.lnkPeer_peerBoardPos p) h.boardPos).setFld
    (Fld.lnkPeer_peerOrigin p) (if h.origin then 1 else 0)).setFld (Fld.lnkPeer_valid p) 1

theorem raw_peerShown {off : Nat} (ho : off ≠ Reg.lnkPeer p) : (peerShown s p h).raw off = s.raw off := by
  rw [peerShown, raw_setFld_ne _ (Fld.lnkPeer_valid p) _ _ ho, raw_setFld_ne _ (Fld.lnkPeer_peerOrigin p) _ _ ho,
    raw_setFld_ne _ (Fld.lnkPeer_peerBoardPos p) _ _ ho, raw_setFld_ne _ (Fld.lnkPeer_peerPort p) _ _ ho,
    raw_setFld_ne _ (Fld.lnkPeer_peerPart p) _ _ ho, raw_setFld_ne _ (Fld.lnkPeer_peerStepMinor p) _ _ ho,
    raw_setFld_ne _ (Fld.lnkPeer_peerStepMajor p) _ _ ho]

theorem valid_peerShown : (peerShown s p h).fld (Fld.lnkPeer_valid p) = 1 :=
  fld_setFld_self _ (Fld.lnkPeer_valid p) 1 (show 0 + 1 ≤ 64 by decide)

theorem peerPort_peerShown (hh : h.port < 4) : (peerShown s p h).fld (Fld.lnkPeer_peerPort p) = h.port := by
  rw [peerShown, fld_setFld_apart _ (Fld.lnkPeer_valid p) (Fld.lnkPeer_peerPort p) _ (show 0 + 1 ≤ 64 by decide) rfl
      (.inr (show 0 + 1 ≤ 30 by decide)),
    fld_setFld_apart _ (Fld.lnkPeer_peerOrigin p) (Fld.lnkPeer_peerPort p) _ (show 25 + 1 ≤ 64 by decide) rfl
      (.inr (show 25 + 1 ≤ 30 by decide)),
    fld_setFld_apart _ (Fld.lnkPeer_peerBoardPos p) (Fld.lnkPeer_peerPort p) _ (show 26 + 4 ≤ 64 by decide) rfl
      (.inr (show 26 + 4 ≤ 30 by decide)),
    fld_setFld_self _ (Fld.lnkPeer_peerPort p) _ (show 30 + 2 ≤ 64 by decide)]
  exact Nat.mod_eq_of_lt hh

theorem peerPart_peerShown (hh : h.part < 2 ^ 16) : (peerShown s p h).fld (Fld.lnkPeer_peerPart p) = h.part := by
  rw [peerShown, fld_setFld_apart _ (Fld.lnkPeer_valid p) (Fld.lnkPeer_peerPart p) _ (show 0 + 1 ≤ 64 by decide) rfl
      (.inr (show 0 + 1 ≤ 32 by decide)),
    fld_setFld_apart _ (Fld.lnkPeer_peerOrigin p) (Fld.lnkPeer_peerPart p) _ (show 25 + 1 ≤ 64 by decide) rfl
      (.inr (show 25 + 1 ≤ 32 by decide)),
    fld_setFld_apart _ (Fld.lnkPeer_peerBoardPos p) (Fld.lnkPeer_peerPart p) _ (show 26 + 4 ≤ 64 by decide) rfl
      (.inr (show 26 + 4 ≤ 32 by decide)),
    fld_setFld_apart _ (Fld.lnkPeer_peerPort p) (Fld.lnkPeer_peerPart p) _ (show 30 + 2 ≤ 64 by decide) rfl
      (.inr (show 30 + 2 ≤ 32 by decide)),
    fld_setFld_self _ (Fld.lnkPeer_peerPart p) _ (show 32 + 16 ≤ 64 by decide)]
  exact Nat.mod_eq_of_lt hh

/-- The neighbour of a HELLO is recorded, and has been heard. -/
def met (s : State) (p : Nat) (h : Hello) : State := heardOn ((peerShown s p h).setRaw (Reg.lnkPeerSerial p) h.serial) p

theorem helloRx_eq : helloRx p h s = if h.part = 2 then (met s p h).portComesUp p
    else if (met s p h).portState p = 1 then (met s p h).setPortState p 0 else met s p h := rfl

theorem frame_peerShown : (peerShown s p h).ports = s.ports ∧ (peerShown s p h).bundles = s.bundles ∧
    (peerShown s p h).cores = s.cores := by
  simp only [peerShown, State.setFld_ports, State.setFld_bundles, State.setFld_cores, and_self]

theorem port_met : (met s p h).port p = { s.port p with heard := true } := by
  have ports : ((peerShown s p h).setRaw (Reg.lnkPeerSerial p) h.serial).port p = s.port p := by
    rw [State.port, State.setRaw_ports, frame_peerShown.1, State.port]
  rw [met, port_heardOn, ports]

theorem frame_met : (met s p h).bundles = s.bundles ∧ (met s p h).cores = s.cores := by
  rw [met, (frame_heardOn _ _).1, (frame_heardOn _ _).2, State.setRaw_bundles, State.setRaw_cores]
  exact frame_peerShown.2

theorem raw_met (off : Nat) : (met s p h).raw off = ((peerShown s p h).setRaw (Reg.lnkPeerSerial p) h.serial).raw off :=
  raw_heardOn _ _ off

theorem raw_met_serial : (met s p h).raw (Reg.lnkPeerSerial p) = h.serial := (raw_met _).trans (raw_setRaw_self ..)

theorem raw_met_ne {off : Nat} (ho : off ≠ Reg.lnkPeerSerial p) : (met s p h).raw off = (peerShown s p h).raw off :=
  (raw_met off).trans (raw_setRaw_ne _ _ _ _ ho)

theorem fld_met {f : Fld} (ho : f.off ≠ Reg.lnkPeerSerial p) : (met s p h).fld f = (peerShown s p h).fld f :=
  congrArg f.of (raw_met_ne ho)

/-- What a HELLO leaves: the neighbour recorded, and the port up, down or training by its part. -/
theorem helloRx_leaves (hp : p < 4) (h1 : s.portState p = 1) (hu : s.fld (Fld.lnkPortStatus_bundleUp p) ≠ 0) (hh : h.part < 2 ^ 16) :
    (helloRx p h s).portState p = (if h.part = 2 then upState s p else 0) ∧ Rest (met s p h) (helloRx p h s) ∧
      ∀ off, off ≠ Reg.lnkPortStatus p → ¬Mail off → (helloRx p h s).raw off = (met s p h).raw off := by
  have status : Reg.lnkPortStatus p ≠ Reg.lnkPeer p ∧ Reg.lnkPortStatus p ≠ Reg.lnkPeerSerial p := by
    unfold Reg.lnkPortStatus Reg.lnkPeer Reg.lnkPeerSerial
    omega
  have peer : Reg.lnkPeer p ≠ Reg.lnkPeerSerial p := by
    unfold Reg.lnkPeer Reg.lnkPeerSerial
    omega
  have raw : (met s p h).raw (Reg.lnkPortStatus p) = s.raw (Reg.lnkPortStatus p) :=
    (raw_met_ne status.2).trans (raw_peerShown status.1)
  have state : (met s p h).portState p = 1 := (congrArg (Fld.lnkPortStatus_state p).of raw).trans h1
  have up : (met s p h).fld (Fld.lnkPortStatus_bundleUp p) ≠ 0 := fun h0 => hu ((congrArg (Fld.lnkPortStatus_bundleUp p).of raw).symm.trans h0)
  have lost : (met s p h).fld (Fld.lnkPortStatus_bundleLost p) = s.fld (Fld.lnkPortStatus_bundleLost p) :=
    congrArg (Fld.lnkPortStatus_bundleLost p).of raw
  have part : (met s p h).fld (Fld.lnkPeer_peerPart p) = h.part := (fld_met (f := Fld.lnkPeer_peerPart p) peer).trans (peerPart_peerShown hh)
  rw [helloRx_eq]
  by_cases h2 : h.part = 2
  · obtain ⟨rest, keeps, -⟩ := portComesUp_keeps (s := met s p h) hp
    rw [if_pos h2, if_pos h2, portComesUp_state hp state up, if_pos ⟨by rw [port_met], part.trans h2⟩, upState, lost]
    exact ⟨rfl, rest, keeps⟩
  · rw [if_neg h2, if_neg h2, if_pos state]
    exact ⟨portState_setPortState hp (by decide), rest_setPortState, fun off ho hm => raw_setPortState ho hm⟩

end Hello

section Retry
variable {s : State} {p : Nat} {b : Int}

theorem portTrainRetry_trains (hb : s.sys.retryBeat = some b) (h : s.portState p = 0 ∨ s.portState p = 5)
    (hd : b + 175000000 * ((s.port p).tries + 1) ≤ s.beat) : ∃ n, portTrainRetry p s =
      (s.setPort p { s.port p with tries := n, heard := false }).setPortState p 1 := by
  unfold portTrainRetry
  simp only [hb]
  rw [if_pos (by rcases h with h | h <;> simp [hd, h, pDown, pFailed])]
  exact ⟨_, rfl⟩

theorem portTrainRetry_waits (hb : s.sys.retryBeat = some b) (hd : s.beat < b + 175000000 * ((s.port p).tries + 1)) :
    portTrainRetry p s = s := by
  unfold portTrainRetry
  simp only [hb]
  exact if_neg (by simp [Int.not_le.mpr hd])

end Retry

/-- The rows of a bundle's replay, and of its retraining. -/
theorem replayRows {p b : Nat} {s : State} (hp : p < 4) (hb : b < 8) (ht : s.sys.tclk = true) {f : SentFlit} {fs : List SentFlit}
    (hx : (s.bundle p b).unacked = f :: fs) (hr : (s.bundle p b).retrainFrom = none) :
    (f.beat + s.fld (Fld.lnkCtrl_replayTmo p) < s.beat →
      (f.replays < 16 → ∃ t, exec (.replayTimeout p b) s = .next t ∧ OtherBundles s t p b ∧ LoomOnly s { t with bundles := s.bundles } ∧
        t.bundle p b = replayed (s.bundle p b)) ∧
      (16 ≤ f.replays → ∃ t, exec (.replayTimeout p b) s = .next t ∧ OtherBundles s t p b ∧
        (t.bundle p b).retrainFrom = some (s.beat : Int) ∧ (t.bundle p b).unacked = (s.bundle p b).unacked ∧ t.portState p = 4)) ∧
    (s.beat ≤ f.beat + s.fld (Fld.lnkCtrl_replayTmo p) → exec (.replayTimeout p b) s = .next s) := by
  have row : exec (.replayTimeout p b) s = .next (replayTimeout p b s) := onUnit_whenDo (onBundle hp hb) ht ..
  rw [row, replayTimeout_eq hx hr]
  refine ⟨fun hl => ?_, fun hl => ?_⟩
  · rw [if_pos hl]
    refine ⟨fun hn => ⟨_, rfl, ?_⟩, fun hn => ⟨_, rfl, ?_⟩⟩
    · rw [replay_again hx hn]
      exact ⟨otherBundles_setBundle s p b _, ⟨rfl, rfl, rfl, rfl, rfl, rfl, rfl⟩, bundle_setBundle_self s p b _⟩
    · rw [replay_retrains hx hn]
      obtain ⟨others, bundle, state⟩ := retrain_leaves (s := s) (b := b) hp
      rw [bundle]
      exact ⟨others, rfl, rfl, state⟩
  · rw [if_neg (by omega)]

theorem retrainRows {p b : Nat} {s : State} (hp : p < 4) (hb : b < 8) (ht : s.sys.tclk = true) {from_ : Int} {rtt : Nat}
    (hr : (s.bundle p b).retrainFrom = some from_) :
    (s.beat ≤ from_ + 17500 → ∃ t, exec (.retrainDone p b rtt) s = .next t ∧ OtherBundles s t p b ∧
      t.bundle p b = resumed (s.bundle p b) ∧ t.fld (Fld.lnkBundle_rtt p b) = rtt % 2 ^ 16) ∧
    (from_ + 17500 < s.beat → s.bundleUp p b = true → b ≠ 0 → s.fld (Fld.xptHolder_holder p b) ≠ 1 →
      s.fld (Fld.lnkPortStatus_bundleUp p) ≠ 2 ^ b → ∀ i ∈ [Instr.retrainFail p b, .retrainDone p b rtt],
      ∃ t, exec i s = .next t ∧ OtherBundles s t p b ∧ t.bundleUp p b = false ∧
        (t.fld (Fld.lnkPortStatus_bundleLost p)).testBit b = true ∧ t.bundle p b = {} ∧
        ∀ c, c ≠ b → t.bundleUp p c = s.bundleUp p c) := by
  have done : exec (.retrainDone p b rtt) s = .next (retrainDone p b rtt s) := onUnit_whenDo (onBundle hp hb) ht ..
  have fail : exec (.retrainFail p b) s = .next (retrainFail p b s) := onUnit_whenDo (onBundle hp hb) ht ..
  refine ⟨fun hl => ⟨_, done, ?_⟩, fun hl hu h0 hh ho i hi => ⟨(s.loseBundle p b).settlePort p, ?_, retrainOver_leaves hp hb hu h0 hh ho⟩⟩
  · obtain ⟨bundles, written⟩ := retrainDone_resumes hp hb rtt hr hl
    refine ⟨fun q c hq => ?_, ?_, written⟩
    · rw [State.bundle, bundles]
      exact bundle_setBundle_ne hq
    · rw [State.bundle, bundles]
      exact bundle_setBundle_self s p b _
  · obtain rfl | rfl : i = .retrainFail p b ∨ i = .retrainDone p b rtt := by simpa using hi
    · rw [fail, retrainFail_late hr hl]
    · rw [done, retrainDone_late rtt hr hl]

/-- LANE_FAILURE of a lane in use. -/
theorem laneRows {p l : Nat} {s : State} {cause : LaneCause} (hp : p < 4) (ht : s.sys.tclk = true) (hl : l < 64)
    (hf : (s.port p).failedLanes.contains l = false) :
    (cause ≠ .idle → (cause = .rate →
        s.fld (Fld.lnkCtrl_spareThresh p) ≠ 0 ∧ s.fld (Fld.lnkCtrl_spareThresh p) < s.laneFixes p l) →
      (s.port p).failedLanes.contains 64 = false → s.flag (Fld.lnkSpare_s64Valid p) = false →
      ∃ t, exec (.laneFailure p ⟨l, cause⟩) s = .next t ∧ t.flag (Fld.lnkSpare_s64Valid p) = true ∧
        t.fld (Fld.lnkSpare_s64Lane p) = l ∧ (t.port p).failedLanes = l :: (s.port p).failedLanes ∧
        SentLast s t [.spare p l] ∧ t.bundles = s.bundles ∧ t.cores = s.cores) ∧
    (cause = .rate → s.fld (Fld.lnkCtrl_spareThresh p) = 0 ∨ s.laneFixes p l ≤ s.fld (Fld.lnkCtrl_spareThresh p) →
      exec (.laneFailure p ⟨l, cause⟩) s = .next s) ∧
    (cause = .idle → s.portUp p = true → s.loom.upAtCommit.contains p = false →
      ∃ t, exec (.laneFailure p ⟨l, cause⟩) s = .next t ∧ t.portState p = 6 ∧ LoomOnly s t) := by
  rw [exec_laneFailure hp hl ht]
  refine ⟨fun hc hr h64 hv => ⟨_, rfl, ?_⟩, fun hc hr => ?_, fun hc hu hn => ⟨_, rfl, ?_⟩⟩
  · have noted : (s.setPort p { s.port p with failedLanes := l :: (s.port p).failedLanes }).port p =
        { s.port p with failedLanes := l :: (s.port p).failedLanes } := (port_setPort ..).trans (if_pos rfl)
    obtain ⟨valid, lane, failed, sent, bundles, cores⟩ := spareLane_first
      (s := s.setPort p { s.port p with failedLanes := l :: (s.port p).failedLanes }) hp hl hv (by
        rw [noted, List.contains_cons, h64, Bool.or_false]
        exact beq_eq_false_iff_ne.mpr (by omega))
    rw [laneFailure_spares hl hf hc hr]
    exact ⟨valid, lane, failed.trans (by rw [noted]), sent, bundles, cores⟩
  · subst hc
    rw [laneFailure_within hr]
  · subst hc
    rw [laneFailure_idle hu hn]
    exact ⟨portState_setPortState hp (by decide), loomOnly_setPortState⟩

/-- Settles O26: the rows of replay and retraining, of a lane, and of training, each by its lemma. -/
theorem replayAndRetraining : Obligations.ReplayAndRetraining := by
  unfold Obligations.ReplayAndRetraining
  refine ⟨?_, fun p s hp ht => ⟨fun b hi hb => ?_, fun l cause hl hf => laneRows hp ht hl hf, fun bs hbs h => ?_, fun h hh h1 hu hpart => ?_,
    fun b hb h => ⟨fun hd => ?_, fun hd => ?_⟩⟩⟩
  · rintro p b x s hp hb ht rfl
    exact ⟨fun f fs hx hr => replayRows hp hb ht hx hr, fun from_ rtt hr => retrainRows hp hb ht hr⟩
  · refine ⟨_, onUnit_whenDo (lt_nPorts hp) ht .., ?_⟩
    rw [idleFlitInsert_sends hi hb]
    exact sendIdle_leaves s p b
  · exact ⟨_, onUnit_whenDo (lt_nPorts hp) ht .., linkTrained_leaves hp hbs h⟩
  · obtain ⟨state, rest, raw⟩ := helloRx_leaves (h := h) hp h1 hu hpart
    have low : Reg.lnkPeer p < 0x70000 ∧ Reg.lnkPeerSerial p < 0x70000 := by
      unfold Reg.lnkPeer Reg.lnkPeerSerial
      omega
    have apart : Reg.lnkPeer p ≠ Reg.lnkPortStatus p ∧ Reg.lnkPeerSerial p ≠ Reg.lnkPortStatus p ∧ Reg.lnkPeer p ≠ Reg.lnkPeerSerial p := by
      unfold Reg.lnkPeer Reg.lnkPeerSerial Reg.lnkPortStatus
      omega
    have peer := raw (Reg.lnkPeer p) apart.1 (not_mail_of_lt low.1)
    have hport : (helloRx p h s).fld (Fld.lnkPeer_peerPort p) = h.port :=
      (congrArg (Fld.lnkPeer_peerPort p).of peer).trans ((fld_met (f := Fld.lnkPeer_peerPort p) apart.2.2).trans (peerPort_peerShown hh))
    have hvalid : (helloRx p h s).fld (Fld.lnkPeer_valid p) = 1 :=
      (congrArg (Fld.lnkPeer_valid p).of peer).trans ((fld_met (f := Fld.lnkPeer_valid p) apart.2.2).trans valid_peerShown)
    refine ⟨_, onUnit_whenDo (lt_nPorts hp) ht .., state, (raw _ apart.2.1 (not_mail_of_lt low.2)).trans raw_met_serial, hport, ?_, ?_,
      (rest_bundles rest).trans frame_met.1, (rest_cores rest).trans frame_met.2⟩
    · rw [State.flag, hvalid]
      rfl
    · rw [State.port, rest_ports rest]
      exact port_met
  · obtain ⟨n, trains⟩ := portTrainRetry_trains hb h hd
    refine ⟨_, onUnit_whenDo (lt_nPorts hp) ht .., ?_⟩
    have port : ((s.setPort p { s.port p with tries := n, heard := false }).setPortState p 1).port p =
        { s.port p with tries := n, heard := false } := (port_setPortState p).trans ((port_setPort ..).trans (if_pos rfl))
    have rest : Rest (s.setPort p { s.port p with tries := n, heard := false })
        ((s.setPort p { s.port p with tries := n, heard := false }).setPortState p 1) := rest_setPortState
    rw [trains, port]
    exact ⟨portState_setPortState hp (by decide), rfl, (rest_bundles rest :), (rest_cores rest :)⟩
  · exact (onUnit_whenDo (lt_nPorts hp) ht ..).trans (congrArg Host.Outcome.next (portTrainRetry_waits hb hd))

end Sys2Proof.Proofs
end

section
/-!
Proofs: what reserving room, storing shards and preparing a launch leave of the loom (07 R297, R300; 08 R313).
-/
namespace Sys2Proof.Proofs
open Sys2Proof.Machine Sys2Proof.Safety Sys2Proof.Laws

/-! ### Room in the vault (07 R297) -/

section Room
variable {s : State} {len count : Nat} {h : Holder} {client : Option Nat}

/-- The loom and the running commands are as they were. -/
def SameLoom (s t : State) : Prop := t.loom = s.loom ∧ t.sched.cmds = s.sched.cmds

namespace SameLoom

theorem refl (s : State) : SameLoom s s := ⟨Eq.refl s.loom, Eq.refl s.sched.cmds⟩

theorem trans {s t u : State} (h : SameLoom s t) (k : SameLoom t u) : SameLoom s u := ⟨k.1.trans h.1, k.2.trans h.2⟩

theorem foldl {α : Type} (f : State → α → State) (hf : ∀ s a, SameLoom s (f s a)) (l : List α) (s : State) :
    SameLoom s (l.foldl f s) := foldl_keeps refl trans f hf l s

theorem ite {s a b : State} {c : Prop} [Decidable c] (ha : SameLoom s a) (hb : SameLoom s b) : SameLoom s (if c then a else b) := by
  split
  · exact ha
  · exact hb

theorem untouched {s t : State} (h : Untouched s t) : SameLoom s t := ⟨h.loom, congrArg Sched.cmds h.sched⟩

theorem setFld (s : State) (f : Fld) (v : Nat) : SameLoom s (s.setFld f v) := ⟨rfl, rfl⟩

end SameLoom

theorem loom_takePage (s : State) (h : Holder) (client : Option Nat) (n : Nat) : SameLoom s (s.takePage h client n) := by
  have zeroed : SameLoom s (s.vzero (n * vpageBytes) vpageBytes) := .refl s
  have wiped : SameLoom s (s.wipe (n * vpageBytes) vpageBytes) := zeroed.trans (.foldl _ (fun s st => .setFld s _ _) _ _)
  unfold State.takePage
  extract_lets old shared clean s1
  have cleaned : SameLoom s s1 := .ite (.refl s) (wiped.trans (.untouched (untouched_charge _ _ _ _)))
  exact cleaned.trans (.refl s1)

theorem loom_takeRuns {r : List Nat × State} (hr : s.takeRuns len count h client = some r) : SameLoom s r.2 := by
  unfold State.takeRuns at hr
  extract_lets rs at hr
  split at hr
  · cases hr
    exact .foldl _ (fun s r => .foldl _ (fun s i => loom_takePage s h client (r + i)) _ s) _ s
  · cases hr

theorem loom_pageOut (s : State) (w : Nat) : SameLoom s (s.pageOut w) := by
  unfold State.pageOut
  split
  · exact .refl s
  · rename_i x _
    have freed : SameLoom s (s.freeFrames (x.pages.filterMap id)) := .untouched (untouched_freeFrames s _)
    exact freed.trans ⟨rfl, rfl⟩

theorem loom_reserveFrom {r : List Nat × State} (cs : List (Bool × Nat))
    (hr : State.reserveFrom len count h client cs s = some r) : SameLoom s r.2 := by
  induction cs generalizing s with
  | nil => exact loom_takeRuns hr
  | cons c cs ih =>
    unfold State.reserveFrom at hr
    split at hr
    · rename_i r' hr'
      cases hr
      exact loom_takeRuns hr'
    · have reclaimed : SameLoom s (if c.1 then s.pageOut c.2 else s.discardBase c.2) := .ite (loom_pageOut s c.2) (.refl s)
      exact reclaimed.trans (ih hr)

theorem loom_reserve {r : List Nat × State} (hr : s.reserve len count h client = some r) : SameLoom s r.2 := loom_reserveFrom _ hr

end Room

/-! ### Storing the shards of a package (07 R300) -/

theorem loom_countFail (s : State) (st : Status) : SameLoom s (s.countFail st) := by
  unfold State.countFail
  split <;> exact ⟨rfl, rfl⟩

theorem loom_storeFor (s : State) (pa : Nat) (bs : Bytes) (acct : Nat) : SameLoom s (s.storeFor pa bs acct) :=
  .untouched ((untouched_clerkStore s pa bs).trans (untouched_charge _ acct lVault bs.length))

theorem loom_storeShards {s : State} {h : Holder} {m : Model} {es : List (ShardEnt × Bytes)} {r : State × Model}
    (hr : s.storeShards h m es = some r) : SameLoom s r.1 := by
  unfold State.storeShards at hr
  extract_lets pages at hr
  split at hr
  · cases hr
  · rename_i runs s1 hs
    cases hr
    exact (loom_reserve hs).trans (SameLoom.foldl (fun s (e : Shard × Bytes) => s.storeFor e.1.addr e.2 sharedAcct)
      (fun s e => loom_storeFor s e.1.addr e.2 sharedAcct) (placeShards (runs.headD 0) es) s1)

theorem loom_stageWarp (s : State) (b : Nat) (bs : Bytes) : SameLoom s (s.stageWarp b bs).1 := by
  unfold State.stageWarp
  extract_lets x
  split
  · exact .refl s
  · split
    · exact .refl s
    · extract_lets same s1 v
      have charged : SameLoom s s1 := .untouched (untouched_charge s _ _ _)
      split
      · exact .refl s
      · split
        · exact .refl s
        · split
          · exact charged.trans (loom_countFail s1 v.1)
          · split
            · exact charged
            · split
              · exact charged
              · rename_i hs
                exact charged.trans (SameLoom.trans (.refl s1) (loom_storeShards hs))

/-! ### Preparing a launch (08 R313) -/

section Launch
variable {s : State} {k job : Nat} {jobs : List Nat}

theorem loom_mapFresh {ps : List Nat} {t : State} (h : s.mapFresh k ps = some t) : SameLoom s t := by
  unfold State.mapFresh at h
  split at h
  · rename_i hr
    cases h
    exact loom_reserve hr
  · cases h

theorem loom_takeReduction {t : State} (h : s.takeReduction k = some t) : SameLoom s t := by
  unfold State.takeReduction at h
  extract_lets c n at h
  split at h
  · cases h
    exact .refl s
  · obtain ⟨r, hr, rfl⟩ := Option.map_eq_some_iff.mp h
    exact loom_reserve hr

theorem loom_launchReserve {t : State} (h : s.launchReserve k = some t) : SameLoom s t := by
  unfold State.launchReserve at h
  split at h
  · cases h
  · rename_i u hu
    split at h
    · exact (loom_takeReduction hu).trans (loom_mapFresh h)
    · cases h
      exact loom_takeReduction hu

/-- The two-phase operations at the origin, and the running commands, are as they were. -/
def SameOps (s t : State) : Prop := t.loom.ops = s.loom.ops ∧ t.sched.cmds = s.sched.cmds

theorem SameOps.refl (s : State) : SameOps s s := ⟨Eq.refl s.loom.ops, Eq.refl s.sched.cmds⟩

theorem SameOps.trans {s t u : State} (h : SameOps s t) (k : SameOps t u) : SameOps s u := ⟨k.1.trans h.1, k.2.trans h.2⟩

theorem SameLoom.ops {t : State} (h : SameLoom s t) : SameOps s t := ⟨congrArg Loom.ops h.1, h.2⟩

theorem ops_takeBarriers {t : State} (h : s.takeBarriers job jobs = some t) : SameOps s t := by
  unfold State.takeBarriers at h
  extract_lets held at h
  split at h
  · cases h
    exact ⟨rfl, rfl⟩
  · split at h
    · cases h
    · cases h
      exact ⟨rfl, rfl⟩

theorem ops_launchEach (ks : List Nat) (s : State) : SameOps s (s.launchEach job jobs ks).1 := by
  induction ks generalizing s with
  | nil => exact .refl s
  | cons k ks ih =>
    unfold State.launchEach
    split
    · split
      · rename_i u hu
        obtain ⟨x, hx, hu⟩ := Option.bind_eq_some_iff.mp hu
        have barriers : SameOps s x := by
          split at hx
          · cases hx
            exact .refl s
          · exact ops_takeBarriers hx
        exact barriers.trans ((loom_launchReserve hu).ops.trans (ih _))
      · exact .refl s
    · exact .refl s

theorem loom_spareSubstitution (p : Nat) (s : State) : SameLoom s (spareSubstitution p s) := by
  unfold spareSubstitution
  split
  · extract_lets cm s1 s2 s3
    have h1 : SameLoom s s1 := ⟨rfl, rfl⟩
    have h2 : SameLoom s1 s2 := .setFld s1 _ _
    have h3 : SameLoom s2 s3 := .setFld s2 _ _
    exact h1.trans (h2.trans (h3.trans (.untouched (untouched_raise s3 _ _ _ _ _))))
  · exact .refl s

theorem loom_regrade (s : State) : SameLoom s s.regrade := by
  unfold State.regrade
  extract_lets s1 out g n kept spares logical old cm s2 s3 s4 s5 s6 s7
  have first : SameLoom s s1 := .foldl _ (fun s p => loom_spareSubstitution p s) _ s
  have h2 : SameLoom s1 s2 := ⟨rfl, rfl⟩
  have h4 : SameLoom s2 s4 := SameLoom.trans (.setFld s2 _ _) (.setFld s3 _ _)
  have h6 : SameLoom s4 s6 := SameLoom.trans (.setFld s4 _ _) (.setFld s5 _ _)
  have h7 : SameLoom s6 s7 := .setFld s6 _ _
  exact first.trans (h2.trans (h4.trans (h6.trans (h7.trans (.untouched (untouched_logError s7 _ _ _ _))))))

theorem loom_gradeAtLaunch (s : State) : SameLoom s s.gradeAtLaunch := .ite (loom_regrade s) (.refl s)

theorem ops_launchAbort (s : State) : SameOps s s.launchAbort :=
  (SameLoom.foldl (fun s k => (s.freeHeld (.reduction k)).modCtx k fun c => { c with redFrames := [] }) (fun _ _ => ⟨rfl, rfl⟩)
    s.sched.prepared s).ops

theorem ops_freshBars (s : State) (job : Nat) : SameOps s (s.freshBars job) := by
  unfold State.freshBars
  split <;> exact ⟨rfl, rfl⟩

/-- No context is prepared. -/
def unprepared (s : State) : State := { s with sched := { s.sched with prepared := [] } }

/-- LAUNCH prepare of a device that holds CREATED contexts of the job. -/
theorem launchPrepare_eq (hk : s.createdOf job ≠ []) : s.launchPrepare job jobs =
    let r := (unprepared s.gradeAtLaunch).launchEach job jobs (s.createdOf job)
    if r.2 = .ok then (r.1.freshBars job, r.2) else (r.1.launchAbort, r.2) := by
  unfold State.launchPrepare
  split
  · exact absurd ‹_› hk
  · rfl

theorem launchPrepare_none (hk : s.createdOf job = []) : s.launchPrepare job jobs = (s.freshBars job, .notFound) := by
  unfold State.launchPrepare
  rw [hk]

theorem ops_launchPrepare (s : State) (job : Nat) (jobs : List Nat) : SameOps s (s.launchPrepare job jobs).1 := by
  by_cases hk : s.createdOf job = []
  · rw [launchPrepare_none hk]
    exact ops_freshBars s job
  · rw [launchPrepare_eq hk]
    extract_lets r
    have each : SameOps (unprepared s.gradeAtLaunch) r.1 := ops_launchEach ..
    have prepared : SameOps s r.1 := SameOps.trans (loom_gradeAtLaunch s).ops each
    split
    · exact prepared.trans (ops_freshBars r.1 job)
    · exact prepared.trans (ops_launchAbort r.1)

end Launch

end Sys2Proof.Proofs
end

section
/-!
Proofs: the rows of the two-phase operations (06 R238; 07 R267, R268, R300; 08 R313).
-/
namespace Sys2Proof.Proofs
open Sys2Proof.Machine Sys2Proof.Safety Sys2Proof.Laws

/-! ### An answer to the origin -/

section Answer
variable {s : State}

theorem opOf_none (h : s.loom.ops = []) (k : LoomOpKind) : s.opOf k = none := by
  unfold State.opOf
  rw [h]

theorem answerPrepare_sends (h : s.loom.ops = []) (k : LoomOpKind) (row col : Nat) (st : Status) (holder : Nat) :
    s.answerPrepare k row col st holder = s.loomSend (.reply k row col st holder) := by
  unfold State.answerPrepare
  rw [opOf_none h]
  rfl

theorem sends_answerPrepare (h : s.loom.ops = []) (k : LoomOpKind) (row col : Nat) (st : Status) (holder : Nat) :
    Sends s [.reply k row col st holder] (s.answerPrepare k row col st holder) := by
  rw [answerPrepare_sends h]
  exact sends_loomSend s _

/-- Only register words differ. -/
def OnlyRegs (s t : State) : Prop := ∃ rs, t = withRegs s rs

theorem OnlyRegs.refl (s : State) : OnlyRegs s s := ⟨s.regs, rfl⟩

theorem OnlyRegs.trans {s t u : State} (h : OnlyRegs s t) (k : OnlyRegs t u) : OnlyRegs s u := by
  obtain ⟨rs, rfl⟩ := h
  obtain ⟨qs, rfl⟩ := k
  exact ⟨qs, rfl⟩

theorem OnlyRegs.setFld (s : State) (f : Fld) (v : Nat) : OnlyRegs s (s.setFld f v) := ⟨(s.setFld f v).regs, rfl⟩

theorem OnlyRegs.foldl {α : Type} (f : State → α → State) (hf : ∀ s a, OnlyRegs s (f s a)) (l : List α) (s : State) :
    OnlyRegs s (l.foldl f s) := foldl_keeps OnlyRegs.refl OnlyRegs.trans f hf l s

end Answer

/-! ### THREAD_PREPARE (06 R238) -/

section ThreadPrepare
variable {s : State} {k : ThreadPrep} {rtts : List (Nat × Nat)}

theorem onlyRegs_setShares (s : State) (p : Nat) : OnlyRegs s (s.setShares p) := by
  unfold State.setShares
  extract_lets bs sum
  exact .foldl _ (fun x b => .setFld x _ _) _ s

theorem onlyRegs_setCross (s : State) (k : ThreadPrep) (p b : Nat) : OnlyRegs s (s.setCross k p b) := by
  unfold State.setCross
  extract_lets mine trained mode
  split
  · exact .refl s
  · exact OnlyRegs.trans (.setFld s _ _) (.setFld _ _ _)

/-- The loom has set the plan aside, with the words that it may put back. -/
def planned (s : State) (k : ThreadPrep) : State :=
  { s with loom := { s.loom with undo := some (threadRegs.map fun off => (off, s.raw off)), prep := some k, exchanges := 0, delay := none } }

theorem onlyRegs_rtt (x : State) (e : Nat × Nat) : OnlyRegs x
    (if e.1 < nPorts * nBundles then x.setFld (Fld.lnkBundle_rtt (e.1 / nBundles) (e.1 % nBundles)) e.2 else x) := by
  split
  · exact .setFld x _ _
  · exact .refl x

theorem threadPrepare_regs (s : State) (k : ThreadPrep) (rtts : List (Nat × Nat)) : OnlyRegs (planned s k) (s.threadPrepare k rtts) := by
  unfold State.threadPrepare
  extract_lets undo l s1 s2 s3
  have h2 : OnlyRegs s1 s2 := .foldl _ (fun x i => onlyRegs_setCross x k _ _) _ s1
  have h3 : OnlyRegs s2 s3 := .foldl _ (fun x e => onlyRegs_rtt x e) _ s2
  exact h2.trans (h3.trans (.foldl _ (fun x p => onlyRegs_setShares x p) _ s3))

theorem threadPrepareRx_ok (ho : s.loom.ops = []) (hp : s.loom.prep = none) (hc : s.threadCheck k = .ok) :
    OnlyRegs (planned s k) (threadPrepareRx k rtts s) := by
  obtain ⟨rs, hrs⟩ := threadPrepare_regs s k rtts
  have none_ : ((s.threadPrepare k rtts).opOf .thread).isSome = false := by
    rw [opOf_none (by rw [hrs]; exact ho)]
    rfl
  unfold threadPrepareRx
  extract_lets st holder s1
  rw [if_neg (by simp [hp]), if_pos hc, if_neg (by simp [s1, none_])]
  exact ⟨rs, hrs⟩

theorem threadPrepareRx_fails (ho : s.loom.ops = []) (hp : s.loom.prep = none) (hc : s.threadCheck k ≠ .ok) :
    Sends s [.reply .thread k.row k.col (s.threadCheck k) (if s.threadCheck k = .conflict then s.conflictHolder k else 0)]
      (threadPrepareRx k rtts s) := by
  have answers : threadPrepareRx k rtts s = s.answerPrepare .thread k.row k.col (s.threadCheck k)
      (if s.threadCheck k = .conflict then s.conflictHolder k else 0) := by
    unfold threadPrepareRx
    rw [if_neg (by simp [hp])]
    exact if_neg hc
  rw [answers]
  exact sends_answerPrepare ho ..

end ThreadPrepare

/-! ### BEAT_VALUE in a prepare -/

theorem beatValue_prepares {s : State} {k : ThreadPrep} {value : Nat} (ho : s.loom.ops = []) (hp : s.loom.prep = some k)
    (he : 16 ≤ s.loom.exchanges) : beatValue value s = (s.takeBeat value).loomSend (.reply .thread k.row k.col .ok 0) := by
  have late : ¬s.loom.exchanges < timingExchanges := by
    unfold timingExchanges
    omega
  have ops : (s.takeBeat value).loom.ops = [] := (takeBeat_prep value).2.trans ho
  unfold beatValue
  simp only [if_neg late, hp, opOf_none ops]
  exact answerPrepare_sends ops ..

/-! ### THREAD_COMMIT (06 R238; 13 R466, R467) -/

section ThreadCommit
variable {s : State} {k : ThreadPrep} {n : Nat} {steps : List (Nat × W64)} {rep : List Nat}

theorem threadCommitRx_commits (ho : s.loom.ops = []) (hp : s.loom.prep = some k) :
    threadCommitRx n steps rep s = s.threadCommit k n steps rep := by
  unfold threadCommitRx
  simp only [hp, opOf_none ho]

/-- The place of the device is its loom's, and stands in registers. -/
def placed (s : State) (k : ThreadPrep) : State :=
  { s with loom := { s.loom with
    nr := k.nr, nc := k.nc, row := k.row, col := k.col, pos := ringPos k.nr k.nc k.row k.col, aOut := aOutPort k.nr k.nc k.row k.col,
    bOut := bOutPort k.nr k.nc k.row k.col, isOrigin := s.loom.disc.isOrigin, lastN := k.nr * k.nc,
    lastPos := ringPos k.nr k.nc k.row k.col, undo := none, prep := none, upAtCommit := s.upPorts, express := k.paths, stepBars := [],
    jobBars := [], barJobs := [], starts := [] } }

theorem takePlace_regs (s : State) (k : ThreadPrep) : OnlyRegs (placed s k) (s.takePlace k) := by
  unfold State.takePlace
  extract_lets pos l s1 s2 s3 s4 s5 s6 s7
  have h2 : OnlyRegs s1 s2 := .foldl _ (fun x p => .setFld x _ _) _ s1
  have h4 : OnlyRegs s2 s4 := OnlyRegs.trans (.setFld s2 _ _) (.setFld s3 _ _)
  have h6 : OnlyRegs s4 s6 := OnlyRegs.trans (.setFld s4 _ _) (.setFld s5 _ _)
  exact h2.trans (h4.trans (h6.trans (OnlyRegs.trans (.setFld s6 _ _) (.setFld s7 _ _))))

theorem changeState_frame {st : Nat} (hs : st < 8) (s : State) (phase cause : Nat) :
    Rest s (s.changeState st phase cause) ∧ (s.changeState st phase cause).devState = st := by
  have written := devState_setDevState s hs phase cause
  have set : Rest s (s.setDevState st phase cause) := rfl
  unfold State.changeState
  extract_lets t
  have raised := kept_raise t 0x0001 0 (t.raw Reg.devState) [] none
  split
  · exact ⟨set, written⟩
  · exact ⟨Eq.trans raised.1 set, (congrArg Fld.devState_state.of (raised.2 Reg.devState (by unfold Mail; decide))).trans written⟩

/-- The warp's passes and drafts are given up, and the cores hold nothing for delivery. -/
def recommitted (s : State) : State :=
  let s : State := { s with warp := { s.warp with
    draft := none, waiting := none, prepared := none, nextEntry := 0, nextSeq := 0, lastStart := 0, lastFlits := 0, barBeat := [], passes := [] } }
  let s := s.setRaw Reg.warpDraftId 0
  let s := { s with cores := s.cores.mapVals fun (c : Core) => { c with deliver := [], experts := none } }
  { s with sessions := s.sessions.mapVals fun x => x.map fun (y : Session) => { y with inStep := false } }

/-- The cores are as they were. -/
def SameCores (s t : State) : Prop := t.cores = s.cores

namespace SameCores

theorem refl (s : State) : SameCores s s := Eq.refl s.cores

theorem trans {s t u : State} (h : SameCores s t) (k : SameCores t u) : SameCores s u := Eq.trans k h

theorem foldl {α : Type} (f : State → α → State) (hf : ∀ s a, SameCores s (f s a)) (l : List α) (s : State) :
    SameCores s (l.foldl f s) := foldl_keeps refl trans f hf l s

end SameCores

theorem discardShards_cores (s : State) : SameCores s s.discardShards :=
  .foldl (fun s (e : Nat × Base) => s.discardBase e.1) (fun _ _ => rfl) s.warp.bases s

theorem setSteps_cores (s : State) (steps : List (Nat × W64)) : SameCores s (s.setSteps steps) :=
  SameCores.trans (.foldl (fun s (e : Nat × Base) => s.setBase e.1 (e.2.rethread e.2.step)) (fun _ _ => rfl) s.warp.bases s)
    (.foldl (fun s (e : Nat × W64) => s.setBase e.1 ((s.base e.1).rethread e.2)) (fun _ _ => rfl) steps _)

theorem threadCommit_eq (ha : s.allStaged = []) : ∃ u : State, SameCores s u ∧
    s.threadCommit k n steps rep = ((recommitted u).takePlace k).changeState 3 15 0 := by
  unfold State.threadCommit
  rw [ha]
  extract_lets same s0 s1 s2
  have h1 : SameCores s s1 := by
    unfold s1
    split
    · exact .refl s
    · exact discardShards_cores s
  exact ⟨s2, h1.trans (setSteps_cores s1 steps), rfl⟩

/-- The state that a commit of THREAD_LOOM leaves: the loom of the plan, no pass and no draft, and cores that hold nothing for delivery. -/
theorem threadCommit_places (ha : s.allStaged = []) :
    (s.threadCommit k n steps rep).devState = 3 ∧ (∃ x, (s.threadCommit k n steps rep).loom = (placed x k).loom) ∧
      (s.threadCommit k n steps rep).warp.passes = [] ∧ (s.threadCommit k n steps rep).warp.draft = none ∧
      ∀ p, (s.threadCommit k n steps rep).core p = { s.core p with deliver := [], experts := none } := by
  obtain ⟨u, hcores, eq⟩ := threadCommit_eq (k := k) (n := n) (steps := steps) (rep := rep) ha
  obtain ⟨rs, hrs⟩ := takePlace_regs (recommitted u) k
  obtain ⟨rest, state⟩ := changeState_frame (st := 3) (by decide) ((recommitted u).takePlace k) 15 0
  rw [hrs] at rest state
  rw [eq, hrs]
  refine ⟨state, ⟨_, (rest_loom rest :)⟩, (congrArg Warp.passes (rest_warp rest) :),
    (congrArg Warp.draft (rest_warp rest) :), fun p => ?_⟩
  have held : s.core p = SMap.get u.cores {} p := congrArg (fun m => SMap.get m ({} : Core) p) hcores.symm
  rw [State.core, (rest_cores rest :), held]
  exact SMap.get_mapVals u.cores (fun c => { c with deliver := [], experts := none }) {} rfl p

end ThreadCommit

/-! ### The rows of THREAD_LOOM at a device -/

section ThreadRows
variable {s : State} {k : ThreadPrep}

theorem exec_threadPrepare (h : Meshed s) (hr : k.row < k.nr) (hc : k.col < k.nc) (rtts : List (Nat × Nat)) :
    exec (.threadPrepare k.nr k.nc k.row k.col k.paths rtts) s = .next (threadPrepareRx k rtts s) :=
  congrArg Host.Outcome.next (if_pos (by simp [onMesh_of_meshed h, hr, hc]))

theorem exec_threadCommit (h : Meshed s) (n : Nat) (steps : List (Nat × W64)) (rep : List Nat) :
    exec (.threadCommit n steps rep) s = .next (threadCommitRx n steps rep s) := congrArg Host.Outcome.next (if_pos (onMesh_of_meshed h))

theorem exec_prepareAbort (h : Meshed s) (op : LoomOpKind) : exec (.prepareAbort op) s = .next (s.abortOp op) :=
  congrArg Host.Outcome.next (if_pos (onMesh_of_meshed h))

/-- BEAT_VALUE in a prepare: the beat is aligned, its value goes down the tree, and the device answers. -/
theorem beatValue_answers {value : Nat} (ho : s.loom.ops = []) (hp : s.loom.prep = some k) (he : 16 ≤ s.loom.exchanges) :
    (beatValue value s).flag Fld.beatStatus_aligned = true ∧ (beatValue value s).loom.prep = some k ∧
      SentLast s (beatValue value s) ((treeChildren k.nr k.nc k.row k.col).map (fun c => .beat c (beatDown s value)) ++
        [.reply .thread k.row k.col .ok 0]) := by
  obtain ⟨-, -, sent, aligned, -⟩ := takeBeat_aligns (s := s) value
  obtain ⟨ps, l, answered⟩ := sends_loomSend (s.takeBeat value) (.reply .thread k.row k.col .ok 0)
  have children : s.alignChildren = treeChildren k.nr k.nc k.row k.col := by
    unfold State.alignChildren
    rw [hp]
  rw [beatValue_prepares ho hp he, answered]
  refine ⟨aligned, (takeBeat_prep value).1.trans hp, ?_⟩
  rw [children, SentLast] at sent
  exact (congrArg (· ++ [LoomMsg.reply .thread k.row k.col .ok 0]) sent).trans (List.append_assoc ..)

end ThreadRows

/-! ### Drafts (07 R267, R268) -/

section Draft
variable {s : State} {d : Draft}

theorem draftPrepare_answers (ho : s.loom.ops = []) (bs : Bytes) :
    Sends { s with warp := { s.warp with prepared := (s.draftCheck bs).2 } }
      [.reply .draft s.loom.row s.loom.col (s.draftCheck bs).1 0] (draftPrepare bs s) :=
  sends_answerPrepare (s := { s with warp := { s.warp with prepared := (s.draftCheck bs).2 } }) ho ..

theorem draftCommit_runs (hp : s.warp.prepared = some d) (hd : s.warp.draft = none) :
    s.draftCommit = ({ s with warp := { s.warp with prepared := none } } : State).runDraft d := by
  unfold State.draftCommit
  simp only [hp, hd]
  rfl

theorem draftCommit_waits {x : Draft} (hp : s.warp.prepared = some d) (hd : s.warp.draft = some x) (hx : x.entries ≠ []) :
    s.draftCommit = { s with warp := { s.warp with prepared := none, waiting := some d } } := by
  unfold State.draftCommit
  simp only [hp, hd]
  exact if_neg (by simpa using hx)

theorem draftCommit_prepared (hp : s.warp.prepared = some d) : s.draftCommit.warp.prepared = none ∧ s.draftCommit.cores = s.cores := by
  unfold State.draftCommit
  simp only [hp]
  split
  · exact ⟨rfl, rfl⟩
  · split <;> exact ⟨rfl, rfl⟩

end Draft

/-! ### What PREPARE_ABORT gives up (06 R238) -/

theorem undoThread_cores (s : State) : SameCores s s.undoThread := by
  unfold State.undoThread
  extract_lets s1
  have h1 : SameCores s s1 := by
    unfold s1
    split
    · exact .foldl (fun s (e : Nat × W64) => s.setRaw e.1 e.2) (fun _ _ => rfl) _ s
    · exact .refl s
  exact h1.trans (Eq.refl s1.cores)

theorem launchAbort_cores (s : State) : SameCores s s.launchAbort :=
  SameCores.foldl (fun s k => (s.freeHeld (.reduction k)).modCtx k fun c => { c with redFrames := [] }) (fun _ _ => rfl) s.sched.prepared s

theorem dropStaging_cores (s : State) (b : Nat) : SameCores s (s.dropStaging b) := by
  unfold State.dropStaging
  extract_lets x
  split
  · rfl
  · rfl

theorem base_setBase_self (s : State) (b : Nat) (x : Base) : (s.setBase b x).base b = x := by simp [State.base, State.setBase]

theorem base_setBase_ne (s : State) {b c : Nat} (h : c ≠ b) (x : Base) : (s.setBase b x).base c = s.base c := by
  simp [State.base, State.setBase, SMap.get_put, h]

theorem dropStaging_self (s : State) (b : Nat) : ((s.dropStaging b).base b).staged = none := by
  unfold State.dropStaging
  extract_lets x
  split
  · rw [base_setBase_self]
  · assumption

theorem dropStaging_ne (s : State) {b c : Nat} (h : c ≠ b) : (s.dropStaging b).base c = s.base c := by
  unfold State.dropStaging
  extract_lets x
  split
  · rw [base_setBase_ne _ h]
    rfl
  · rfl

theorem dropStaging_none {s : State} (b : Nat) {c : Nat} (h : (s.base c).staged = none) : ((s.dropStaging b).base c).staged = none := by
  by_cases hc : c = b
  · subst hc
    exact dropStaging_self s c
  · rw [dropStaging_ne s hc]
    exact h

theorem foldl_dropStaging_none (bs : List Nat) {s : State} {c : Nat} (h : c ∈ bs ∨ (s.base c).staged = none) :
    ((bs.foldl State.dropStaging s).base c).staged = none := by
  induction bs generalizing s with
  | nil => simpa using h
  | cons b bs ih =>
    refine ih ?_
    rcases h with h | h
    · rcases List.mem_cons.mp h with rfl | h
      · exact .inr (dropStaging_self s c)
      · exact .inl h
    · exact .inr (dropStaging_none b h)

/-! ### LAUNCH (08 R313) -/

section LaunchRow
variable {s t : State}

/-- JOB barriers have advanced: beside their records and what is sent, nothing differs. -/
structure Barred (s t : State) : Prop where
  sched : t.sched = s.sched
  cores : t.cores = s.cores
  starts : t.loom.starts = s.loom.starts
  raw : ∀ off, ¬Mail off → t.raw off = s.raw off

namespace Barred

theorem refl (s : State) : Barred s s := ⟨Eq.refl s.sched, Eq.refl s.cores, Eq.refl s.loom.starts, fun _ _ => rfl⟩

theorem trans {s t u : State} (h : Barred s t) (k : Barred t u) : Barred s u :=
  ⟨k.sched.trans h.sched, k.cores.trans h.cores, k.starts.trans h.starts, fun off ho => (k.raw off ho).trans (h.raw off ho)⟩

theorem told {ms : List LoomMsg} (h : Told s ms t) : Barred s t := ⟨h.sched, h.cores, (congrArg Loom.starts h.loom :), h.raw⟩

theorem setBar (s : State) (j n : Nat) (x : LoomBar) : Barred s (s.setBar (.job j n) x) :=
  ⟨Eq.refl s.sched, Eq.refl s.cores, Eq.refl s.loom.starts, fun _ _ => rfl⟩

theorem barAdvance (s : State) (j n : Nat) : Barred s (s.barAdvance (.job j n)) := by
  unfold State.barAdvance
  extract_lets x
  split
  · split
    · rw [barRelease_job]
      exact (told (told_released s (.job j n) _)).trans (.setBar _ j n _)
    · exact (Barred.setBar s j n _).trans (.trans (told (told_traceBar _ 1 _)) (told (told_loomSend _ _)))
  · exact .refl s

theorem startBars (s : State) (job : Nat) : Barred s (s.startBars job) :=
  foldl_keeps refl trans (fun s n => s.barAdvance (.job job n)) (fun s n => barAdvance s job n) (List.range 16) s

end Barred

theorem ctx_setCtx_ne (s : State) {j k : Nat} (h : j ≠ k) (x : Context) : (s.setCtx k x).ctx j = s.ctx j := by
  simp [State.ctx, State.setCtx, SMap.get_put, h]

/-- Context `k` as the start message of LAUNCH leaves it. -/
def started (s : State) (start k : Nat) (q : Partition) (g : Program) : Context :=
  (s.ctx k).launch g (s.latticeOf g q (s.ctx k).base) (s.poweredCores q) (s.splitOf g) s.exact (s.fld (Fld.schedCtx_prefillRows k)) start
    s.sched.waitNo

theorem launchCtx_dedicated {start k : Nat} {q : Partition} {g : Program} (hq : s.part (s.ctx k).part = some q)
    (hg : s.program (s.ctx k).program = some g) (hs : (s.ctx k).serving = false) :
    ∃ w, s.launchCtx start k = { s with sched := { (s.setCtx k (started s start k q g)).sched with waitNo := w } } := by
  unfold State.launchCtx
  simp only [hq, hg, hs]
  exact ⟨_, rfl⟩

/-- The start message is noted, before the job's barriers start. -/
def startNoted (s : State) (job start : Nat) : State :=
  ({ s with sched := { s.sched with prepared := [] }, loom := { s.loom with starts := s.loom.starts ++ [(job, start)] } } : State).setRaw
    Reg.beatStart (BitVec.ofNat 64 start)

theorem beat_startNoted (s : State) (job start : Nat) : (startNoted s job start).beat = s.beat :=
  congrArg BitVec.toNat (raw_setRaw_ne _ Reg.beatStart Reg.beatCount _ (by decide))

/-- A start beat that has passed is met at once. -/
def lateOr (start : Nat) (s : State) : State :=
  if start < s.beat then startBeatReached (s.setFld Fld.beatStatus_lateStart 1) else s

theorem launchStart_eq {job start k : Nat} (hk : s.sched.prepared = [k]) (hd : s.regradeDue = false)
    (hb : (s.launchCtx start k).beat ≤ start) : s.launchStart job start = (startNoted (s.launchCtx start k) job start).startBars job := by
  have graded : s.gradeAtLaunch = s := by
    unfold State.gradeAtLaunch
    rw [hd]
    rfl
  have barred : Barred (startNoted (s.launchCtx start k) job start) ((startNoted (s.launchCtx start k) job start).startBars job) :=
    .startBars _ job
  have beat : ((startNoted (s.launchCtx start k) job start).startBars job).beat = (s.launchCtx start k).beat :=
    (congrArg BitVec.toNat (barred.raw Reg.beatCount (by unfold Mail; decide))).trans (beat_startNoted ..)
  have step : s.launchStart job start = lateOr start
      ((startNoted (s.sched.prepared.foldl (fun s k => s.launchCtx start k) s) job start).startBars job) := by
    unfold State.launchStart
    rw [graded]
    rfl
  rw [step, hk]
  exact if_neg fun h => absurd (Nat.lt_of_lt_of_eq h beat) (Nat.not_lt.mpr hb)

/-- The start message launches the prepared context, and notes the beat. -/
theorem launchStart_launches {job start k : Nat} {q : Partition} {g : Program} (hk : s.sched.prepared = [k]) (hd : s.regradeDue = false)
    (hb : s.beat ≤ start) (hq : s.part (s.ctx k).part = some q) (hg : s.program (s.ctx k).program = some g)
    (hs : (s.ctx k).serving = false) :
    (s.launchStart job start).ctx k = started s start k q g ∧ (∀ j, j ≠ k → (s.launchStart job start).ctx j = s.ctx j) ∧
      (s.launchStart job start).sched.prepared = [] ∧ (job, start) ∈ (s.launchStart job start).loom.starts ∧
      (s.launchStart job start).cores = s.cores := by
  obtain ⟨w, hl⟩ := launchCtx_dedicated (start := start) hq hg hs
  have barred : Barred (startNoted (s.launchCtx start k) job start) (s.launchStart job start) := by
    rw [launchStart_eq hk hd (by rw [hl]; exact hb)]
    exact .startBars _ job
  rw [hl] at barred
  refine ⟨?_, fun j hj => ?_, (congrArg Sched.prepared barred.sched :), ?_, barred.cores⟩
  · rw [ctx_of_sched barred.sched]
    exact ctx_setCtx_self s k _
  · rw [ctx_of_sched barred.sched]
    exact ctx_setCtx_ne s hj _
  · rw [barred.starts]
    exact List.mem_append_right _ List.mem_cons_self

end LaunchRow

section LaunchPrepareRow
variable {s : State}

theorem exec_launchStart (h : Threaded s) (job start : Nat) : exec (.launchStart job start) s = .next (s.launchStart job start) :=
  congrArg Host.Outcome.next (if_pos (onLoom_of_threaded h))

theorem exec_replaceCommit (h : Threaded s) (base mode : Nat) (s0 : W64) :
    exec (.replaceCommit base mode s0) s = .next (s.replaceCommit base mode s0) :=
  congrArg Host.Outcome.next (if_pos (onLoom_of_threaded h))

theorem exec_launchPrepare (h : Threaded s) (ask : LaunchAsk) : exec (.launchPrepare ask) s = .next (s.betweenCommands fun s =>
    (s.launchPrepare ask.job ask.jobs).1.answerPrepare .launch (s.launchPrepare ask.job ask.jobs).1.loom.row
      (s.launchPrepare ask.job ask.jobs).1.loom.col (s.launchPrepare ask.job ask.jobs).2) :=
  congrArg Host.Outcome.next (if_pos (onLoom_of_threaded h))

/-- What REPLACE_PREPARE stages, and its status. -/
def replaceStaged (s : State) (base mode : Nat) (pkg : Bytes) : State × Status :=
  if 64 ≤ base ∨ 1 < mode then (s, .badArgument) else s.stageWarp base pkg

theorem exec_replacePrepare (h : Threaded s) (base mode : Nat) (pkg : Bytes) : exec (.replacePrepare base mode pkg) s =
    .next (s.betweenCommands fun s => (replaceStaged s base mode pkg).1.answerPrepare .replace (replaceStaged s base mode pkg).1.loom.row
      (replaceStaged s base mode pkg).1.loom.col (replaceStaged s base mode pkg).2) :=
  congrArg Host.Outcome.next (if_pos (onLoom_of_threaded h))

theorem replaceCommit_replacing {base mode : Nat} {s0 : W64} (hs : (s.base base).staged.isSome = true) (hd : s.inDraft base = true) :
    s.replaceCommit base mode s0 = s.setBase base { s.base base with st := .replacing, repl := some (s0, mode) } := by
  unfold State.replaceCommit
  extract_lets x
  have staged : ¬x.staged.isNone = true := by
    rw [Option.isNone_iff_eq_none, ← Option.not_isSome_iff_eq_none]
    exact fun h => h hs
  rw [if_neg staged, if_pos hd]

end LaunchPrepareRow

/-! ### PREPARE_REPLY at the origin (06 R238) -/

section Reply
variable {s : State} {o : LoomOp} {rest : List LoomOp} {k : LoomOpKind} {row col : Nat} {st : Status} {holder : Nat}

/-- The running operation with the reply of the device at (row, col). -/
def LoomOp.replied (o : LoomOp) (row col : Nat) (st : Status) (holder : Nat) : LoomOp :=
  { o with
    replies := o.replies ++ [(row, col, st)]
    holders := if holder = 0 then o.holders else o.holders ++ [((row, col), holder)] }

theorem noteReply_first (h : s.loom.ops = o :: rest) (hk : o.kind = k) (hn : ∀ r ∈ o.replies, ¬(r.1 = row ∧ r.2.1 = col)) :
    s.noteReply k row col st holder = { s with loom := { s.loom with ops := LoomOp.replied o row col st holder :: rest } } := by
  have fresh : o.replies.any (fun r => r.1 = row && r.2.1 = col) = false := by simpa using hn
  unfold State.noteReply
  simp only [h]
  exact if_pos ⟨hk, by rw [fresh]; rfl⟩

theorem noteReply_again (h : s.loom.ops = o :: rest) (hr : ∃ r ∈ o.replies, r.1 = row ∧ r.2.1 = col) :
    s.noteReply k row col st holder = s := by
  have known : o.replies.any (fun r => r.1 = row && r.2.1 = col) = true := by simpa using hr
  unfold State.noteReply
  simp only [h]
  exact if_neg fun c => by simp [known] at c

/-- An operation that some device has still to answer is not settled. -/
theorem settleOp_waits (h : s.loom.ops = o :: rest) (hl : o.replies.length < s.opDevices o) : s.settleOp = s := by
  unfold State.settleOp
  simp only [h]
  exact if_pos hl

theorem exec_prepareReply (hm : Meshed s) (h : s.loom.ops = o :: rest) (hk : o.kind = k) :
    exec (.prepareReply k row col ⟨st, holder⟩) s = .next (s.noteReply k row col st holder).settleOp := by
  have runs : (s.opOf k).isSome = true := by
    unfold State.opOf
    rw [h]
    simp [hk]
  exact congrArg Host.Outcome.next ((if_pos (onMesh_of_meshed hm)).trans (if_pos runs))

end Reply

/-- Settles O28: the rows of a device that is not the origin, operation by operation, and the replies at the origin. -/
theorem twoPhaseRows : Obligations.TwoPhaseRows := by
  unfold Obligations.TwoPhaseRows
  refine ⟨fun s ho => ⟨?_, ?_, ?_, fun ht => ⟨?_, ?_, ?_, ?_, ?_, ?_, ?_⟩, fun hm => ⟨?_, ?_, ?_, ?_⟩⟩, ?_⟩
  · rintro nr nc row col paths rtts k hm hr hc hp rfl
    refine ⟨fun ok => ⟨_, exec_threadPrepare (k := ⟨nr, nc, row, col, paths⟩) hm hr hc rtts, ?_⟩,
      fun bad => ⟨_, exec_threadPrepare (k := ⟨nr, nc, row, col, paths⟩) hm hr hc rtts, ?_⟩⟩
    · obtain ⟨rs, eq⟩ := threadPrepareRx_ok (rtts := rtts) ho hp ok
      rw [eq]
      exact ⟨rfl, rfl, rfl, rfl, rfl, rfl, rfl⟩
    · have sends := threadPrepareRx_fails (rtts := rtts) ho hp bad
      have only := sends.loomOnly
      obtain ⟨ps, l, eq⟩ := sends
      refine ⟨only, ?_⟩
      rw [eq]
      exact ⟨rfl, hp, rfl⟩
  · rintro value k v hm hp he rfl
    exact ⟨_, exec_beatValue hm value, beatValue_answers ho hp he⟩
  · intro n steps rep k hm hp ha
    obtain ⟨state, ⟨x, place⟩, passes, draft, cores⟩ := threadCommit_places (k := k) (n := n) (steps := steps) (rep := rep) ha
    refine ⟨_, exec_threadCommit hm n steps rep, ?_⟩
    rw [threadCommitRx_commits ho hp]
    refine ⟨state, ?_, ?_, ?_, ?_, ?_, ?_, ?_, passes, draft, cores⟩ <;> exact congrArg _ place
  · intro bs
    obtain ⟨ps, l, eq⟩ := draftPrepare_answers ho bs
    refine ⟨_, congrArg Host.Outcome.next (if_pos (onLoom_of_threaded ht)), ?_⟩
    rw [eq]
    exact ⟨rfl, rfl, rfl, rfl⟩
  · intro d hor hp
    refine ⟨_, congrArg Host.Outcome.next (if_pos (by simp [onLoom_of_threaded ht, hor])), (draftCommit_prepared hp).1,
      (draftCommit_prepared hp).2, fun hd => ?_, fun x hd hx => ?_⟩
    · rw [draftCommit_runs hp hd]
      exact ⟨rfl, rfl, raw_setRaw_self ..⟩
    · rw [draftCommit_waits hp hd hx]
      exact ⟨rfl, hd⟩
  · intro job jobs hc
    have ops := ops_launchPrepare s job jobs
    obtain ⟨ps, l, eq⟩ := sends_answerPrepare (ops.1.trans ho) .launch (s.launchPrepare job jobs).1.loom.row
      (s.launchPrepare job jobs).1.loom.col (s.launchPrepare job jobs).2 0
    refine ⟨_, exec_launchPrepare ht _, ?_⟩
    rw [betweenCommands_runs (pagesKept_of_idle (by rw [eq]; exact ops.2.trans hc)), eq]
    exact ⟨rfl, rfl⟩
  · intro job start k q g hk hb hq hg hs hd
    obtain ⟨own, others, prepared, starts, cores⟩ := launchStart_launches (job := job) hk hd hb hq hg hs
    refine ⟨_, exec_launchStart ht job start, ?_⟩
    rw [own]
    exact ⟨rfl, rfl, rfl, rfl, prepared, starts, cores, others⟩
  · intro base mode pkg bad
    have staged : replaceStaged s base mode pkg = (s, .badArgument) := if_pos bad
    obtain ⟨ps, l, eq⟩ := sends_answerPrepare ho .replace s.loom.row s.loom.col .badArgument 0
    refine ⟨_, exec_replacePrepare ht base mode pkg, ?_⟩
    rw [betweenCommands_runs (pagesKept_of_ctxs (by rw [staged, eq]; rfl)), staged, eq]
    exact ⟨rfl, rfl⟩
  · intro base mode pkg hb hmode hc
    have staged : replaceStaged s base mode pkg = s.stageWarp base pkg := if_neg (by omega)
    have kept := loom_stageWarp s base pkg
    obtain ⟨ps, l, eq⟩ := sends_answerPrepare (kept.ops.1.trans ho) .replace (s.stageWarp base pkg).1.loom.row
      (s.stageWarp base pkg).1.loom.col (s.stageWarp base pkg).2 0
    refine ⟨_, exec_replacePrepare ht base mode pkg, ?_⟩
    rw [betweenCommands_runs (pagesKept_of_idle (by rw [staged, eq]; exact kept.2.trans hc)), staged, eq]
    exact ⟨rfl, rfl⟩
  · intro base mode s0 hs hd
    refine ⟨_, exec_replaceCommit ht base mode s0, ?_⟩
    rw [replaceCommit_replacing hs hd, base_setBase_self]
    exact ⟨rfl, rfl, rfl, rfl, fun b hb => base_setBase_ne s hb _⟩
  · exact ⟨_, exec_prepareAbort hm .draft, rfl, ⟨rfl, rfl, rfl, rfl, rfl, rfl, rfl⟩⟩
  · exact ⟨_, exec_prepareAbort hm .thread, rfl, rfl, undoThread_cores s⟩
  · exact ⟨_, exec_prepareAbort hm .launch, rfl, launchAbort_cores s⟩
  · exact ⟨_, exec_prepareAbort hm .replace, SameCores.foldl State.dropStaging dropStaging_cores s.stagedBases s,
      fun b hb => foldl_dropStaging_none _ (.inl hb)⟩
  · intro k row col st holder o rest s hm ho hk hl
    refine ⟨_, exec_prepareReply hm ho hk, ?_⟩
    by_cases hr : ∃ r ∈ o.replies, r.1 = row ∧ r.2.1 = col
    · rw [noteReply_again ho hr, settleOp_waits ho (by omega)]
      exact ⟨rfl, rfl, fun hn => by obtain ⟨r, hr, he⟩ := hr; exact absurd he (hn r hr), fun _ => rfl⟩
    · have first : ∀ r ∈ o.replies, ¬(r.1 = row ∧ r.2.1 = col) := fun r hm he => hr ⟨r, hm, he⟩
      rw [noteReply_first ho hk first, settleOp_waits (o := LoomOp.replied o row col st holder) rfl (by
        unfold LoomOp.replied
        rw [List.length_append]
        exact hl)]
      exact ⟨rfl, rfl, fun _ => rfl, fun h => absurd h hr⟩



end Sys2Proof.Proofs
end

section
/-!
Proofs: a LAUNCH for which the vault has no room (08 R313). LAUNCH finds the CREATED contexts of a job in the list, and looks
each of them up by its id: the two agree where an id is listed once. A state that lists one twice refutes O45.
-/
namespace Sys2Proof.Proofs
open Sys2Proof.Machine Sys2Proof.Safety Sys2Proof.Laws

/-! ### No room -/

section NoRoom
variable {s : State} {len count : Nat}

/-- No 64 KiB page is free. -/
def NoRoom (s : State) : Prop := ∀ n, n < nVpages → s.vfree n = false

theorem findRuns_noRoom (h : NoRoom s) (hl : 0 < len) (fuel start count : Nat) : s.findRuns len fuel start count = [] := by
  induction fuel generalizing start count with
  | zero => rfl
  | succ fuel ih =>
    cases count with
    | zero => rfl
    | succ count =>
      unfold State.findRuns
      split
      · rfl
      · have taken : (List.range len).all (fun i => s.vfree (start + i)) = false :=
          List.all_eq_false.mpr ⟨0, List.mem_range.mpr hl, by rw [h _ (by omega)]; decide⟩
        rw [if_neg (by rw [taken]; decide)]
        exact ih ..

theorem reserve_noRoom (h : NoRoom s) (hr : s.reclaimOrder = []) (hl : 0 < len) (hc : count ≠ 0) (holder : Holder)
    (client : Option Nat) : s.reserve len count holder client = none := by
  unfold State.reserve
  rw [hr]
  unfold State.reserveFrom State.takeRuns
  rw [findRuns_noRoom h hl]
  exact if_neg hc.symm

end NoRoom

/-! ### A LAUNCH of a context for which there is no room -/

/-- The id `k` finds a SERVING context whose step table has no page yet, and no page of the vault is free or can be freed. -/
structure Unlaunchable (s : State) (k : Nat) : Prop where
  noRoom : NoRoom s
  wefts : s.warp.wefts = []
  bases : s.warp.bases = []
  exact : s.exact = false
  serving : (s.ctx k).serving = true
  table : SMap.get (s.ctx k).pages .unmapped (stepTableAddr / pageBytes) = .unmapped

section Launch
variable {s t : State} {k job : Nat} {jobs : List Nat}

theorem Unlaunchable.kept (h : Unlaunchable s k) (hk : Kept s t) : Unlaunchable t k where
  noRoom n hn := (congrArg (fun m => decide ((SMap.get m ({} : VPage) n).now = .free)) (rest_vpages hk.1)).trans (h.noRoom n hn)
  wefts := by rw [rest_warp hk.1, h.wefts]
  bases := by rw [rest_warp hk.1, h.bases]
  exact := by
    have mode : t.exact = s.exact := by simp only [State.exact, State.flag, kept_fld_exact hk]
    exact mode.trans h.exact
  serving := by
    rw [ctx_of_sched (rest_sched hk.1)]
    exact h.serving
  table := by
    rw [ctx_of_sched (rest_sched hk.1)]
    exact h.table

theorem Unlaunchable.order (h : Unlaunchable s k) : s.reclaimOrder = [] := by
  unfold State.reclaimOrder
  rw [h.wefts, h.bases]
  rfl

theorem launchPages_ne_nil (h : Unlaunchable s k) : s.launchPages k ≠ [] := by
  have first : stepTableAddr / pageBytes ∈ (List.range 8).map (stepTableAddr / pageBytes + ·) := List.mem_map.mpr ⟨0, by decide, rfl⟩
  exact List.append_ne_nil_of_left_ne_nil (List.ne_nil_of_mem (List.mem_filter.mpr ⟨first, decide_eq_true h.table⟩)) _

theorem launchReserve_none (h : Unlaunchable s k) : s.launchReserve k = none := by
  have spared : s.takeReduction k = some s := by
    unfold State.takeReduction
    rw [h.exact]
    rfl
  unfold State.launchReserve
  simp only [spared, h.serving, if_true]
  unfold State.mapFresh
  rw [reserve_noRoom h.noRoom h.order (by decide) (by simp [launchPages_ne_nil h])]

theorem launchEach_fails (h : Unlaunchable s k) : ∃ st, st ≠ .ok ∧ s.launchEach job jobs [k] = (s, st) := by
  unfold State.launchEach
  split
  · rw [if_pos h.serving, Option.bind_some, launchReserve_none h]
    exact ⟨_, by decide, rfl⟩
  · exact ⟨_, ‹_›, rfl⟩

theorem gradeAtLaunch_stands (h : s.regradeDue = false) : s.gradeAtLaunch = s := by
  unfold State.gradeAtLaunch
  rw [h]
  rfl

/-- A LAUNCH that has no room fails, and leaves every context as it was. -/
theorem launchPrepare_fails (h : Unlaunchable s k) (hd : s.regradeDue = false) (hk : s.createdOf job = [k]) :
    (s.launchPrepare job jobs).2 ≠ .ok ∧ (s.launchPrepare job jobs).1.sched.ctxs = s.sched.ctxs := by
  obtain ⟨st, bad, each⟩ := launchEach_fails (s := unprepared s) (job := job) (jobs := jobs)
    ⟨h.noRoom, h.wefts, h.bases, h.exact, h.serving, h.table⟩
  rw [launchPrepare_eq (by rw [hk]; exact List.cons_ne_nil _ _), gradeAtLaunch_stands hd, hk]
  dsimp only
  rw [each, if_neg bad]
  exact ⟨bad, rfl⟩

theorem ctxs_complete (s : State) (seq : W64) (a : Answer) : (s.complete seq a).sched.ctxs = s.sched.ctxs := by
  rw [rest_sched (kept_complete s seq a).1]

theorem launchAlone_fails (h : Unlaunchable s k) (hd : s.regradeDue = false) (hk : s.createdOf job = [k]) (seq : W64) :
    (s.launchAlone seq job).sched.ctxs = s.sched.ctxs := by
  obtain ⟨bad, ctxs⟩ := launchPrepare_fails (jobs := []) h hd hk
  unfold State.launchAlone
  split
  · rw [ctxs_complete, gradeAtLaunch_stands hd, ite_self]
  · dsimp only
    rw [if_neg bad, ctxs_complete]
    exact ctxs

theorem regradeDue_kept (h : Kept s t) : t.regradeDue = s.regradeDue := by
  have grade : t.fld Fld.devGrade_grade = s.fld Fld.devGrade_grade := kept_fld h _ (by unfold Mail; decide)
  simp only [State.regradeDue, State.usableCores, rest_cmap h.1, grade]
  rfl

/-- What LAUNCH does once it begins. -/
def launchRun (seq : W64) (job : W16) (s : State) : State :=
  if s.tooFew then s.gradeAtLaunch.complete seq (.fail .noResource)
  else if s.devState = stThreaded then s.startOp { kind := .launch, seq := seq, arg := job.toNat }
  else s.launchAlone seq job.toNat

/-- On a READY device, a LAUNCH that has no room changes no context. -/
theorem exec_launch_fails {seq : W64} {job : W16} (ha : Arrives s seq True False False) (h : Unlaunchable s k)
    (hd : s.regradeDue = false) (hk : s.createdOf job.toNat = [k]) :
    ∃ t, exec (.launch seq job) s = .next t ∧ t.sched.ctxs = s.sched.ctxs := by
  have kept := kept_begun s 0x52 seq []
  have state : s.devState = 2 := by
    obtain ⟨-, -, -, -, -, -, ⟨h, -⟩ | ⟨-, h⟩ | ⟨-, h⟩⟩ := ha
    · exact h
    · exact h.elim
    · exact h.elim
  have due := (regradeDue_kept kept).trans hd
  have created : (begun s 0x52 seq []).createdOf job.toNat = [k] := by
    rw [State.createdOf, rest_sched kept.1]
    exact hk
  have ctxs : (launchRun seq job (begun s 0x52 seq [])).sched.ctxs = s.sched.ctxs := by
    refine Eq.trans ?_ (congrArg Sched.ctxs (rest_sched kept.1) :)
    unfold launchRun
    split
    · rw [ctxs_complete, gradeAtLaunch_stands due]
    · rw [if_neg (by rw [kept_devState kept, state]; decide)]
      exact launchAlone_fails (h.kept kept) due created seq
  refine ⟨_, genotOn_begins ha [] 0x52 { ready := true, threaded := true, origin := true } ?_ (launchRun seq job)
    (pagesKept_of_ctxs ctxs), ctxs⟩
  simp [State.stateRefusal, state, stFaulted, stThreaded, stReady]

end Launch

/-! ### An id that is listed twice -/

/-- A list gives each of its keys a value that all of them share. -/
theorem get_of_shared {α : Type} {m : SMap α} {x d : α} {k : Nat} (hk : ∃ e ∈ m, e.1 = k) (h : ∀ e ∈ m, e.2 = x) : SMap.get m d k = x := by
  induction m with
  | nil => simp at hk
  | cons e m ih =>
    obtain ⟨i, y⟩ := e
    unfold SMap.get
    split
    · exact h (i, y) List.mem_cons_self
    · next ne =>
      obtain ⟨e, he, rfl⟩ := hk
      rcases List.mem_cons.mp he with rfl | he
      · exact absurd rfl ne
      · exact ih ⟨e, he, rfl⟩ fun e he => h e (List.mem_cons_of_mem _ he)

/-- The page that client 0 holds. -/
def heldPage : VPage := { now := .client 0 }

/-- The first `n` pages, each held. -/
def heldPages (n : Nat) : SMap VPage := (List.range n).map fun i => (i, heldPage)

theorem get_heldPages {n i : Nat} (h : i < n) : SMap.get (heldPages n) {} i = heldPage := by
  refine get_of_shared ⟨(i, heldPage), List.mem_map.mpr ⟨i, List.mem_range.mpr h, rfl⟩, rfl⟩ fun e he => ?_
  obtain ⟨j, -, rfl⟩ := List.mem_map.mp he
  rfl

/-- The context that id 0 finds: a SERVING context of job 4. -/
def foundCtx : Context := { st := .created, job := 4, serving := true }

/-- A second context listed with id 0: CREATED, of job 3. -/
def jobCtx : Context := { st := .created, job := 3 }

/-- A program that any number of cores runs. -/
def anyCores : Program := { sha := 0, vm1 := false, codeSize := 64, codeAddr := 0, entries := [0], refCores := 0, split := 1, pins := [] }

/-- A device of grade `g` whose vault is full, and which lists context 0 twice. -/
def fullDev (g : Nat) : State :=
  let s : State := { State.reset with
    sys := { tclk := true }
    cmap := { logical := [0] }
    vpages := heldPages nVpages
    sched := { programs := [(0, some anyCores)], parts := [(0, some ⟨0, 1, false, none⟩)], ctxs := [(0, foundCtx), (0, jobCtx)] } }
  ((((s.setFld Fld.devState_state 2).setFld Fld.ethStatus_state 2).setFld Fld.ethAttach_attached 1).setFld Fld.devGrade_logicalCores
    1088).setFld Fld.devGrade_grade g

theorem gradeOf_all : gradeOf 1232 = Config.orderedGrade.val := by
  unfold gradeOf
  generalize Config.orderedGrade = g
  revert g
  decide

section Full
variable {g : Nat}

theorem usableCores_fullDev : (fullDev g).usableCores = 1232 := rfl

theorem tooFew_fullDev : (fullDev g).tooFew = false := by
  have ordered := Config.orderedGrade.isLt
  rw [State.tooFew, usableCores_fullDev, gradeOf_all]
  exact decide_eq_false (by omega)

theorem regradeDue_fullDev (hg : g = Config.orderedGrade.val) : (fullDev g).regradeDue = false := by
  have grade : (fullDev g).fld Fld.devGrade_grade = gradeOf 1232 := by
    rw [gradeOf_all, ← hg]
    have ordered : g < 3 := hg ▸ Config.orderedGrade.isLt
    interval_cases g <;> decide
  rw [State.regradeDue, usableCores_fullDev, grade]
  exact Bool.or_eq_false_iff.mpr ⟨rfl, decide_eq_false fun h => h rfl⟩

theorem unlaunchable_fullDev (hg : g < 3) : Unlaunchable (fullDev g) 0 where
  noRoom n hn := by
    have listed : (fullDev g).vpages = heldPages nVpages := by
      unfold fullDev
      simp only [State.setFld_vpages]
    rw [State.vfree, State.vpage, listed, get_heldPages hn]
    rfl
  wefts := rfl
  bases := rfl
  exact := by interval_cases g <;> decide
  serving := rfl
  table := rfl

theorem launchCheck_fullDev (hg : g < 3) : (fullDev g).launchCheck 0 = .ok := by
  have part : (fullDev g).part ((fullDev g).ctx 0).part = some ⟨0, 1, false, none⟩ := rfl
  have program : (fullDev g).program ((fullDev g).ctx 0).program = some anyCores := rfl
  simp only [State.launchCheck, part, program, tooFew_fullDev]
  interval_cases g <;> decide

theorem arrives_fullDev (hg : g < 3) : Arrives (fullDev g) 1 True False False := by
  unfold Arrives
  interval_cases g <;> decide

end Full

/-- Refutes O45: context 0 is the job's one CREATED context, DEDICATED, yet its LAUNCH does not start it, since the context that id 0
finds is a SERVING one, for whose pages a full vault has no room. -/
theorem not_loomCommands : ¬ Obligations.LoomCommands := by
  unfold Obligations.LoomCommands
  intro h
  obtain ⟨g, hg⟩ : ∃ g, g = Config.orderedGrade.val := ⟨_, rfl⟩
  have ordered : g < 3 := hg ▸ Config.orderedGrade.isLt
  have due := regradeDue_fullDev hg
  obtain ⟨-, -, -, alone⟩ := h 1 (fullDev g)
  obtain ⟨-, launch⟩ := alone (arrives_fullDev ordered) 3 due tooFew_fullDev
  have dedicated : ∀ e ∈ (fullDev g).sched.ctxs, e.2.st ≠ .free → e.2.job = 3 → e.2.serving = false := by
    simp [fullDev, foundCtx, jobCtx]
  have barriers : ((fullDev g).jobBarriers 3).length < 64 := Nat.zero_lt_succ 63
  obtain ⟨t, start, ht, -, -, launched, -⟩ := launch 0 rfl dedicated (unlaunchable_fullDev ordered).exact (launchCheck_fullDev ordered)
    barriers
  obtain ⟨u, hu, ctxs⟩ := exec_launch_fails (job := 3) (arrives_fullDev ordered) (unlaunchable_fullDev ordered) due rfl
  rw [ht] at hu
  cases hu
  have stands : t.ctx 0 = foundCtx := congrArg (fun m => SMap.get m ({} : Context) 0) ctxs
  rw [stands] at launched
  exact absurd launched (by decide)

end Sys2Proof.Proofs
end
